-- ==== Sys2Proof/Word.lean ====
section
/-! DEFINITION. The widths the Shugra uses (R4, R276, R280): 64-bit scalar words, 32-bit lane registers, bytes. -/
namespace Sys2Proof

/-- A scalar register, an address pattern, a queue entry (R72, R276). -/
abbrev Word := BitVec 64

/-- A lane register or an instruction word (R84, R275). -/
abbrev W32 := BitVec 32

/-- The smallest addressable unit (R177). -/
abbrev Byte := BitVec 8

end Sys2Proof
end

