-- ==== Sys2Proof/Machine/Bits.lean ====
section
/-! DEFINITION. Bit fields and sign extension of numbers (R4, R292). -/
namespace Sys2Proof.Machine

/-- The `len` bits of `w` from bit `lo` up (R4). -/
def fld (w lo len : Nat) : Nat := w / 2 ^ lo % 2 ^ len

/-- Bit `k` of `w`. -/
def bit (w k : Nat) : Bool := w / 2 ^ k % 2 == 1

/-- A number as one bit. -/
def b2n (b : Bool) : Nat := if b then 1 else 0

/-- The two's-complement value of the `n` low bits of `x` (R292). -/
def signed (n x : Nat) : Int :=
  let y := x % 2 ^ n
  if y < 2 ^ (n - 1) then (y : Int) else (y : Int) - (2 ^ n : Nat)

/-- An integer as a pattern of `n` bits: z mod 2^n (R292). -/
def wrapN (n : Nat) (z : Int) : Nat := (z % ((2 ^ n : Nat) : Int)).toNat

/-- min(max(z, lo), hi) (R292). -/
def clampI (z lo hi : Int) : Int := min (max z lo) hi

/-- Bit `k` of a 64-lane mask. -/
def laneIn (m : BitVec 64) (k : Nat) : Bool := m.getLsbD k

/-- The mask of lane `k` alone. -/
def laneBit (k : Nat) : BitVec 64 := BitVec.ofNat 64 (2 ^ k)

/-- The mask of the first `w` lanes (R66). -/
def fullMask (w : Nat) : BitVec 64 := BitVec.ofNat 64 (2 ^ w - 1)

/-- The lanes of a mask, lowest first. -/
def lanesOf (m : BitVec 64) : List Nat := (List.range 64).filter (laneIn m)

/-- The lowest lane of a mask. -/
def lowLane (m : BitVec 64) : Option Nat := (lanesOf m).head?

/-- The mask of a list of lanes. -/
def maskOf (ls : List Nat) : BitVec 64 := ls.foldl (fun m k => m ||| laneBit k) 0

/-- Bits set in `x` below bit `n`. -/
def popc : Nat → Nat → Nat
  | 0, _ => 0
  | n + 1, x => x % 2 + popc n (x / 2)

/-- The number of bits of `x`, 0 for 0. -/
def bitLen (x : Nat) : Nat := if x = 0 then 0 else Nat.log2 x + 1

/-- Leading zero bits of the `n`-bit pattern `x` (R318, R394). -/
def clz (n x : Nat) : Nat := n - bitLen x

/-- Trailing zero bits of the `n`-bit pattern `x`, `n` for 0 (R318). -/
def ctz : Nat → Nat → Nat
  | 0, _ => 0
  | n + 1, x => if x % 2 = 1 then 0 else 1 + ctz n (x / 2)

/-- Sign-extend a field of width `v` (R292). -/
def sx {v : Nat} (n : Nat) (x : BitVec v) : BitVec n := x.signExtend n

/-- Zero-extend a field (R292). -/
def zx {v : Nat} (n : Nat) (x : BitVec v) : BitVec n := x.setWidth n

/-- x div m rounded up. -/
def ceilDiv (x m : Nat) : Nat := (x + m - 1) / m

/-- The 24 bytes of a trap detail: `v` placed at byte `at_`, on top of the rest (R433). -/
def det (parts : List (Nat × Nat)) : BitVec 192 :=
  parts.foldl (fun acc p => acc ||| BitVec.ofNat 192 (p.2 * 2 ^ (8 * p.1))) 0

end Sys2Proof.Machine
end

