-- ==== Sys2Proof/Machine/Float.lean ====
section
/-! DEFINITION. Floating-point numbers exactly: decoding, one rounding (R234 to R247), arithmetic, comparison, conversions,
block elements (R237, R238, R251) and bounds (R253). -/
namespace Sys2Proof.Machine

/-- A floating-point format (R234): `kind` 0 has infinities and NaNs, 1 is E4M3, 2 is E2M1. -/
structure Fmt where
  bits : Nat
  e : Nat
  f : Nat
  bias : Nat
  kind : Nat
deriving DecidableEq, Repr

/-- binary32 (R234). -/
def fF32 : Fmt := ⟨32, 8, 23, 127, 0⟩
/-- binary64. -/
def fF64 : Fmt := ⟨64, 11, 52, 1023, 0⟩
/-- BF16. -/
def fBF16 : Fmt := ⟨16, 8, 7, 127, 0⟩
/-- binary16. -/
def fF16 : Fmt := ⟨16, 5, 10, 15, 0⟩
/-- E4M3. -/
def fE4M3 : Fmt := ⟨8, 4, 3, 7, 1⟩
/-- E5M2. -/
def fE5M2 : Fmt := ⟨8, 5, 2, 15, 0⟩
/-- E2M1, the element of AB4. -/
def fE2M1 : Fmt := ⟨4, 2, 1, 1, 2⟩

/-- Format of a float code 0 to 5 (R241, R399). -/
def fmtOf (code : Nat) : Fmt :=
  match code with
  | 0 => fF32
  | 1 => fF64
  | 2 => fBF16
  | 3 => fF16
  | 4 => fE4M3
  | _ => fE5M2

/-- Flags as bits of SR_FPSTAT (R98). -/
abbrev Fl := BitVec 6
/-- INVALID. -/
def flInvalid : Fl := 1
/-- DIVZERO. -/
def flDivzero : Fl := 2
/-- OVERFLOW and INEXACT together. -/
def flOverflow : Fl := 0x14
/-- UNDERFLOW and INEXACT together. -/
def flUnderflow : Fl := 0x18
/-- INEXACT. -/
def flInexact : Fl := 0x10
/-- BOUND. -/
def flBound : Fl := 0x20

/-- A value: NaN (signalling or not), an infinity, or (−1)^neg × m × 2^x exactly. -/
inductive FV where
  | nan (sig : Bool)
  | inf (neg : Bool)
  | fin (neg : Bool) (m : Nat) (x : Int)
deriving DecidableEq, Repr

/-- The value of a pattern (R234, R236). -/
def fdec (f : Fmt) (p : Nat) : FV :=
  let frac := fld p 0 f.f
  let ex := fld p f.f f.e
  let neg := bit p (f.bits - 1)
  let top := 2 ^ f.e - 1
  if f.kind = 0 && ex == top then if frac = 0 then .inf neg else .nan (!bit frac (f.f - 1))
  else if f.kind = 1 && ex == top && frac == 2 ^ f.f - 1 then .nan false
  else if ex = 0 then .fin neg frac (1 - (f.bias : Int) - f.f)
  else .fin neg (2 ^ f.f + frac) ((ex : Int) - f.bias - f.f)

/-- The default NaN (R236). E2M1 has none. -/
def fnan (f : Fmt) : Nat :=
  if f.kind = 0 then (2 ^ f.e - 1) * 2 ^ f.f + 2 ^ (f.f - 1) else if f.kind = 1 then 2 ^ (f.bits - 1) - 1 else 0

/-- The sign bit of a format. -/
def fsign (f : Fmt) (neg : Bool) : Nat := if neg then 2 ^ (f.bits - 1) else 0

/-- The pattern of the largest finite magnitude (R234). -/
def fmaxBits (f : Fmt) : Nat :=
  if f.kind = 0 then (2 ^ f.e - 1) * 2 ^ f.f - 1 else if f.kind = 1 then 2 ^ (f.bits - 1) - 2 else 2 ^ (f.bits - 1) - 1

/-- The pattern of an infinity; E4M3 and E2M1 have none. -/
def finfBits (f : Fmt) : Nat := (2 ^ f.e - 1) * 2 ^ f.f

/-- A result and the flags it raises. -/
structure FR where
  bits : Nat
  fl : Fl
deriving DecidableEq, Repr

/-- Rounding modes (R242): 0 RNE, 1 RTZ, 2 RUP, 3 RDN. Whether a magnitude rounds up: `rem` of `2^sh`, more below it if
`sticky`. -/
def roundsUp (mode : Nat) (neg odd : Bool) (rem sh : Nat) (sticky : Bool) : Bool :=
  let inexact := rem != 0 || sticky
  match mode with
  | 0 => 2 ^ sh < 2 * rem || (2 ^ sh == 2 * rem && sh != 0 && (sticky || odd))
  | 1 => false
  | 2 => inexact && !neg
  | _ => inexact && neg

/-- m × 2^x, with more below it if `sticky`, as a multiple of 2^q: the rounded multiple and whether it is inexact. -/
def quantise (mode : Nat) (neg : Bool) (m : Nat) (x q : Int) (sticky : Bool) : Nat × Bool :=
  if q ≤ x then (m * 2 ^ (x - q).toNat, sticky)
  else
    let sh := (q - x).toNat
    let n := m / 2 ^ sh
    let rem := m % 2 ^ sh
    (n + b2n (roundsUp mode neg (n % 2 == 1) rem sh sticky), rem != 0 || sticky)

/-- n × 2^q compared with the largest finite value. -/
def exceedsMax (f : Fmt) (n : Nat) (q : Int) : Bool :=
  match fdec f (fmaxBits f) with
  | .fin _ m x => if q ≤ x then m * 2 ^ (x - q).toNat < n else m < n * 2 ^ (q - x).toNat
  | _ => false

/-- Round a magnitude into a format (R242 to R244): tininess is found after rounding. `sticky` needs at least two bits of `m`
below the format's quantum. -/
def fround (f : Fmt) (mode : Nat) (sat : Bool) (neg : Bool) (m : Nat) (x : Int) (sticky : Bool) : FR :=
  if m = 0 then ⟨fsign f neg, if sticky then flUnderflow else 0⟩
  else
    let emin : Int := 1 - (f.bias : Int)
    let top : Int := x + (bitLen m : Int) - 1
    let q := max (top - f.f) (emin - f.f)
    let (n, inexact) := quantise mode neg m x q sticky
    if exceedsMax f n q then
      let big := fsign f neg + fmaxBits f
      let inf := if f.kind = 0 then fsign f neg + finfBits f else if f.kind = 1 then fnan f else big
      let r := if sat then big
        else if f.kind != 0 then inf
        else match mode with
          | 0 => inf
          | 1 => big
          | 2 => if neg then big else inf
          | _ => if neg then inf else big
      ⟨r, flOverflow⟩
    else
      let (n1, _) := quantise mode neg m x (top - f.f) sticky
      let tiny := top < emin && !(2 ^ (f.f + 1) ≤ n1 && top + 1 == emin)
      let body := n + (q - (emin - f.f)).toNat * 2 ^ f.f
      ⟨fsign f neg + body, if inexact then (if tiny then flUnderflow else flInexact) else 0⟩

/-- The formats that FTZ flushes (R245). -/
def flushes (f : Fmt) : Bool := f.kind = 0 && f.bits != 8

/-- A subnormal pattern other than zero. -/
def isSub (f : Fmt) (p : Nat) : Bool := fld p f.f f.e == 0 && fld p 0 f.f != 0

/-- An operand under FTZ (R245). -/
def ftzIn (f : Fmt) (ftz : Bool) (p : Nat) : Nat := if ftz && flushes f && isSub f p then fsign f (bit p (f.bits - 1)) else p

/-- A result under FTZ (R245). -/
def ftzOut (f : Fmt) (ftz : Bool) (r : FR) : FR :=
  if ftz && flushes f && isSub f r.bits then ⟨fsign f (bit r.bits (f.bits - 1)), r.fl ||| flUnderflow⟩ else r

/-- The environment of a rounding: mode, saturation, flush. -/
structure Env where
  mode : Nat
  sat : Bool
  ftz : Bool
deriving DecidableEq, Repr

/-- Round to nearest even, nothing flushed or saturated: the Wheel, the engines and merges (R242, R245). -/
def rneEnv : Env := ⟨0, false, false⟩

/-- Round an exact value (R242, R244, R245). An infinity that E4M3 cannot hold is INVALID. -/
def roundFV (f : Fmt) (v : Env) (z : FV) : FR :=
  match z with
  | .nan sig => ⟨fnan f, if sig then flInvalid else 0⟩
  | .inf neg =>
    if f.kind = 0 then ⟨fsign f neg + finfBits f, 0⟩
    else if f.kind = 1 then ⟨if v.sat then fsign f neg + fmaxBits f else fnan f, flInvalid⟩
    else ⟨fsign f neg + fmaxBits f, flInvalid⟩
  | .fin neg m x => ftzOut f v.ftz (fround f v.mode v.sat neg m x false)

/-- A signed multiple of 2^x. -/
def fvInt (neg : Bool) (m : Nat) : Int := if neg then -(m : Int) else m

/-- A signed mantissa and exponent as a value, `zneg` the sign of a zero. -/
def fvOf (z : Int) (x : Int) (zneg : Bool) : FV := if z = 0 then .fin zneg 0 x else .fin (z < 0) z.natAbs x

/-- A signalling NaN. -/
def isSnan (v : FV) : Bool := match v with | .nan s => s | _ => false
/-- A NaN. -/
def isNan (v : FV) : Bool := match v with | .nan _ => true | _ => false
/-- An infinity. -/
def isInf (v : FV) : Bool := match v with | .inf _ => true | _ => false
/-- A zero. -/
def isZero (v : FV) : Bool := match v with | .fin _ 0 _ => true | _ => false
/-- The sign. -/
def isNeg (v : FV) : Bool := match v with | .fin n _ _ => n | .inf n => n | .nan _ => false

/-- The exact sum of two values; an exact zero of opposite signs is negative only under RDN (R242, log 20). Its flag is INVALID
for opposite infinities. -/
def fvAdd (mode : Nat) (a b : FV) : FV × Fl :=
  match a, b with
  | .nan s, .nan t => (.nan false, if s || t then flInvalid else 0)
  | .nan s, _ => (.nan false, if s then flInvalid else 0)
  | _, .nan t => (.nan false, if t then flInvalid else 0)
  | .inf s, .inf t => if s == t then (.inf s, 0) else (.nan false, flInvalid)
  | .inf s, _ => (.inf s, 0)
  | _, .inf t => (.inf t, 0)
  | .fin s m x, .fin t n y =>
    let q := min x y
    let z := fvInt s (m * 2 ^ (x - q).toNat) + fvInt t (n * 2 ^ (y - q).toNat)
    (fvOf z q (if s == t then s else mode == 3), 0)

/-- The exact product. -/
def fvMul (a b : FV) : FV × Fl :=
  match a, b with
  | .nan s, .nan t => (.nan false, if s || t then flInvalid else 0)
  | .nan s, _ => (.nan false, if s then flInvalid else 0)
  | _, .nan t => (.nan false, if t then flInvalid else 0)
  | .inf s, .inf t => (.inf (s != t), 0)
  | .inf s, .fin t n _ => if n = 0 then (.nan false, flInvalid) else (.inf (s != t), 0)
  | .fin s m _, .inf t => if m = 0 then (.nan false, flInvalid) else (.inf (s != t), 0)
  | .fin s m x, .fin t n y => (.fin (s != t) (m * n) (x + y), 0)

/-- The value with its sign inverted. -/
def fvNeg (a : FV) : FV :=
  match a with
  | .nan s => .nan s
  | .inf n => .inf (!n)
  | .fin n m x => .fin (!n) m x

/-- Round a value that already carries flags. -/
def roundWith (f : Fmt) (v : Env) (z : FV × Fl) : FR :=
  let r := roundFV f v z.1
  ⟨r.bits, r.fl ||| z.2⟩

/-- a + b (R397). -/
def fAdd (f : Fmt) (v : Env) (a b : Nat) : FR :=
  roundWith f v (fvAdd v.mode (fdec f (ftzIn f v.ftz a)) (fdec f (ftzIn f v.ftz b)))

/-- a − b (R397). -/
def fSub (f : Fmt) (v : Env) (a b : Nat) : FR :=
  roundWith f v (fvAdd v.mode (fdec f (ftzIn f v.ftz a)) (fvNeg (fdec f (ftzIn f v.ftz b))))

/-- a × b (R397). -/
def fMul (f : Fmt) (v : Env) (a b : Nat) : FR :=
  roundWith f v (fvMul (fdec f (ftzIn f v.ftz a)) (fdec f (ftzIn f v.ftz b)))

/-- a × b + c, one rounding (R397). INVALID of 0 × ∞ is raised even when c is a quiet NaN. -/
def fFma (f : Fmt) (v : Env) (a b c : Nat) : FR :=
  let z := fdec f (ftzIn f v.ftz c)
  let (p, fl) := fvMul (fdec f (ftzIn f v.ftz a)) (fdec f (ftzIn f v.ftz b))
  let (r, fl2) := fvAdd v.mode p z
  roundWith f v (r, fl ||| fl2)

/-- The exact sum of a list of products and an addend (R248, R249, R406): any NaN, 0 × ∞ or opposite infinities is NaN. The
zero of a sum is +0, or −0 under RDN, unless every term is a zero of one sign. Opposite infinities among the terms raise
INVALID wherever a NaN stands (R243). -/
def fvSum (mode : Nat) (l : List (FV × Fl)) : FV × Fl :=
  let has := fun (neg : Bool) => l.any (fun t => match t.1 with
    | .inf s => s == neg
    | _ => false)
  match l with
  | [] => (.fin false 0 0, 0)
  | (v, fl) :: r =>
    r.foldl (fun acc t => let (z, g) := fvAdd mode acc.1 t.1; (z, acc.2 ||| t.2 ||| g))
      (v, fl ||| (if has true && has false then flInvalid else 0))

/-- Compare two finite or infinite values: −1, 0, 1; −0 equals +0. NaN compares equal to all, and callers test it first. -/
def fvCmp (a b : FV) : Int :=
  match a, b with
  | .nan _, _ => 0
  | _, .nan _ => 0
  | .inf s, .inf t => if s == t then 0 else if s then -1 else 1
  | .inf s, _ => if s then -1 else 1
  | _, .inf t => if t then 1 else -1
  | .fin s m x, .fin t n y =>
    let q := min x y
    let d := fvInt s (m * 2 ^ (x - q).toNat) - fvInt t (n * 2 ^ (y - q).toNat)
    if d < 0 then -1 else if d = 0 then 0 else 1

/-- a is below b, with −0 below +0 (R397). -/
def fvBelow (a b : FV) : Bool := fvCmp a b < 0 || (fvCmp a b == 0 && isZero a && isZero b && isNeg a && !isNeg b)

/-- minimumNumber or maximumNumber with −0 below +0, a lone NaN ignored (R397). -/
def fMinMax (f : Fmt) (ftz isMax : Bool) (a b : Nat) : FR :=
  let a := ftzIn f ftz a
  let b := ftzIn f ftz b
  let x := fdec f a
  let y := fdec f b
  let fl := if isSnan x || isSnan y then flInvalid else 0
  let r := if isNan x && isNan y then fnan f
    else if isNan x then b
    else if isNan y then a
    else if fvBelow x y == isMax then b else a
  ⟨r, fl⟩

/-- The integer nearest m × 2^x by a mode. -/
def intOf (mode : Nat) (neg : Bool) (m : Nat) (x : Int) : Int × Bool :=
  let (n, inexact) := quantise mode neg m x 0 false
  (fvInt neg n, inexact)

/-- FRND (R397): an integral value in the format. -/
def fRnd (f : Fmt) (v : Env) (a : Nat) : FR :=
  match fdec f (ftzIn f v.ftz a) with
  | .nan s => ⟨fnan f, if s then flInvalid else 0⟩
  | .inf n => ⟨fsign f n + finfBits f, 0⟩
  | .fin neg m x =>
    let (z, inexact) := intOf v.mode neg m x
    ⟨(fround f 1 false neg z.natAbs 0 false).bits, if inexact then flInexact else 0⟩

/-- Float to integer of `n` bits (R247): the nearer bound out of range, 0 for a NaN, both INVALID. -/
def toInt (n : Nat) (signedT : Bool) (mode : Nat) (z : FV) : Int × Fl :=
  let lo : Int := if signedT then -((2 ^ (n - 1) : Nat) : Int) else 0
  let hi : Int := if signedT then ((2 ^ (n - 1) : Nat) : Int) - 1 else ((2 ^ n : Nat) : Int) - 1
  match z with
  | .nan _ => (0, flInvalid)
  | .inf neg => (if neg then lo else hi, flInvalid)
  | .fin neg m x =>
    let (i, inexact) := intOf mode neg m x
    if i < lo then (lo, flInvalid) else if hi < i then (hi, flInvalid) else (i, if inexact then flInexact else 0)

/-- Integer to float (R247). -/
def ofInt (f : Fmt) (v : Env) (z : Int) : FR := roundFV f v (fvOf z 0 false)

/-- Convert between float formats (R247, R400): equal formats keep the bits but for a NaN and FTZ. -/
def fConv (src dst : Fmt) (v : Env) (a : Nat) : FR :=
  let b := ftzIn src v.ftz a
  let z := fdec src b
  if src = dst then
    if isNan z then ⟨fnan dst, if isSnan z then flInvalid else 0⟩ else ⟨b, 0⟩
  else roundFV dst v z

/-- F32 patterns added, subtracted and multiplied by the Wheel and merges (R148, R216, R229). -/
def rneAdd (f : Fmt) (a b : Nat) : Nat := (fAdd f rneEnv a b).bits

/-- The value of a block-scaled element (R238): `ab4` chooses the element format, `code` its code, `p` its pair. -/
def blockVal (ab4 : Bool) (rec' code p : Nat) : FV :=
  let e := fld rec' 0 8
  let scale := fun (z : FV) (k : Int) =>
    match z with
    | .fin n m x => FV.fin n m (x + k)
    | w => w
  if e = 0xFF then .nan false
  else if ab4 && code == 8 then scale (fdec fE4M3 (fld rec' 16 8)) ((e : Int) - 127)
  else scale (fdec (if ab4 then fE2M1 else fE4M3) code) ((e : Int) - 127 - b2n (bit rec' (8 + p)))

/-- A value divided by a power of two. -/
def scale2 (z : FV) (k : Int) : FV :=
  match z with
  | .fin n m x => .fin n m (x - k)
  | w => w

/-- The magnitude of a value. -/
def fvAbs (z : FV) : FV :=
  match z with
  | .fin _ m x => .fin false m x
  | .inf _ => .inf false
  | w => w

/-- The grid code of a value (R251): the nearest code, ties to even, clamped to the largest; a magnitude that rounds to 0 takes
code 0. -/
def gridCode (ab4 : Bool) (z : FV) : Nat :=
  let f := if ab4 then fE2M1 else fE4M3
  match z with
  | .nan _ => 0
  | .inf n => fsign f n + fmaxBits f
  | .fin n m x =>
    let r := (fround f 0 true n m x false).bits
    if fld r 0 (f.bits - 1) = 0 then 0 else r

/-- |x − y| for finite values. -/
def fvDist (x y : FV) : FV := fvAbs (fvAdd 0 x (fvNeg y)).1

/-- The code of a finite value in a block with this record (R251, R402): the grid code, or for AB4 the special value when it
is strictly nearer. -/
def blockCode (ab4 : Bool) (rec' p : Nat) (z : FV) : Nat :=
  let e : Int := fld rec' 0 8
  let m : Int := b2n (bit rec' (8 + p))
  let c := gridCode ab4 (scale2 z (e - 127 - m))
  let spec := blockVal ab4 rec' 8 p
  if ab4 && !isNan spec && fvCmp (fvDist z spec) (fvDist z (blockVal ab4 rec' c p)) < 0 then 8 else c

/-- ceil(log2(m × 2^x / emax)) for m > 0 and emax 448 = 7 × 2^6 or 6 = 3 × 2^1 (R251). -/
def blockExp (ab4 : Bool) (z : FV) : Nat :=
  match z with
  | .nan _ => 0xFF
  | .inf _ => 0xFF
  | .fin _ 0 _ => 0
  | .fin _ m x =>
    let k := if ab4 then 3 else 7
    let sh : Int := if ab4 then 1 else 6
    -- m × 2^(x − sh) ≤ k × 2^c, least c
    let base : Int := (bitLen m : Int) - (bitLen k : Int)
    let fits := fun (c : Int) => if 0 ≤ c then m ≤ k * 2 ^ c.toNat else m * 2 ^ (-c).toNat ≤ k
    let c := if fits (base - 1) then base - 1 else if fits base then base else base + 1
    (clampI (127 + c + x - sh) 0 254).toNat

/-- |z| ≤ emax × 2^(e − 128) (R251): the micro-exponent of a pair. -/
def microBit (ab4 : Bool) (e : Nat) (z : FV) : Bool :=
  !isNan z && fvCmp (fvAbs z) (.fin false (if ab4 then 6 else 448) ((e : Int) - 128)) ≤ 0

/-- A checked value fails its bounds (R253): `nan` 1 fails a NaN. -/
def boundFails (lo hi nan : Nat) (z : FV) : Bool :=
  let l := fdec fF32 lo
  let h := fdec fF32 hi
  if isNan z then nan == 1 else (!isNan l && fvCmp z l < 0) || (!isNan h && 0 < fvCmp z h)

/-- The clamped value min(max(x, LO), HI) in the format, a failing NaN as LO (R253). -/
def boundClamp (f : Fmt) (lo hi : Nat) (z : FV) : Nat :=
  let l := fdec fF32 lo
  let h := fdec fF32 hi
  let y := if isNan z then l else
    let y1 := if !isNan l && fvCmp z l < 0 then l else z
    if !isNan h && 0 < fvCmp y1 h then h else y1
  (roundFV f rneEnv y).bits

end Sys2Proof.Machine
end

