-- ==== Sys2Proof/Syntax.lean ====
section
/-! DEFINITION. The instructions and steps of spec/opcode_table.json, one constructor per row: scalar words (R275),
lane triples (R279), and the steps of the other agents (95_what_each_step_holds.md) whose inputs are an `Inputs`. -/
namespace Sys2Proof

/-- Names a group: partition number, task number, team index, group index in the team (R47, R386, R387). -/
structure GroupId where
  part : Nat
  task : Nat
  team : Nat
  group : Nat
deriving DecidableEq, Repr

/-- The ordering fields of an S-M word (R275). -/
structure MemFields where
  ord : BitVec 2
  scope : BitVec 3
  evict : BitVec 3
  size : BitVec 2
deriving DecidableEq, Repr

/-- The ordering fields of an S-A word (R275). -/
structure AtomFields where
  ord : BitVec 2
  scope : BitVec 3
  evict : BitVec 3
deriving DecidableEq, Repr

/-- The fields of a lane triple below its opcode (R279). -/
structure LaneFields where
  u : Bool
  e : Bool
  j : Bool
  guard : BitVec 3
  neg : Bool
  d : BitVec 9
  sub : BitVec 6
  a : BitVec 9
  b : BitVec 9
  c : BitVec 9
  rnd : BitVec 2
  sat : Bool
  width : BitVec 2
  imm : BitVec 32
deriving DecidableEq, Repr

/-- The outcome of the ECC and integrity-tag check of a line, an input (R265), the failure of an access to the second tier on the
link of a CXL port (R13), or that of a lane stream's spill or fill in its save or spill area (R95, R101). -/
inductive Ecc where
  | clean | corrected | uncorrectable | tagFail
  | linkFail (port : Nat)
  | spill
deriving DecidableEq, Repr

/-- A remote atomic as its target receives it (R17 to R19): requester, tag, target partition and address, and the stamp an sc access
brings (R184). -/
structure RemoteAtomic where
  node : Nat
  core : Nat
  tag : Nat
  reqPart : Nat
  part : Nat
  addr : Nat
  size : Nat
  op : Nat
  y : BitVec 64
  c : BitVec 64
  ts : Option (BitVec 48)
deriving DecidableEq, Repr

/-- A load, store or publish request that arrives over the fabric (R17, R118): `data` empty is a load of `size` bytes; `ts` is the stamp an sc
access brings (R184). -/
structure FabricReq where
  node : Nat
  core : Nat
  reqPart : Nat
  part : Nat
  addr : Nat
  size : Nat
  publish : Bool
  data : List (BitVec 8)
  ts : Option (BitVec 48)
deriving DecidableEq, Repr

/-- The arguments of CREATE and the placement arguments of IMPORT (R40, R45). -/
structure CreateArgs where
  number : Nat
  link : Nat
  vf : Nat
  twins : List Nat
  ways : List Nat
  classWays : List Nat
  hbm : Nat
  t2 : Nat
  share : Nat
deriving DecidableEq, Repr

/-- The inputs of a step of another agent, as its turn supplies them (log 1): which group, partition, core or item it
concerns, and what the outside world or the environment gives. Each step's meaning says which of them it reads. -/
structure Inputs where
  g : GroupId
  part : Nat
  core : Nat
  idx : Nat
  off : Nat
  size : Nat
  va : Nat
  port : Nat
  flag : Bool
  word : BitVec 64
  word2 : BitVec 64
  corr : Int
  data : List (BitVec 8)
  create : CreateArgs
  ecc : Ecc
  remote : RemoteAtomic
  fabric : FabricReq
  pairs : List (Nat × Nat)
  nats : List Nat
  groups : List GroupId
  nonce : BitVec 256
deriving DecidableEq, Repr

/-- The instructions of both streams, then the steps of the other agents, whose inputs stand in the state (log 1). -/
inductive Instr where
  /-- NOP (R311). -/
  | nop
  /-- EXIT (R312). -/
  | exit
  /-- TRAP (R313). -/
  | trap (x6 : BitVec 6)
  /-- RETH (R314). -/
  | reth (x6 : BitVec 6)
  /-- BKPT (R313). -/
  | bkpt
  /-- SETFMT (R315). -/
  | setfmt (sa : BitVec 6)
  /-- GETFMT (R315). -/
  | getfmt (sd : BitVec 6)
  /-- RDTIME (R316). -/
  | rdtime (sd : BitVec 6)
  /-- YIELD (R317). -/
  | yield
  /-- SADD (R318). -/
  | sadd (sd sa sb : BitVec 6)
  /-- SSUB (R318). -/
  | ssub (sd sa sb : BitVec 6)
  /-- SMUL (R318). -/
  | smul (sd sa sb : BitVec 6)
  /-- SMULH (R318). -/
  | smulh (sd sa sb : BitVec 6)
  /-- SMULHN (R318). -/
  | smulhn (sd sa sb : BitVec 6)
  /-- SDIV (R319). -/
  | sdiv (sd sa sb : BitVec 6)
  /-- SDIVN (R319). -/
  | sdivn (sd sa sb : BitVec 6)
  /-- SREM (R319). -/
  | srem (sd sa sb : BitVec 6)
  /-- SREMN (R319). -/
  | sremn (sd sa sb : BitVec 6)
  /-- SAND (R318). -/
  | sand (sd sa sb : BitVec 6)
  /-- SOR (R318). -/
  | sor (sd sa sb : BitVec 6)
  /-- SXOR (R318). -/
  | sxor (sd sa sb : BitVec 6)
  /-- SANDN (R318). -/
  | sandn (sd sa sb : BitVec 6)
  /-- SSHL (R318). -/
  | sshl (sd sa sb : BitVec 6)
  /-- SSHR (R318). -/
  | sshr (sd sa sb : BitVec 6)
  /-- SSRA (R318). -/
  | ssra (sd sa sb : BitVec 6)
  /-- SMIN (R318). -/
  | smin (sd sa sb : BitVec 6)
  /-- SMAX (R318). -/
  | smax (sd sa sb : BitVec 6)
  /-- SMINN (R318). -/
  | sminn (sd sa sb : BitVec 6)
  /-- SMAXN (R318). -/
  | smaxn (sd sa sb : BitVec 6)
  /-- SSLT (R318). -/
  | sslt (sd sa sb : BitVec 6)
  /-- SSLTN (R318). -/
  | ssltn (sd sa sb : BitVec 6)
  /-- SSEQ (R318). -/
  | sseq (sd sa sb : BitVec 6)
  /-- SCLZ (R318). -/
  | sclz (sd sa : BitVec 6)
  /-- SCTZ (R318). -/
  | sctz (sd sa : BitVec 6)
  /-- SPOPC (R318). -/
  | spopc (sd sa : BitVec 6)
  /-- SSEXTW (R318). -/
  | ssextw (sd sa : BitVec 6)
  /-- SZEXTW (R318). -/
  | szextw (sd sa : BitVec 6)
  /-- SADDI (R320). -/
  | saddi (sd sa : BitVec 6) (imm : BitVec 14)
  /-- SANDI (R320). -/
  | sandi (sd sa : BitVec 6) (imm : BitVec 14)
  /-- SORI (R320). -/
  | sori (sd sa : BitVec 6) (imm : BitVec 14)
  /-- SXORI (R320). -/
  | sxori (sd sa : BitVec 6) (imm : BitVec 14)
  /-- SSLTI (R320). -/
  | sslti (sd sa : BitVec 6) (imm : BitVec 14)
  /-- SSHI (R320). -/
  | sshi (sd sa : BitVec 6) (imm : BitVec 14)
  /-- SLUI (R320). -/
  | slui (sd : BitVec 6) (imm : BitVec 20)
  /-- SPCADD (R320). -/
  | spcadd (sd : BitVec 6) (imm : BitVec 20)
  /-- SBR (R321). -/
  | sbr (cond : BitVec 3) (sa : BitVec 6) (off : BitVec 17)
  /-- SJAL (R322). -/
  | sjal (sd : BitVec 6) (imm : BitVec 20)
  /-- SJALR (R322). -/
  | sjalr (sd sa : BitVec 6) (imm : BitVec 14)
  /-- SSRR (R324). -/
  | ssrr (sd : BitVec 6) (idx : BitVec 14)
  /-- SSRW (R324). -/
  | ssrw (sa : BitVec 6) (idx : BitVec 14)
  /-- SLD (R333). -/
  | sld (sd sa : BitVec 6) (f : MemFields)
  /-- SST (R333). -/
  | sst (sd sa : BitVec 6) (f : MemFields)
  /-- SAADD (R334). -/
  | saadd (sd sa sb : BitVec 6) (f : AtomFields)
  /-- SAMIN (R334). -/
  | samin (sd sa sb : BitVec 6) (f : AtomFields)
  /-- SAMAX (R334). -/
  | samax (sd sa sb : BitVec 6) (f : AtomFields)
  /-- SAAND (R334). -/
  | saand (sd sa sb : BitVec 6) (f : AtomFields)
  /-- SAOR (R334). -/
  | saor (sd sa sb : BitVec 6) (f : AtomFields)
  /-- SAXOR (R334). -/
  | saxor (sd sa sb : BitVec 6) (f : AtomFields)
  /-- SASWP (R334). -/
  | saswp (sd sa sb : BitVec 6) (f : AtomFields)
  /-- SACAS (R335). -/
  | sacas (sd sa sb : BitVec 6) (f : AtomFields)
  /-- DISPATCH (R326). -/
  | dispatch (sa : BitVec 6)
  /-- VQPUSH (R326). -/
  | vqpush (sa : BitVec 6)
  /-- VQPUSH2 (R326). -/
  | vqpush2 (sa sb : BitVec 6)
  /-- RQPOP (R326). -/
  | rqpop (sd : BitVec 6)
  /-- QSTAT (R327). -/
  | qstat (sd : BitVec 6)
  /-- QDRAIN (R328). -/
  | qdrain
  /-- FENCE (R337). -/
  | fence (ord : BitVec 2) (scope : BitVec 3)
  /-- BAR (R338). -/
  | bar (sd : BitVec 6)
  /-- BARN (R339). -/
  | barn (sd sa x6 : BitVec 6)
  /-- SBINIT (R340). -/
  | sbinit (sa sb : BitVec 6)
  /-- SBEXP (R340). -/
  | sbexp (sa sb : BitVec 6)
  /-- SBARR (R340). -/
  | sbarr (sa : BitVec 6)
  /-- SBWAIT (R341). -/
  | sbwait (sd sa x6 : BitVec 6)
  /-- WAITC (R342). -/
  | waitc (sa : BitVec 6)
  /-- WAITS (R343). -/
  | waits (sd sa sb : BitVec 6)
  /-- TCOPY (R348). -/
  | tcopy (sd sa sb : BitVec 6)
  /-- TCOPYX (R349). -/
  | tcopyx (sd sa sb : BitVec 6)
  /-- TPREF (R350). -/
  | tpref (sa : BitVec 6) (hint : BitVec 3)
  /-- OCLAIM (R351). -/
  | oclaim (slot : BitVec 4)
  /-- ORELEASE (R352). -/
  | orelease (slot : BitVec 4)
  /-- RLOAD (R353). -/
  | rload (sa : BitVec 6) (k : BitVec 3)
  /-- TMMA (R355). -/
  | tmma (sa : BitVec 6)
  /-- TMMAQ (R356). -/
  | tmmaq (sa sb : BitVec 6)
  /-- TREC (R359). -/
  | trec (sa : BitVec 6)
  /-- TRECB (R228). -/
  | trecb (sa : BitVec 6)
  /-- TZERO (R360). -/
  | tzero (tile : BitVec 4)
  /-- TLDA (R362). -/
  | tlda (sa sb : BitVec 6)
  /-- TST (R362). -/
  | tst (sa sb : BitVec 6)
  /-- TSTQ (R363). -/
  | tstq (sa sb : BitVec 6)
  /-- TEDGE (R364). -/
  | tedge (sa sb : BitVec 6)
  /-- TFENCE (R365). -/
  | tfence (sd : BitVec 6)
  /-- TWAIT (R366). -/
  | twait (sa : BitVec 6)
  /-- TSTAT (R367). -/
  | tstat (sd : BitVec 6)
  /-- FORK (R372). -/
  | fork (sd sa : BitVec 6)
  /-- JOIN (R373). -/
  | join (sd sa : BitVec 6)
  /-- JOINTRY (R373). -/
  | jointry (sd sa : BitVec 6)
  /-- RVDECL (R374). -/
  | rvdecl (sd sa : BitVec 6)
  /-- RVDROP (R374). -/
  | rvdrop (sd sa : BitVec 6)
  /-- RVID (R375). -/
  | rvid (sd sa : BitVec 6)
  /-- RVSTAT (R376). -/
  | rvstat (sd sa : BitVec 6)
  /-- WATCH (R162). -/
  | watch (sd sa : BitVec 6)
  /-- UNWATCH (R163). -/
  | unwatch (sa : BitVec 6)
  /-- WARM (R163). -/
  | warm (sa : BitVec 6)
  /-- TRIGREC (R378). -/
  | trigrec (sd k : BitVec 6)
  /-- TRIGACK (R378). -/
  | trigack
  /-- WSTAT (R172). -/
  | wstat (sd sa : BitVec 6)
  /-- MARK (R379). -/
  | mark (sa : BitVec 6)
  /-- TTBIND (R380). -/
  | ttbind (sa : BitVec 6) (policy : BitVec 2)
  /-- TTSTAT (R141). -/
  | ttstat (sd : BitVec 6)
  /-- TTRESUME (R381). -/
  | ttresume
  /-- GIVEBACK (R382). -/
  | giveback (sa : BitVec 6)
  /-- CLAIM (R382). -/
  | claim (sa : BitVec 6)
  /-- CLAIMTRY (R382). -/
  | claimtry (sd sa : BitVec 6)
  /-- SETBND (R383). -/
  | setbnd (sa : BitVec 6)
  /-- GETALLOT (R385). -/
  | getallot (sd : BitVec 6)
  /-- VADD (R394). -/
  | vadd (f : LaneFields)
  /-- VSUB (R394). -/
  | vsub (f : LaneFields)
  /-- VMUL (R394). -/
  | vmul (f : LaneFields)
  /-- VMULH (R394). -/
  | vmulh (f : LaneFields)
  /-- VMAD (R394). -/
  | vmad (f : LaneFields)
  /-- VMIN (R394). -/
  | vmin (f : LaneFields)
  /-- VMAX (R394). -/
  | vmax (f : LaneFields)
  /-- VMINN (R394). -/
  | vminn (f : LaneFields)
  /-- VMAXN (R394). -/
  | vmaxn (f : LaneFields)
  /-- VABS (R394). -/
  | vabs (f : LaneFields)
  /-- VNEG (R394). -/
  | vneg (f : LaneFields)
  /-- VAND (R394). -/
  | vand (f : LaneFields)
  /-- VOR (R394). -/
  | vor (f : LaneFields)
  /-- VXOR (R394). -/
  | vxor (f : LaneFields)
  /-- VNOT (R394). -/
  | vnot (f : LaneFields)
  /-- VSHL (R394). -/
  | vshl (f : LaneFields)
  /-- VSHR (R394). -/
  | vshr (f : LaneFields)
  /-- VSRA (R394). -/
  | vsra (f : LaneFields)
  /-- VPOPC (R394). -/
  | vpopc (f : LaneFields)
  /-- VCLZ (R394). -/
  | vclz (f : LaneFields)
  /-- VBFX (R394). -/
  | vbfx (f : LaneFields)
  /-- VBFI (R394). -/
  | vbfi (f : LaneFields)
  /-- VSEL (R394). -/
  | vsel (f : LaneFields)
  /-- VMOV (R394). -/
  | vmov (f : LaneFields)
  /-- VSETP (R396). -/
  | vsetp (f : LaneFields)
  /-- FSETP (R396). -/
  | fsetp (f : LaneFields)
  /-- PAND (R396). -/
  | pand (f : LaneFields)
  /-- POR (R396). -/
  | por (f : LaneFields)
  /-- PXOR (R396). -/
  | pxor (f : LaneFields)
  /-- PNOT (R396). -/
  | pnot (f : LaneFields)
  /-- PMOV (R396). -/
  | pmov (f : LaneFields)
  /-- PRD (R396). -/
  | prd (f : LaneFields)
  /-- FADD (R397). -/
  | fadd (f : LaneFields)
  /-- FSUB (R397). -/
  | fsub (f : LaneFields)
  /-- FMUL (R397). -/
  | fmul (f : LaneFields)
  /-- FFMA (R397). -/
  | ffma (f : LaneFields)
  /-- FMIN (R397). -/
  | fmin (f : LaneFields)
  /-- FMAX (R397). -/
  | fmax (f : LaneFields)
  /-- FABS (R397). -/
  | fabs (f : LaneFields)
  /-- FNEG (R397). -/
  | fneg (f : LaneFields)
  /-- FCLAMP (R397). -/
  | fclamp (f : LaneFields)
  /-- FRND (R397). -/
  | frnd (f : LaneFields)
  /-- FRCP (R398). -/
  | frcp (f : LaneFields)
  /-- FRSQ (R398). -/
  | frsq (f : LaneFields)
  /-- FSQRT (R398). -/
  | fsqrt (f : LaneFields)
  /-- FDIV (R398). -/
  | fdiv (f : LaneFields)
  /-- FEX2 (R398). -/
  | fex2 (f : LaneFields)
  /-- FLG2 (R398). -/
  | flg2 (f : LaneFields)
  /-- FSIN (R398). -/
  | fsin (f : LaneFields)
  /-- FCOS (R398). -/
  | fcos (f : LaneFields)
  /-- FTANH (R398). -/
  | ftanh (f : LaneFields)
  /-- CVT (R400). -/
  | cvt (f : LaneFields)
  /-- CVTI (R400). -/
  | cvti (f : LaneFields)
  /-- PACK (R401). -/
  | pack (f : LaneFields)
  /-- UNPACK (R401). -/
  | unpack (f : LaneFields)
  /-- QSCALE (R402). -/
  | qscale (f : LaneFields)
  /-- DOTN (R406). -/
  | dotn (f : LaneFields)
  /-- DOT2 (R406). -/
  | dot2 (f : LaneFields)
  /-- DOT4 (R406). -/
  | dot4 (f : LaneFields)
  /-- SHFL (R408). -/
  | shfl (f : LaneFields)
  /-- SHFLUP (R408). -/
  | shflup (f : LaneFields)
  /-- SHFLDN (R408). -/
  | shfldn (f : LaneFields)
  /-- SHFLX (R408). -/
  | shflx (f : LaneFields)
  /-- BCAST (R408). -/
  | bcast (f : LaneFields)
  /-- REDSUM (R409). -/
  | redsum (f : LaneFields)
  /-- REDMIN (R409). -/
  | redmin (f : LaneFields)
  /-- REDMAX (R409). -/
  | redmax (f : LaneFields)
  /-- SCANADD (R409). -/
  | scanadd (f : LaneFields)
  /-- SCANMAX (R409). -/
  | scanmax (f : LaneFields)
  /-- BALLOT (R410). -/
  | ballot (f : LaneFields)
  /-- VOTEANY (R410). -/
  | voteany (f : LaneFields)
  /-- VOTEALL (R410). -/
  | voteall (f : LaneFields)
  /-- RNG (R412). -/
  | rng (f : LaneFields)
  /-- LPUSH (R413). -/
  | lpush (f : LaneFields)
  /-- VQPOP (R413). -/
  | vqpop (f : LaneFields)
  /-- RDSR (R414). -/
  | rdsr (f : LaneFields)
  /-- LNOP (R413). -/
  | lnop (f : LaneFields)
  /-- LBR (R90). -/
  | lbr (f : LaneFields)
  /-- LJMP (R90). -/
  | ljmp (f : LaneFields)
  /-- LBREAK (R94). -/
  | lbreak (f : LaneFields)
  /-- LEXIT (R94). -/
  | lexit (f : LaneFields)
  /-- LD (R424). -/
  | ld (f : LaneFields)
  /-- ST (R424). -/
  | st (f : LaneFields)
  /-- OST (R425). -/
  | ost (f : LaneFields)
  /-- OLD (R425). -/
  | old (f : LaneFields)
  /-- PREF (R426). -/
  | pref (f : LaneFields)
  /-- ATOM (R428). -/
  | atom (f : LaneFields)
  /-- ATOMC (R428). -/
  | atomc (f : LaneFields)
  /-- RED (R428). -/
  | red (f : LaneFields)
  /-- LCOPY (R429). -/
  | lcopy (f : LaneFields)
  /-- LCOPYO (R429). -/
  | lcopyo (f : LaneFields)
  /-- AMOVR (R430). -/
  | amovr (f : LaneFields)
  /-- AMOVW (R430). -/
  | amovw (f : LaneFields)
  /-- SCALAR_WORD_NOT_INSTRUCTION (R278). -/
  | scalarWordNotInstruction (w : W32)
  /-- LANE_WORD_NOT_INSTRUCTION (R285). -/
  | laneWordNotInstruction (w0 w1 w2 : W32) (beyond : Bool)
  /-- DEVICE_RESET (R22). -/
  | deviceReset
  /-- GTC_FIRMWARE_SET (R22). -/
  | gtcFirmwareSet
  /-- GTC_SLEW_CORRECTION (R22). -/
  | gtcSlewCorrection
  /-- FABRIC_FLIT_CRC_RETRY (R16). -/
  | fabricFlitCrcRetry
  /-- FABRIC_PORT_DOWN (R16). -/
  | fabricPortDown
  /-- FABRIC_REQUEST_DISCARD (R16). -/
  | fabricRequestDiscard
  /-- REMOTE_ATOMIC_REQUEST (R19). -/
  | remoteAtomicRequest
  /-- REMOTE_ATOMIC_RESPONSE (R20). -/
  | remoteAtomicResponse
  /-- REMOTE_INDETERMINATE (R20). -/
  | remoteIndeterminate
  /-- SECOND_TIER_TIMEOUT (R13). -/
  | secondTierTimeout
  /-- RDMA_WRITE (R157). -/
  | rdmaWrite
  /-- RDMA_READ (R21). -/
  | rdmaRead
  /-- RDMA_ATOMIC (R21). -/
  | rdmaAtomic
  /-- RDMA_SEND (R21). -/
  | rdmaSend
  /-- BAR2_WRITE (R28). -/
  | bar2Write
  /-- BAR2_READ (R28). -/
  | bar2Read
  /-- BAR0_REGISTER_WRITE (R28). -/
  | bar0RegisterWrite
  /-- PC_CTL_RUN (R30). -/
  | pcCtlRun
  /-- PC_CTL_DRAIN (R29). -/
  | pcCtlDrain
  /-- QUEUE_STOP_CLEAR (R33). -/
  | queueStopClear
  /-- CREATE (R40). -/
  | create
  /-- DESTROY (R42). -/
  | destroy
  /-- SETQUOTA (R41). -/
  | setquota
  /-- RESET (R42). -/
  | reset
  /-- FREEZE (R45). -/
  | freeze
  /-- EXPORT (R45). -/
  | exportPart
  /-- IMPORT (R45). -/
  | importPart
  /-- THAW (R46). -/
  | thaw
  /-- QUOTE (R44). -/
  | quote
  /-- HBM_FRAME_BOUNDARY (R41). -/
  | hbmFrameBoundary
  /-- THERMAL_TRIP (R25). -/
  | thermalTrip
  /-- POWER_THROTTLE (R25). -/
  | powerThrottle
  /-- TEMP_REFRESH (R26). -/
  | tempRefresh
  /-- MONITOR_REFRESH (R26). -/
  | monitorRefresh
  /-- VOLTAGE_DROOP_EVENT (R57). -/
  | voltageDroopEvent
  /-- DROOPY_EXIT (R57). -/
  | droopyExit
  /-- HOT_CORE_REQUEST_DELAY (R58). -/
  | hotCoreRequestDelay
  /-- TAIL_WORD_EVENT (R33). -/
  | tailWordEvent
  /-- IDLE_CORE_REQUEST (R49). -/
  | idleCoreRequest
  /-- TEAM_START (R55). -/
  | teamStart
  /-- TEAM_SAVE (R63). -/
  | teamSave
  /-- TEAM_RESUME (R64). -/
  | teamResume
  /-- GROUP_END (R71). -/
  | groupEnd
  /-- LAUNCH_COMPLETION (R35). -/
  | launchCompletion
  /-- RUN_ARBITRATION (R81). -/
  | runArbitration
  /-- QUEUE_DEADLOCK (R75). -/
  | queueDeadlock
  /-- CLAIM_DEADLOCK (R89). -/
  | claimDeadlock
  /-- DRAIN_WATCHDOG (R271). -/
  | drainWatchdog
  /-- MARK_STALL_WATCHDOG (R271). -/
  | markStallWatchdog
  /-- ACCESS_WATCHDOG (R271). -/
  | accessWatchdog
  /-- TEAM_TIME_WATCHDOG (R271). -/
  | teamTimeWatchdog
  /-- STAGE_STARVED (R209). -/
  | stageStarved
  /-- HANDLER_ENTRY (R255). -/
  | handlerEntry
  /-- CE_CORE (R262). -/
  | ceCore
  /-- UE_CORE (R262). -/
  | ueCore
  /-- SELF_TEST_COMPLETE (R270). -/
  | selfTestComplete
  /-- PAGE_WALK (R117). -/
  | pageWalk
  /-- LOAD_DATA_RETURN (R197). -/
  | loadDataReturn
  /-- STORE_PERFORM (R181). -/
  | storePerform
  /-- ATOMIC_PERFORM (R186). -/
  | atomicPerform
  /-- SHOOTDOWN_TAIL_EVENT (R120). -/
  | shootdownTailEvent
  /-- SHOOTDOWN_COMPLETE (R120). -/
  | shootdownComplete
  /-- DEMOTION_VICTIM_SELECT (R122). -/
  | demotionVictimSelect
  /-- TIER_MOVE_COMPLETE (R123). -/
  | tierMoveComplete
  /-- SC_CLOCK_RAISE (R184). -/
  | scClockRaise
  /-- TIER_ENGINE_INSTANCE_BEGIN (R133). -/
  | tierEngineInstanceBegin
  /-- DROP_GRANULE (R137). -/
  | dropGranule
  /-- MARK_REEVALUATE (R135). -/
  | markReevaluate
  /-- JOIN_MERGE (R153). -/
  | joinMerge
  /-- JOIN_PUBLISH (R153). -/
  | joinPublish
  /-- IMPLICIT_JOIN (R156). -/
  | implicitJoin
  /-- COPY_START (R196). -/
  | copyStart
  /-- COPY_BEAT_LAND (R208). -/
  | copyBeatLand
  /-- COPY_END (R198). -/
  | copyEnd
  /-- TILE_COMMAND_START (R224). -/
  | tileCommandStart
  /-- TILE_COMMAND_RETIRE (R223). -/
  | tileCommandRetire
  /-- DEBUG_HALT (R273). -/
  | debugHalt
  /-- DEBUG_RESUME (R273). -/
  | debugResume
  /-- DEBUG_STEP (R273). -/
  | debugStep
  /-- MAILBOX_COMMAND_COMPLETE (R39). -/
  | mailboxCommandComplete
  /-- FABRIC_GRANT_TABLE_SET (R118). -/
  | fabricGrantTableSet
  /-- LINK_DOWN (R262). -/
  | linkDown
  /-- FABRIC_REQUEST_ARRIVAL (R17). -/
  | fabricRequestArrival
deriving DecidableEq, Repr

end Sys2Proof
end

