-- ==== Sys2Proof/Machine/Legal.lean ====
section
/-! DEFINITION. Which encodings are instructions: the fields each lane instruction uses (R279 to R285, R390 to R430) and the
illegal scalar encodings (R276, R278). -/
namespace Sys2Proof.Machine

/-- How a lane instruction reads word 2 (R279, R282, R411, R430). -/
inductive Word2 where
  | literal -- imm32, read only through operand code 0x1F0
  | memory
  | branch
  | tile    -- [5:0] offset, [31:6] zero
  | index   -- [13:0] special register
  | zero
deriving DecidableEq, Repr

/-- What a lane instruction uses: its opcode, its operand fields, widths, sub bits, rnd, sat, U and word 2. -/
structure LaneSpec where
  opcode : Nat
  d : Bool
  a : Bool
  b : Bool
  c : Bool
  widths : List Nat
  sub : Nat
  rnd : Bool
  sat : Bool
  u : Bool
  word2 : Word2
deriving DecidableEq, Repr

/-- The fields of a lane instruction; `none` for every other row. -/
def laneFields (i : Instr) : Option LaneFields :=
  match i with
  | .vadd f => some f
  | .vsub f => some f
  | .vmul f => some f
  | .vmulh f => some f
  | .vmad f => some f
  | .vmin f => some f
  | .vmax f => some f
  | .vminn f => some f
  | .vmaxn f => some f
  | .vabs f => some f
  | .vneg f => some f
  | .vand f => some f
  | .vor f => some f
  | .vxor f => some f
  | .vnot f => some f
  | .vshl f => some f
  | .vshr f => some f
  | .vsra f => some f
  | .vpopc f => some f
  | .vclz f => some f
  | .vbfx f => some f
  | .vbfi f => some f
  | .vsel f => some f
  | .vmov f => some f
  | .vsetp f => some f
  | .fsetp f => some f
  | .pand f => some f
  | .por f => some f
  | .pxor f => some f
  | .pnot f => some f
  | .pmov f => some f
  | .prd f => some f
  | .fadd f => some f
  | .fsub f => some f
  | .fmul f => some f
  | .ffma f => some f
  | .fmin f => some f
  | .fmax f => some f
  | .fabs f => some f
  | .fneg f => some f
  | .fclamp f => some f
  | .frnd f => some f
  | .frcp f => some f
  | .frsq f => some f
  | .fsqrt f => some f
  | .fdiv f => some f
  | .fex2 f => some f
  | .flg2 f => some f
  | .fsin f => some f
  | .fcos f => some f
  | .ftanh f => some f
  | .cvt f => some f
  | .cvti f => some f
  | .pack f => some f
  | .unpack f => some f
  | .qscale f => some f
  | .dotn f => some f
  | .dot2 f => some f
  | .dot4 f => some f
  | .shfl f => some f
  | .shflup f => some f
  | .shfldn f => some f
  | .shflx f => some f
  | .bcast f => some f
  | .redsum f => some f
  | .redmin f => some f
  | .redmax f => some f
  | .scanadd f => some f
  | .scanmax f => some f
  | .ballot f => some f
  | .voteany f => some f
  | .voteall f => some f
  | .rng f => some f
  | .lpush f => some f
  | .vqpop f => some f
  | .rdsr f => some f
  | .lnop f => some f
  | .lbr f => some f
  | .ljmp f => some f
  | .lbreak f => some f
  | .lexit f => some f
  | .ld f => some f
  | .st f => some f
  | .ost f => some f
  | .old f => some f
  | .pref f => some f
  | .atom f => some f
  | .atomc f => some f
  | .red f => some f
  | .lcopy f => some f
  | .lcopyo f => some f
  | .amovr f => some f
  | .amovw f => some f
  | _ => none

/-- The table of used fields: R393, R395, R397, R398, R399, R402, R405, R407, R411, R415, R423, R427, R429, R430. The sub
field decides some of them. -/
def laneSpecOf (i : Instr) (f : LaneFields) : Option LaneSpec :=
  let sb := fun k => f.sub.getLsbD k
  let m := f.sub.toNat % 8
  let kind := f.sub.toNat / 8 % 4
  match i with
  | .vadd _ => some ⟨0, true, true, true, false, [0, 1, 2, 3], 1, false, true, true, .literal⟩
  | .vsub _ => some ⟨1, true, true, true, false, [0, 1, 2, 3], 1, false, true, true, .literal⟩
  | .vmul _ => some ⟨2, true, true, true, false, [0, 1, 2, 3], 1, false, true, true, .literal⟩
  | .vmulh _ => some ⟨3, true, true, true, false, [0, 1, 2, 3], 1, false, false, true, .literal⟩
  | .vmad _ => some ⟨4, true, true, true, true, [0, 1, 2, 3], 1, false, true, true, .literal⟩
  | .vmin _ => some ⟨5, true, true, true, false, [0, 1, 2, 3], 0, false, false, true, .literal⟩
  | .vmax _ => some ⟨6, true, true, true, false, [0, 1, 2, 3], 0, false, false, true, .literal⟩
  | .vminn _ => some ⟨7, true, true, true, false, [0, 1, 2, 3], 0, false, false, true, .literal⟩
  | .vmaxn _ => some ⟨8, true, true, true, false, [0, 1, 2, 3], 0, false, false, true, .literal⟩
  | .vabs _ => some ⟨9, true, true, false, false, [0, 1, 2, 3], 0, false, true, true, .literal⟩
  | .vneg _ => some ⟨10, true, true, false, false, [0, 1, 2, 3], 0, false, true, true, .literal⟩
  | .vand _ => some ⟨11, true, true, true, false, [0, 1, 2, 3], 0, false, false, true, .literal⟩
  | .vor _ => some ⟨12, true, true, true, false, [0, 1, 2, 3], 0, false, false, true, .literal⟩
  | .vxor _ => some ⟨13, true, true, true, false, [0, 1, 2, 3], 0, false, false, true, .literal⟩
  | .vnot _ => some ⟨14, true, true, false, false, [0, 1, 2, 3], 0, false, false, true, .literal⟩
  | .vshl _ => some ⟨15, true, true, true, false, [0, 1, 2, 3], 0, false, false, true, .literal⟩
  | .vshr _ => some ⟨16, true, true, true, false, [0, 1, 2, 3], 0, false, false, true, .literal⟩
  | .vsra _ => some ⟨17, true, true, true, false, [0, 1, 2, 3], 0, false, false, true, .literal⟩
  | .vpopc _ => some ⟨18, true, true, false, false, [0, 1, 2, 3], 0, false, false, true, .literal⟩
  | .vclz _ => some ⟨19, true, true, false, false, [0, 1, 2, 3], 0, false, false, true, .literal⟩
  | .vbfx _ => some ⟨20, true, true, true, false, [0, 1], 1, false, false, true, .literal⟩
  | .vbfi _ => some ⟨21, true, true, true, true, [0, 1], 0, false, false, true, .literal⟩
  | .vsel _ => some ⟨22, true, true, true, false, [0, 1, 2, 3], 15, false, false, true, .literal⟩
  | .vmov _ => some ⟨23, true, true, false, false, [0, 1, 2, 3], 0, false, false, true, .literal⟩
  | .vsetp _ => some ⟨64, true, true, true, false, [0, 1], 15, false, false, true, .literal⟩
  | .fsetp _ => some ⟨65, true, true, true, false, [0, 1], 15, false, false, true, .literal⟩
  | .pand _ => some ⟨66, true, true, true, false, [0], 0, false, false, true, .zero⟩
  | .por _ => some ⟨67, true, true, true, false, [0], 0, false, false, true, .zero⟩
  | .pxor _ => some ⟨68, true, true, true, false, [0], 0, false, false, true, .zero⟩
  | .pnot _ => some ⟨69, true, true, false, false, [0], 0, false, false, true, .zero⟩
  | .pmov _ => some ⟨70, true, true, false, false, [0, 1], 0, false, false, true, .literal⟩
  | .prd _ => some ⟨71, true, false, false, false, [0], 0, false, false, true, .literal⟩
  | .fadd _ => some ⟨128, true, true, true, false, [0, 1, 2, 3], 0, true, true, true, .literal⟩
  | .fsub _ => some ⟨129, true, true, true, false, [0, 1, 2, 3], 0, true, true, true, .literal⟩
  | .fmul _ => some ⟨130, true, true, true, false, [0, 1, 2, 3], 0, true, true, true, .literal⟩
  | .ffma _ => some ⟨131, true, true, true, true, [0, 1, 2, 3], 0, true, true, true, .literal⟩
  | .fmin _ => some ⟨132, true, true, true, false, [0, 1, 2, 3], 0, false, false, true, .literal⟩
  | .fmax _ => some ⟨133, true, true, true, false, [0, 1, 2, 3], 0, false, false, true, .literal⟩
  | .fabs _ => some ⟨134, true, true, false, false, [0, 1, 2, 3], 0, false, false, true, .literal⟩
  | .fneg _ => some ⟨135, true, true, false, false, [0, 1, 2, 3], 0, false, false, true, .literal⟩
  | .fclamp _ => some ⟨136, true, true, true, true, [0, 1, 2, 3], 0, false, false, true, .literal⟩
  | .frnd _ => some ⟨137, true, true, false, false, [0, 1, 2, 3], 0, true, false, true, .literal⟩
  | .frcp _ => some ⟨192, true, true, false, false, [0], 0, true, true, true, .literal⟩
  | .frsq _ => some ⟨193, true, true, false, false, [0], 0, true, true, true, .literal⟩
  | .fsqrt _ => some ⟨194, true, true, false, false, [0], 0, true, true, true, .literal⟩
  | .fdiv _ => some ⟨195, true, true, true, false, [0], 0, true, true, true, .literal⟩
  | .fex2 _ => some ⟨196, true, true, false, false, [0], 0, true, true, true, .literal⟩
  | .flg2 _ => some ⟨197, true, true, false, false, [0], 0, true, true, true, .literal⟩
  | .fsin _ => some ⟨198, true, true, false, false, [0], 0, true, true, true, .literal⟩
  | .fcos _ => some ⟨199, true, true, false, false, [0], 0, true, true, true, .literal⟩
  | .ftanh _ => some ⟨200, true, true, false, false, [0], 0, true, true, true, .literal⟩
  | .cvt _ => some ⟨256, true, true, false, false, [0], 63, true, true, true, .literal⟩
  | .cvti _ => some ⟨257, true, true, false, false, [0], 63, true, sb 5, true, .literal⟩
  | .pack _ => some ⟨258, true, true, true, sb 1, [0], 7, true, true, true, .literal⟩
  | .unpack _ => some ⟨259, true, true, false, false, [0], 15, false, false, true, .literal⟩
  | .qscale _ => some ⟨260, true, true, m != 2, m != 2 && m != 3, [0], 15, m == 0, false, true, .literal⟩
  | .dotn _ => some ⟨320, true, true, true, true, [0], 1, true, true, true, .literal⟩
  | .dot2 _ => some ⟨321, true, true, true, true, if sb 0 then [2] else [2, 3], 7, !sb 0, true, true, .literal⟩
  | .dot4 _ => some ⟨322, true, true, true, true, [3], 15, sb 1 || sb 3, true, true, .literal⟩
  | .shfl _ => some ⟨384, true, true, true, false, [0, 1], 7, false, false, false, .literal⟩
  | .shflup _ => some ⟨385, true, true, true, false, [0, 1], 7, false, false, false, .literal⟩
  | .shfldn _ => some ⟨386, true, true, true, false, [0, 1], 7, false, false, false, .literal⟩
  | .shflx _ => some ⟨387, true, true, true, false, [0, 1], 7, false, false, false, .literal⟩
  | .bcast _ => some ⟨388, true, true, true, false, [0, 1], 0, false, false, false, .literal⟩
  | .redsum _ => some ⟨389, true, true, false, false, [0, 1], 31, kind == 2, true, false, .literal⟩
  | .redmin _ => some ⟨390, true, true, false, false, [0, 1], 31, false, false, false, .literal⟩
  | .redmax _ => some ⟨391, true, true, false, false, [0, 1], 31, false, false, false, .literal⟩
  | .scanadd _ => some ⟨392, true, true, false, false, [0, 1], 63, kind == 2, true, false, .literal⟩
  | .scanmax _ => some ⟨393, true, true, false, false, [0, 1], 63, false, false, false, .literal⟩
  | .ballot _ => some ⟨394, true, true, false, false, [0, 1], 0, false, false, false, .literal⟩
  | .voteany _ => some ⟨395, true, true, false, false, [0, 1], 7, false, false, false, .literal⟩
  | .voteall _ => some ⟨396, true, true, false, false, [0, 1], 7, false, false, false, .literal⟩
  | .rng _ => some ⟨448, true, true, false, false, [0], 3, false, false, false, .zero⟩
  | .lpush _ => some ⟨449, false, true, false, false, [0, 1], 0, false, false, false, .zero⟩
  | .vqpop _ => some ⟨450, true, false, false, false, [0, 1], 0, false, false, true, .zero⟩
  | .rdsr _ => some ⟨451, true, false, false, false, [0, 1], 0, false, false, true, .index⟩
  | .lnop _ => some ⟨452, false, false, false, false, [0], 0, false, false, false, .zero⟩
  | .lbr _ => some ⟨512, false, false, false, false, [0], 0, false, false, false, .branch⟩
  | .ljmp _ => some ⟨513, false, false, false, false, [0], 0, false, false, false, .branch⟩
  | .lbreak _ => some ⟨514, false, false, false, false, [0], 0, false, false, false, .branch⟩
  | .lexit _ => some ⟨515, false, false, false, false, [0], 0, false, false, false, .branch⟩
  | .ld _ => some ⟨576, true, true, false, false, [0], 1, false, false, false, .memory⟩
  | .st _ => some ⟨577, false, true, true, false, [0], 0, false, false, false, .memory⟩
  | .ost _ => some ⟨578, false, true, true, false, [0], 15, false, false, false, .memory⟩
  | .old _ => some ⟨579, true, true, false, false, [0], 15, false, false, false, .memory⟩
  | .pref _ => some ⟨580, false, true, false, false, [0], 1, false, false, false, .memory⟩
  | .atom _ => some ⟨640, true, true, true, false, [0], 15, false, false, false, .memory⟩
  | .atomc _ => some ⟨641, true, true, true, true, [0], 0, false, false, false, .memory⟩
  | .red _ => some ⟨642, false, true, true, false, [0], 15, false, false, false, .memory⟩
  | .lcopy _ => some ⟨704, true, true, true, false, [0], 3, false, false, false, .memory⟩
  | .lcopyo _ => some ⟨705, true, true, true, false, [0], 15, false, false, false, .memory⟩
  | .amovr _ => some ⟨768, true, false, false, false, [0], 15, false, false, false, .tile⟩
  | .amovw _ => some ⟨769, false, true, false, false, [0], 15, false, false, false, .tile⟩
  | _ => none

/-- The operand code of a literal (R280). -/
def litCode : BitVec 9 := 0x1F0

/-- The default of an operand field (R279). -/
def zeroCode : BitVec 9 := 0x1F3

/-- A literal stands in a used operand field. -/
def usesLiteral (s : LaneSpec) (f : LaneFields) : Bool :=
  (s.a && f.a == litCode) || (s.b && f.b == litCode) || (s.c && f.c == litCode)

/-- Fields of word 2 in its memory form (R282). -/
def mOrd (f : LaneFields) : Nat := fld f.imm.toNat 30 2
/-- scope (R282). -/
def mScope (f : LaneFields) : Nat := fld f.imm.toNat 27 3
/-- evict (R282). -/
def mEvict (f : LaneFields) : Nat := fld f.imm.toNat 24 3
/-- space (R282). -/
def mSpace (f : LaneFields) : Nat := fld f.imm.toNat 22 2
/-- size code (R282). -/
def mSize (f : LaneFields) : Nat := fld f.imm.toNat 19 3
/-- signed byte offset (R282). -/
def mOff (f : LaneFields) : Int := signed 19 f.imm.toNat
/-- branch target (R282). -/
def bTarget (f : LaneFields) : Nat := fld f.imm.toNat 16 16
/-- reconvergence index (R282). -/
def bReconv (f : LaneFields) : Nat := fld f.imm.toNat 0 16

/-- The memory-form checks that take ILLEGAL_ENCODING (R114, R285, R423, R427, R429). -/
def memFormOk (i : Instr) (f : LaneFields) : Bool :=
  let common := mSpace f != 3 && mSize f ≤ 4 && mEvict f != 7
  let scopeOk := !(mSpace f == 1 && mScope f > 3)
  let defaults := mOrd f == 0 && mScope f == 2 && mEvict f == 0 && mSpace f == 0
  match i with
  | .ld _ => common && scopeOk && mOrd f != 2 && (!f.sub.getLsbD 0 || mSize f ≤ 1)
  | .st _ => common && scopeOk && mOrd f != 1
  | .ost _ => common && defaults
  | .old _ => common && defaults
  | .pref _ => common && mSize f == 2
  | .atom _ => common && scopeOk && (mSize f == 2 || mSize f == 3) && f.sub.toNat ≤ 11
  | .atomc _ => common && scopeOk && (mSize f == 2 || mSize f == 3)
  | .red _ => common && scopeOk && (mSize f == 2 || mSize f == 3) && f.sub.toNat ≤ 11 && f.sub.toNat != 8
  | .lcopy _ => common && (2 ≤ mSize f) && mOrd f == 0 && mScope f == 2
  | .lcopyo _ => common && (2 ≤ mSize f) && mOrd f == 0 && mScope f == 2
  | _ => true

/-- The branch-form checks (R415). -/
def branchFormOk (i : Instr) (f : LaneFields) : Bool :=
  match i with
  | .lbr _ => f.e
  | .ljmp _ => f.e && f.guard == 7 && !f.neg && bReconv f == 0
  | .lbreak _ => f.e && bTarget f == 0
  | .lexit _ => f.e && f.imm == 0
  | _ => true

/-- A lane instruction's fields are those of an instruction: no check of R285 that the triple alone decides takes
ILLEGAL_ENCODING. -/
def laneOk (i : Instr) (s : LaneSpec) (f : LaneFields) : Bool :=
  (s.u || !f.u) && !(f.guard == 7 && f.neg)
  && (s.d || f.d == zeroCode) && (s.a || f.a == zeroCode) && (s.b || f.b == zeroCode) && (s.c || f.c == zeroCode)
  && s.widths.contains f.width.toNat && (f.sub.toNat &&& (63 - s.sub)) == 0
  && (s.rnd || f.rnd == 0) && (s.sat || !f.sat)
  && (match s.word2 with
      | .literal => usesLiteral s f || f.imm == 0
      | .memory => memFormOk i f
      | .branch => branchFormOk i f
      | .tile => fld f.imm.toNat 6 26 == 0
      | .index => true
      | .zero => f.imm == 0)
  && (match i with
      | .dot2 _ => f.sub.getLsbD 0 || (!f.sub.getLsbD 1 && !f.sub.getLsbD 2)
      | _ => true)

/-- The S-M combinations that are no instruction (R114, R278); `store` for SST. -/
def memFieldsOk (f : MemFields) (store : Bool) : Bool :=
  f.size != 3 && f.evict != 7 && (if store then f.ord != 1 else f.ord != 2)

/-- The instruction's encoding is legal: no check of R278 or R285 that the encoding alone decides fails. The steps of the
other agents have no encoding. -/
def legal (i : Instr) : Bool :=
  match i with
  | .sbr cond sa _ => cond != 7 && (cond != 6 || sa == 0)
  | .sshi _ _ imm => fld imm.toNat 12 2 != 3 && fld imm.toNat 6 6 == 0
  | .sld _ _ f => memFieldsOk f false
  | .sst _ _ f => memFieldsOk f true
  | .saadd _ _ _ f => f.evict != 7
  | .samin _ _ _ f => f.evict != 7
  | .samax _ _ _ f => f.evict != 7
  | .saand _ _ _ f => f.evict != 7
  | .saor _ _ _ f => f.evict != 7
  | .saxor _ _ _ f => f.evict != 7
  | .saswp _ _ _ f => f.evict != 7
  | .sacas _ _ _ f => f.evict != 7
  | .tpref _ hint => hint != 7
  | i =>
    match laneFields i with
    | none => true
    | some f =>
      match laneSpecOf i f with
      | none => true
      | some s => laneOk i s f

end Sys2Proof.Machine
end

