-- ==== Sys2Proof/WellFormed.lean ====
section
/-! DEFINITION. Well-formed instructions: those whose encoding is an instruction (R278, R285). -/
namespace Sys2Proof

/-- No encoding check of R278 or R285 fails for this instruction. A step of another agent has no encoding and passes. -/
def Instr.wf (i : Instr) : Bool := Machine.legal i

end Sys2Proof
end

