-- ==== Sys2Proof/Decode.lean ====
section
/-! DEFINITION. Decoding and encoding (R275 to R285): scalar words of 32 bits and lane triples of 96 bits. Every refusal
has a name. -/
namespace Sys2Proof

open Machine

/-- Why a word or triple is no instruction (R278, R285). -/
inductive Reject where
  | major | func | cond | size | order | shift | unused
  | laneOpcode | laneFields
deriving DecidableEq, Repr

/-- The fields of an S-R word below the major (R275). -/
structure SRFields where
  sd : BitVec 6
  sa : BitVec 6
  sb : BitVec 6
deriving DecidableEq, Repr

/-- The instruction when its unused fields are zero, and the refusal otherwise (R276). -/
def used (zero : Bool) (i : Instr) : Except Reject Instr := if zero then .ok i else .error .unused

/-- The S-R fields of a word. -/
def srFields (w : Nat) : SRFields :=
  ⟨BitVec.ofNat 6 (fld w 20 6), BitVec.ofNat 6 (fld w 14 6), BitVec.ofNat 6 (fld w 8 6)⟩

/-- Major 0x00 (R277). -/
def decodeSys (func : Nat) (r : SRFields) : Except Reject Instr :=
  match func with
  | 0 => used (r.sd == 0 && r.sa == 0 && r.sb == 0) (.nop)
  | 1 => used (r.sd == 0 && r.sa == 0 && r.sb == 0) (.exit)
  | 2 => used (r.sd == 0 && r.sa == 0) (.trap r.sb)
  | 3 => used (r.sd == 0 && r.sa == 0) (.reth r.sb)
  | 4 => used (r.sd == 0 && r.sa == 0 && r.sb == 0) (.bkpt)
  | 5 => used (r.sd == 0 && r.sb == 0) (.setfmt r.sa)
  | 6 => used (r.sa == 0 && r.sb == 0) (.getfmt r.sd)
  | 7 => used (r.sa == 0 && r.sb == 0) (.rdtime r.sd)
  | 8 => used (r.sd == 0 && r.sa == 0 && r.sb == 0) (.yield)
  | _ => .error .func

/-- Major 0x01 (R277). -/
def decodeAlu (func : Nat) (r : SRFields) : Except Reject Instr :=
  match func with
  | 0 => used (true) (.sadd r.sd r.sa r.sb)
  | 1 => used (true) (.ssub r.sd r.sa r.sb)
  | 2 => used (true) (.smul r.sd r.sa r.sb)
  | 3 => used (true) (.smulh r.sd r.sa r.sb)
  | 4 => used (true) (.smulhn r.sd r.sa r.sb)
  | 5 => used (true) (.sdiv r.sd r.sa r.sb)
  | 6 => used (true) (.sdivn r.sd r.sa r.sb)
  | 7 => used (true) (.srem r.sd r.sa r.sb)
  | 8 => used (true) (.sremn r.sd r.sa r.sb)
  | 9 => used (true) (.sand r.sd r.sa r.sb)
  | 10 => used (true) (.sor r.sd r.sa r.sb)
  | 11 => used (true) (.sxor r.sd r.sa r.sb)
  | 12 => used (true) (.sandn r.sd r.sa r.sb)
  | 13 => used (true) (.sshl r.sd r.sa r.sb)
  | 14 => used (true) (.sshr r.sd r.sa r.sb)
  | 15 => used (true) (.ssra r.sd r.sa r.sb)
  | 16 => used (true) (.smin r.sd r.sa r.sb)
  | 17 => used (true) (.smax r.sd r.sa r.sb)
  | 18 => used (true) (.sminn r.sd r.sa r.sb)
  | 19 => used (true) (.smaxn r.sd r.sa r.sb)
  | 20 => used (true) (.sslt r.sd r.sa r.sb)
  | 21 => used (true) (.ssltn r.sd r.sa r.sb)
  | 22 => used (true) (.sseq r.sd r.sa r.sb)
  | 23 => used (r.sb == 0) (.sclz r.sd r.sa)
  | 24 => used (r.sb == 0) (.sctz r.sd r.sa)
  | 25 => used (r.sb == 0) (.spopc r.sd r.sa)
  | 26 => used (r.sb == 0) (.ssextw r.sd r.sa)
  | 27 => used (r.sb == 0) (.szextw r.sd r.sa)
  | _ => .error .func

/-- Major 0x19 (R277). -/
def decodeQue (func : Nat) (r : SRFields) : Except Reject Instr :=
  match func with
  | 0 => used (r.sd == 0 && r.sb == 0) (.dispatch r.sa)
  | 1 => used (r.sd == 0 && r.sb == 0) (.vqpush r.sa)
  | 2 => used (r.sd == 0) (.vqpush2 r.sa r.sb)
  | 3 => used (r.sa == 0 && r.sb == 0) (.rqpop r.sd)
  | 4 => used (r.sa == 0 && r.sb == 0) (.qstat r.sd)
  | 5 => used (r.sd == 0 && r.sa == 0 && r.sb == 0) (.qdrain)
  | _ => .error .func

/-- Major 0x1A (R277). -/
def decodeSyn (func : Nat) (r : SRFields) : Except Reject Instr :=
  match func with
  | 0 => used (r.sd == 0 && r.sa == 0 && !r.sb.getLsbD 3) (.fence (r.sb.extractLsb' 4 2) (r.sb.extractLsb' 0 3))
  | 1 => used (r.sa == 0 && r.sb == 0) (.bar r.sd)
  | 2 => used (true) (.barn r.sd r.sa r.sb)
  | 3 => used (r.sd == 0) (.sbinit r.sa r.sb)
  | 4 => used (r.sd == 0) (.sbexp r.sa r.sb)
  | 5 => used (r.sd == 0 && r.sb == 0) (.sbarr r.sa)
  | 6 => used (true) (.sbwait r.sd r.sa r.sb)
  | 7 => used (r.sd == 0 && r.sb == 0) (.waitc r.sa)
  | 8 => used (true) (.waits r.sd r.sa r.sb)
  | _ => .error .func

/-- Major 0x1B (R277). -/
def decodeEng (func : Nat) (r : SRFields) : Except Reject Instr :=
  match func with
  | 0 => used (true) (.tcopy r.sd r.sa r.sb)
  | 1 => used (true) (.tcopyx r.sd r.sa r.sb)
  | 2 => used (r.sd == 0 && r.sb.toNat < 8 && r.sb != 7) (.tpref r.sa (r.sb.setWidth 3))
  | 3 => used (r.sd == 0 && r.sa == 0 && r.sb.toNat < 16) (.oclaim (r.sb.setWidth 4))
  | 4 => used (r.sd == 0 && r.sa == 0 && r.sb.toNat < 16) (.orelease (r.sb.setWidth 4))
  | 5 => used (r.sd == 0 && r.sb.toNat < 8) (.rload r.sa (r.sb.setWidth 3))
  | 6 => used (r.sd == 0 && r.sb == 0) (.tmma r.sa)
  | 7 => used (r.sd == 0) (.tmmaq r.sa r.sb)
  | 8 => used (r.sd == 0 && r.sb == 0) (.trec r.sa)
  | 9 => used (r.sd == 0 && r.sb == 0) (.trecb r.sa)
  | 10 => used (r.sd == 0 && r.sa == 0 && r.sb.toNat < 16) (.tzero (r.sb.setWidth 4))
  | 11 => used (r.sd == 0) (.tlda r.sa r.sb)
  | 12 => used (r.sd == 0) (.tst r.sa r.sb)
  | 13 => used (r.sd == 0) (.tstq r.sa r.sb)
  | 14 => used (r.sd == 0) (.tedge r.sa r.sb)
  | 15 => used (r.sa == 0 && r.sb == 0) (.tfence r.sd)
  | 16 => used (r.sd == 0 && r.sb == 0) (.twait r.sa)
  | 17 => used (r.sa == 0 && r.sb == 0) (.tstat r.sd)
  | _ => .error .func

/-- Major 0x1C (R277). -/
def decodeRev (func : Nat) (r : SRFields) : Except Reject Instr :=
  match func with
  | 0 => used (r.sb == 0) (.fork r.sd r.sa)
  | 1 => used (r.sb == 0) (.join r.sd r.sa)
  | 2 => used (r.sb == 0) (.jointry r.sd r.sa)
  | 3 => used (r.sb == 0) (.rvdecl r.sd r.sa)
  | 4 => used (r.sb == 0) (.rvdrop r.sd r.sa)
  | 5 => used (r.sb == 0) (.rvid r.sd r.sa)
  | 6 => used (r.sb == 0) (.rvstat r.sd r.sa)
  | _ => .error .func

/-- Major 0x1D (R277). -/
def decodeWat (func : Nat) (r : SRFields) : Except Reject Instr :=
  match func with
  | 0 => used (r.sb == 0) (.watch r.sd r.sa)
  | 1 => used (r.sd == 0 && r.sb == 0) (.unwatch r.sa)
  | 2 => used (r.sd == 0 && r.sb == 0) (.warm r.sa)
  | 3 => used (r.sa == 0) (.trigrec r.sd r.sb)
  | 4 => used (r.sd == 0 && r.sa == 0 && r.sb == 0) (.trigack)
  | 5 => used (r.sb == 0) (.wstat r.sd r.sa)
  | _ => .error .func

/-- Major 0x1E (R277). -/
def decodeTtb (func : Nat) (r : SRFields) : Except Reject Instr :=
  match func with
  | 0 => used (r.sd == 0 && r.sb == 0) (.mark r.sa)
  | 1 => used (r.sd == 0 && r.sb.toNat < 4) (.ttbind r.sa (r.sb.setWidth 2))
  | 2 => used (r.sa == 0 && r.sb == 0) (.ttstat r.sd)
  | 3 => used (r.sd == 0 && r.sa == 0 && r.sb == 0) (.ttresume)
  | _ => .error .func

/-- Major 0x1F (R277). -/
def decodeReg (func : Nat) (r : SRFields) : Except Reject Instr :=
  match func with
  | 0 => used (r.sd == 0 && r.sb == 0) (.giveback r.sa)
  | 1 => used (r.sd == 0 && r.sb == 0) (.claim r.sa)
  | 2 => used (r.sb == 0) (.claimtry r.sd r.sa)
  | 3 => used (r.sd == 0 && r.sb == 0) (.setbnd r.sa)
  | 4 => used (r.sa == 0 && r.sb == 0) (.getallot r.sd)
  | _ => .error .func

/-- A scalar word (R275 to R278). -/
def decodeScalarNat (w : Nat) : Except Reject Instr :=
  let sd := BitVec.ofNat 6 (fld w 20 6)
  let sa := BitVec.ofNat 6 (fld w 14 6)
  let sb := BitVec.ofNat 6 (fld w 8 6)
  let imm14 := BitVec.ofNat 14 (fld w 0 14)
  let imm20 := BitVec.ofNat 20 (fld w 0 20)
  let mf : MemFields := ⟨BitVec.ofNat 2 (fld w 12 2), BitVec.ofNat 3 (fld w 9 3), BitVec.ofNat 3 (fld w 6 3),
    BitVec.ofNat 2 (fld w 4 2)⟩
  let af : AtomFields := ⟨BitVec.ofNat 2 (fld w 6 2), BitVec.ofNat 3 (fld w 3 3), BitVec.ofNat 3 (fld w 0 3)⟩
  let atom := fun (i : Instr) => if af.evict == 7 then .error .order else .ok i
  let func := fld w 0 8
  match fld w 26 6 with
  | 0 => decodeSys func (srFields w)
  | 1 => decodeAlu func (srFields w)
  | 2 => .ok (.saddi sd sa imm14)
  | 3 => .ok (.sandi sd sa imm14)
  | 4 => .ok (.sori sd sa imm14)
  | 5 => .ok (.sxori sd sa imm14)
  | 6 => .ok (.sslti sd sa imm14)
  | 7 => if fld w 12 2 != 3 && fld w 6 6 == 0 then .ok (.sshi sd sa imm14) else .error .shift
  | 8 => .ok (.slui sd imm20)
  | 9 => .ok (.spcadd sd imm20)
  | 10 =>
    let cond := BitVec.ofNat 3 (fld w 23 3)
    let sa' := BitVec.ofNat 6 (fld w 17 6)
    if cond == 7 then .error .cond
    else used (cond != 6 || sa' == 0) (.sbr cond sa' (BitVec.ofNat 17 (fld w 0 17)))
  | 11 => .ok (.sjal sd imm20)
  | 12 => .ok (.sjalr sd sa imm14)
  | 13 => used (sa == 0) (.ssrr sd imm14)
  | 14 => used (sd == 0) (.ssrw sa imm14)
  | 15 =>
    if fld w 0 4 != 0 then .error .unused
    else if memFieldsOk mf false then .ok (.sld sd sa mf) else .error .order
  | 16 =>
    if fld w 0 4 != 0 then .error .unused
    else if memFieldsOk mf true then .ok (.sst sd sa mf) else .error .order
  | 17 => atom (.saadd sd sa sb af)
  | 18 => atom (.samin sd sa sb af)
  | 19 => atom (.samax sd sa sb af)
  | 20 => atom (.saand sd sa sb af)
  | 21 => atom (.saor sd sa sb af)
  | 22 => atom (.saxor sd sa sb af)
  | 23 => atom (.saswp sd sa sb af)
  | 24 => atom (.sacas sd sa sb af)
  | 25 => decodeQue func (srFields w)
  | 26 => decodeSyn func (srFields w)
  | 27 => decodeEng func (srFields w)
  | 28 => decodeRev func (srFields w)
  | 29 => decodeWat func (srFields w)
  | 30 => decodeTtb func (srFields w)
  | 31 => decodeReg func (srFields w)
  | _ => .error .major

/-- The lane instruction of an opcode (R284). -/
def laneCtor (op : Nat) (f : LaneFields) : Option Instr :=
  match op with
  | 0 => some (.vadd f)
  | 1 => some (.vsub f)
  | 2 => some (.vmul f)
  | 3 => some (.vmulh f)
  | 4 => some (.vmad f)
  | 5 => some (.vmin f)
  | 6 => some (.vmax f)
  | 7 => some (.vminn f)
  | 8 => some (.vmaxn f)
  | 9 => some (.vabs f)
  | 10 => some (.vneg f)
  | 11 => some (.vand f)
  | 12 => some (.vor f)
  | 13 => some (.vxor f)
  | 14 => some (.vnot f)
  | 15 => some (.vshl f)
  | 16 => some (.vshr f)
  | 17 => some (.vsra f)
  | 18 => some (.vpopc f)
  | 19 => some (.vclz f)
  | 20 => some (.vbfx f)
  | 21 => some (.vbfi f)
  | 22 => some (.vsel f)
  | 23 => some (.vmov f)
  | 64 => some (.vsetp f)
  | 65 => some (.fsetp f)
  | 66 => some (.pand f)
  | 67 => some (.por f)
  | 68 => some (.pxor f)
  | 69 => some (.pnot f)
  | 70 => some (.pmov f)
  | 71 => some (.prd f)
  | 128 => some (.fadd f)
  | 129 => some (.fsub f)
  | 130 => some (.fmul f)
  | 131 => some (.ffma f)
  | 132 => some (.fmin f)
  | 133 => some (.fmax f)
  | 134 => some (.fabs f)
  | 135 => some (.fneg f)
  | 136 => some (.fclamp f)
  | 137 => some (.frnd f)
  | 192 => some (.frcp f)
  | 193 => some (.frsq f)
  | 194 => some (.fsqrt f)
  | 195 => some (.fdiv f)
  | 196 => some (.fex2 f)
  | 197 => some (.flg2 f)
  | 198 => some (.fsin f)
  | 199 => some (.fcos f)
  | 200 => some (.ftanh f)
  | 256 => some (.cvt f)
  | 257 => some (.cvti f)
  | 258 => some (.pack f)
  | 259 => some (.unpack f)
  | 260 => some (.qscale f)
  | 320 => some (.dotn f)
  | 321 => some (.dot2 f)
  | 322 => some (.dot4 f)
  | 384 => some (.shfl f)
  | 385 => some (.shflup f)
  | 386 => some (.shfldn f)
  | 387 => some (.shflx f)
  | 388 => some (.bcast f)
  | 389 => some (.redsum f)
  | 390 => some (.redmin f)
  | 391 => some (.redmax f)
  | 392 => some (.scanadd f)
  | 393 => some (.scanmax f)
  | 394 => some (.ballot f)
  | 395 => some (.voteany f)
  | 396 => some (.voteall f)
  | 448 => some (.rng f)
  | 449 => some (.lpush f)
  | 450 => some (.vqpop f)
  | 451 => some (.rdsr f)
  | 452 => some (.lnop f)
  | 512 => some (.lbr f)
  | 513 => some (.ljmp f)
  | 514 => some (.lbreak f)
  | 515 => some (.lexit f)
  | 576 => some (.ld f)
  | 577 => some (.st f)
  | 578 => some (.ost f)
  | 579 => some (.old f)
  | 580 => some (.pref f)
  | 640 => some (.atom f)
  | 641 => some (.atomc f)
  | 642 => some (.red f)
  | 704 => some (.lcopy f)
  | 705 => some (.lcopyo f)
  | 768 => some (.amovr f)
  | 769 => some (.amovw f)
  | _ => none

/-- The fields of a lane triple (R279). -/
def laneFieldsOf (w0 w1 w2 : Nat) : LaneFields :=
  { u := bit w0 21, e := bit w0 20, j := bit w0 19, guard := BitVec.ofNat 3 (fld w0 16 3), neg := bit w0 15,
    d := BitVec.ofNat 9 (fld w0 6 9), sub := BitVec.ofNat 6 (fld w0 0 6), a := BitVec.ofNat 9 (fld w1 23 9),
    b := BitVec.ofNat 9 (fld w1 14 9), c := BitVec.ofNat 9 (fld w1 5 9), rnd := BitVec.ofNat 2 (fld w1 3 2),
    sat := bit w1 2, width := BitVec.ofNat 2 (fld w1 0 2), imm := BitVec.ofNat 32 w2 }

/-- A lane triple (R279 to R285), the checks that depend on its place in a run left to its issue. -/
def decodeLaneNat (w0 w1 w2 : Nat) : Except Reject Instr :=
  let f := laneFieldsOf w0 w1 w2
  match laneCtor (fld w0 22 10) f with
  | none => .error .laneOpcode
  | some i =>
    match laneSpecOf i f with
    | none => .error .laneOpcode
    | some s => if laneOk i s f then .ok i else .error .laneFields

/-- A scalar word. -/
def decodeScalar (w : W32) : Except Reject Instr := decodeScalarNat w.toNat

/-- A lane triple. -/
def decodeLane (w0 w1 w2 : W32) : Except Reject Instr := decodeLaneNat w0.toNat w1.toNat w2.toNat

/-- The 32-bit little-endian words of a byte string, lowest address first (R4). -/
def wordAt (bs : List Byte) (k : Nat) : Nat :=
  let b := fun n => ((bs.drop (4 * k + n)).headD 0).toNat
  b 0 + 256 * b 1 + 65536 * b 2 + 16777216 * b 3

/-- Decode bytes as the hardware stores them: 4 of scalar code or 12 of lane code. -/
def decodeBytes (lane : Bool) (bs : List Byte) : Except Reject Instr :=
  if lane then decodeLaneNat (wordAt bs 0) (wordAt bs 1) (wordAt bs 2) else decodeScalarNat (wordAt bs 0)

/-- The little-endian bytes of a number. -/
def leBytes : Nat → Nat → List Byte
  | 0, _ => []
  | n + 1, w => BitVec.ofNat 8 w :: leBytes n (w / 256)

/-- What the decoder reads from the bits `w` of a table row: up to 32 bits are a scalar word, more are a lane triple. -/
def decodeTableWord (nbits w : Nat) : Option Instr :=
  let r := if nbits ≤ 32 then decodeBytes false (leBytes 4 w) else decodeBytes true (leBytes 12 w)
  match r with
  | .ok i => some i
  | .error _ => none

/-- An S-R word (R275). -/
def srWord (major sd sa sb func : Nat) : Nat := major * 2 ^ 26 + sd * 2 ^ 20 + sa * 2 ^ 14 + sb * 2 ^ 8 + func

/-- An S-I word (R275). -/
def siWord (major sd sa imm : Nat) : Nat := major * 2 ^ 26 + sd * 2 ^ 20 + sa * 2 ^ 14 + imm

/-- The scalar word of an instruction of the scalar stream; `none` for every other row. -/
def encodeScalar (i : Instr) : Option Nat :=
  match i with
  | .nop => some (srWord 0 0 0 0 0)
  | .exit => some (srWord 0 0 0 0 1)
  | .trap x6 => some (srWord 0 0 0 x6.toNat 2)
  | .reth x6 => some (srWord 0 0 0 x6.toNat 3)
  | .bkpt => some (srWord 0 0 0 0 4)
  | .setfmt sa => some (srWord 0 0 sa.toNat 0 5)
  | .getfmt sd => some (srWord 0 sd.toNat 0 0 6)
  | .rdtime sd => some (srWord 0 sd.toNat 0 0 7)
  | .yield => some (srWord 0 0 0 0 8)
  | .sadd sd sa sb => some (srWord 1 sd.toNat sa.toNat sb.toNat 0)
  | .ssub sd sa sb => some (srWord 1 sd.toNat sa.toNat sb.toNat 1)
  | .smul sd sa sb => some (srWord 1 sd.toNat sa.toNat sb.toNat 2)
  | .smulh sd sa sb => some (srWord 1 sd.toNat sa.toNat sb.toNat 3)
  | .smulhn sd sa sb => some (srWord 1 sd.toNat sa.toNat sb.toNat 4)
  | .sdiv sd sa sb => some (srWord 1 sd.toNat sa.toNat sb.toNat 5)
  | .sdivn sd sa sb => some (srWord 1 sd.toNat sa.toNat sb.toNat 6)
  | .srem sd sa sb => some (srWord 1 sd.toNat sa.toNat sb.toNat 7)
  | .sremn sd sa sb => some (srWord 1 sd.toNat sa.toNat sb.toNat 8)
  | .sand sd sa sb => some (srWord 1 sd.toNat sa.toNat sb.toNat 9)
  | .sor sd sa sb => some (srWord 1 sd.toNat sa.toNat sb.toNat 10)
  | .sxor sd sa sb => some (srWord 1 sd.toNat sa.toNat sb.toNat 11)
  | .sandn sd sa sb => some (srWord 1 sd.toNat sa.toNat sb.toNat 12)
  | .sshl sd sa sb => some (srWord 1 sd.toNat sa.toNat sb.toNat 13)
  | .sshr sd sa sb => some (srWord 1 sd.toNat sa.toNat sb.toNat 14)
  | .ssra sd sa sb => some (srWord 1 sd.toNat sa.toNat sb.toNat 15)
  | .smin sd sa sb => some (srWord 1 sd.toNat sa.toNat sb.toNat 16)
  | .smax sd sa sb => some (srWord 1 sd.toNat sa.toNat sb.toNat 17)
  | .sminn sd sa sb => some (srWord 1 sd.toNat sa.toNat sb.toNat 18)
  | .smaxn sd sa sb => some (srWord 1 sd.toNat sa.toNat sb.toNat 19)
  | .sslt sd sa sb => some (srWord 1 sd.toNat sa.toNat sb.toNat 20)
  | .ssltn sd sa sb => some (srWord 1 sd.toNat sa.toNat sb.toNat 21)
  | .sseq sd sa sb => some (srWord 1 sd.toNat sa.toNat sb.toNat 22)
  | .sclz sd sa => some (srWord 1 sd.toNat sa.toNat 0 23)
  | .sctz sd sa => some (srWord 1 sd.toNat sa.toNat 0 24)
  | .spopc sd sa => some (srWord 1 sd.toNat sa.toNat 0 25)
  | .ssextw sd sa => some (srWord 1 sd.toNat sa.toNat 0 26)
  | .szextw sd sa => some (srWord 1 sd.toNat sa.toNat 0 27)
  | .dispatch sa => some (srWord 25 0 sa.toNat 0 0)
  | .vqpush sa => some (srWord 25 0 sa.toNat 0 1)
  | .vqpush2 sa sb => some (srWord 25 0 sa.toNat sb.toNat 2)
  | .rqpop sd => some (srWord 25 sd.toNat 0 0 3)
  | .qstat sd => some (srWord 25 sd.toNat 0 0 4)
  | .qdrain => some (srWord 25 0 0 0 5)
  | .bar sd => some (srWord 26 sd.toNat 0 0 1)
  | .barn sd sa x6 => some (srWord 26 sd.toNat sa.toNat x6.toNat 2)
  | .sbinit sa sb => some (srWord 26 0 sa.toNat sb.toNat 3)
  | .sbexp sa sb => some (srWord 26 0 sa.toNat sb.toNat 4)
  | .sbarr sa => some (srWord 26 0 sa.toNat 0 5)
  | .sbwait sd sa x6 => some (srWord 26 sd.toNat sa.toNat x6.toNat 6)
  | .waitc sa => some (srWord 26 0 sa.toNat 0 7)
  | .waits sd sa sb => some (srWord 26 sd.toNat sa.toNat sb.toNat 8)
  | .tcopy sd sa sb => some (srWord 27 sd.toNat sa.toNat sb.toNat 0)
  | .tcopyx sd sa sb => some (srWord 27 sd.toNat sa.toNat sb.toNat 1)
  | .tmma sa => some (srWord 27 0 sa.toNat 0 6)
  | .tmmaq sa sb => some (srWord 27 0 sa.toNat sb.toNat 7)
  | .trec sa => some (srWord 27 0 sa.toNat 0 8)
  | .trecb sa => some (srWord 27 0 sa.toNat 0 9)
  | .tlda sa sb => some (srWord 27 0 sa.toNat sb.toNat 11)
  | .tst sa sb => some (srWord 27 0 sa.toNat sb.toNat 12)
  | .tstq sa sb => some (srWord 27 0 sa.toNat sb.toNat 13)
  | .tedge sa sb => some (srWord 27 0 sa.toNat sb.toNat 14)
  | .tfence sd => some (srWord 27 sd.toNat 0 0 15)
  | .twait sa => some (srWord 27 0 sa.toNat 0 16)
  | .tstat sd => some (srWord 27 sd.toNat 0 0 17)
  | .fork sd sa => some (srWord 28 sd.toNat sa.toNat 0 0)
  | .join sd sa => some (srWord 28 sd.toNat sa.toNat 0 1)
  | .jointry sd sa => some (srWord 28 sd.toNat sa.toNat 0 2)
  | .rvdecl sd sa => some (srWord 28 sd.toNat sa.toNat 0 3)
  | .rvdrop sd sa => some (srWord 28 sd.toNat sa.toNat 0 4)
  | .rvid sd sa => some (srWord 28 sd.toNat sa.toNat 0 5)
  | .rvstat sd sa => some (srWord 28 sd.toNat sa.toNat 0 6)
  | .watch sd sa => some (srWord 29 sd.toNat sa.toNat 0 0)
  | .unwatch sa => some (srWord 29 0 sa.toNat 0 1)
  | .warm sa => some (srWord 29 0 sa.toNat 0 2)
  | .trigrec sd x6 => some (srWord 29 sd.toNat 0 x6.toNat 3)
  | .trigack => some (srWord 29 0 0 0 4)
  | .wstat sd sa => some (srWord 29 sd.toNat sa.toNat 0 5)
  | .mark sa => some (srWord 30 0 sa.toNat 0 0)
  | .ttstat sd => some (srWord 30 sd.toNat 0 0 2)
  | .ttresume => some (srWord 30 0 0 0 3)
  | .giveback sa => some (srWord 31 0 sa.toNat 0 0)
  | .claim sa => some (srWord 31 0 sa.toNat 0 1)
  | .claimtry sd sa => some (srWord 31 sd.toNat sa.toNat 0 2)
  | .setbnd sa => some (srWord 31 0 sa.toNat 0 3)
  | .getallot sd => some (srWord 31 sd.toNat 0 0 4)
  | .fence ord scope => some (srWord 26 0 0 (ord.toNat * 16 + scope.toNat) 0)
  | .tpref sa k => some (srWord 27 0 sa.toNat k.toNat 2)
  | .oclaim k => some (srWord 27 0 0 k.toNat 3)
  | .orelease k => some (srWord 27 0 0 k.toNat 4)
  | .rload sa k => some (srWord 27 0 sa.toNat k.toNat 5)
  | .tzero k => some (srWord 27 0 0 k.toNat 10)
  | .ttbind sa k => some (srWord 30 0 sa.toNat k.toNat 1)
  | .saddi sd sa imm => some (siWord 2 sd.toNat sa.toNat imm.toNat)
  | .sandi sd sa imm => some (siWord 3 sd.toNat sa.toNat imm.toNat)
  | .sori sd sa imm => some (siWord 4 sd.toNat sa.toNat imm.toNat)
  | .sxori sd sa imm => some (siWord 5 sd.toNat sa.toNat imm.toNat)
  | .sslti sd sa imm => some (siWord 6 sd.toNat sa.toNat imm.toNat)
  | .sshi sd sa imm => some (siWord 7 sd.toNat sa.toNat imm.toNat)
  | .sjalr sd sa imm => some (siWord 12 sd.toNat sa.toNat imm.toNat)
  | .ssrr sd idx => some (siWord 13 sd.toNat 0 idx.toNat)
  | .ssrw sa idx => some (siWord 14 0 sa.toNat idx.toNat)
  | .slui sd imm => some (8 * 2 ^ 26 + sd.toNat * 2 ^ 20 + imm.toNat)
  | .spcadd sd imm => some (9 * 2 ^ 26 + sd.toNat * 2 ^ 20 + imm.toNat)
  | .sjal sd imm => some (11 * 2 ^ 26 + sd.toNat * 2 ^ 20 + imm.toNat)
  | .sbr cond sa off => some (10 * 2 ^ 26 + cond.toNat * 2 ^ 23 + sa.toNat * 2 ^ 17 + off.toNat)
  | .sld sd sa f => some (15 * 2 ^ 26 + sd.toNat * 2 ^ 20 + sa.toNat * 2 ^ 14 + f.ord.toNat * 2 ^ 12 + f.scope.toNat * 2 ^ 9 + f.evict.toNat * 2 ^ 6 + f.size.toNat * 2 ^ 4)
  | .sst sd sa f => some (16 * 2 ^ 26 + sd.toNat * 2 ^ 20 + sa.toNat * 2 ^ 14 + f.ord.toNat * 2 ^ 12 + f.scope.toNat * 2 ^ 9 + f.evict.toNat * 2 ^ 6 + f.size.toNat * 2 ^ 4)
  | .saadd sd sa sb f => some (17 * 2 ^ 26 + sd.toNat * 2 ^ 20 + sa.toNat * 2 ^ 14 + sb.toNat * 2 ^ 8 + f.ord.toNat * 2 ^ 6 + f.scope.toNat * 2 ^ 3 + f.evict.toNat)
  | .samin sd sa sb f => some (18 * 2 ^ 26 + sd.toNat * 2 ^ 20 + sa.toNat * 2 ^ 14 + sb.toNat * 2 ^ 8 + f.ord.toNat * 2 ^ 6 + f.scope.toNat * 2 ^ 3 + f.evict.toNat)
  | .samax sd sa sb f => some (19 * 2 ^ 26 + sd.toNat * 2 ^ 20 + sa.toNat * 2 ^ 14 + sb.toNat * 2 ^ 8 + f.ord.toNat * 2 ^ 6 + f.scope.toNat * 2 ^ 3 + f.evict.toNat)
  | .saand sd sa sb f => some (20 * 2 ^ 26 + sd.toNat * 2 ^ 20 + sa.toNat * 2 ^ 14 + sb.toNat * 2 ^ 8 + f.ord.toNat * 2 ^ 6 + f.scope.toNat * 2 ^ 3 + f.evict.toNat)
  | .saor sd sa sb f => some (21 * 2 ^ 26 + sd.toNat * 2 ^ 20 + sa.toNat * 2 ^ 14 + sb.toNat * 2 ^ 8 + f.ord.toNat * 2 ^ 6 + f.scope.toNat * 2 ^ 3 + f.evict.toNat)
  | .saxor sd sa sb f => some (22 * 2 ^ 26 + sd.toNat * 2 ^ 20 + sa.toNat * 2 ^ 14 + sb.toNat * 2 ^ 8 + f.ord.toNat * 2 ^ 6 + f.scope.toNat * 2 ^ 3 + f.evict.toNat)
  | .saswp sd sa sb f => some (23 * 2 ^ 26 + sd.toNat * 2 ^ 20 + sa.toNat * 2 ^ 14 + sb.toNat * 2 ^ 8 + f.ord.toNat * 2 ^ 6 + f.scope.toNat * 2 ^ 3 + f.evict.toNat)
  | .sacas sd sa sb f => some (24 * 2 ^ 26 + sd.toNat * 2 ^ 20 + sa.toNat * 2 ^ 14 + sb.toNat * 2 ^ 8 + f.ord.toNat * 2 ^ 6 + f.scope.toNat * 2 ^ 3 + f.evict.toNat)
  | _ => none

/-- Word 0 of a lane triple (R279). -/
def laneWord0 (op : Nat) (f : LaneFields) : Nat :=
  op * 2 ^ 22 + b2n f.u * 2 ^ 21 + b2n f.e * 2 ^ 20 + b2n f.j * 2 ^ 19 + f.guard.toNat * 2 ^ 16 + b2n f.neg * 2 ^ 15
    + f.d.toNat * 2 ^ 6 + f.sub.toNat

/-- Word 1 of a lane triple (R279). -/
def laneWord1 (f : LaneFields) : Nat :=
  f.a.toNat * 2 ^ 23 + f.b.toNat * 2 ^ 14 + f.c.toNat * 2 ^ 5 + f.rnd.toNat * 2 ^ 3 + b2n f.sat * 2 ^ 2 + f.width.toNat

/-- The words of an instruction, first word first: one scalar word, three lane words, none for a step of another agent. -/
def encode (i : Instr) : List W32 :=
  match laneFields i with
  | some f =>
    match laneSpecOf i f with
    | some s => [BitVec.ofNat 32 (laneWord0 s.opcode f), BitVec.ofNat 32 (laneWord1 f), f.imm]
    | none => []
  | none =>
    match encodeScalar i with
    | some w => [BitVec.ofNat 32 w]
    | none => []

/-- Decode the words of one instruction. -/
def decodeWords (ws : List W32) : Except Reject Instr :=
  match ws with
  | [w] => decodeScalar w
  | [w0, w1, w2] => decodeLane w0 w1 w2
  | _ => .error .major

end Sys2Proof
end

