-- ==== Sys2Proof/Config.lean ====
section
/-! DEFINITION. What the implementation fixes and the free values. An `opaque` constant has no body:
nothing can be proved about its value (log 6, 9, 10, 11). -/
namespace Sys2Proof.Config

/-- Nanoseconds of GTC that pass in step `n` (R434 fixes no duration an order may rest on; log 6). -/
opaque elapsedNs : Nat → Nat

/-- Free 64-bit value number `n`, for a value the spec leaves open (log 10). -/
opaque freeValue : Nat → BitVec 64

/-- The home slice of a physical line: the fixed hash of R110, whose function is not given (log 9). -/
opaque homeSlice : Nat → Nat

/-- The L2 set of a physical line inside its slice (R110, log 9). -/
opaque l2Set : Nat → Nat

/-- The 512-bit data key generated by CREATE number `n` (R42, log 11). -/
opaque dataKey : Nat → BitVec 512

/-- The 256-bit integrity-tag key generated by CREATE number `n` (R42, log 11). -/
opaque tagKey : Nat → BitVec 256

/-- The SHAKE256 measurement of the firmware image (R44, log 11). -/
opaque firmwareMeasurement : BitVec 256

/-- The SHAKE256 hash of the identity public key (R44, log 11). -/
opaque identityHash : BitVec 256

/-- SHAKE256 over a byte string (R44, log 11). -/
opaque shake256 : List (BitVec 8) → BitVec 256

/-- The 8392-byte XMSSMT signature made with an index over a message, as a number (R44, log 11). -/
opaque sign : Nat → List (BitVec 8) → Nat

/-- The 32-bit firmware security version (R29, R43; log 11). -/
opaque securityVersion : BitVec 32

/-- The package's 10-bit fabric node ID (R16; log 11). -/
opaque nodeId : BitVec 10

/-- The fabric grant table of node `n` admits partition `p` of this package (R118; the node's own setting, log 13). -/
opaque fabricGrants : Nat → Nat → Bool

/-- Which fabric port leads to which node, as the system's builder wired them (R16; log 11). -/
opaque wires : List (Nat × Nat)

/-- How the ports of a bundle share the 128-byte lines (R16: spread by line address; the function is not given, log 9). -/
opaque spread : Nat → Nat

/-- At step `n` a walk still finds its cached copy of the table entry at a key (R118 gives the walk cache no size, log 51). -/
opaque walkKeeps : Nat → Nat → Bool

/-- The entry that leaves a full TLB or L1 at step `n`, among `k` (R108, R118 give no replacement; log 51, log 106). -/
opaque leaves : Nat → Nat → Nat

/-- At step `n` the L1 of core `c` still holds its copy of a sector: the spec gives the L1 no replacement (log 106). -/
opaque l1Keeps : Nat → Nat → Nat → Bool

/-- Free space of a tier for a partition at step `n`, in granules, of which no tier has 2^43: the spec does not say how it is counted (R122,
log 12). -/
opaque tierFree : Nat → Nat → Nat → BitVec 43

/-- HBM capacity in bytes: eight stacks of 48 GiB (R10). -/
def hbmBytes : Nat := 384 * 2 ^ 30

/-- Second-tier capacity of AKS-2160-M: one controller of 1024 GiB behind each of the four CXL ports (R1, R12). -/
def moduleT2Ports : List Nat := List.replicate 4 (1024 * 2 ^ 30)

/-- Capacity that a CXL port decodes at most (R12). -/
def portT2Bytes : Nat := 4096 * 2 ^ 30

end Sys2Proof.Config
end

