-- ==== Sys2Proof/Machine/State.lean ====
section
/-! DEFINITION. The state of the device as plain data: the partition's groups, teams, tasks and revisions, the cores'
engines, the device-wide units, the physical bytes, and the agenda that says which agent moves next (log 1). -/
namespace Sys2Proof.Machine

open Sys2Proof

/-- A sparse table in one canonical form: keys strictly rising, no entry equal to the default (log 3). -/
abbrev Sparse (α : Type) := List (Nat × α)

/-- Bytes by address, an unlisted address reading zero (log 3). -/
abbrev Memory := List Host.Cell

/-- The two instruction streams of a group (R69). -/
inductive Stream where
  | scalar | lane
deriving DecidableEq, Repr

/-- A role entry of a kernel descriptor (R300). -/
structure RoleEntry where
  count : Nat
  tickets : Nat
  allot : Nat
  bnd : Nat
deriving DecidableEq, Repr

/-- A kernel descriptor as the part copied it (R299, R302). -/
structure Kernel where
  legacy : Bool
  ovtrap : Bool
  width : Nat
  groups : Nat
  slotq : Nat
  tbase : Option Nat
  share : Nat
  fptrap : BitVec 8
  spbytes : Nat
  sentry : Nat
  lbase : Nat
  lcount : Nat
  spill : Nat
  cbase : Nat
  csize : Nat
  teamtime : Nat
  roles : List RoleEntry
deriving DecidableEq, Repr

/-- A reconvergence stack entry (R91). -/
structure StackEntry where
  mask : BitVec 64
  phase : Bool
  fmt : BitVec 24
  target : BitVec 16
  reconv : BitVec 16
deriving DecidableEq, Repr

/-- A trap: its number, address and detail (R257, R433), the lanes that took it, the stream it was taken on, and whether
the resume point is the instruction after. -/
structure TrapInfo where
  num : Nat
  addr : Nat
  detail : BitVec 192
  lanes : BitVec 64
  stream : Stream
  next : Bool
deriving DecidableEq, Repr

/-- A resolved location: a physical byte address with the page bits an access needs, or a scratchpad offset (R103, R112,
R116). Where a constant read goes on in another page (R107), `hi` is the physical byte there, with its class and T0. -/
structure Loc where
  scratch : Bool
  partner : Bool
  addr : Nat
  va : Nat
  watched : Bool
  revcap : Bool
  cls : Nat
  t0 : Bool
  hi : Option (Nat × Nat × Bool) := none
deriving DecidableEq, Repr

/-- What an access does once it is performed (R333, R334, R424, R427). -/
inductive AccKind where
  | load (size : Nat) (sext : Bool) (dst : Nat)
  | store (size : Nat)
  | atomic (size : Nat) (op : Nat) (result : Bool) (dst : Nat)
deriving DecidableEq, Repr

/-- One lane's part of an access (the scalar stream uses lane 0). -/
structure LaneAcc where
  lane : Nat
  loc : Loc
  y : Nat
  c : Nat
deriving DecidableEq, Repr

/-- What the instructions that issued behind an access have changed (R331, R420): their number, the old values of the scalar registers,
vector registers and predicates that they wrote, the flags that they raised, and the DQ entries that left since. -/
structure Undo where
  count : Nat
  regs : List (Nat × Word)
  v : List (Nat × W32)
  preds : List (Nat × BitVec 64)
  flags : BitVec 6
  dq : List (BitVec 16 × Option W32)
deriving DecidableEq, Repr

/-- Nothing has issued behind an access. -/
def noUndo : Undo := { count := 0, regs := [], v := [], preds := [], flags := 0, dq := [] }

/-- Where the lane stream stood when an access issued, beside its index (R420): its mask, stack, FMT and generator, and the VQ entries that
the access popped. -/
structure LaneBack where
  mask : BitVec 64
  stack : List StackEntry
  fmt : W32
  rng : Word
  vq : List Word
deriving DecidableEq, Repr

/-- An access that has issued and not performed (R197, R331, R420). A lane load or atomic keeps its instruction's fields; `lanes` holds
the lanes still to perform, `read` what the others read and `fails` the traps that they met; `pc` and `runPos` are the SPC, or the LPC and
run position, of its instruction, `back` is the rest of where the lane stream stood, and `undo` is what has issued behind it. -/
structure Access where
  stream : Stream
  kind : AccKind
  ord : BitVec 2
  scope : BitVec 3
  lanes : List LaneAcc
  read : List (Nat × Nat)
  fails : List (Nat × TrapInfo)
  evict : Nat
  pc : Nat
  runPos : Nat
  undo : Undo
  fields : Option LaneFields
  back : LaneBack
deriving DecidableEq, Repr

/-- A dimension entry of a tensor record (R201). -/
structure Dim where
  size : Nat
  box : Nat
  stride : Int
  wrap : Nat
  start : Int
deriving DecidableEq, Repr

/-- A tensor record (R201). -/
structure TensorRec where
  base : Nat
  fmt : Nat
  rank : Nat
  pad : Nat
  bnd : Nat
  kind : Nat
  swz : Nat
  trans : Bool
  dest : Nat
  pitch : Nat
  dims : List Dim
deriving DecidableEq, Repr

/-- The bound register and policy fields that a command latched (R252). -/
structure BoundLatch where
  lo : BitVec 32
  hi : BitVec 32
  act : Nat
  nan : Nat
deriving DecidableEq, Repr

/-- The tile commands (R346). -/
inductive TileOp where
  | tmma | tmmaq | trec | trecb | tzero | tlda | tst | tstq | tedge
deriving DecidableEq, Repr

/-- A tile command with everything it latched at issue (R346), the slots it reads or writes, its number among the commands of the engines
(R157), and whether a value failed its bound check or its trap action fired (R227). -/
structure TileCmd where
  op : TileOp
  word : Word
  arg : Word
  rule : BitVec 128
  bound : Option BoundLatch
  fmt : W32
  sup : Bool
  group : GroupId
  batch : Nat
  slots : List Nat
  seq : Nat
  boundFail : Bool
  boundTrap : Bool
deriving DecidableEq, Repr

/-- One lane's copy of an LCOPY or LCOPYO (R200, R429). -/
structure LaneCopy where
  lane : Nat
  src : Nat
  srcSpace : Nat
  dst : Nat
deriving DecidableEq, Repr

/-- What a copy moves (R201, R429). -/
inductive CopyKind where
  | tensor (r : TensorRec)
  | lanes (size dstSpace : Nat) (ls : List LaneCopy)
  | slot (size k : Nat) (ls : List LaneCopy)
deriving DecidableEq, Repr

/-- A Copy Engine command of a group (R196 to R200): `id` numbers the copies of the device; `begun` counts the transfers of a lane
copy that have started; `visited` counts the box elements read so far and `got` holds the 16-byte source beats that they needed
(R203, R206); `landed` lists the beats and `lanesDone` the lanes that have landed; `shadow` holds the bytes of a shadow revision at
their locations, each with its element's number in box order (R157, R203); `fault` is the first failing address (R260). -/
structure Copy where
  id : Nat
  kind : CopyKind
  dst : Nat
  evict : Nat
  sup : Bool
  barrier : Option Nat
  follow : Option TileCmd
  bound : Option BoundLatch
  started : Bool
  begun : Nat
  visited : Nat
  got : List (Nat × Nat)
  landed : List Nat
  lanesDone : List Nat
  shadow : List (Nat × Loc × Byte)
  excess : Bool
  code : Nat
  fault : Nat
  bytes : Nat
deriving DecidableEq, Repr

/-- A batch of tile commands (R231): its number counted from the group's start, `live` commands unretired, `slots` the operand
slots they hold (R230). -/
structure Batch where
  num : Nat
  live : Nat
  slots : List Nat
  closed : Bool
  retired : Bool
  boundTrap : Bool
  engine : Bool
deriving DecidableEq, Repr

/-- Where the lane stream stands (R69, R77, R79, R80). -/
inductive LanePos where
  | pop     -- at a run end, its next index comes from DQ
  | start   -- at the start of the run at LPC, without the lane slot
  | inRun   -- holds the lane slot, LPC is the next instruction
  | drained -- every lane retired (R71)
deriving DecidableEq, Repr

/-- The scalar stream of a group. `barWait` is the barrier it waits at and the phase it arrived in (R338, R339), `sbWait` the
stage barrier an SBWAIT waits on, by scratchpad side and address, with the parity of the phase it waits for (R340, R341), `recBeats` the 16-byte beats that a TCOPY, TCOPYX or TPREF has
read of the record at an address and not used yet (R205). -/
structure ScalarCtx where
  spc : Word
  exited : Bool
  regs : Sparse Word
  fmtSet : W32
  fmtPend : Option W32
  barWait : Option (Option Nat × Nat)
  sbWait : Option ((Bool × Nat) × Nat)
  recBeats : Option (Nat × List (Nat × List Byte))
deriving DecidableEq, Repr

/-- The lane stream of a group. Vector register r of lane t is entry 64 r + t of `v`; predicate k is the lane mask k of
`preds`; `runAllot` and `runBnd` are ALLOT and BND as its run began (R384, R414). -/
structure LaneCtx where
  lpc : Nat
  pos : LanePos
  runPos : Nat
  mask : BitVec 64
  retired : BitVec 64
  stack : List StackEntry
  fmt : W32
  preds : Sparse (BitVec 64)
  v : Sparse W32
  rng : Word
  legBound : List Nat
  legSpilled : List Nat
  runAllot : Nat
  runBnd : Nat
deriving DecidableEq, Repr

/-- The queues between the two streams, oldest entry first (R72). -/
structure Queues where
  dq : List (BitVec 16 × Option W32)
  vq : List Word
  rq : List Word
deriving DecidableEq, Repr

/-- The counters and engine work of a group (R196, R197, R212, R231). `openB` counts the batches closed since the group's
start; the open number is its value modulo 2^16. -/
structure EngineCtx where
  ld : Nat
  st : Nat
  cp : Nat
  tl : Nat
  openB : Nat
  lastRet : BitVec 16
  batches : List Batch
  copies : List Copy
  acc : List Access
  rules : Sparse (BitVec 128)
deriving DecidableEq, Repr

/-- What handler entry hides and RETH brings back, apart from the frame in memory (R255, R258, R329): `skipS`, `skipL` are a SKIP that
the stream without the trap has not spent, `late` the results that came for registers which RETH restores, `exited` that the scalar stream
had ended (R338), `page` the address of a first-touch page whose HOST_PAGE record is not posted (R124), `run` ALLOT and BND of the run. -/
structure Hidden where
  trap : Nat
  stack : List StackEntry
  retired : BitVec 64
  fmtPend : Option W32
  fmtSet : W32
  dqFmt : List (Option W32)
  barWait : Option (Option Nat × Nat)
  pos : LanePos
  skipS : Bool
  skipL : Option Bool
  late : List (Nat × Word)
  exited : Bool
  page : Option Nat
  run : Nat × Nat
deriving DecidableEq, Repr

/-- What the watchdogs and detectors time (R75, R89, R135, R209, R271): a stream that stands at a queue operation or at its own access,
the scalar stream at a barrier or claim, at an SBWAIT that lacks bytes, or at a MARK under STALL, and a group that has ended. -/
inductive Wait where
  | queueS | queueL | accessS | accessL | barrier | starved | mark | ended
deriving DecidableEq, Repr

/-- A group (R66 to R102). `skipS`: SKIP passes over the next scalar instruction; `skipL`: over the next lane instruction, and whether
its queue operations are left out as well (R258). `markStalled`: its MARK stands evaluated under STALL (R135). `joinWait`: the partition
time at which its waiting JOIN was issued, and the handle (R156). `drainAt`: the device time at which its drain began (R61); `waits`:
what its streams wait for, and the device time at which each wait was first found (R75, R89, R209, R271). `timeUp`: WATCHDOG code 4 is due
behind a trap that it holds (R271). `frame`, `image`: its handler frame and its halt image while it is saved (R273, R274). -/
structure Group where
  live : Bool
  id : GroupId
  role : Nat
  width : Nat
  core : Nat
  quad : Nat
  qslot : Nat
  allot : Nat
  bnd : Nat
  tickets : BitVec 8
  age : Nat
  yielded : Bool
  fpstat : BitVec 6
  srFault : Word
  sup : Bool
  hidden : Option Hidden
  trapPend : Option TrapInfo
  skipS : Bool
  skipL : Option Bool
  killed : Bool
  ended : Bool
  halted : Bool
  markStalled : Bool
  joinWait : Option (Word × Nat)
  stepping : Bool
  saved : Bool
  draining : Bool
  drainAt : Word
  waits : List (Wait × Word)
  timeUp : Bool
  frame : Option (List Byte)
  image : Option (List Byte)
  sc : ScalarCtx
  ln : LaneCtx
  q : Queues
  en : EngineCtx
deriving DecidableEq, Repr

/-- A team barrier or a named barrier (R338, R339). -/
structure BarState where
  gen : BitVec 32
  n : Nat
  arrived : List Nat
deriving DecidableEq, Repr

/-- The states of an operand slot (R230). -/
inductive SlotState where
  | free | claimed | filling | ready | inUse
deriving DecidableEq, Repr

/-- An operand slot of 16 KiB (R230, R347). -/
structure Slot where
  st : SlotState
  data : Memory
deriving DecidableEq, Repr

/-- A waiting CLAIM (R88). -/
structure Claim where
  quad : Nat
  group : Nat
  n : Nat
deriving DecidableEq, Repr

/-- A team (R54, R63, R67). `seq` orders the teams by their start or resume on the quads (R81), `excess` lists the
stage barriers whose current phase has excess bytes (R208), `again`: a pre-emption reached it during its save (R65). -/
structure Team where
  live : Bool
  part : Nat
  task : Nat
  index : Nat
  kernel : Kernel
  twin : Bool
  core : Nat
  marker : BitVec 32
  bar : BarState
  named : Sparse BarState
  slots : Sparse Slot
  sp0 : Memory
  sp1 : Memory
  excess : List (Bool × Nat)
  freeBlocks : Sparse Nat
  claims : List Claim
  bounds : Sparse Word
  policy : Word
  miss : Nat
  short : Nat
  skips : Nat
  killed : Nat
  saved : Bool
  saving : Bool
  again : Bool
  startGtc : Word
  seq : Nat
  slotWords : Sparse (Option Nat)
deriving DecidableEq, Repr

/-- A timetable entry (R128). -/
structure TTEntry where
  marker : Nat
  period : Nat
  kind : Nat
  tier : Nat
  scope : Nat
  lead : Nat
  slot : Nat
  offset : Nat
  length : Nat
  tstride : Int
  pstride : Int
deriving DecidableEq, Repr

/-- A bound timetable with the launch-scope slot words (R129, R131). -/
structure BoundTT where
  va : Nat
  policy : Nat
  entries : List TTEntry
  slotWords : Sparse (Option Nat)
deriving DecidableEq, Repr

/-- A trigger record (R167 to R170). `since` counts the events absorbed after the first team started and the latest
TRIGREC; `sinceAddr`, `sinceFirst` and `sinceStamp` are the first of them. -/
structure TrigRec where
  entry : Nat
  key : Nat
  isOpen : Bool
  count : Nat
  merged : Bool
  rearm : Bool
  depth : Nat
  addr : Nat
  first : Word
  latest : Word
  stamp1 : Word
  stamp2 : Word
  since : Nat
  sinceAddr : Nat
  sinceFirst : Word
  sinceStamp : Word
deriving DecidableEq, Repr

/-- A range task (R47); `record` is the count of its launch record in its queue (R31). -/
structure Task where
  live : Bool
  part : Nat
  num : Nat
  ctx : Nat
  source : Nat
  queue : Nat
  kernel : Kernel
  arg : Nat
  lo : Nat
  hi : Nat
  tickets : Nat
  chain : Nat
  rev : Nat
  revDepth : Nat
  parent : Nat
  tt : Option BoundTT
  trig : Option TrigRec
  record : BitVec 32
  complVA : Nat
  msix : Bool
  vector : Nat
  reserve : List Nat
  left : Nat
  killedAny : Bool
  ctxKilled : Bool
  started : Bool
  ended : Bool
deriving DecidableEq, Repr

/-- A region of a revision (R143). -/
structure Region where
  va : Nat
  granules : Nat
  merge : Nat
  elem : Nat
deriving DecidableEq, Repr

/-- A granule of an open revision: frames of its ancestor and child copies, dirty lines of each side, merge frame and the
translation that a join holds (R151, R153). -/
structure Gran where
  va : Nat
  anc : Option Nat
  child : Option Nat
  dirtyC : BitVec 32
  dirtyP : BitVec 32
  merge : Option Nat
  home : Option Loc
deriving DecidableEq, Repr

/-- A revision (R142 to R156): its child and parent tasks, and the parent's own revision or 0. `state`: 1 running, 2 ended, 3 merging, 4 merged, 5 discarded (R376).
`waiting`: an implicit join waits for frames and has posted its record (R156). -/
structure Revision where
  num : Nat
  ctx : Nat
  child : Nat
  parent : Nat
  parentRev : Nat
  regions : List Region
  grans : List Gran
  state : Nat
  discard : Bool
  killed : Bool
  word : Word
  joiner : Option GroupId
  waiting : Bool
deriving DecidableEq, Repr

/-- A watch entry (R160, R161, R172). `state`: 0 FREE, 1 ARMED, 2 DISARMED. -/
structure WatchEntry where
  idx : Nat
  state : Nat
  reason : Nat
  ctx : Nat
  va : Nat
  log2 : Nat
  mode : Nat
  elem : Nat
  coalesce : Nat
  chain : Nat
  rateExp : Nat
  rateCount : Nat
  value : Word
  mask : Word
  kernel : Kernel
  arg : Nat
  teams : Nat
  tickets : Nat
  created : Nat
  winStart : Nat
  winCount : Nat
  held : List TrigRec
deriving DecidableEq, Repr

/-- A launch queue (R32) with the tail value last seen by the reserved watch (R31). -/
structure Queue where
  base : Word
  log2n : BitVec 5
  tickets : BitVec 8
  preempt : Bool
  enable : Bool
  vec : BitVec 6
  head : BitVec 32
  tailva : Word
  qstat : BitVec 3
  ctx : BitVec 8
  tail : BitVec 32
deriving DecidableEq, Repr

/-- A released timetable instance that is not begun, or a move it has begun (R133): `die` is that of the Tier Engine that takes it,
`done` the pages of its range begun so far, `woke` the tier whose demotion engine it woke and waits for (R134). -/
structure Instance where
  die : Nat
  done : Nat
  task : Nat
  team : Option Nat
  entry : Nat
  k : Nat
  trigger : Nat
  start : Nat
  woke : Option Nat
deriving DecidableEq, Repr

/-- A granule of a released DROP that does not read zero yet (R137): its context, the team whose accesses wait for it, and whether its
instance has begun. -/
structure Drop where
  inst : Instance
  ctx : Nat
  va : Nat
  team : Option Nat
  begun : Bool
deriving DecidableEq, Repr

/-- A page in transit to another tier (R123); `inst` is the timetable instance whose move it is, if any, `unit` the
engine that carries it out: 0 a Tier Engine, 4 to 7 a demotion engine (R24). -/
structure Move where
  ctx : Nat
  va : Nat
  size : Nat
  pteAddr : Nat
  tier : Nat
  inst : Option Instance
  unit : Nat
deriving DecidableEq, Repr

/-- A page held by a FETCH or PIN instance (R130, R133). -/
structure Hold where
  va : Nat
  ctx : Nat
  pin : Bool
  inst : Instance
deriving DecidableEq, Repr

/-- A TLB entry: the TLB that holds it (R118; `quadUnit` and its neighbours number them), context, page, size in bytes, the leaf as
read, and its level (R117, R118). -/
structure TlbEntry where
  unit : Nat
  ctx : Nat
  va : Nat
  size : Nat
  pte : Word
  level : Nat
deriving DecidableEq, Repr

/-- An upper-level table entry that a walk cached (R118): its context, its physical key, the first address and size of the
range it covers, and its value. -/
structure WalkEntry where
  ctx : Nat
  key : Nat
  va : Nat
  size : Nat
  pte : Nat
deriving DecidableEq, Repr

/-- A shootdown that has invalidated its range and awaits completion (R120): `ranges` are the record's own and those of the pages
whose entries it dropped. -/
structure Shoot where
  ctx : Nat
  va : Nat
  log2 : Nat
  compl : Nat
  fromRing : Bool
  ranges : List (Nat × Nat)
deriving DecidableEq, Repr

/-- An entry of the resume list (R61, R62, R64). -/
inductive Resume where
  | team (task idx : Nat)
  | range (task lo hi : Nat)
deriving DecidableEq, Repr

/-- An event record (R38). -/
structure EventRec where
  gtc : Word
  source : Nat
  type : Nat
  action : Nat
  trap : Nat
  ctx : Nat
  team : Nat
  group : Nat
  role : Nat
  queue : Nat
  addr : Word
  detail : BitVec 192
deriving DecidableEq, Repr

/-- A debug halt in force: task number and role mask (R273). -/
structure Halt where
  task : Nat
  roles : BitVec 4
deriving DecidableEq, Repr

/-- A partition (R27 to R46). `create` keeps the arguments of its creation (R44); `hotSince` is the device time since when it has had
no idle cool core (R58). `state` is the STATE field of R30, 0 for absent; `frames` lists the physical ranges of its
capacity, key and length (log 40); `keptCtl` is PC_CTL as FREEZE found it, `imported` the source time and largest stamp that an import brought (R45, R46,
R194), `posted` the BAR2 writes that wait (R28). `demoting` lists the tiers whose demotion engines run,
`noVictim` those whose engine stopped for want of a victim, `hands` their clock hands by tier and class (R122), `shorts` the PIN
instances that SHORT has counted as diverted (R134), `owed` the releases into T1 that came due while the partition froze (R133, R140). -/
structure Partition where
  num : Nat
  create : CreateArgs
  state : Nat
  link : Nat
  vf : Nat
  twins : List Nat
  ways : List Nat
  classWays : List Nat
  hbm : Nat
  t2 : Nat
  frames : List (Nat × Nat)
  share : Nat
  quotaPend : Option (Nat × List Nat × List Nat)
  integ : Bool
  retiredF : Bool
  run : Bool
  drain : Bool
  keptCtl : Option (Bool × Bool)
  imported : Option (Word × BitVec 48)
  posted : List (Nat × List Byte)
  gtcOffset : Word
  winBase : Word
  evBase : Word
  evVec : BitVec 6
  evIe : Bool
  evLog2 : BitVec 5
  evProd : BitVec 32
  evCons : BitVec 32
  evLost : BitVec 32
  thot : BitVec 8
  thotLock : Bool
  stageWd : Word
  partWd : Word
  sev : Sparse Word
  queues : Sparse Queue
  x : BitVec 32
  ages : Sparse Nat
  qf : List Nat
  qt : List Nat
  waiters : List Nat
  pending : List Nat
  resume : List Resume
  hotMayAsk : Bool
  hotSince : Option Word
  dataKey : BitVec 512
  tagKey : BitVec 256
  grants : List (Nat × Nat)
  dirtyOn : Bool
  dirty : List Nat
  shootHead : BitVec 32
  shootTail : BitVec 32
  shoots : List Shoot
  tlb : List TlbEntry
  walks : List WalkEntry
  watches : List WatchEntry
  revs : List Revision
  nextRev : Nat
  nextTask : Nat
  stamps : Sparse Word
  insts : List Instance
  moves : List Move
  holds : List Hold
  drops : List Drop
  demoting : List Nat
  noVictim : List Nat
  hands : Sparse Nat
  shorts : List Instance
  owed : List Move
  demoteRing : List Nat
  dbgLast : Word
  dbgWait : Bool
  halts : List Halt
deriving DecidableEq, Repr

/-- The unstarted part of a range task that a core holds (R49); `hot`: a core that is not cool was let to ask for it (R58). -/
structure Share where
  part : Nat
  task : Nat
  cur : Nat
  hi : Nat
  hot : Bool
deriving DecidableEq, Repr

/-- A 32-byte sector in a core's L1 (R109): its physical number, and its bytes where another core's store has passed it by. Without
bytes of its own it agrees with the home slice. -/
structure L1Sector where
  num : Nat
  old : Option Nat
deriving DecidableEq, Repr

/-- A core: its sc clock, monitors, share, Wheel, reliability counts and L1 (R18, R26, R49, R57, R109, R184, R224, R269). `booked` is a share that it gets when its pre-empted teams are
saved (R62), `testing` the structures under a self-test (R269), `asked` the device time of its request to the Work Distributor (R49), `retiring` that its twin failed a self-test and
its teams are still being saved (R270). -/
structure Core where
  num : Nat
  clock : BitVec 48
  temp : BitVec 16
  droops : BitVec 8
  proc : BitVec 32
  hot : Bool
  droopy : Bool
  droopTimes : List Nat
  share : Option Share
  booked : Option Share
  asked : Option Word
  retiring : Bool
  spShare : Nat
  wheelQ : List TileCmd
  wheelRun : List TileCmd
  tag : BitVec 20
  tagUse : Sparse Nat
  ceTimes : List (Nat × Nat)
  testing : List Nat
  l1 : List L1Sector
deriving DecidableEq, Repr

/-- A quad: its run lottery, the group that owns the lane slot (R80, R81), and the slot of the group that issued a scalar instruction
last (R70). -/
structure Quad where
  x : BitVec 32
  last : Nat
  owner : Option GroupId
deriving DecidableEq, Repr

/-- A line held in the L2: its four sectors' valid and dirty bits (R110), retention level, page class, owning partition, pinned by
tier T0 (R111, R112). The bytes themselves stand in `mem`, which a write-back would not change. -/
structure L2Line where
  line : Nat
  valid : BitVec 4
  dirty : BitVec 4
  level : Nat
  cls : Nat
  part : Nat
  pinned : Bool
deriving DecidableEq, Repr

/-- A replay entry at the target of remote atomics (R19), with the partition it acted for (R45), the device time of its atomic, and the
age that it had already when an import brought it (R46). -/
structure Replay where
  part : Nat
  node : Nat
  core : Nat
  tag : Nat
  result : Word
  stamp : Option (BitVec 48)
  gtc : Nat
  aged : Nat
deriving DecidableEq, Repr

/-- A remote atomic that awaits its response (R18, R20): `port` is the fabric port it left by (R16), `sup` whether the handler
issued it, `ts` its sc stamp request (R184), `performed` what the target read where it has performed it and the response was lost,
`aged` how long before `issued` a migrated request was issued on its source device (R46). -/
structure RemoteReq where
  core : Nat
  tag : Nat
  group : GroupId
  stream : Stream
  lane : Nat
  dst : Nat
  size : Nat
  result : Bool
  node : Nat
  addr : Nat
  va : Nat
  op : Nat
  y : Word
  c : Word
  issued : Nat
  aged : Nat
  sent : Nat
  pc : Nat
  failed : Bool
  port : Option Nat
  sup : Bool
  ord : BitVec 2
  scope : BitVec 3
  ts : Option (BitVec 48)
  performed : Option Word
deriving DecidableEq, Repr

/-- A fabric port: up, and failed retries in a row (R16). -/
structure Port where
  up : Bool
  retries : Nat
deriving DecidableEq, Repr

/-- What an export streams of a partition (R45, R158): `final` for step 3, else a round of step 1, whose `mem` is what was
dirty. -/
structure Image where
  part : Partition
  tasks : List Task
  teams : List Team
  groups : List Group
  mem : Memory
  poison : List Nat
  replay : List Replay
  remote : List RemoteReq
  srcTime : Word
  maxStamp : BitVec 48
  pinned : List L2Line
  final : Bool
deriving DecidableEq, Repr

/-- What this package has answered to remote packages (R17 to R19, R118): an atomic's result and whether it is replayed, BUSY, a
load's bytes, a write done, PROTECTION, POISON. -/
inductive Resp where
  | atomic (node core tag : Nat) (result : Word) (replayed : Bool)
  | busy (node core tag : Nat)
  | data (node addr : Nat) (bytes : List Byte)
  | done (node addr : Nat)
  | refused (node addr : Nat)
  | poison (node addr : Nat)
deriving DecidableEq, Repr

/-- A request of another package that waits here (R17): a load, store or publish, or an atomic. -/
inductive FabricMsg where
  | access (r : FabricReq)
  | atomic (r : RemoteAtomic)
deriving DecidableEq, Repr

/-- An RDMA queue pair (R21): the partition it is assigned to, and whether its transport is a reliable connection (else an
unreliable datagram). -/
structure QueuePair where
  part : Nat
  reliable : Bool
deriving DecidableEq, Repr

/-- The device-wide units. `t2Ports` is the capacity found at reset behind each of the four CXL ports, 0 where no device was
found (R12): that of AKS-2160-M in State.reset, any other on AKS-2160-P (log 13). One counter `gtc` stands for both dies': their skew of up to 2 ns, which R22 leaves open, is taken as 0
(log 107). `minVersion` is the fused minimum of R43. `mbCmd` is the value of MB_CMD (R39). `rdmaOpen` holds, by Ethernet port, the
queue pair and next address of a write message that is being published in parts (R157). `mbWait` is the command and partition that the mailbox works on (R39). Lists named `…Out` are what the outside world has received. -/
structure Device where
  t2Ports : List Nat
  minVersion : Nat
  mbCmd : BitVec 64
  pairs : Sparse (Option QueuePair)
  copySeq : Nat
  gtc : Word
  gtcSet : Bool
  created : Bool
  retired : List Nat
  quads : Sparse Quad
  sliceM : Sparse (BitVec 48)
  l2 : List L2Line
  mbBusy : Bool
  mbResult : BitVec 8
  mbNext : BitVec 8
  mbWait : Option (Nat × Nat)
  mbArgs : Memory
  mgmtOut : List EventRec
  msixOut : List (Nat × Nat × Nat)
  readOut : List (List Byte)
  rdmaOut : List (Nat × Nat × List Byte)
  rdmaIn : List (Nat × Nat × List Byte)
  rdmaOpen : Sparse (Option (Nat × Nat))
  respOut : List (Resp × Option (BitVec 48))
  fabricOut : List RemoteReq
  quoteOut : List (List Byte × Nat)
  tripped : Bool
  throttled : Bool
  recovery : Bool
  sigNext : Nat
  sigEnd : Nat
  ports : Sparse Port
  linksDown : List Nat
  replay : List Replay
  remote : List RemoteReq
  fabricQ : List (FabricMsg × Nat)
  poison : List Nat
  streams : List Image
  keyCount : Nat
deriving DecidableEq, Repr

/-- Whose turn it is (log 1): a stream of a group issues, performing its access at once or deferring it (log 7), and the line that it
reads at `va`, for its words or its data, meets `ecc` (R265); or another agent takes a step. -/
inductive Turn where
  | issue (g : GroupId) (stream : Stream) (defer : Bool) (ecc : Ecc) (va : Nat)
  | event (i : Instr) (inp : Inputs)
deriving DecidableEq, Repr

/-- The whole machine. `g`, `tm`, `tk` and `pt` are the group whose turn it is, its team, task and partition; the lists
hold the others. -/
structure State where
  g : Group
  tm : Team
  tk : Task
  pt : Partition
  groups : List Group
  teams : List Team
  tasks : List Task
  parts : List Partition
  cores : List Core
  dev : Device
  mem : Memory
  agenda : List Turn
  tick : Nat
  free : Nat
  defer : Bool
  inp : Inputs
deriving DecidableEq, Repr

/-- Why the machine stops. -/
inductive Fault where
  /-- Raised by a memory operation whose physical frame lies beyond the installed HBM or second-tier capacity (R10, R12).
  Safe: the spec gives no behaviour for a frame that does not exist (log 14). -/
  | noSuchFrame (addr : Nat)
deriving DecidableEq, Repr

/-- Why an instruction has no meaning. -/
inductive Refusal where
  /-- Raised by an arm of `exec` whose instruction has no meaning yet. Safe: nothing is claimed of it. -/
  | notModelled (mnemonic : String)
deriving DecidableEq, Repr

/-- The outcome of a step of this machine. -/
abbrev Out := Host.Outcome State Fault Refusal

/-- A kernel of no group, held by the empty focus. -/
def noKernel : Kernel :=
  { legacy := false, ovtrap := false, width := 16, groups := 0, slotq := 0, tbase := none, share := 0, fptrap := 0,
    spbytes := 0, sentry := 0, lbase := 0, lcount := 0, spill := 0, cbase := 0, csize := 0, teamtime := 0, roles := [] }

/-- A group that is not resident: the value of the focus while no group has the turn. Its registers hold the values every
group starts with (log 4). -/
def noGroup : Group :=
  { live := false, id := ⟨0, 0, 0, 0⟩, role := 0, width := 16, core := 0, quad := 0, qslot := 0, allot := 4, bnd := 0,
    tickets := 1, age := 0, yielded := false, fpstat := 0, srFault := 0, sup := false, hidden := none, trapPend := none,
    skipS := false, skipL := none, killed := false, ended := false, halted := false, markStalled := false, joinWait := none, stepping := false, saved := false, draining := false,
    drainAt := 0, waits := [], timeUp := false, frame := none, image := none,
    sc := { spc := 0, exited := false, regs := [], fmtSet := 0, fmtPend := none, barWait := none, sbWait := none, recBeats := none },
    ln := { lpc := 0, pos := .pop, runPos := 0, mask := 0xFFFF, retired := 0, stack := [], fmt := 0, preds := [], v := [],
            rng := 0, legBound := [], legSpilled := [], runAllot := 4, runBnd := 0 },
    q := { dq := [], vq := [], rq := [] },
    en := { ld := 0, st := 0, cp := 0, tl := 0, openB := 0, lastRet := 0xFFFF, batches := [], copies := [], acc := [],
            rules := [] } }

/-- A team that is not resident. -/
def noTeam : Team :=
  { live := false, part := 0, task := 0, index := 0, kernel := noKernel, twin := false, core := 0, marker := 0,
    bar := { gen := 0, n := 0, arrived := [] }, named := [], slots := [], sp0 := [], sp1 := [], excess := [], freeBlocks := [],
    claims := [], bounds := [], policy := 0, miss := 0, short := 0, skips := 0, killed := 0, saved := false,
    saving := false, again := false, startGtc := 0, seq := 0, slotWords := [] }

/-- A task that does not exist. -/
def noTask : Task :=
  { live := false, part := 0, num := 0, ctx := 0, source := 0, queue := 0, kernel := noKernel, arg := 0, lo := 0, hi := 0,
    tickets := 0, chain := 0, rev := 0, revDepth := 0, parent := 0, tt := none, trig := none, record := 0, complVA := 0, msix := false,
    vector := 0, reserve := [], left := 0, killedAny := false, ctxKilled := false, started := false, ended := false }

/-- An absent partition: PC_STATUS.STATE 0 (R30), with the values that R29 gives its registers at CREATE. -/
def noPartition : Partition :=
  { num := 0, create := ⟨0, 0, 0, [], [], [], 0, 0, 0⟩, state := 0, link := 0, vf := 0, twins := [], ways := [0, 0], classWays := [0, 0, 0, 0], hbm := 0, t2 := 0, frames := [],
    share := 0, quotaPend := none, integ := false, retiredF := false, run := false, drain := false, keptCtl := none, imported := none, posted := [],
    gtcOffset := 0, winBase := 0, evBase := 0, evVec := 0, evIe := false, evLog2 := 0, evProd := 0, evCons := 0,
    evLost := 0, thot := 92, thotLock := false, stageWd := 0x1000000, partWd := 0x4000000, sev := [], queues := [], x := 1,
    ages := [], qf := [], qt := [], waiters := [], pending := [], resume := [], hotMayAsk := false, hotSince := none, dataKey := 0, tagKey := 0,
    grants := [], dirtyOn := false, dirty := [], shootHead := 0, shootTail := 0, shoots := [], tlb := [], walks := [], watches := [],
    revs := [], nextRev := 1, nextTask := 1, stamps := [], insts := [], moves := [], holds := [], drops := [],
    demoting := [], noVictim := [], hands := [], shorts := [], owed := [],
    demoteRing := [], dbgLast := 0, dbgWait := false, halts := [] }

/-- The device right after reset (R22, R26, R29, R184; values the spec does not give: log 4). -/
def resetDevice : Device :=
  { t2Ports := Config.moduleT2Ports, minVersion := 0, mbCmd := 0, pairs := [], copySeq := 0, gtc := 0, gtcSet := false, created := false, retired := [], quads := [], sliceM := [], l2 := [], mbBusy := false,
    mbResult := 0, mbNext := 0, mbWait := none, mbArgs := [], mgmtOut := [], msixOut := [], readOut := [], rdmaOut := [], rdmaIn := [], rdmaOpen := [], respOut := [],
    fabricOut := [], quoteOut := [], tripped := false, throttled := false, recovery := false, sigNext := 0, sigEnd := 0,
    ports := [], linksDown := [], replay := [], remote := [], fabricQ := [], poison := [], streams := [], keyCount := 0 }

/-- Inputs that name nothing. -/
def noInputs : Inputs :=
  { g := ⟨0, 0, 0, 0⟩, part := 0, core := 0, idx := 0, off := 0, size := 0, va := 0, port := 0, flag := false, word := 0,
    word2 := 0, corr := 0, data := [], create := ⟨0, 0, 0, [], [], [], 0, 0, 0⟩, ecc := .clean,
    remote := ⟨0, 0, 0, 0, 0, 0, 0, 0, 0, 0, none⟩, fabric := ⟨0, 0, 0, 0, 0, 0, false, [], none⟩, pairs := [], nats := [], groups := [],
    nonce := 0 }

/-- The machine right after device reset: no partition, task, team or group, time zero, and nothing on the agenda. -/
def State.reset : State :=
  { g := noGroup, tm := noTeam, tk := noTask, pt := noPartition, groups := [], teams := [], tasks := [], parts := [],
    cores := [], dev := resetDevice, mem := [], agenda := [], tick := 0, free := 0, defer := false, inp := noInputs }

end Sys2Proof.Machine
end

