-- ==== Sys2Proof/Machine/Sparse.lean ====
section
/-! DEFINITION. Sparse tables and byte memories: reading, writing, the canonical form (log 3), and little-endian values of
several bytes (R4). -/
namespace Sys2Proof.Machine

/-- The entry at key `a`, the default `d` where none is listed. -/
def sget {α : Type} (d : α) : Sparse α → Nat → α
  | [], _ => d
  | (k, v) :: r, a => if k = a then v else sget d r a

/-- `m` without the entry at `a`. -/
def sdel {α : Type} : Sparse α → Nat → Sparse α
  | [], _ => []
  | (k, v) :: r, a => if k = a then sdel r a else (k, v) :: sdel r a

/-- `m` with the entry `v` at `a`, kept in rising key order. -/
def sins {α : Type} : Sparse α → Nat → α → Sparse α
  | [], a, v => [(a, v)]
  | (k, w) :: r, a, v =>
    if a < k then (a, v) :: (k, w) :: r else if a = k then (a, v) :: r else (k, w) :: sins r a v

/-- Write `v` at `a`; writing the default removes the entry. -/
def sput {α : Type} [DecidableEq α] (d : α) (m : Sparse α) (a : Nat) (v : α) : Sparse α :=
  if v = d then sdel m a else sins m a v

/-- The entries of `old` that `new` changed, each with its old value. -/
def sdiff {α : Type} [DecidableEq α] (d : α) (old new : Sparse α) : List (Nat × α) :=
  (((old ++ new).map Prod.fst).eraseDups).filterMap (fun k => if sget d old k = sget d new k then none else some (k, sget d old k))

/-- The entries of `l` written back. -/
def sputs {α : Type} [DecidableEq α] (d : α) (m : Sparse α) (l : List (Nat × α)) : Sparse α := l.foldl (fun a e => sput d a e.1 e.2) m

/-- Every key of `m` lies above `lo`, keys rise strictly, and no entry equals `d`. -/
def swfAbove {α : Type} [DecidableEq α] (d : α) : Nat → Sparse α → Bool
  | _, [] => true
  | lo, (k, v) :: r => decide (lo ≤ k) && decide (v ≠ d) && swfAbove d (k + 1) r

/-- The canonical form of a sparse table. -/
def swf {α : Type} [DecidableEq α] (d : α) (m : Sparse α) : Bool := swfAbove d 0 m

/-- What an unlisted byte reads as (log 3). -/
def emptyByte : Byte := 0

/-- The canonical form of a byte memory. -/
def Memory.wf (m : Memory) : Bool := swf emptyByte m

/-- One byte. -/
def mget (m : Memory) (a : Nat) : Byte := sget emptyByte m a

/-- Write one byte. -/
def mput (m : Memory) (a : Nat) (b : Byte) : Memory := sput emptyByte m a b

/-- The little-endian value of the `n` bytes at `a` (R4). -/
def mread (m : Memory) (a : Nat) : Nat → Nat
  | 0 => 0
  | n + 1 => (mget m a).toNat + 256 * mread m (a + 1) n

/-- Write the `n` low bytes of `v` at `a`, little-endian (R4). -/
def mwrite (m : Memory) (a : Nat) : Nat → Nat → Memory
  | 0, _ => m
  | n + 1, v => mwrite (mput m a (BitVec.ofNat 8 v)) (a + 1) n (v / 256)

/-- The bytes at `a`, lowest address first. -/
def mbytes (m : Memory) (a : Nat) : Nat → List Byte
  | 0 => []
  | n + 1 => mget m a :: mbytes m (a + 1) n

/-- Write a list of bytes at `a`. -/
def mputs (m : Memory) (a : Nat) : List Byte → Memory
  | [] => m
  | b :: r => mputs (mput m a b) (a + 1) r

/-- The little-endian number of a list of bytes. -/
def bytesNat : List Byte → Nat
  | [] => 0
  | b :: r => b.toNat + 256 * bytesNat r

/-- The `n` little-endian bytes of a number. -/
def natBytes : Nat → Nat → List Byte
  | 0, _ => []
  | n + 1, v => BitVec.ofNat 8 v :: natBytes n (v / 256)

end Sys2Proof.Machine
end

