-- ==== Sys2Proof/Machine/Focus.lean ====
section
/-! DEFINITION. Finding and replacing groups, teams, tasks, partitions and cores, whether in focus or not, and moving the
focus to another group (log 1). -/
namespace Sys2Proof.Machine

/-- Replace the first element that satisfies `p`, appending `x` when there is none. -/
def putBy {α : Type} (p : α → Bool) (x : α) : List α → List α
  | [] => [x]
  | y :: r => if p y then x :: r else y :: putBy p x r

/-- A list without the elements that satisfy `p`. -/
def dropBy {α : Type} (p : α → Bool) (l : List α) : List α := l.filter (fun y => !p y)

/-- `f` applied to the elements that satisfy `p`. -/
def modBy {α : Type} (p : α → Bool) (f : α → α) (l : List α) : List α := l.map (fun y => if p y then f y else y)

/-- Insert in rising order of a comparison, after its equals. -/
def insertBy {α : Type} (le : α → α → Bool) (x : α) : List α → List α
  | [] => [x]
  | y :: r => if le y x then y :: insertBy le x r else x :: y :: r

/-- A list in rising order of a comparison. -/
def sortBy {α : Type} (le : α → α → Bool) (l : List α) : List α := l.foldl (fun acc x => insertBy le x acc) []

/-- Every group of the device. -/
def allGroups (s : State) : List Group := if s.g.live then s.g :: s.groups else s.groups

/-- Every team of the device. -/
def allTeams (s : State) : List Team := if s.tm.live then s.tm :: s.teams else s.teams

/-- Every task of the device. -/
def allTasks (s : State) : List Task := if s.tk.live then s.tk :: s.tasks else s.tasks

/-- Every partition of the device. -/
def allParts (s : State) : List Partition := if s.pt.state != 0 then s.pt :: s.parts else s.parts

/-- The group of that name. -/
def findGroup (s : State) (id : GroupId) : Option Group := (allGroups s).find? (fun g => g.id == id)

/-- The team of that name. -/
def findTeam (s : State) (part task idx : Nat) : Option Team :=
  (allTeams s).find? (fun t => t.part == part && t.task == task && t.index == idx)

/-- The task of that number. -/
def findTask (s : State) (part num : Nat) : Option Task :=
  (allTasks s).find? (fun t => t.part == part && t.num == num)

/-- The partition of that number. -/
def findPart (s : State) (num : Nat) : Option Partition := (allParts s).find? (fun p => p.num == num)

/-- `f` applied to the groups that satisfy `p`. -/
def modGroups (s : State) (p : Group → Bool) (f : Group → Group) : State :=
  { s with g := if s.g.live && p s.g then f s.g else s.g, groups := modBy p f s.groups }

/-- `f` applied to the group of that name. -/
def modGroup (s : State) (id : GroupId) (f : Group → Group) : State := modGroups s (fun g => g.id == id) f

/-- `f` applied to the teams that satisfy `p`. -/
def modTeams (s : State) (p : Team → Bool) (f : Team → Team) : State :=
  { s with tm := if s.tm.live && p s.tm then f s.tm else s.tm, teams := modBy p f s.teams }

/-- `f` applied to the team of that name. -/
def modTeam (s : State) (part task idx : Nat) (f : Team → Team) : State :=
  modTeams s (fun t => t.part == part && t.task == task && t.index == idx) f

/-- `f` applied to the team of a group. -/
def modTeamOf (s : State) (id : GroupId) (f : Team → Team) : State := modTeam s id.part id.task id.team f

/-- The team of a group, an empty one when it is gone. -/
def teamOf (s : State) (id : GroupId) : Team := (findTeam s id.part id.task id.team).getD noTeam

/-- `f` applied to the tasks that satisfy `p`. -/
def modTasks (s : State) (p : Task → Bool) (f : Task → Task) : State :=
  { s with tk := if s.tk.live && p s.tk then f s.tk else s.tk, tasks := modBy p f s.tasks }

/-- `f` applied to the task of that number. -/
def modTask (s : State) (part num : Nat) (f : Task → Task) : State :=
  modTasks s (fun t => t.part == part && t.num == num) f

/-- `f` applied to the partition of that number. -/
def modPart (s : State) (num : Nat) (f : Partition → Partition) : State :=
  { s with pt := if s.pt.state != 0 && s.pt.num == num then f s.pt else s.pt,
           parts := modBy (fun p => p.num == num) f s.parts }

/-- Add a task, which is not in focus. -/
def addTask (s : State) (t : Task) : State := { s with tasks := s.tasks ++ [t] }

/-- The groups of a team. -/
def teamGroups (s : State) (part task idx : Nat) : List Group :=
  (allGroups s).filter (fun g => g.id.part == part && g.id.task == task && g.id.team == idx)

/-- A core that has no entry yet: every field at its value after device reset (R26, R184). -/
def noCore (n : Nat) : Core :=
  { num := n, clock := 0, temp := 0, droops := 0, proc := 0, hot := false, droopy := false, droopTimes := [], share := none,
    booked := none, asked := none, retiring := false, spShare := 0, wheelQ := [], wheelRun := [], tag := 0, tagUse := [], ceTimes := [], testing := [], l1 := [] }

/-- Core `n`. -/
def coreOf (s : State) (n : Nat) : Core := (s.cores.find? (fun c => c.num == n)).getD (noCore n)

/-- `f` applied to core `n`. -/
def modCore (s : State) (n : Nat) (f : Core → Core) : State :=
  { s with cores := putBy (fun c => c.num == n) (f (coreOf s n)) s.cores }

/-- The L1 of core `n` loses its lines (R109). -/
def l1Inval (s : State) (n : Nat) : State :=
  if (coreOf s n).l1.isEmpty then s else modCore s n (fun c => { c with l1 := [] })

/-- No L1 holds a line any more (log 106). -/
def l1Flush (s : State) : State := { s with cores := s.cores.map (fun c => { c with l1 := [] }) }

/-- Some byte of [key, key + n) lies in a sector. -/
def inSector (e : L1Sector) (key n : Nat) : Bool := key < 32 * e.num + 32 && 32 * e.num < key + n

/-- No L1 holds a sector of [key, key + n), which the part itself writes (log 106). -/
def l1Drop (s : State) (key n : Nat) : State :=
  { s with cores := s.cores.map (fun c => { c with l1 := c.l1.filter (fun e => !inSector e key n) }) }

/-- The state of a quad after device reset (R81, log 5). -/
def noQuad : Quad := { x := 1, last := 15, owner := none }

/-- Quad `q` of core `c`. -/
def quadOf (s : State) (c q : Nat) : Quad := sget noQuad s.dev.quads (4 * c + q)

/-- Replace a quad's state. -/
def putQuad (s : State) (c q : Nat) (v : Quad) : State :=
  { s with dev := { s.dev with quads := sput noQuad s.dev.quads (4 * c + q) v } }

/-- Put the focus back into the lists. -/
def unfocus (s : State) : State :=
  { s with
    groups := if s.g.live then s.g :: s.groups else s.groups, g := noGroup
    teams := if s.tm.live then s.tm :: s.teams else s.teams, tm := noTeam
    tasks := if s.tk.live then s.tk :: s.tasks else s.tasks, tk := noTask
    parts := if s.pt.state != 0 then s.pt :: s.parts else s.parts, pt := noPartition }

/-- Give the turn to a group: it, its team, its task and its partition come into focus. A group that is not resident leaves
the state as it is. -/
def focusOn (s : State) (id : GroupId) : State :=
  if s.g.live && s.g.id == id then s
  else
    match findGroup s id with
    | none => s
    | some g =>
      let u := unfocus s
      let isT := fun (t : Team) => t.part == id.part && t.task == id.task && t.index == id.team
      let isK := fun (t : Task) => t.part == id.part && t.num == id.task
      { u with
        g := g, groups := dropBy (fun h => h.id == id) u.groups
        tm := (u.teams.find? isT).getD noTeam, teams := dropBy isT u.teams
        tk := (u.tasks.find? isK).getD noTask, tasks := dropBy isK u.tasks
        pt := (u.parts.find? (fun p => p.num == id.part)).getD noPartition
        parts := dropBy (fun p => p.num == id.part) u.parts }

/-- Partition time: device GTC plus GTC_OFFSET (R22, R46). -/
def ptime (s : State) (p : Partition) : Word := s.dev.gtc + p.gtcOffset

/-- A write stamp: GTC bits [47:0] and a source number (R24, R149). -/
def stampOf (t : Word) (source : Nat) : Word := BitVec.ofNat 64 (t.toNat % 2 ^ 48 * 65536 + source % 65536)

/-- Increment, saturating at `m`. -/
def incSat (m x : Nat) : Nat := if x < m then x + 1 else m

end Sys2Proof.Machine
end

