-- ==== Sys2Proof/Machine/Translate.lean ====
section
/-! DEFINITION. Address translation: the walk, the TLB, permissions and the physical spaces (R103 to R120). -/
namespace Sys2Proof.Machine

/-- What a memory operation answers: a value and a state, a trap (number and detail), a stall, or the model's fault. -/
inductive MR (α : Type) where
  | ok (a : α) (s : State)
  | trap (num : Nat) (detail : BitVec 192)
  | stall
  | fault (f : Fault)

/-- Continue a memory operation. -/
def MR.bind {α β : Type} (x : MR α) (k : α → State → MR β) : MR β :=
  match x with
  | .ok a s => k a s
  | .trap n d => .trap n d
  | .stall => .stall
  | .fault f => .fault f

/-- The size of one physical space in the key of a byte (log 13): space 0 is HBM, 1 the second tier, 2 host memory, 3 the
supervisor control pages, 4 + n the memory of fabric node n. -/
def spaceSize : Nat := 2 ^ 52

/-- The physical key of a space and an address. -/
def physKey (space addr : Nat) : Nat := space * spaceSize + addr

/-- The control page of a partition (R119). -/
def ctlKey (part off : Nat) : Nat := physKey 3 (part * 65536 + off)

/-- First virtual address of the control page (R119). -/
def ctlVA : Nat := 0xFFFFFFFFFFFF0000

/-- A key names a byte that exists, with `t2` bytes of second tier (R10, R12). -/
def physOk (t2 key : Nat) : Bool :=
  if key < spaceSize then key < Config.hbmBytes
  else if key < 2 * spaceSize then key - spaceSize < t2
  else true

/-- Second-tier capacity: what reset found behind the four ports (R12). -/
def Device.t2Bytes (d : Device) : Nat := d.t2Ports.foldl (· + ·) 0

/-- The first-level TLB of a quad (R118). -/
def quadUnit (core quad : Nat) : Nat := 4 * core + quad % 4

/-- The TLB of a core (R118). -/
def coreUnit (core : Nat) : Nat := 864 + core

/-- The TLB of the part's own units and of the ports (log 51). -/
def partUnit : Nat := 1080

/-- The translations that a copy of a core has taken, which it keeps until it completes (R126). -/
def copyUnit (core id : Nat) : Nat := 1081 + 216 * id + core % 216

/-- The TLB that a unit's misses go to before a walk (R118). -/
def parentUnit (u : Nat) : Option Nat :=
  if u < 864 then some (coreUnit (u / 4)) else if 1081 ≤ u then some (coreUnit ((u - 1081) % 216)) else none

/-- How many entries a TLB holds (R118). -/
def tlbCap (u : Nat) : Option Nat := if u < 864 then some 64 else if u < 1080 then some 2048 else none

/-- Read `n` bytes of a partition's control page. -/
def ctlRead (s : State) (part off n : Nat) : Nat := mread s.mem (ctlKey part off) n

/-- The root table of a context (R115, R119). -/
def rootOf (s : State) (part ctx : Nat) : Nat := ctlRead s part (0x3000 + 16 * (ctx % 256)) 8

/-- A leaf found by a walk: the entry, its physical key, its level, and the page's base and size. -/
structure Leaf where
  pte : Nat
  key : Nat
  level : Nat
  va : Nat
  size : Nat
deriving DecidableEq, Repr

/-- The detail of PAGE_NOT_PRESENT (R433). -/
def notPresent (entry level : Nat) : BitVec 192 := det [(0, entry), (8, level)]

/-- The detail of PROTECTION: entry, level, check code (R433). -/
def protDetail (entry level code : Nat) : BitVec 192 := det [(0, entry), (8, level), (9, code)]

/-- PROTECTION of a check that involves no entry (R433). -/
def protPlain (code : Nat) : BitVec 192 := protDetail 0 0xFF code

/-- The reserved bits of an entry that must be zero (R116): non-leaf, local leaf or fabric leaf, at a level. -/
def reservedBits (e level : Nat) : Nat :=
  if bit e 1 then
    let low := if level = 2 then fld e 12 18 else if level = 1 then fld e 12 9 else 0
    let contig := if level = 0 then 0 else fld e 2 1
    let loc := if bit e 63 then 0 else fld e 52 7
    low + contig + loc
  else fld e 52 12 + fld e 2 10

/-- The frame or next-table address of an entry (R116). -/
def frameOf (e : Nat) : Nat := fld e 12 40 * 4096

/-- The page size at a level; a CONTIG entry is part of a 64 KiB page (R115). -/
def pageSize (level : Nat) : Nat := if level = 2 then 2 ^ 30 else if level = 1 then 2 ^ 21 else 4096

/-- The 16 entries of a 64 KiB page agree (R115): valid, LEAF and CONTIG set, equal but for A, D and FRAME, frames in
order from an aligned first one. -/
def contigAgree (mem : Memory) (first : Nat) : Bool :=
  let e0 := mread mem first 8
  let strip := fun e => e - frameOf e % 2 ^ 52 - fld e 59 1 * 2 ^ 59 - fld e 11 1 * 2 ^ 11
  fld (frameOf e0) 0 16 == 0 && (List.range 16).all (fun k =>
    let e := mread mem (first + 8 * k) 8
    bit e 0 && bit e 1 && bit e 2 && strip e == strip e0 && frameOf e == frameOf e0 + 4096 * k)

/-- The table index of a virtual address at a level (R115). -/
def vaIndex (va level : Nat) : Nat := if level = 4 then fld va 48 8 else fld va (12 + 9 * level) 9

/-- A walk's answer. -/
inductive Walk where
  | leaf (l : Leaf)
  | trap (num : Nat) (detail : BitVec 192)
  | fault (key : Nat)

/-- Check the entry at `key` and go down (R115 to R117), the first failing check deciding; `rd` reads the entry of a level at a key,
none on a poisoned line (R265). The recursion is on the level. -/
def walkAt (t2 : Nat) (mem : Memory) (rd : Nat → Nat → Option Nat) (va : Nat) : Nat → Nat → Walk
  | level, table =>
    let key := table + 8 * vaIndex va level
    if !physOk t2 key then .fault key
    else
      match rd level key with
      | none => .trap 0x0F 0
      | some e =>
      if !bit e 0 then .trap 0x04 (notPresent e level)
      else if reservedBits e level != 0 then .trap 0x05 (protDetail e level 8)
      else if bit e 1 then
        if 3 ≤ level then .trap 0x05 (protDetail e level 9)
        else if 5 ≤ fld e 5 3 then .trap 0x05 (protDetail e level 10)
        else if level = 0 && bit e 2 && !contigAgree mem (key - 8 * (vaIndex va 0 % 16)) then
          .trap 0x05 (protDetail e level 11)
        else .leaf ⟨e, key, level, va - va % pageSize level, pageSize level⟩
      else
        match level with
        | 0 => .trap 0x05 (protDetail e 0 9)
        | l + 1 => walkAt t2 mem rd va l (frameOf e)

/-- An entry as memory holds it, none on a poisoned line. -/
def rdMem (s : State) : Nat → Nat → Option Nat := fun _ key =>
  if s.dev.poison.contains (key / 64) then none else some (mread s.mem key 8)

/-- An entry as a walk of a context reads it (R118): an upper level's from the walk cache while a copy stands there. -/
def rdCached (s : State) (part ctx : Nat) : Nat → Nat → Option Nat := fun level key =>
  let m := rdMem s level key
  if level = 0 then m
  else
    match (findPart s part).bind (fun p => p.walks.find? (fun w => w.ctx == ctx && w.key == key)) with
    | none => m
    | some w => if m == some w.pte then m else if Config.walkKeeps s.tick key then some w.pte else m

/-- The five-level walk of a context (R115) with a reader of entries. A root of 0 is read as a table that holds no valid entry
(log 15). -/
def walkWith (s : State) (rd : Nat → Nat → Option Nat) (part ctx va : Nat) : Walk :=
  let root := rootOf s part ctx
  if root = 0 then .trap 0x04 (notPresent 0 4) else walkAt s.dev.t2Bytes s.mem rd va 4 root

/-- The walk of an access (R115, R118). -/
def walk (s : State) (part ctx va : Nat) : Walk := walkWith s (rdCached s part ctx) part ctx va

/-- The upper-level entries that a walk goes through (R118). The recursion is on the level. -/
def walkPath (t2 : Nat) (rd : Nat → Nat → Option Nat) (ctx va : Nat) : Nat → Nat → List WalkEntry
  | 0, _ => []
  | l + 1, table =>
    let key := table + 8 * vaIndex va (l + 1)
    let e := (rd (l + 1) key).getD 0
    let size := 2 ^ (12 + 9 * (l + 1))
    if !physOk t2 key || !bit e 0 || bit e 1 || reservedBits e (l + 1) != 0 then []
    else ⟨ctx, key, va - va % size, size, e⟩ :: walkPath t2 rd ctx va l (frameOf e)

/-- A walk cache with the entries of one more walk (R118). -/
def walksPut (l new : List WalkEntry) : List WalkEntry :=
  new.foldl (fun acc w => w :: dropBy (fun x => x.ctx == w.ctx && x.key == w.key) acc) l

/-- The physical key a leaf gives a virtual address: the tier or the fabric node chooses the space (R116, R121, log 13). DESIGN CHOICE: a
valid leaf with TIER 4 reaches space 3, the control pages (log 121). -/
def leafKey (e va size : Nat) : Nat :=
  let off := va % size
  if bit e 63 then physKey (4 + fld e 49 10) (fld e 12 37 * 4096 + off)
  else
    let space := if fld e 5 3 ≤ 1 then 0 else fld e 5 3 - 1
    physKey space (frameOf e + off)

/-- The permission checks of R117 on a leaf, in the table's order: user, read, write, POISON. A store or atomic needs WR. -/
def permFail (e level : Nat) (sup write read : Bool) : Option (Nat × BitVec 192) :=
  if !sup && !bit e 60 then some (0x05, protDetail e level 12)
  else if read && !bit e 62 then some (0x05, protDetail e level 13)
  else if write && !bit e 61 then some (0x05, protDetail e level 14)
  else if bit e 10 then some (0x0F, 0)
  else none

/-- The location a leaf gives. -/
def locOf (e va size : Nat) : Loc :=
  { scratch := false, partner := false, addr := leafKey e va size, va := va, watched := bit e 9, revcap := bit e 8,
    cls := fld e 3 2, t0 := fld e 5 3 == 0 && !bit e 63 }

/-- R105: bits [63:56] equal bit 55, and a user access stays in the user half. -/
def vaCheck (va : Nat) (sup : Bool) : Option Nat :=
  let hi := fld va 55 9
  if hi != 0 && hi != 0x1FF then some 1
  else if !sup && hi != 0 then some 2
  else none

/-- The third dirty bit of R158, by 128-byte line: the lines of [key, key + n) written since the last pre-copy round. -/
def markDirtyRange (s : State) (part key n : Nat) : State :=
  modPart s part (fun p =>
    if !p.dirtyOn then p
    else
      let lines := (List.range ((key + n + 127) / 128 - key / 128)).map (fun k => key / 128 + k)
      { p with dirty := p.dirty ++ lines.filter (fun l => !p.dirty.contains l) })

/-- The part writes bytes of a partition's memory (R158). -/
def partPuts (s : State) (part key : Nat) (bs : List Byte) : State :=
  markDirtyRange { s with mem := mputs s.mem key bs } part key bs.length

/-- Write `n` bytes of a partition's control page. -/
def ctlWrite (s : State) (part off n v : Nat) : State :=
  markDirtyRange { s with mem := mwrite s.mem (ctlKey part off) n v } part (ctlKey part off) n

/-- The third dirty bit of the line of a byte (R158). -/
def markDirty (s : State) (part key : Nat) : State := markDirtyRange s part key 1

/-- Two entries of one TLB for one page. -/
def samePage (a b : TlbEntry) : Bool := a.unit == b.unit && a.ctx == b.ctx && a.va == b.va && a.size == b.size

/-- Fill a TLB (R118): where it is full, an entry leaves (log 51). -/
def tlbPut (tick : Nat) (e : TlbEntry) (l : List TlbEntry) : List TlbEntry :=
  let rest := dropBy (samePage e) l
  let mine := rest.filter (fun x => x.unit == e.unit)
  match tlbCap e.unit with
  | none => e :: rest
  | some n =>
    if mine.length < n then e :: rest
    else
      match mine[Config.leaves tick mine.length % mine.length]? with
      | none => e :: rest
      | some v => e :: dropBy (samePage v) rest

/-- Fill the TLB of a unit and the one behind it. -/
def tlbFill (s : State) (part u : Nat) (e : TlbEntry) : State :=
  let put := fun (v : Nat) (l : List TlbEntry) => tlbPut s.tick { e with unit := v } l
  modPart s part (fun p => { p with tlb := put u (match parentUnit u with
    | some v => put v p.tlb
    | none => p.tlb) })

/-- What a TLB holds of a leaf whose entry reads `e`: the 16 entries of a 64 KiB page are one page there (R115, R118). -/
def tlbEntry (u ctx : Nat) (l : Leaf) (e : Nat) : TlbEntry :=
  let k := l.va / 4096 % 16
  if l.level = 0 && bit e 2 then ⟨u, ctx, l.va - 4096 * k, 65536, BitVec.ofNat 64 (e - 4096 * k), 0⟩
  else ⟨u, ctx, l.va, l.size, BitVec.ofNat 64 e, l.level⟩

/-- Set A, and D for a store, in the entry of the access (R117), and fill the TLBs and the walk cache (R118). -/
def fillTlb (s : State) (u part ctx : Nat) (l : Leaf) (write : Bool) : State × Nat :=
  let a := if bit l.pte 59 then l.pte else l.pte + 2 ^ 59
  let d := if write && !bit a 11 then a + 2 ^ 11 else a
  let path := walkPath s.dev.t2Bytes (rdCached s part ctx) ctx l.va 4 (rootOf s part ctx)
  let s1 := if d = l.pte then s else markDirtyRange { s with mem := mwrite s.mem l.key 8 d } part l.key 8
  (tlbFill (modPart s1 part (fun p => { p with walks := walksPut p.walks path })) part u (tlbEntry u ctx l d), d)

/-- The entry of one TLB that covers an address. -/
def tlbAt (p : Partition) (u ctx va : Nat) : Option TlbEntry :=
  p.tlb.find? (fun t => t.unit == u && t.ctx == ctx && t.va ≤ va && va < t.va + t.size)

/-- The TLB entry that covers an address: the unit's own TLB, then the one behind it (R118). -/
def tlbFind (p : Partition) (u ctx va : Nat) : Option TlbEntry :=
  match tlbAt p u ctx va with
  | some t => some t
  | none => (parentUnit u).bind (fun v => tlbAt p v ctx va)

/-- A partition without the entries of its TLBs that `hit` picks; a copy keeps its own (R120, R126). -/
def tlbDrop (p : Partition) (hit : TlbEntry → Bool) : Partition :=
  { p with tlb := p.tlb.filter (fun t => partUnit < t.unit || !hit t) }

/-- A partition's TLBs without what a copy kept (R126). -/
def tlbForget (p : Partition) (u : Nat) : Partition := { p with tlb := dropBy (fun t => t.unit == u) p.tlb }

/-- Whether a page of a context is in transit to another tier (R123). -/
def inTransit (p : Partition) (ctx va : Nat) : Bool :=
  p.moves.any (fun m => m.ctx == ctx && m.va ≤ va && va < m.va + m.size)

/-- A failed translation: it waits while the page is in transit, and faults only if the new entry fails (R126). -/
def failOrWait (s : State) (part ctx va num : Nat) (detail : BitVec 192) : MR Loc :=
  if ((findPart s part).map (fun p => inTransit p ctx va)).getD false then .stall else .trap num detail

/-- Walk, check and fill (R117). -/
def walkFill (s : State) (u part ctx va : Nat) (sup write read : Bool) : MR Loc :=
  match walk s part ctx va with
  | .trap n d => failOrWait s part ctx va n d
  | .fault k => .fault (.noSuchFrame k)
  | .leaf l =>
    match permFail l.pte l.level sup write read with
    | some (n, d) => failOrWait s part ctx va n d
    | none =>
      let (s1, e) := fillTlb s u part ctx l write
      let loc := locOf e va l.size
      if physOk s.dev.t2Bytes loc.addr then .ok loc s1 else .fault (.noSuchFrame loc.addr)

/-- Translate one address of a context for a unit (R105, R117 to R119): the control page first, then the TLBs, then a walk. A store
through a clean TLB entry walks again; a hit behind the unit's own TLB fills it. Without a root in context 0 every access of the part on
a partition's own behalf fails (R28). DESIGN CHOICE: a leaf may name a frame of another partition, whose bytes are then read and written as
they are (log 121). -/
def translate (s : State) (u part ctx va : Nat) (sup write read : Bool) : MR Loc :=
  match vaCheck va sup with
  | some code => .trap 0x05 (protPlain code)
  | none =>
    if ctlVA ≤ va then
      .ok { scratch := false, partner := false, addr := ctlKey part (va - ctlVA), va := va, watched := false,
            revcap := false, cls := 0, t0 := false } s
    else if ctx = 0 && u = partUnit && rootOf s part 0 = 0 then failOrWait s part 0 va 0x04 (notPresent 0 4)
    else
      match (findPart s part).bind (fun p => tlbFind p u ctx va) with
      | some t =>
        if write && !bit t.pte.toNat 11 then walkFill s u part ctx va sup write read
        else
          match permFail t.pte.toNat t.level sup write read with
          | some (n, d) => failOrWait s part ctx va n d
          | none =>
            let loc := locOf t.pte.toNat va t.size
            if physOk s.dev.t2Bytes loc.addr then .ok loc (if t.unit == u then s else tlbFill s part u t)
            else .fault (.noSuchFrame loc.addr)
      | none => walkFill s u part ctx va sup write read

/-- Words of the control page that the part alone writes: shootdown head, pool frames in use, DBG_DONE (R119, R152,
R272). -/
def ctlReadOnly (off : Nat) : Bool :=
  (0x0804 ≤ off && off < 0x0808) || (0x4010 ≤ off && off < 0x4014) || (0x6008 ≤ off && off < 0x6010)

/-- A store by software to one byte: a read-only word of the control page keeps its value. -/
def physPut (m : Memory) (key : Nat) (b : Byte) : Memory :=
  if 3 * spaceSize ≤ key && key < 4 * spaceSize && ctlReadOnly (key % 65536) then m else mput m key b

/-- A store by software of `n` bytes, little-endian. -/
def physWrite (m : Memory) (key : Nat) : Nat → Nat → Memory
  | 0, _ => m
  | n + 1, v => physWrite (physPut m key (BitVec.ofNat 8 v)) (key + 1) n (v / 256)

/-- Some byte of [key, key + n) lies in a poisoned 64-byte line (R265). -/
def poisoned (s : State) (key n : Nat) : Bool :=
  s.dev.poison.any (fun l => l * 64 < key + n && key < l * 64 + 64)

/-- An access of the part on the partition's own behalf: context 0, supervisor (R28). Reads `n` bytes; `none` when the
translation fails. -/
def supRead (s : State) (part va n : Nat) : Option Nat :=
  match translate s partUnit part 0 va true false true with
  | .ok l _ => if poisoned s l.addr n then none else some (mread s.mem l.addr n)
  | _ => none

/-- A write of the part on the partition's own behalf (R28), of a list of bytes that lies in one page. -/
def supWrite (s : State) (part va : Nat) (bs : List Byte) : Option State :=
  match translate s partUnit part 0 va true true false with
  | .ok l s1 => some (partPuts s1 part l.addr bs)
  | _ => none

/-- A read of `n` bytes in a context by the part for the program, without a trap (R131, R171). -/
def ctxRead (s : State) (part ctx va n : Nat) : Option Nat :=
  match translate s partUnit part ctx va false false true with
  | .ok l _ => some (mread s.mem l.addr n)
  | _ => none

/-- The page of an address in a context, read without a trap or a TLB fill (R131, R135): its leaf, if it is mapped. -/
def pageOf (s : State) (part ctx va : Nat) : Option Leaf :=
  match walkWith s (rdMem s) part ctx va with
  | .leaf l => some l
  | _ => none

end Sys2Proof.Machine
end

