-- ==== Sys2Proof/Machine/Frame.lean ====
section
/-! DEFINITION. Scalar registers, the handler frame of R256 as bytes, and event records (R37, R38, R262 to R264). -/
namespace Sys2Proof.Machine

/-- The value of scalar register `r` of a group: s0 reads zero (R276). -/
def sregOf (g : Group) (r : Nat) : Word := if r = 0 then 0 else sget 0 g.sc.regs r

/-- A group with scalar register `r` written: a write of s0 is discarded (R276). -/
def putSreg (g : Group) (r : Nat) (v : Word) : Group :=
  if r = 0 then g else { g with sc := { g.sc with regs := sput 0 g.sc.regs r v } }

/-- A register that RETH restores from the frame (R255). -/
def frameReg (r : Nat) : Bool := (1 ≤ r && r ≤ 15) || r == 62 || r == 63

/-- A result that engine or remote work of user mode (`sup` false) or of the handler brings to a scalar register (R18, R198): what is
due to the program in a register that RETH restores waits for RETH (R255). -/
def landSreg (g : Group) (sup : Bool) (r : Nat) (v : Word) : Group :=
  match g.hidden with
  | some h => if g.sup && !sup && frameReg r then { g with hidden := some { h with late := h.late ++ [(r, v)] } } else putSreg g r v
  | none => putSreg g r v

/-- Vector register `r` of lane `t`. -/
def vget (g : Group) (r t : Nat) : Nat := (sget 0 g.ln.v (64 * r + t)).toNat

/-- Write vector register `r` of lane `t`. -/
def vput (g : Group) (r t v : Nat) : Group :=
  { g with ln := { g.ln with v := sput 0 g.ln.v (64 * r + t) (BitVec.ofNat 32 v) } }

/-- The `n`-register little-endian value at register `r` of lane `t` (R422). -/
def vgetN (g : Group) (r t : Nat) : Nat → Nat
  | 0 => 0
  | n + 1 => vget g r t + 2 ^ 32 * vgetN g (r + 1) t n

/-- Write an `n`-register value. -/
def vputN (g : Group) (r t : Nat) : Nat → Nat → Group
  | 0, _ => g
  | n + 1, v => vputN (vput g r t v) (r + 1) t n (v / 2 ^ 32)

/-- What has changed behind an access, with one change more, from `old` to `new` (R331, R420). -/
def undoAlso (u : Undo) (old new : Group) : Undo :=
  let fresh := fun (l m : List (Nat × Word)) => l ++ m.filter (fun e => !l.any (fun x => x.1 == e.1))
  { u with
    regs := fresh u.regs (sdiff 0 old.sc.regs new.sc.regs)
    v := u.v ++ (sdiff 0 old.ln.v new.ln.v).filter (fun e => !u.v.any (fun x => x.1 == e.1))
    preds := u.preds ++ (sdiff 0 old.ln.preds new.ln.preds).filter (fun e => !u.preds.any (fun x => x.1 == e.1))
    flags := u.flags ||| (new.fpstat &&& ~~~old.fpstat) }

/-- What has issued behind an access, with one instruction more, which took the group from `old` to `new` (R331, R420). -/
def undoMore (u : Undo) (old new : Group) : Undo := { undoAlso u old new with count := u.count + 1 }

/-- A group without what has issued behind an access (R331, R420). -/
def undone (g : Group) (u : Undo) : Group :=
  { g with
    fpstat := g.fpstat &&& ~~~u.flags
    sc := { g.sc with regs := sputs 0 g.sc.regs u.regs }
    ln := { g.ln with v := sputs 0 g.ln.v u.v, preds := sputs 0 g.ln.preds u.preds } }

/-- The die of a logical core (R8). -/
def dieOf (core : Nat) : Nat := if core < 108 then 0 else 1

/-- The handler slot of a group (R254). -/
def hslot (g : Group) : Nat := g.core * 64 + g.quad * 16 + g.qslot

/-- A list of bytes cut or zero-filled to `n` bytes. -/
def padTo (n : Nat) (l : List Byte) : List Byte := (l ++ List.replicate n 0).take n

/-- The bytes of a list of words, padded to `n` bytes. -/
def wordsBytes (n : Nat) (l : List Word) : List Byte := padTo n (l.flatMap (fun w => natBytes 8 w.toNat))

/-- The queue occupancies: DQ [3:0], VQ [8:4], RQ [12:9] (R256, R327). -/
def queueCounts (g : Group) : Nat := g.q.dq.length + 16 * g.q.vq.length + 512 * g.q.rq.length

/-- The 512 bytes of a frame (R256): the group's state at a stop, the trap number, flag bits, active mask, address and
detail. MIDRUN is set when instructions of the run have issued (log 16). -/
def frameBytes (g : Group) (spc : Word) (lane : Bool) (num addr : Nat) (detail : BitVec 192) : List Byte :=
  let midrun := g.ln.pos == .inRun && g.ln.runPos != 0 || g.ln.pos == .start && g.ln.runPos != 0
  let flags := b2n lane + 4 * b2n midrun + 8 * b2n g.sc.exited
  natBytes 8 spc.toNat ++ natBytes 2 g.ln.lpc ++ natBytes 1 num ++ natBytes 1 flags ++ natBytes 2 (queueCounts g)
  ++ natBytes 1 g.ln.runPos ++ natBytes 1 0 ++ natBytes 8 g.ln.mask.toNat ++ natBytes 4 g.ln.fmt.toNat
  ++ natBytes 4 g.ln.stack.length ++ natBytes 8 addr ++ natBytes 24 detail.toNat
  ++ (List.range 15).flatMap (fun k => natBytes 8 (sregOf g (k + 1)).toNat)
  ++ natBytes 8 (sregOf g 62).toNat
  ++ padTo 16 (g.q.dq.flatMap (fun e => natBytes 2 e.1.toNat)) ++ wordsBytes 128 g.q.vq ++ wordsBytes 64 g.q.rq
  ++ natBytes 8 (sregOf g 63).toNat ++ List.replicate 104 0

/-- The `n`-byte little-endian field at offset `off` of a frame. -/
def frameFld (fr : List Byte) (off n : Nat) : Nat := bytesNat ((fr.drop off).take n)

/-- A group with what a frame holds read back (R255, R258): registers, queues with the attached FMT values kept aside,
program counters, run position, mask, and FMT without its reserved bits (R5, R241). -/
def frameApply (g : Group) (fr : List Byte) (dqFmt : List (Option W32)) : Group :=
  let cnt := frameFld fr 0x0C 2
  let g1 := (List.range 15).foldl (fun h k => putSreg h (k + 1) (BitVec.ofNat 64 (frameFld fr (0x40 + 8 * k) 8))) g
  let g2 := putSreg (putSreg g1 62 (BitVec.ofNat 64 (frameFld fr 0xB8 8))) 63 (BitVec.ofNat 64 (frameFld fr 0x190 8))
  let dq := (List.range (min 8 (fld cnt 0 4))).map (fun k =>
    (BitVec.ofNat 16 (frameFld fr (0xC0 + 2 * k) 2), (dqFmt[k]?).getD none))
  let vq := (List.range (min 16 (fld cnt 4 5))).map (fun k => BitVec.ofNat 64 (frameFld fr (0xD0 + 8 * k) 8))
  let rq := (List.range (min 8 (fld cnt 9 4))).map (fun k => BitVec.ofNat 64 (frameFld fr (0x150 + 8 * k) 8))
  { g2 with
    sc := { g2.sc with spc := BitVec.ofNat 64 (frameFld fr 0 8), exited := bit (frameFld fr 0x0B 1) 3 }
    ln := { g2.ln with lpc := frameFld fr 8 2, runPos := frameFld fr 0x0E 1,
                       mask := BitVec.ofNat 64 (frameFld fr 0x10 8), fmt := BitVec.ofNat 32 (frameFld fr 0x18 3) }
    q := { dq := dq, vq := vq, rq := rq } }

/-- The 64 bytes of an event record (R38). -/
def eventBytes (e : EventRec) : List Byte :=
  natBytes 8 e.gtc.toNat ++ natBytes 2 e.source ++ natBytes 2 e.type ++ natBytes 1 e.action ++ natBytes 1 e.trap
  ++ natBytes 2 0 ++ natBytes 4 e.ctx ++ natBytes 4 e.team ++ natBytes 2 e.group ++ natBytes 1 e.role
  ++ natBytes 1 e.queue ++ natBytes 4 0 ++ natBytes 8 e.addr.toNat ++ natBytes 24 e.detail.toNat

/-- A record that names no group: team, group, role and queue fields all ones (R167 for RUNAWAY; log 17). -/
def noneRec (type source ctx : Nat) (addr : Word) (detail : BitVec 192) : EventRec :=
  { gtc := 0, source := source, type := type, action := 0, trap := 0xFF, ctx := ctx, team := 0xFFFFFFFF, group := 0xFFFF,
    role := 0xFF, queue := 0xFF, addr := addr, detail := detail }

/-- The queue field of a task's records: its launch queue, or 0xFF (R38). -/
def queueField (t : Task) : Nat := if t.source = 0 then t.queue else 0xFF

/-- A record of a group. -/
def groupRec (s : State) (g : Group) (type : Nat) (trap : Nat) (addr : Word) (detail : BitVec 192) : EventRec :=
  let t := (findTask s g.id.part g.id.task).getD noTask
  { gtc := 0, source := g.core, type := type, action := 0, trap := trap, ctx := t.ctx, team := g.id.team,
    group := g.id.group, role := g.role, queue := queueField t, addr := addr, detail := detail }

/-- Records in the ring (R37): a consumer index beyond the producer counts as empty. -/
def ringUsed (p : Partition) : Nat :=
  let d := (p.evProd - p.evCons).toNat
  if d ≤ 2 ^ p.evLog2.toNat then d else 0

/-- Send an MSI-X message on the partition's function (R35, R36). -/
def sendMsix (s : State) (p : Partition) (vec : Nat) : State :=
  { s with dev := { s.dev with msixOut := s.dev.msixOut ++ [(p.link, p.vf, vec)] } }

/-- Count a lost record (R37). -/
def loseRecord (s : State) (part : Nat) : State :=
  modPart s part (fun p => { p with evLost := if p.evLost = 0xFFFFFFFF then p.evLost else p.evLost + 1 })

/-- Post an event record (R37): EV_CTL.VEC is raised when the ring goes from empty to non-empty (R36); `force` raises it even when IE is 0
(R264). -/
def postEvent (s : State) (part : Nat) (e : EventRec) (force : Bool) : State :=
  match findPart s part with
  | none => s
  | some p =>
    let n := p.evLog2.toNat
    let rec' := { e with gtc := ptime s p }
    let (s1, ok) :=
      if n < 6 || 20 < n then (loseRecord s part, false)
      else if ringUsed p = 2 ^ n then (loseRecord s part, false)
      else
        match supWrite s part (p.evBase.toNat + 64 * (p.evProd.toNat % 2 ^ n)) (eventBytes rec') with
        | none => (loseRecord s part, false)
        | some s2 => (modPart s2 part (fun q => { q with evProd := q.evProd + 1 }), true)
    let fills := ringUsed p == 0 && ringUsed { p with evProd := p.evProd + 1 } != 0
    if force || (ok && p.evIe && fills) then sendMsix s1 p p.evVec.toNat else s1

/-- A group in the handler of a first-touch page whose HOST_PAGE record is posted (R124). -/
def pagePosted (g : Group) : Group := { g with hidden := g.hidden.map (fun h => { h with page := none }) }

/-- A handler's access to [key, key + n) has found the count word of the free-page stack 0: HOST_PAGE is posted for the first-touch page
that it is in for, once (R38, R124; log 111). -/
def stackSeen (s : State) (id : GroupId) (key n : Nat) : State :=
  if !(key < ctlKey id.part 0x100C && ctlKey id.part 0x1008 < key + n) || ctlRead s id.part 0x1008 4 != 0 then s
  else
    match findGroup s id with
    | none => s
    | some g =>
      match g.hidden.bind Hidden.page with
      | none => s
      | some va => postEvent (modGroup s id pagePosted) id.part (groupRec s g 0x0003 0xFF (BitVec.ofNat 64 va) 0) false

/-- The class words that are not reserved (R262). -/
def sevClassOk (cls : Nat) : Bool := cls ≤ 0x17 || (0x20 ≤ cls && cls ≤ 0x27)

/-- The default action of a class (R262). -/
def sevDefault (cls : Nat) : Nat :=
  if cls = 0x10 then 4
  else if cls ≤ 0x17 then 3
  else if cls = 0x21 then 3
  else if cls = 0x23 then 1
  else if cls = 0x24 || cls = 0x26 || cls = 0x27 then 2
  else 0

/-- A class word with one action in every field (R263). -/
def sevFill (action : Nat) : Word := BitVec.ofNat 64 (action * 0x111111)

/-- The class word of a partition (R262, R263). -/
def sevWord (p : Partition) (cls : Nat) : Word := sget (sevFill (sevDefault cls)) p.sev cls

/-- The action for an error of a class from a source (R263): the source kind picks the field. -/
def sevAction (p : Partition) (cls source : Nat) : Nat := fld (sevWord p cls).toNat (4 * (source / 4096)) 3

/-- The record type of a class (R264). HOST_PAGE (0x0003, R38) is of no class: hostPageDue says when one is posted
(log 111). -/
def sevType (cls : Nat) : Nat :=
  if cls ≤ 0x17 then 0x0001
  else if cls = 0x20 then 0x000C
  else if cls = 0x21 then 0x000D
  else if cls = 0x22 then 0x000E
  else if cls = 0x23 then 0x0007
  else if cls = 0x24 then 0x0006
  else if cls = 0x25 then 0x000F
  else if cls = 0x26 then 0x0010
  else 0x0011

/-- The home slice of a line: a hash of physical address bits [40:7] (R110, log 9). -/
def homeOf (line : Nat) : Nat := Config.homeSlice (line % 2 ^ 34) % 128

/-- The die of a physical line's home slice (R24, R110, log 9). -/
def homeDie (key : Nat) : Nat := if homeOf (key / 128) < 64 then 0 else 1

/-- The source number of a home slice (R24). -/
def sliceSource (key : Nat) : Nat := 0x1000 + homeOf (key / 128)

/-- The source number of a per-die unit: 0 Tier Engine, 1 Merge Unit, 2 Watch Unit, 3 Work Distributor, 4 to 7 the
demotion engines (R24). -/
def unitSource (die u : Nat) : Nat := 0x4380 + die * 16 + u

/-- The source of a core's Copy Engine (0) or Wheel (1) (R24). -/
def engineSource (core e : Nat) : Nat := 0x4000 + core * 4 + e

end Sys2Proof.Machine
end

