-- ==== Sys2Proof/Machine/Watch.lean ====
section
/-! DEFINITION. The Watch Unit (R160 to R174): which elements of a store are watched, events, triggers, and their close. -/
namespace Sys2Proof.Machine

/-- A part of a watched range that lies on one page: physical key, virtual address, bytes (R162). -/
structure Span where
  key : Nat
  va : Nat
  len : Nat
deriving DecidableEq, Repr

/-- The pages of a context's range [va, hi) as spans; a page without a leaf is passed over. The recursion is on fuel. -/
def spansOf (s : State) (part ctx : Nat) : Nat → Nat → Nat → List Span
  | 0, _, _ => []
  | n + 1, va, hi =>
    if hi ≤ va then []
    else
      match pageOf s part ctx va with
      | none => spansOf s part ctx n (va - va % 4096 + 4096) hi
      | some l =>
        let top := min hi (l.va + l.size)
        ⟨leafKey l.pte va l.size, va, top - va⟩ :: spansOf s part ctx n top hi

/-- The spans of a watch entry. -/
def entrySpans (s : State) (part : Nat) (w : WatchEntry) : List Span :=
  spansOf s part w.ctx (2 ^ w.log2 / 4096 + 2) w.va (w.va + 2 ^ w.log2)

/-- The condition of R164 on an element's old and new value. -/
def watchHit (w : WatchEntry) (o n : Nat) : Bool :=
  match w.mode with
  | 0 => n != o
  | 1 => n == w.value.toNat && o != w.value.toNat
  | 2 => o < w.value.toNat && w.value.toNat ≤ n
  | _ => (BitVec.ofNat 64 n &&& ~~~(BitVec.ofNat 64 o) &&& w.mask) != 0

/-- An event: the element's address in the entry's context, its new value. -/
structure WEvent where
  addr : Nat
  n : Nat
deriving DecidableEq, Repr

/-- The events of a write of `len` bytes at physical `key` on one span, in increasing address order (R164): `m0` is memory
before, `m1` after. -/
def spanEvents (w : WatchEntry) (m0 m1 : Memory) (key len : Nat) (sp : Span) : List WEvent :=
  let lo := max key sp.key
  let hi := min (key + len) (sp.key + sp.len)
  if hi ≤ lo then []
  else
    let first := lo - lo % w.elem
    (List.range ((hi - first + w.elem - 1) / w.elem)).filterMap (fun k =>
      let e := first + w.elem * k
      let o := mread m0 e w.elem
      let n := mread m1 e w.elem
      if watchHit w o n then some ⟨sp.va + e - sp.key, n⟩ else none)

/-- The watch entries of a partition, and `f` applied to entry `idx`. -/
def modWatch (s : State) (part idx : Nat) (f : WatchEntry → WatchEntry) : State :=
  modPart s part (fun p => { p with watches := modBy (fun w => w.idx == idx) f p.watches })

/-- The entry of that index, if it is not FREE (R160). -/
def findWatch (p : Partition) (idx : Nat) : Option WatchEntry := p.watches.find? (fun w => w.idx == idx && w.state != 0)

/-- How long ago a task was created, in task numbers, which wrap (R47). -/
def taskAge (p : Partition) (t : Task) : Nat := (p.nextTask + (2 ^ 32 - 1) - t.num) % (2 ^ 32 - 1)

/-- The open triggers of an entry, oldest first: triggered tasks in the order of their creation (R167). -/
def openTrigs (s : State) (part idx : Nat) : List Task :=
  let mine := fun (t : Task) => t.part == part && (t.trig.map (fun r => r.isOpen && r.entry == idx)).getD false
  match findPart s part with
  | none => []
  | some p => sortBy (fun x y => taskAge p y ≤ taskAge p x) ((allTasks s).filter mine)

/-- Disarm an entry and post RUNAWAY (R167): reason 1 depth, 2 rate. -/
def disarm (s : State) (part : Nat) (w : WatchEntry) (reason depth addr die : Nat) : State :=
  let s1 := modWatch s part w.idx (fun x => { x with state := 2, reason := reason })
  let d := det [(0, w.idx), (2, reason), (3, depth), (8, addr)]
  postEvent s1 part (noneRec 0x0002 (unitSource die 2) w.ctx (BitVec.ofNat 64 w.va) d) false

/-- The first task number from `n` on that is not 0 and names no task of a partition (R387). The recursion is on fuel. -/
def taskFrom (s : State) (part : Nat) : Nat → Nat → Nat
  | 0, n => n
  | k + 1, n =>
    let m := n % 2 ^ 32
    if m = 0 || (findTask s part m).isSome then taskFrom s part k (m + 1) else m

/-- The number of a partition's next task (R387). -/
def freshTask (s : State) (p : Partition) : Nat := taskFrom s p.num ((allTasks s).length + 2) p.nextTask

/-- Add a task with the next task number to a queue of waiting tasks: `fork` chooses QF, else QT (R48, R387). -/
def enqueueTask (s : State) (part : Nat) (t : Task) (fork : Bool) : State :=
  match findPart s part with
  | none => s
  | some p =>
    let num := freshTask s p
    let s1 := modPart s part (fun q =>
      { q with nextTask := num % (2 ^ 32 - 1) + 1,
               qf := if fork then q.qf ++ [num] else q.qf, qt := if fork then q.qt else q.qt ++ [num] })
    addTask s1 { t with live := true, part := part, num := num, left := t.hi - t.lo }

/-- The range task of a watch entry with a trigger record (R47, R167). -/
def trigTask (w : WatchEntry) (r : TrigRec) : Task :=
  { noTask with ctx := w.ctx, source := 2, kernel := w.kernel, arg := w.arg, lo := 0, hi := w.teams,
                tickets := if w.tickets = 0 then 1 else w.tickets, chain := r.depth, trig := some r }

/-- Create a trigger if the rate check passes, else disarm (R167, R168). Answers whether it was created. -/
def createTrig (s : State) (part idx : Nat) (r : TrigRec) (addr die : Nat) : State × Bool :=
  match findPart s part with
  | none => (s, false)
  | some p =>
    match findWatch p idx with
    | none => (s, false)
    | some w =>
      let win := (ptime s p).toNat / 2 ^ w.rateExp
      let cnt := if w.winStart = win then w.winCount else 0
      if w.rateCount != 0 && cnt == w.rateCount then (disarm s part w 2 r.depth addr die, false)
      else
        let s1 := modWatch s part idx (fun x =>
          { x with winStart := win, winCount := cnt + 1, created := incSat 0xFFFFFFFF x.created })
        (enqueueTask s1 part (trigTask w r) false, true)

/-- One event on one entry (R167). -/
def watchEvent (s : State) (part idx : Nat) (e : WEvent) (depth source die : Nat) : State :=
  match findPart s part with
  | none => s
  | some p =>
    match findWatch p idx with
    | none => s
    | some w =>
      if w.state != 1 then s
      else
        let key := if w.coalesce = 0 then e.addr else if w.coalesce = 1 then e.addr - e.addr % 128 else 0
        let stamp := stampOf (ptime s p) source
        let opens := openTrigs s part idx
        let found := opens.find? (fun t => (t.trig.map (fun r => r.key == key)).getD false)
        let t? := match found with
          | some t => some (t, false)
          | none => if 64 ≤ opens.length then opens.head?.map (fun t => (t, true)) else none
        match t? with
        | some (t, merged) =>
          match t.trig with
          | none => s
          | some r =>
            if w.chain < max r.depth depth then
              let s1 := modTask s part t.num (fun u => { u with trig := some { r with merged := r.merged || merged } })
              disarm s1 part w 1 (max r.depth depth) e.addr die
            else
              let fresh := t.started && r.since == 0
              let r1 := { r with
                merged := r.merged || merged, count := incSat 0xFFFFFFFF r.count, latest := BitVec.ofNat 64 e.n,
                stamp2 := stamp, depth := max r.depth depth,
                since := if t.started then incSat 0xFFFFFFFF r.since else r.since,
                sinceAddr := if fresh then e.addr else r.sinceAddr,
                sinceFirst := if fresh then BitVec.ofNat 64 e.n else r.sinceFirst,
                sinceStamp := if fresh then stamp else r.sinceStamp }
              modTask s part t.num (fun u =>
                { u with trig := some r1, chain := if u.started then u.chain else r1.depth })
        | none =>
          if w.chain < depth then disarm s part w 1 depth e.addr die
          else
            let n := BitVec.ofNat 64 e.n
            (createTrig s part idx
              { entry := idx, key := key, isOpen := true, count := 1, merged := false, rearm := false, depth := depth,
                addr := e.addr, first := n, latest := n, stamp1 := stamp, stamp2 := stamp, since := 0, sinceAddr := 0,
                sinceFirst := 0, sinceStamp := 0 } e.addr die).1

/-- Of the events of one 128-byte line, the first (R165). -/
def firstPerLine : List WEvent → List Nat → List WEvent
  | [], _ => []
  | e :: r, seen => if seen.contains (e.addr / 128) then firstPerLine r seen else e :: firstPerLine r (e.addr / 128 :: seen)

/-- Compare a write of `len` bytes at `key` against a partition's armed entries (R164, R165): `m0` is memory before the
write, `depth` the chain depth of the writing task. -/
def watchWrite (s : State) (part : Nat) (m0 : Memory) (key len depth source : Nat) (publish : Bool) : State :=
  match findPart s part with
  | none => s
  | some p =>
    p.watches.foldl (fun acc w =>
      if w.state != 1 then acc
      else
        let evs := (entrySpans acc part w).flatMap (spanEvents w m0 acc.mem key len)
        let evs := if publish then firstPerLine evs [] else evs
        evs.foldl (fun a e => watchEvent a part w.idx e (depth + 1) source (homeDie key)) acc) s

/-- The record of a re-trigger (R168). -/
def rearmOf (r : TrigRec) : TrigRec :=
  { entry := r.entry, key := r.key, isOpen := true, count := r.since, merged := false, rearm := true, depth := r.depth,
    addr := r.sinceAddr, first := r.sinceFirst, latest := r.latest, stamp1 := r.sinceStamp, stamp2 := r.stamp2, since := 0,
    sinceAddr := 0, sinceFirst := 0, sinceStamp := 0 }

/-- Create a re-trigger, or hold it for WARM (R168). The spec does not say whose Watch Unit disarms the entry where the rate check
refuses it; the model takes that of die 0 (log 109). -/
def retrigger (s : State) (part : Nat) (r : TrigRec) : State :=
  match (findPart s part).bind (fun p => findWatch p r.entry) with
  | none => s
  | some w =>
    let hold := fun (u : State) => modWatch u part r.entry (fun x => { x with held := x.held ++ [r] })
    if w.state = 2 then hold s
    else
      let (s1, ok) := createTrig s part r.entry r r.addr 0
      if ok then s1 else hold s1

/-- Close a task's open trigger (R168); `re` allows the re-trigger. -/
def closeTrig (s : State) (part num : Nat) (re : Bool) : State :=
  match (findTask s part num).bind (fun t => t.trig) with
  | none => s
  | some r =>
    if !r.isOpen then s
    else
      let s1 := modTask s part num (fun t => { t with trig := some { r with isOpen := false } })
      if re && r.since != 0 then retrigger s1 part (rearmOf r) else s1

end Sys2Proof.Machine
end

