-- ==== Sys2Proof/Machine/Tasks.lean ====
section
/-! DEFINITION. Barriers, the end of tasks, killing groups and contexts, partition RESET, the severity matrix (R35, R42,
R132, R153, R262 to R268, R338, R339). -/
namespace Sys2Proof.Machine

/-- The cores of a partition, ascending. -/
def coresOf (p : Partition) : List Nat := (List.range 216).filter (fun c => p.twins.contains (c / 2))

/-- The kernel of a task. -/
def kernelFor (s : State) (part task : Nat) : Kernel := ((findTask s part task).getD noTask).kernel

/-- A kernel whose team takes a twin (R54, R67). -/
def twinKernel (k : Kernel) : Bool := 4096 < k.groups * k.width

/-- What `f` gives for a core, or on the odd core of a twin for its even core where that is a twin kernel's (R49, R54). -/
def twinAt (s : State) (f : Core → Option Share) (c : Nat) : Option Share :=
  match f (coreOf s c) with
  | some sh => some sh
  | none => if c % 2 = 0 then none else (f (coreOf s (c - 1))).filter (fun sh => twinKernel (kernelFor s sh.part sh.task))

/-- The share that a core holds (R49). -/
def shareAt (s : State) (c : Nat) : Option Share := twinAt s Core.share c

/-- The share that a core gets when its pre-empted teams are saved (R62). -/
def bookedAt (s : State) (c : Nat) : Option Share := twinAt s Core.booked c

/-- A core is idle when it holds no share, or one with cur = hi (R49), and none waits for it (R62). -/
def idleCore (s : State) (c : Nat) : Bool :=
  ((shareAt s c).map (fun sh => decide (sh.hi ≤ sh.cur))).getD true && (bookedAt s c).isNone

/-- A core that is neither HOT nor DROOPY (R57). -/
def coolCore (s : State) (c : Nat) : Bool := !(coreOf s c).hot && !(coreOf s c).droopy

/-- Some idle core of a partition is cool (R58). -/
def idleCool (s : State) (p : Partition) : Bool := (coresOf p).any (fun c => idleCore s c && coolCore s c)

/-- The time since when a partition has had no idle cool core (R58): it ends, and with it the leave of hot cores to ask, when there is
one. -/
def noteCool (s : State) (part : Nat) : State :=
  modPart s part (fun p =>
    if idleCool s p then { p with hotSince := none, hotMayAsk := false }
    else { p with hotSince := some (p.hotSince.getD s.dev.gtc) })

/-- A group's scalar stream has executed EXIT, whatever its handler runs (R256, R338). -/
def hasExited (g : Group) : Bool := g.sc.exited || (g.hidden.map Hidden.exited).getD false

/-- A group that a team barrier counts: it has not executed EXIT, and was not killed (R268, R338). -/
def barLive (g : Group) : Bool := !hasExited g && !g.killed && !g.ended

/-- Complete a barrier's phase: the generation advances and the arrivals clear (R338, R339). -/
def barComplete (b : BarState) : BarState := { b with gen := b.gen + 1, arrived := [] }

/-- The team barrier after its arrivals are looked at (R338). -/
def barCheck (gs : List Group) (b : BarState) : BarState :=
  if !b.arrived.isEmpty && ((gs.filter barLive).all (fun g => b.arrived.contains g.id.group)) then barComplete b else b

/-- A named barrier after its arrivals are looked at; `killed` groups of the team reduce n, never below 1 (R339). -/
def namedCheck (killed : Nat) (b : BarState) : BarState :=
  if !b.arrived.isEmpty && max 1 (b.n - killed) ≤ b.arrived.length then barComplete b else b

/-- A barrier that no phase has used (R338, R339). -/
def noBar : BarState := { gen := 0, n := 0, arrived := [] }

/-- Look at every barrier of a team again. -/
def teamBars (s : State) (part task idx : Nat) : State :=
  let gs := teamGroups s part task idx
  modTeam s part task idx (fun t =>
    { t with bar := barCheck gs t.bar, named := t.named.map (fun e => (e.1, namedCheck t.killed e.2)) })

/-- The number of a group's quad among those of its team (R88): 4 to 7 on the odd core of a twin. -/
def quadKey (t : Team) (g : Group) : Nat := (if t.twin && g.core % 2 == 1 then 4 else 0) + g.quad

/-- A team without a killed group's arrivals and claims, its allotment in F, and one more group killed (R267, R268, R339). -/
def teamLoses (g : Group) (t : Team) : Team :=
  let drop := fun (b : BarState) => { b with arrived := b.arrived.filter (fun k => k != g.id.group) }
  { t with killed := t.killed + 1, bar := drop t.bar, named := t.named.map (fun e => (e.1, drop e.2)),
           claims := t.claims.filter (fun c => c.group != g.id.group),
           freeBlocks := sput 0 t.freeBlocks (quadKey t g) (sget 0 t.freeBlocks (quadKey t g) + g.allot / 4) }

/-- The slot state after a fill that ended with a code other than 0 and 4 (R206). -/
def slotFailed (x : Slot) : Slot := if x.st == .filling then { x with st := .claimed } else x

/-- A slot of a team that holds nothing (R230, R347). -/
def noSlot : Slot := { st := .free, data := [] }

/-- Slot `k` of a team. -/
def slotOf (t : Team) (k : Nat) : Slot := sget noSlot t.slots k

/-- A team with slot `k` changed. -/
def modSlot (t : Team) (k : Nat) (f : Slot → Slot) : Team := { t with slots := sput noSlot t.slots k (f (slotOf t k)) }

/-- The slot that a copy fills, if it fills one (R201, R429). -/
def copySlot (c : Copy) : Option Nat :=
  match c.kind with
  | .tensor r => if r.kind = 1 then some (r.dest % 16) else none
  | .slot _ k _ => some k
  | .lanes _ _ _ => none

/-- The quad's lane slot without this group (R80). -/
def freeSlotOwner (s : State) (g : Group) : State :=
  let q := quadOf s g.core g.quad
  if q.owner == some g.id then putQuad s g.core g.quad { q with owner := none } else s

/-- Some unretired batch of the team holds a command on slot `k` (R230): a killed group's too, until the group has ended (R368, log
31). -/
def slotHeld (s : State) (part task idx k : Nat) : Bool :=
  (teamGroups s part task idx).any (fun g => !g.ended && g.en.batches.any (fun b => !b.retired && b.slots.contains k))

/-- IN-USE slots that no unretired batch holds become READY (R230). -/
def settleSlots (s : State) (part task idx : Nat) : State :=
  let free := fun (e : Nat × Slot) =>
    if e.2.st == .inUse && !slotHeld s part task idx e.1 then (e.1, { e.2 with st := .ready }) else e
  modTeam s part task idx (fun t => { t with slots := t.slots.map free })

/-- A status word (R198). -/
def statusWord (code bytes : Nat) : Nat := 1 + 2 * code + bytes * 65536

/-- The lanes of a lane copy that has not ended get code 5 (R198, R211). -/
def abandonLanes (g : Group) (c : Copy) (ls : List LaneCopy) : Group :=
  (ls.filter (fun x => !c.lanesDone.contains x.lane)).foldl (fun h x =>
    if c.dst < 0x1F0 then vputN h c.dst x.lane 2 (statusWord 5 0) else h) g

/-- The status words of a copy that ends with code 5 (R198, R211): a copy to global memory has delivered nothing. -/
def abandonWords (g : Group) (c : Copy) : Group :=
  match c.kind with
  | .tensor r => landSreg g c.sup c.dst (BitVec.ofNat 64 (statusWord 5 (if r.kind = 2 then 0 else c.bytes)))
  | .lanes _ _ ls => abandonLanes g c ls
  | .slot _ _ ls => abandonLanes g c ls

/-- Kill a group (R267): its queues and frame are discarded, its copies end with code 5, its unstarted tile commands drop,
its team goes on without it, and the team's slots stay as they are (R368). -/
def killGroup (s : State) (id : GroupId) : State :=
  match findGroup s id with
  | none => s
  | some g =>
    if g.killed || g.ended then s
    else
      let filled := g.en.copies.filterMap (fun c => if c.started then copySlot c else none)
      let s0 := modPart (modGroup s id (fun h => h.en.copies.foldl abandonWords h)) id.part (fun p =>
        g.en.copies.foldl (fun q c => tlbForget q (copyUnit g.core c.id)) p)
      let s1 := modGroup s0 id (fun h =>
        { h with killed := true, trapPend := none, hidden := none, sup := false, skipS := false, skipL := none,
                 q := { dq := [], vq := [], rq := [] }, sc := { h.sc with barWait := none, sbWait := none },
                 en := { h.en with copies := [], cp := 0 } })
      let s2 := modTeamOf s1 id (fun t => filled.foldl (fun u k => modSlot u k slotFailed) (teamLoses g t))
      let s3 := modCore s2 g.core (fun c => { c with wheelQ := c.wheelQ.filter (fun w => w.group != id) })
      let s4 := freeSlotOwner (modTask s3 id.part id.task (fun t => { t with killedAny := true })) g
      teamBars s4 id.part id.task id.team

/-- The completion word of a launch (R35): done, code, partition time. -/
def complWord (t : Word) (code : Nat) : Nat := 1 + 2 * code + t.toNat % 2 ^ 48 * 65536

/-- Write a completion word in the supervisor context (R28, R35); a word that cannot be written is lost (log 18). -/
def writeCompl (s : State) (part va code : Nat) : State :=
  match findPart s part with
  | none => s
  | some p => (supWrite s part va (natBytes 8 (complWord (ptime s p) code))).getD s

/-- Give frames back to the ancestor pool stack (R152, R374), read in the supervisor context. -/
def poolPush (s : State) (part : Nat) : List Nat → State
  | [] => s
  | f :: r =>
    let top := ctlRead s part 0x4008 4
    let base := ctlRead s part 0x4000 8
    match supWrite s part (base + 8 * top) (natBytes 8 f) with
    | none => poolPush s part r
    | some s1 => poolPush (ctlWrite s1 part 0x4008 4 (top + 1)) part r

/-- Count pool frames in use (R152). -/
def poolUse (s : State) (part : Nat) (up down : Nat) : State :=
  ctlWrite s part 0x4010 4 (ctlRead s part 0x4010 4 + up - down)

/-- Every frame that a revision holds. -/
def revFrames (r : Revision) : List Nat :=
  r.grans.flatMap (fun g => g.anc.toList ++ g.child.toList ++ g.merge.toList)

/-- A revision is open until its join has published (R147). -/
def revOpen (r : Revision) : Bool := r.state < 4

/-- Close a revision with a state and a result word: its frames return to the pool, but for an ancestor copy that another
open revision still needs (R151, R153). -/
def closeRev (s : State) (part num state word : Nat) : State :=
  match findPart s part with
  | none => s
  | some p =>
    let mine := (p.revs.filter (fun r => r.num == num)).flatMap revFrames
    let others := (p.revs.filter (fun r => r.num != num && revOpen r)).flatMap revFrames
    let fr := mine.filter (fun f => !others.contains f)
    let close := fun (x : Revision) =>
      { x with state := state, word := BitVec.ofNat 64 word, grans := [] }
    let s1 := modPart s part (fun p => { p with revs := modBy (fun x => x.num == num) close p.revs })
    poolPush (poolUse s1 part 0 fr.length) part fr

/-- The open child revisions of a task, in fork order (R156). -/
def openChildren (s : State) (part num : Nat) : List Revision :=
  match findPart s part with
  | none => []
  | some p => p.revs.filter (fun r => r.parent == num && revOpen r)

/-- The page of a leaf as a whole: the key of its first entry, its base and its size; 16 CONTIG entries are one page
(R115). -/
def wholePage (l : Leaf) : Nat × Nat × Nat :=
  if l.level = 0 && bit l.pte 2 then (l.key - 8 * (l.va / 4096 % 16), l.va - l.va % 65536, 65536) else (l.key, l.va, l.size)

/-- Rewrite every entry of a page, numbered from 0, and drop the page from the TLB. -/
def rewritePage (s : State) (part ctx : Nat) (l : Leaf) (f : Nat → Nat → Nat) : State :=
  let (key, va, size) := wholePage l
  let n := if size = 65536 then 16 else 1
  let mem := (List.range n).foldl (fun m k => mwrite m (key + 8 * k) 8 (f k (mread m (key + 8 * k) 8))) s.mem
  modPart (markDirtyRange { s with mem := mem } part key (8 * n)) part (fun p =>
    tlbDrop p (fun t => t.ctx == ctx && va ≤ t.va && t.va < va + size))

/-- An entry with TIER replaced (R116). -/
def withTier (e tier : Nat) : Nat := e - fld e 5 3 * 32 + tier * 32

/-- Change TIER of a page in place, keeping its frame; only lines of T0 pages stay pinned in the L2 (R112, R121). -/
def setTier (s : State) (part ctx va tier : Nat) : State :=
  match pageOf s part ctx va with
  | none => s
  | some l =>
    let (_, base, size) := wholePage l
    let line0 := (leafKey l.pte l.va l.size - (l.va - base)) / 128
    let unpin := fun (x : L2Line) => { x with pinned := x.pinned && tier == 0 }
    let s1 := rewritePage s part ctx l (fun _ e => withTier e tier)
    { s1 with dev := { s1.dev with l2 := modBy (fun x => line0 ≤ x.line && x.line < line0 + size / 128) unpin s1.dev.l2 } }

/-- A page of a context is held by a PIN of some task. -/
def pinnedBy (p : Partition) (ctx va : Nat) : Bool := p.holds.any (fun h => h.pin && h.ctx == ctx && h.va == va)

/-- A partition whose STATE is ready or running and that is not being frozen (R30, R140). -/
def activePart (p : Partition) : Bool := (p.state == 1 || p.state == 2) && p.keptCtl.isNone

/-- End the holds that satisfy `f`; a T0 page whose last PIN hold ends is released into T1 by a move of `inst` (R130, R133,
R134), which a partition that freezes still owes (R140). -/
def endHolds (s : State) (part : Nat) (inst : Option Instance) (f : Hold → Bool) : State :=
  match findPart s part with
  | none => s
  | some p =>
    let gone := p.holds.filter f
    let s1 := modPart s part (fun q => { q with holds := dropBy f q.holds })
    gone.foldl (fun u h =>
      let still := ((findPart u part).map (fun q => pinnedBy q h.ctx h.va)).getD false
      match pageOf u part h.ctx h.va with
      | none => u
      | some l =>
        let (key, base, size) := wholePage l
        if h.pin && !still && !bit l.pte 63 && fld l.pte 5 3 == 0 then
          modPart u part (fun q =>
            if (q.moves ++ q.owed).any (fun m => m.ctx == h.ctx && m.va == base) then q
            else if activePart q then { q with moves := q.moves ++ [⟨h.ctx, base, size, key, 1, inst, 0⟩] }
            else { q with owed := q.owed ++ [⟨h.ctx, base, size, key, 1, inst, 0⟩] })
        else u) s1

/-- The task can end: no index unstarted, every started team gone, no open child revision (R35, R153, R156). -/
def taskDone (s : State) (t : Task) : Bool := t.left == 0 && !t.ended && (openChildren s t.part t.num).isEmpty

/-- End a task whose teams are all gone (R132, R153, R168, R374): its holds and reservation end, its trigger closes, its
own revision can be joined, its PINs in transit go to T1, its released drops keep their places (R133). -/
def finishTask (s : State) (part num : Nat) : State :=
  match findTask s part num with
  | none => s
  | some t =>
    if !taskDone s t then s
    else
      let isPin := fun (i : Instance) => ((t.tt.bind (fun b => b.entries[i.entry]?)).map (fun e => e.kind == 3)).getD false
      let s0 := modPart s part (fun p => { p with moves := p.moves.map (fun m =>
        if (m.inst.map (fun i => i.task == num && isPin i)).getD false then { m with tier := 1, inst := none } else m) })
      let s1 := endHolds s0 part none (fun h => h.inst.task == num)
      let s2 := poolPush s1 part t.reserve
      let s3 := closeTrig s2 part num true
      let s4 := modTask s3 part num (fun u => { u with ended := true, reserve := [], tt := none })
      let own := fun (r : Revision) => r.num == t.rev && t.rev != 0 && r.state == 1
      let endRev := fun (r : Revision) => { r with state := 2, killed := r.killed || t.killedAny || t.ctxKilled }
      modPart s4 part (fun p =>
        { p with insts := p.insts.filter (fun i => i.task != num || p.drops.any (fun d => d.inst == i && !d.begun)),
                 shorts := p.shorts.filter (fun i => i.task != num),
                 revs := modBy own endRev p.revs })

/-- Groups and tasks of a cancelled set of tasks: the unstarted parts go, the resident and saved teams are killed (R42,
R264). `f` picks the tasks. -/
def cancelTasks (s : State) (part : Nat) (f : Task → Bool) : State :=
  let nums := ((allTasks s).filter (fun t => t.part == part && !t.ended && f t)).map Task.num
  let hit := fun (n : Nat) => nums.contains n
  let gs := ((allGroups s).filter (fun g => g.id.part == part && hit g.id.task)).map Group.id
  let s1 := gs.foldl killGroup s
  let saved := (allTeams s1).filter (fun t => t.part == part && hit t.task && t.saved)
  let isSaved := fun (g : Group) => g.id.part == part && saved.any (fun t => t.task == g.id.task && t.index == g.id.team)
  let stays := fun (sh : Share) => !(sh.part == part && hit sh.task)
  let noShare := fun (c : Core) => { c with share := c.share.filter stays, booked := c.booked.filter stays }
  let savedTeam := fun (t : Team) => t.part == part && hit t.task && t.saved
  let s2 := { s1 with
    g := if isSaved s1.g then noGroup else s1.g, groups := dropBy isSaved s1.groups,
    tm := if savedTeam s1.tm then noTeam else s1.tm, teams := dropBy savedTeam s1.teams,
    cores := s1.cores.map noShare }
  let keep := fun (r : Resume) =>
    match r with
    | .team k _ => !hit k
    | .range k _ _ => !hit k
  let s3 := modPart s2 part (fun p =>
    let qf := p.qf.filter (fun n => !hit n)
    let qt := p.qt.filter (fun n => !hit n)
    { p with qf := qf, qt := qt, waiters := p.waiters.filter (fun n => !hit n), pending := p.pending.filter (fun n => !hit n), resume := p.resume.filter keep,
             ages := dropBy (fun e => (e.1 == 64 && qf.isEmpty) || (e.1 == 65 && qt.isEmpty)) p.ages })
  let resident := fun (n : Nat) => ((allTeams s3).filter (fun t => t.part == part && t.task == n)).length
  let s4 := modTasks s3 (fun t => t.part == part && hit t.num) (fun t =>
    { t with ctxKilled := true, killedAny := true, left := resident t.num })
  nums.foldl (fun u n => finishTask u part n) (noteCool s4 part)

/-- The completion of a launch record (R35): the word, then the message where the record asks for it. -/
def completeLaunch (s : State) (part complVA code : Nat) (msix : Bool) (vec : Nat) : State :=
  let s1 := writeCompl s part complVA code
  match findPart s1 part with
  | none => s1
  | some p => if msix then sendMsix s1 p vec else s1

/-- Whether the record at `va` asks for an MSI-X message, and its vector, as far as the record can be read (R31, R34). -/
def recordMsix (s : State) (part va : Nat) (q : Queue) : Bool × Nat :=
  match supRead s part (va + 0x20) 8 with
  | none => (false, 0)
  | some w =>
    let vec := if fld w 16 8 = 0xFF then q.vec.toNat else fld w 16 8
    (bit w 8 && vec ≤ 63, vec)

/-- Clear the window of a queue at RESET: code 3 in the completion word of each record between HEAD and tail, and its message (R35,
R42). -/
def resetRecords (s : State) (part : Nat) (q : Queue) : Nat → Nat → State
  | 0, _ => s
  | n + 1, h =>
    let va := q.base.toNat + 128 * (h % 2 ^ q.log2n.toNat)
    let (msix, vec) := recordMsix s part va q
    resetRecords (completeLaunch s part (va + 0x78) 3 msix vec) part q n (h + 1)

/-- RESET with INSPECT 0 (R42, R174): every context is killed, started launches whose word is due and waiting records get code 3, HEAD
becomes the tail; memory, keys, watches and quotas stay. A queue whose tail word cannot be read keeps HEAD (log 116). -/
def resetPart (s : State) (part : Nat) : State :=
  let launches := (allTasks s).filter (fun t => t.part == part && t.source == 0)
  let shut := fun (t : Task) => { t with trig := t.trig.map (fun r => { r with isOpen := false, since := 0 }) }
  let s0 := modTasks s (fun t => t.part == part && !t.ended) shut
  let s1 := modPart s0 part (fun p => { p with state := 4 })
  let s2 := cancelTasks s1 part (fun _ => true)
  let s3 := launches.foldl (fun u t => completeLaunch u part t.complVA 3 t.msix t.vector) s2
  let s4 := modTasks s3 (fun t => t.part == part && t.source == 0) (fun t => { t with source := 3 })
  let qs := match findPart s4 part with | none => [] | some p => p.queues
  let s5 := qs.foldl (fun u e =>
    let q := e.2
    match supRead u part q.tailva.toNat 4 with
    | none => u
    | some tail =>
      let n := if 4 ≤ q.log2n.toNat && q.log2n.toNat ≤ 16 then
        min ((BitVec.ofNat 32 tail - q.head).toNat) (2 ^ q.log2n.toNat) else 0
      let u1 := resetRecords u part q n q.head.toNat
      let q1 := { q with head := BitVec.ofNat 32 tail, tail := BitVec.ofNat 32 tail }
      modPart u1 part (fun p => { p with queues := p.queues.map (fun f => if f.1 = e.1 then (f.1, q1) else f) })) s4
  modPart s5 part (fun p => { p with state := if p.run then 2 else 1, ages := [] })

/-- Take an action of the severity matrix (R264). `victims` are the groups whose state holds the failing bits. -/
def doAction (s : State) (part action : Nat) (victims : List GroupId) (ctx : Nat) : State :=
  if action = 3 then victims.foldl killGroup s
  else if action = 4 then cancelTasks s part (fun t => t.ctx == ctx)
  else if action = 5 then resetPart s part
  else s

/-- Handle an error through the severity matrix (R262 to R264): `atLeast` is 3 for an escalated trap; the records of types
0x0002 to 0x000B are posted whatever the matrix holds. -/
def severity (s : State) (part cls atLeast : Nat) (e : EventRec) (victims : List GroupId) : State :=
  match findPart s part with
  | none => s
  | some p =>
    let a := max atLeast (sevAction p cls e.source)
    let ty := sevType cls
    let s1 := if a != 0 || (2 ≤ ty && ty ≤ 0xB) then postEvent s part { e with type := ty, action := a } (2 ≤ a) else s
    doAction s1 part a victims e.ctx

/-- An error that names no group. -/
def severityUnit (s : State) (part cls source ctx addr : Nat) (victims : List GroupId) : State :=
  severity s part cls 0 (noneRec 0 source ctx (BitVec.ofNat 64 addr) 0) victims

end Sys2Proof.Machine
end

