-- ==== Sys2Proof/Machine/Revision.lean ====
section
/-! DEFINITION. Revisions (R142 to R156): which copy of a granule an access sees, and the copies a write makes first. -/
namespace Sys2Proof.Machine

/-- The granule of an address. -/
def granVA (va : Nat) : Nat := va - va % 4096

/-- The line bit of an address in its granule (R151). -/
def lineBitOf (va : Nat) : BitVec 32 := BitVec.ofNat 32 (2 ^ (va % 4096 / 128))

/-- A region holds the address (R143). -/
def regionHas (r : Region) (va : Nat) : Bool := r.va ≤ va && va < r.va + 4096 * r.granules

/-- An open revision covers an address of its context. -/
def revCovers (r : Revision) (ctx va : Nat) : Bool := revOpen r && r.ctx == ctx && r.regions.any (fun g => regionHas g va)

/-- The revision of a number in a partition. -/
def findRev (p : Partition) (num : Nat) : Option Revision := p.revs.find? (fun r => r.num == num)

/-- The entry of a granule, empty where nothing was written (R151). -/
def granOf (r : Revision) (va : Nat) : Gran :=
  (r.grans.find? (fun g => g.va == granVA va)).getD ⟨granVA va, none, none, 0, 0, none, none⟩

/-- `f` applied to a granule's entry. -/
def modGran (r : Revision) (va : Nat) (f : Gran → Gran) : Revision :=
  { r with grans := putBy (fun g => g.va == granVA va) (f (granOf r va)) r.grans }

/-- `f` applied to the revision of a number. -/
def modRev (s : State) (part num : Nat) (f : Revision → Revision) : State :=
  modPart s part (fun p => { p with revs := modBy (fun r => r.num == num) f p.revs })

/-- The copy that a reader of revision `rev` sees at an address of its context (R150): a frame, or `none` for the page's own
frame. The recursion is on fuel, one for each revision depth. -/
def viewFrame (p : Partition) (ctx va : Nat) : Nat → Nat → Option Nat
  | 0, _ => none
  | n + 1, rev =>
    match findRev p rev with
    | none => none
    | some r =>
      if !revCovers r ctx va then none
      else
        let g := granOf r va
        match g.child, g.anc with
        | some f, _ => some f
        | none, some f => some f
        | none, none => viewFrame p ctx va n r.parentRev

/-- The physical key that a task reads at an address whose own frame is at `key` (R150). -/
def viewKey (p : Partition) (ctx rev va key : Nat) : Nat :=
  match viewFrame p ctx va 9 rev with
  | some f => physKey 0 (f + va % 4096)
  | none => key

/-- The revision whose copy a write of a task goes to: its own where its regions cover the address, else 0 (R150). -/
def writeSide (p : Partition) (ctx rev va : Nat) : Nat :=
  match findRev p rev with
  | none => 0
  | some r => if revCovers r ctx va then rev else 0

/-- The address of physical `key` in a revision's regions, through its context's pages (R151). -/
def revVA (s : State) (part : Nat) (r : Revision) (key : Nat) : Option Nat :=
  let spans := r.regions.flatMap (fun g => spansOf s part r.ctx (g.granules + 2) g.va (g.va + 4096 * g.granules))
  (spans.find? (fun sp => sp.key ≤ key && key < sp.key + sp.len)).map (fun sp => sp.va + key - sp.key)

/-- The open revisions for which a write to side `side` is a parent-side write, with the address in each (R147, R151). -/
def parentSides (s : State) (part ctx side va key : Nat) : List (Revision × Nat) :=
  match findPart s part with
  | none => []
  | some p =>
    p.revs.filterMap (fun r =>
      if !revOpen r then none
      else if side != 0 then if r.parentRev == side && revCovers r ctx va then some (r, va) else none
      else
        match revVA s part r key with
        | none => none
        | some v => if writeSide p r.ctx r.parentRev v = 0 then some (r, v) else none)

/-- Draw a frame for a copy: the task's reservation first, then the pool stack (R152, R374). -/
def drawFrame (s : State) (part task : Nat) : Option (Nat × State) :=
  match (findTask s part task).map Task.reserve with
  | some (f :: r) => some (f, poolUse (modTask s part task (fun t => { t with reserve := r })) part 1 0)
  | _ =>
    let top := ctlRead s part 0x4008 4
    if top = 0 then none
    else
      match supRead s part (ctlRead s part 0x4000 8 + 8 * (top - 1)) 8 with
      | none => none
      | some f => some (f, poolUse (ctlWrite s part 0x4008 4 (top - 1)) part 1 0)

/-- The poisoned lines once the lines of [src, src + n) have been copied to `dst`: the copy is poisoned where its source is (R265, R266). -/
def poisonCopied (l : List Nat) (src dst n : Nat) : List Nat :=
  let inside := fun (key k : Nat) => key ≤ k * 64 && k * 64 < key + n
  dropBy (inside dst) l ++ (l.filter (inside src)).map (fun k => k - src / 64 + dst / 64)

/-- Copy a granule of 4 KiB from one key to another. -/
def copyGran (s : State) (part src dst : Nat) : State :=
  let s1 := l1Drop (partPuts s part dst (mbytes s.mem src 4096)) dst 4096
  { s1 with dev := { s1.dev with poison := poisonCopied s1.dev.poison src dst 4096 } }

/-- The detail of REVISION_POOL (R433): 0 ANCESTOR, 1 CHILD, 2 MERGE, 3 ENTRIES. -/
def poolDetail (rev code : Nat) : BitVec 192 := det [(0, rev), (4, code)]

/-- The trap of a revision write: its number, the granule it names, the detail. -/
structure RevTrap where
  num : Nat
  addr : Nat
  detail : BitVec 192
deriving DecidableEq, Repr

/-- What a write must do before it performs (R151, R153): the key it writes and the state with its copies made, a trap, or a
stall behind a join. -/
inductive Prep where
  | ok (key : Nat) (s : State)
  | trap (t : RevTrap)
  | stall

/-- Give every open revision with the same parent side and no ancestor copy of the granule the frame `f` (R151). -/
def shareAnc (s : State) (part : Nat) (rs : List (Revision × Nat)) (f : Nat) : State :=
  rs.foldl (fun u rv => modRev u part rv.1.num (fun r => modGran r rv.2 (fun g =>
    { g with anc := if g.anc.isNone then some f else g.anc }))) s

/-- An ancestor copy among those of `rs` that still equals the granule: the parent side has not written since (R151). -/
def sameAnc (rs : List (Revision × Nat)) : Option Nat :=
  rs.findSome? (fun rv => let g := granOf rv.1 rv.2; if g.dirtyP = 0 then g.anc else none)

/-- Make the ancestor copy of a granule for the revisions of `rs` that lack one, sharing a copy that serves them (R151); `src` is the
granule's key now. -/
def ensureAnc (s : State) (part task : Nat) (rs : List (Revision × Nat)) (src : Nat) : Prep :=
  match rs.find? (fun rv => (granOf rv.1 rv.2).anc.isNone) with
  | none => .ok src s
  | some rv =>
    match sameAnc rs with
    | some f => .ok src (shareAnc s part rs f)
    | none =>
      match drawFrame s part task with
      | none => .trap ⟨0x0D, granVA rv.2, poolDetail rv.1.num 0⟩
      | some (f, s1) => .ok src (shareAnc (copyGran s1 part src (physKey 0 f)) part rs f)

/-- Mark lines of a parent-side write dirty (R151). -/
def markParent (s : State) (part : Nat) (rs : List (Revision × Nat)) (bits : BitVec 32) : State :=
  rs.foldl (fun u rv => modRev u part rv.1.num (fun r => modGran r rv.2 (fun g =>
    { g with dirtyP := g.dirtyP ||| bits }))) s

/-- The detail of PROTECTION for REVCAP = 0 at an address: its leaf and level (R151, R433). -/
def revcapDetail (s : State) (part ctx va : Nat) : BitVec 192 :=
  match pageOf s part ctx va with
  | some l => protDetail l.pte l.level 15
  | none => protPlain 15

/-- A drop that covers the granule, is not done yet, and that the team's accesses follow (R137). -/
def dropPending (p : Partition) (task team va : Nat) : Bool :=
  p.drops.any (fun d => d.inst.task == task && d.team == some team && d.va == granVA va)

/-- What holds back or refuses a write at (ctx, va), whose own frame is at `key`, before it makes copies: a page in transit (R123), a
granule that a join holds (R153), REVCAP (R151). -/
def writeGate (s : State) (part ctx rev va key : Nat) (revcap : Bool) : Option Prep :=
  match findPart s part with
  | none => none
  | some p =>
    let side := writeSide p ctx rev va
    let rs := parentSides s part ctx side va key
    if inTransit p ctx va then some .stall
    else if rs.any (fun rv => rv.1.state == 3 && (granOf rv.1 rv.2).merge.isSome) then some .stall
    else if (side != 0 || !rs.isEmpty) && !revcap then some (.trap ⟨0x05, va, revcapDetail s part ctx va⟩)
    else none

/-- Prepare a write at (ctx, va) of the granule's lines `bits`, whose own frame is at `key`, by a task of revision `rev`
(R150, R151, R153): the ancestor and child copies, the dirty bits, REVCAP. -/
def prepWrite (s : State) (part task ctx rev va key : Nat) (revcap : Bool) (bits : BitVec 32) : Prep :=
  match findPart s part with
  | none => .ok key s
  | some p =>
    let side := writeSide p ctx rev va
    let rs := parentSides s part ctx side va key
    let cur := viewKey p ctx rev (granVA va) (key - va % 4096)
    match writeGate s part ctx rev va key revcap with
    | some x => x
    | none =>
      match findRev p side, side with
      | some r, _ + 1 =>
        let dirty := fun (u : State) => modRev u part side (fun x => modGran x va (fun g =>
          { g with dirtyC := g.dirtyC ||| bits }))
        if (granOf r va).child.isSome then
          match ensureAnc s part task rs cur with
          | .ok _ s1 => .ok (viewKey p ctx rev va key) (dirty (markParent s1 part rs bits))
          | x => x
        else
          match shareFirst s part task rs r ctx va key cur with
          | .ok _ s1 =>
            match drawFrame (markParent s1 part rs bits) part task with
            | none => .trap ⟨0x0D, granVA va, poolDetail side 1⟩
            | some (f, s2) =>
              let s3 := modRev (copyGran s2 part cur (physKey 0 f)) part side (fun x => modGran x va (fun g =>
                { g with child := some f }))
              .ok (physKey 0 (f + va % 4096)) (dirty s3)
          | x => x
      | _, _ =>
        match ensureAnc s part task rs cur with
        | .ok _ s1 => .ok key (markParent s1 part rs bits)
        | x => x
where
  /-- The ancestor copy of a granule that revision `r` has not written, for `r`, its siblings and its own open children `rs`: they have
  the same bytes at their fork points, so one copy serves them all (R151). -/
  shareFirst (s : State) (part task : Nat) (rs : List (Revision × Nat)) (r : Revision) (ctx va key cur : Nat) : Prep :=
    match (granOf r va).anc with
    | some f => .ok cur (shareAnc s part rs f)
    | none =>
      let up := match findPart s part with
        | none => []
        | some p => parentSides s part ctx (writeSide p ctx r.parentRev va) va key
      ensureAnc s part task ((r, va) :: up.filter (fun x => x.1.num != r.num) ++ rs) cur

/-- Some open revision of the partition has a LATEST region (R149). -/
def latestOpen (p : Partition) : Bool := p.revs.any (fun r => revOpen r && r.regions.any (fun g => g.merge == 6))

/-- Stamp the 4-byte units of a write at `key` (R149). -/
def stampWrite (s : State) (part key len source : Nat) : State :=
  modPart s part (fun p =>
    if !latestOpen p then p
    else
      let st := stampOf (ptime s p) source
      let units := List.range ((key + len + 3) / 4 - key / 4)
      { p with stamps := units.foldl (fun m k => sput 0 m (key / 4 + k) st) p.stamps })

end Sys2Proof.Machine
end

