-- ==== Sys2Proof/Machine/Access.lean ====
section
/-! DEFINITION. Memory accesses: spaces and their checks (R103 to R107, R330, R419), the line state (R265), the L2 levels
(R110 to R112), the L1s (R109), sc stamps (R184), performing loads, stores and atomics (R164, R333 to R335, R424, R428). -/
namespace Sys2Proof.Machine

/-- On whose behalf an access is made: the group (for scratchpads), partition, context, task, revision, chain depth, source
number, core, the unit whose TLB it uses (R118), mode, and whether it goes through the core's L1 (R109). -/
structure Who where
  gid : GroupId
  part : Nat
  ctx : Nat
  task : Nat
  rev : Nat
  depth : Nat
  source : Nat
  core : Nat
  unit : Nat
  sup : Bool
  l1 : Bool
deriving DecidableEq, Repr

/-- A group as the source of its engines' accesses. -/
def whoOf (s : State) (g : Group) : Who :=
  let t := (findTask s g.id.part g.id.task).getD noTask
  { gid := g.id, part := g.id.part, ctx := t.ctx, task := t.num, rev := t.rev, depth := t.chain, source := g.core,
    core := g.core, unit := coreUnit g.core, sup := g.sup, l1 := false }

/-- The group in focus as the source of its accesses. -/
def me (s : State) : Who :=
  { gid := s.g.id, part := s.g.id.part, ctx := s.tk.ctx, task := s.tk.num, rev := s.tk.rev, depth := s.tk.chain,
    source := s.g.core, core := s.g.core,
    unit := quadUnit s.g.core s.g.quad, sup := s.g.sup, l1 := true }

/-- The part itself, the host, RDMA or the fabric: context 0, supervisor, depth 0 (R28, R166). -/
def outside (part source : Nat) : Who :=
  { gid := ⟨part, 0, 0, 0⟩, part := part, ctx := 0, task := 0, rev := 0, depth := 0, source := source, core := 0,
    unit := partUnit, sup := true, l1 := false }

/-- The later of two 48-bit stamps in serial-number order (R184). -/
def serialMax (a b : BitVec 48) : BitVec 48 := if (a - b).toNat < 2 ^ 47 then a else b

/-- Take an sc stamp at slice `h` for a core (R184). -/
def scStamp (s : State) (core h : Nat) : State :=
  let l := (coreOf s core).clock
  let m := sget 0 s.dev.sliceM h
  let st := serialMax (l + 1) (m + 1)
  let s1 := { s with dev := { s.dev with sliceM := sput 0 s.dev.sliceM h st } }
  modCore s1 core (fun c => { c with clock := serialMax c.clock st })

/-- The slice and set of a line (R110, log 9). -/
def lineSet (line : Nat) : Nat := homeOf line * 512 + Config.l2Set line % 512

/-- The level of an eviction hint, none for noalloc and once (R111). -/
def hintLevel (evict : Nat) : Option Nat :=
  match evict with
  | 0 => some 1
  | 1 => some 0
  | 2 => some 2
  | 4 => some 0
  | 5 => some 3
  | _ => none

/-- A partition's way quota on a die (R40). -/
def wayQuota (p : Partition) (die : Nat) : Nat := (p.ways[die]?).getD 0

/-- A partition's quota of lines of a class in a set: its class count, within its ways (R40, R112). -/
def classQuota (p : Partition) (die cls : Nat) : Nat := min (wayQuota p die) ((p.classWays[cls]?).getD 0)

/-- The victim among candidates, given most recently used first: the lowest level, then the least recently used (R112). -/
def victim (cand : List L2Line) : Option L2Line :=
  cand.foldl (fun acc x =>
    match acc with
    | none => some x
    | some y => if x.level ≤ y.level then some x else some y) none

/-- The 32-byte sectors of its line that [key, key + n) touches (R110). -/
def sectorBits (key n : Nat) : BitVec 4 :=
  let lo := key % 128
  BitVec.ofNat 4 ((List.range 4).foldl (fun m k => if lo < 32 * k + 32 && 32 * k < lo + n then m + 2 ^ k else m) 0)

/-- Fill a line at a level with the sectors `bits` (R110, R112); with no candidate the access stays unallocated. The list is in order
of use. A victim's dirty sectors are written back, which leaves `mem` as it is. -/
def l2Fill (s : State) (part line : Nat) (bits dirty : BitVec 4) (cls level : Nat) (pinned : Bool) : State :=
  let p := (findPart s part).getD noPartition
  let die := if homeOf line < 64 then 0 else 1
  let put := fun (l : List L2Line) => { s with dev := { s.dev with l2 := ⟨line, bits, dirty, level, cls, part, pinned⟩ :: l } }
  let same := s.dev.l2.filter (fun x => lineSet x.line == lineSet line)
  let own := same.filter (fun x => x.part == part)
  let ownC := own.filter (fun x => x.cls == cls)
  let excess := same.filter (fun x =>
    wayQuota ((findPart s x.part).getD noPartition) die < (same.filter (fun y => y.part == x.part)).length)
  let cand? := if classQuota p die cls ≤ ownC.length then some ownC
    else if wayQuota p die ≤ own.length then some own
    else if same.length < 32 then none else some excess
  match cand? with
  | none => put s.dev.l2
  | some cand =>
    match victim (cand.filter (fun x => !x.pinned)) with
    | none => s
    | some v => put (s.dev.l2.filter (fun x => x != v))

/-- The effect on the L2 of an access to [key, key + n), a write where `write` holds: a hit raises the level and fills the sectors it
requests, a miss fills by the hint (R110, R111). DESIGN CHOICE: under noalloc and once too, an access to a present line whose sector is not
valid is a hit and fills the sector (log 121). A line of another package has its home slice there (R110, R118). -/
def l2Touch (s : State) (part key n cls evict : Nat) (pinned write : Bool) : State :=
  let line := key / 128
  let bits := sectorBits key n
  let dirty := if write then bits else 0
  if 4 * spaceSize ≤ key then s
  else
  match s.dev.l2.find? (fun x => x.line == line) with
  | some x =>
    let y := { x with level := max x.level ((hintLevel evict).getD 0), valid := x.valid ||| bits, dirty := x.dirty ||| dirty }
    { s with dev := { s.dev with l2 := y :: s.dev.l2.filter (fun z => z.line != line) } }
  | none =>
    match hintLevel evict with
    | none => s
    | some lv => l2Fill s part line bits dirty cls lv pinned

/-- PREF demote (R111): a present line's level falls to the hint's. -/
def l2Demote (s : State) (key evict : Nat) : State :=
  match hintLevel evict with
  | none => s
  | some lv =>
    let low := fun (x : L2Line) => { x with level := min x.level lv }
    { s with dev := { s.dev with l2 := modBy (fun x => x.line == key / 128) low s.dev.l2 } }

/-- Read a line of T1 or T2 (R13, R265): the state with the error handled, and 0 or the trap number its consumer meets. A failed
access to the second tier marks no line (log 35); its error has the classes MEDIA and LINK (R13, R262). A line of another package is
checked there, and what its reader meets comes with the response (R118, R330). -/
def lineCheck (s : State) (part ctx key va : Nat) (ecc : Ecc) : State × Nat :=
  let poison := fun (u : State) => { u with dev := { u.dev with poison := u.dev.poison ++ [key / 64] } }
  if 2 * spaceSize ≤ key && key < 4 * spaceSize then (s, 0)
  else if poisoned s key 1 then (s, 0x0F)
  else if 4 * spaceSize ≤ key then
    match ecc with
    | .uncorrectable => (poison s, 0x0F)
    | .tagFail => (poison s, 0x10)
    | _ => (s, 0)
  else
    match ecc with
    | .clean => (s, 0)
    | .spill => (s, 0)
    | .corrected => (severityUnit s part 0x22 (sliceSource key) ctx va [], 0)
    | .uncorrectable => (poison (severityUnit s part 0x23 (sliceSource key) ctx va []), 0x0F)
    | .tagFail =>
      let s1 := modPart s part (fun p => { p with integ := true })
      (poison (severityUnit s1 part 0x24 (sliceSource key) ctx va []), 0x10)
    | .linkFail port =>
      if key < spaceSize || 4 ≤ port then (s, 0)
      else
        let s1 := severityUnit s part 0x23 (0x2008 + port) ctx va []
        (severityUnit s1 part 0x26 (0x2008 + port) ctx va [], 0x0F)

/-- Read a line of a page that a Tier Engine or a merge copies (R13, R261, R265): an uncorrectable error raises MEDIA under the source of
the unit. The number is not 0 where the copy of the line is poisoned. -/
def unitLine (s : State) (part ctx key va source : Nat) (ecc : Ecc) : State × Nat :=
  match ecc with
  | .uncorrectable =>
    if poisoned s key 1 then (s, 0x0F)
    else if 2 * spaceSize ≤ key then (s, 0)
    else
      let s1 := severityUnit s part 0x23 source ctx va []
      ({ s1 with dev := { s1.dev with poison := s1.dev.poison ++ [key / 64] } }, 0x0F)
  | _ => lineCheck s part ctx key va ecc

/-- Poison clears on a line that is written whole (R266). -/
def clearPoison (s : State) (key n : Nat) : State :=
  { s with dev := { s.dev with poison := s.dev.poison.filter (fun l => !(key ≤ l * 64 && l * 64 + 64 ≤ key + n)) } }

/-- The team of a group spans a twin. -/
def spSide (t : Team) (core : Nat) (partner : Bool) : Bool := t.twin && ((core % 2 == 1) != partner)

/-- The scratchpad a location reaches (R106): `true` is the odd core's. -/
def spOf (t : Team) (odd : Bool) : Memory := if odd then t.sp1 else t.sp0

/-- A team with `n` bytes of a scratchpad written. -/
def spWrite (t : Team) (odd : Bool) (a n v : Nat) : Team :=
  if odd then { t with sp1 := mwrite t.sp1 a n v } else { t with sp0 := mwrite t.sp0 a n v }

/-- A scratchpad address of `n` bytes (R106): the location, or the failing check's code. -/
def spLocate (t : Team) (a n : Nat) : Except Nat Loc :=
  let loc := fun (o : Nat) (p : Bool) =>
    ({ scratch := true, partner := p, addr := o, va := a, watched := false, revcap := false, cls := 0, t0 := false } : Loc)
  if 2 ^ 21 ≤ a then .error 3
  else if 2 ^ 20 ≤ a then
    if !t.twin then .error 4
    else if t.kernel.spbytes < a - 2 ^ 20 + n then .error 5 else .ok (loc (a - 2 ^ 20) true)
  else if t.kernel.spbytes < a + n then .error 5
  else .ok (loc a false)

/-- A location on a page with a fabric leaf (R118, log 13). -/
def isRemote (l : Loc) : Bool := !l.scratch && 4 * spaceSize ≤ l.addr

/-- The node of a remote location (R116, log 13). -/
def nodeOf (l : Loc) : Nat := l.addr / spaceSize - 4

/-- The fabric port by which a request for a line of a node leaves (R16): the ports of the bundle that are up share its lines (log 9);
none where the bundle has no port up. -/
def portFor (s : State) (node addr : Nat) : Option Nat :=
  let ups := (Config.wires.filter (fun w => w.2 == node && (sget ⟨true, 0⟩ s.dev.ports w.1).up)).map Prod.fst
  ups[Config.spread (addr / 128) % ups.length]?

/-- No port leads to the node of a remote location: its access waits (R16; log 108). -/
def cutOff (s : State) (l : Loc) : Bool := isRemote l && (portFor s (nodeOf l) (l.addr % spaceSize)).isNone

/-- The target's grant table admits the access, or it is local (R118). -/
def grantOk (part : Nat) (l : Loc) : Bool := !isRemote l || Config.fabricGrants (nodeOf l) part

/-- A translated location whose target refuses it is PROTECTION (R118, R433). -/
def granted (part : Nat) (x : MR Loc) : MR Loc :=
  x.bind (fun l s => if grantOk part l then .ok l s else .trap 0x05 (protPlain 16))

/-- Check an access of `n` bytes in a space (0 global, 1 scratchpad, 2 constant) in the order of R330 and R419: alignment,
reach, translation, the page's POISON. -/
def locate (s : State) (w : Who) (t : Team) (space addr n : Nat) (write read : Bool) : MR Loc :=
  if addr % n != 0 then .trap 0x03 0
  else if space = 1 then
    match spLocate t addr n with
    | .ok l => .ok l s
    | .error c => .trap 0x05 (protPlain c)
  else if space = 2 then
    if write then .trap 0x05 (protPlain 7)
    else if t.kernel.csize < addr + n then .trap 0x05 (protPlain 6)
    else granted w.part (translate s w.unit w.part w.ctx ((t.kernel.cbase + addr) % 2 ^ 64) w.sup false true)
  else granted w.part (translate s w.unit w.part w.ctx addr w.sup write read)

/-- The physical key that an access of a task reads at a resolved global location (R150). -/
def readKey (s : State) (w : Who) (l : Loc) : Nat :=
  match findPart s w.part with
  | none => l.addr
  | some p => viewKey p w.ctx w.rev l.va l.addr

/-- The bytes at a location as a number. -/
def peek (s : State) (w : Who) (l : Loc) (n : Nat) : Nat :=
  if l.scratch then
    let t := teamOf s w.gid
    mread (spOf t (spSide t w.core l.partner)) l.addr n
  else mread s.mem (readKey s w l) n

/-- The copy of a byte's sector in a core's L1 (R109). -/
def l1Find (s : State) (core key : Nat) : Option L1Sector := (coreOf s core).l1.find? (fun e => e.num == key / 32)

/-- What a load of `n` bytes of one sector by a core reads (R109): the bytes of its L1 copy where another core's store has passed it
by, while the copy stands (log 106), else those of the home slice. -/
def l1Read (s : State) (core key n : Nat) : Nat :=
  match (l1Find s core key).bind L1Sector.old with
  | some v => if Config.l1Keeps s.tick core (key / 32) then fld v (8 * (key % 32)) (8 * n) else mread s.mem key n
  | none => mread s.mem key n

/-- Lines that a core's L1 holds at most (R100, R108): the SRAM beside the scratchpad share and the spill regions of its groups. -/
def l1Room (s : State) (core : Nat) : Nat :=
  let spill := (allGroups s).foldl (fun n g => if g.core == core then n + (teamOf s g.id).kernel.spill else n) 0
  (2 ^ 20 - (coreOf s core).spShare * 131072 - spill) / 128

/-- The L1's sectors after sector `keep` has come in (R108): where the lines exceed its room, another line leaves (log 106). -/
def l1Fit (s : State) (core keep : Nat) (l : List L1Sector) : List L1Sector :=
  let lines := (l.map (fun e => e.num / 4)).eraseDups
  let others := lines.filter (fun k => k != keep / 4)
  if lines.length ≤ l1Room s core then l
  else
    match others[Config.leaves s.tick others.length % others.length]? with
    | none => l
    | some v => l.filter (fun e => e.num / 4 != v)

/-- The L1 of a core after a load (R108, R109, R111): a miss fills the sector unless the hint is stream or once; `home` is a load that
is performed at the home slice. -/
def l1Load (s : State) (core key evict : Nat) (home : Bool) : State :=
  let stays := !home && (match l1Find s core key with
    | some ⟨_, some _⟩ => Config.l1Keeps s.tick core (key / 32)
    | some ⟨_, none⟩ => true
    | none => false)
  if stays then s
  else
    let rest := (coreOf s core).l1.filter (fun e => e.num != key / 32)
    let l := if evict = 4 || evict = 6 then rest else l1Fit s core (key / 32) (⟨key / 32, none⟩ :: rest)
    modCore s core (fun c => { c with l1 := l })

/-- The L1 of a core without a byte's sector: an atomic is performed at the home slice (R109). -/
def l1Miss (s : State) (core key : Nat) : State :=
  if (l1Find s core key).isNone then s
  else modCore s core (fun c => { c with l1 := c.l1.filter (fun e => e.num != key / 32) })

/-- A sector's bytes after a store of `n` bytes. -/
def l1Patch (num v key n x : Nat) : Nat := mread (mwrite (mwrite [] (32 * num) 32 v) key n x) (32 * num) 32

/-- The L1s after a store of `n` bytes (R109): it updates the copy of its own core, `own`, and passes the others by, which keep what
the sector held `before`. -/
def l1Store (s : State) (before : Memory) (own : Option Nat) (key n x : Nat) : State :=
  { s with cores := s.cores.map (fun c => { c with l1 := c.l1.map (fun e =>
      if inSector e key n then
        { e with old := if own == some c.num then e.old.map (fun v => l1Patch e.num v key n x)
                        else some (e.old.getD (mread before (32 * e.num) 32)) }
      else e) }) }

/-- The scope of an acquire reaches beyond the core: twin or wider, or team on a twin team (R109, R113). -/
def l1Scope (t : Team) (scope : Nat) : Bool := 3 ≤ scope || (scope == 2 && t.twin)

/-- An access or fence of the group in focus with ord acq or sc invalidates its core's L1 (R109, R337, R421). -/
def acquireAt (s : State) (ord : BitVec 2) (scope : Nat) : State :=
  if (ord == 1 || ord == 3) && l1Scope s.tm scope then l1Inval s s.g.core else s

/-- A pending DROP of the accessing team covers the address: its accesses issued after the MARK perform after it (R137). -/
def behindDrop (s : State) (w : Who) (va : Nat) : Bool :=
  ((findPart s w.part).map (fun p => dropPending p w.task w.gid.team va)).getD false

/-- The line that an instruction's own read meets at a location (R265): the turn's `ecc` is the outcome of the check of the line at the
turn's address, unless it stands for a spill or fill; an access behind a drop reads nothing yet (R137). -/
def dataLine (s : State) (w : Who) (l : Loc) : State × Nat :=
  if s.inp.ecc == .clean || s.inp.ecc == .spill || l.scratch || s.inp.va / 64 != l.va / 64 || behindDrop s w l.va then (s, 0)
  else
    let u := { s with inp := { s.inp with ecc := .clean } }
    lineCheck u w.part w.ctx (readKey u w l) l.va s.inp.ecc

/-- A handler's access to [key, key + n) that a stream makes may find the free-page stack empty (R124). -/
def mindStack (s : State) (w : Who) (key n : Nat) : State := if w.sup && w.l1 then stackSeen s w.gid key n else s

/-- Perform a load within one sector: line state, L1 and L2 (R109, R265, R424); `home` is an access of the sc order, performed at the home
slice (R184). A pending DROP of the task stalls it (R137). -/
def loadOne (s : State) (w : Who) (l : Loc) (n evict : Nat) (home : Bool) : MR Nat :=
  if l.scratch then .ok (peek s w l n) s
  else
    let key := readKey s w l
    if behindDrop s w l.va || cutOff s l then .stall
    else if poisoned s key n then .trap 0x0F 0
    else if w.l1 then
      .ok (if home then mread s.mem key n else l1Read s w.core key n)
        (mindStack (l2Touch (l1Load s w.core key evict home) w.part key n l.cls evict l.t0 false) w key n)
    else .ok (mread s.mem key n) (l2Touch s w.part key n l.cls evict l.t0 false)

/-- Bytes from a location to the end of its 32-byte sector. -/
def toSector (l : Loc) : Nat := 32 - l.addr % 32

/-- The part of an access of `n` bytes beyond the sector that it begins in, if there is one (R107: the address of a constant read
need not be a multiple of its size): in the next sector, or in the page that `hi` names. -/
def upperPart (l : Loc) (n : Nat) : Option Loc :=
  let k := toSector l
  if l.scratch || n ≤ k then none
  else
    match l.hi with
    | some (a, c, t) => some { l with addr := a, va := l.va + k, cls := c, t0 := t, hi := none }
    | none => some { l with addr := l.addr + k, va := l.va + k }

/-- Perform a load (R109, R265, R424), in two parts where it goes on in another sector (R107). -/
def loadAt (s : State) (w : Who) (l : Loc) (n evict : Nat) (home : Bool) : MR Nat :=
  match upperPart l n with
  | none => loadOne s w l n evict home
  | some h =>
    let k := toSector l
    (loadOne s w { l with hi := none } k evict home).bind (fun x s1 =>
      (loadOne s1 w h (n - k) evict home).bind (fun y s2 => .ok (x + 2 ^ (8 * k) * y) s2))

/-- Write `n` bytes at a resolved location whose copies are made: bytes, stamps, dirty bits, watches, L1 copies (R109, R149, R164). -/
def performWrite (s : State) (w : Who) (l : Loc) (key n v : Nat) (parentSide publish : Bool) : State :=
  let s1 := l1Store { s with mem := physWrite s.mem key n v } s.mem (if w.l1 then some w.core else none) key n v
  let s2 := markDirty (stampWrite s1 w.part key n w.source) w.part key
  if l.watched && parentSide then watchWrite s2 w.part s.mem key n w.depth w.source publish else s2

/-- Perform a store of `n` bytes (R181): a pending DROP, the poisoned line, the revision's copies, then the write. -/
def storeAt (s : State) (w : Who) (l : Loc) (n v evict : Nat) : MR Unit :=
  if l.scratch then
    .ok () (modTeamOf s w.gid (fun t => spWrite t (spSide t w.core l.partner) l.addr n v))
  else
    let key0 := readKey s w l
    if behindDrop s w l.va || cutOff s l then .stall
    else if poisoned s key0 n then .trap 0x0F 0
    else
      match prepWrite s w.part w.task w.ctx w.rev l.va l.addr l.revcap (lineBitOf l.va) with
      | .stall => .stall
      | .trap t => .trap t.num t.detail
      | .ok key s1 => .ok () (performWrite (l2Touch s1 w.part key n l.cls evict l.t0 true) w l key n v (key == l.addr) false)

/-- Perform an atomic (R111, R123, R137, R151, R153, R335, R428): `f` gives the new value, none for a compare that failed, which is no
write but waits, is refused and touches the L2 as one. -/
def atomicAt (s : State) (w : Who) (l : Loc) (n : Nat) (f : Nat → Option Nat) (evict : Nat) : MR Nat :=
  let x := peek s w l n
  if l.scratch then
    match f x with
    | some y => (storeAt s w l n y evict).bind (fun _ s1 => .ok x s1)
    | none => .ok x s
  else if behindDrop s w l.va || cutOff s l then .stall
  else if poisoned s (readKey s w l) n then .trap 0x0F 0
  else
    let miss := fun (u : State) => if w.l1 then l1Miss u w.core (readKey u w l) else u
    let s0 := mindStack s w (readKey s w l) n
    match f x with
    | some y => (storeAt s0 w l n y evict).bind (fun _ s1 => .ok x (miss s1))
    | none =>
      match writeGate s w.part w.ctx w.rev l.va l.addr l.revcap with
      | some (.trap t) => .trap t.num t.detail
      | some _ => .stall
      | none => .ok x (miss (l2Touch s0 w.part (readKey s w l) n l.cls evict l.t0 false))

end Sys2Proof.Machine
end

