-- ==== Sys2Proof/Machine/Ops.lean ====
section
/-! DEFINITION. What the meanings share: scalar registers, taking a trap and returning from one (R254 to R259), fetching and
issuing, the end of a lane instruction and of a run (R76 to R80, R92, R93). -/
namespace Sys2Proof.Machine

/-- The value of a scalar register. -/
def sreg (s : State) (r : BitVec 6) : Word := sregOf s.g r.toNat

/-- Write a scalar register; s0 discards (R276). -/
def setS (s : State) (r : BitVec 6) (v : Word) : State := { s with g := putSreg s.g r.toNat v }

/-- SPC to the next word (R69). -/
def advS (s : State) : State := { s with g := { s.g with sc := { s.g.sc with spc := s.g.sc.spc + 4 } } }

/-- SPC to an address. -/
def jumpS (s : State) (a : Word) : State := { s with g := { s.g with sc := { s.g.sc with spc := a } } }

/-- A result in a scalar register, then the next word. -/
def finS (s : State) (r : BitVec 6) (v : Word) : State := advS (setS s r v)

/-- The detail of ILLEGAL_OPERAND with a kind other than 2 (R433). -/
def opDetail (kind value pos : Nat) : BitVec 192 := det [(0, value), (8, pos), (10, kind), (11, 0xFF)]

/-- The detail of ILLEGAL_OPERAND of a structure in memory (R433). -/
def structDetail (value pos code va : Nat) : BitVec 192 := det [(0, value), (8, pos), (10, 2), (11, code), (12, va)]

/-- The address of a group's handler frame (R254). -/
def frameVA (s : State) (g : Group) : Nat := ctlRead s g.id.part 0x5018 8 + 512 * hslot g

/-- The record of an escalated trap (R259, R433). -/
def trapRec (s : State) (g : Group) (num addr : Nat) (detail : BitVec 192) : EventRec :=
  groupRec s g 0x0001 num (BitVec.ofNat 64 addr) detail

/-- Escalate a trap of the group in focus to the severity matrix (R259, R264): at least action 3. -/
def escalate (s : State) (num addr : Nat) (detail : BitVec 192) : State :=
  severity s s.g.id.part num 3 (trapRec s s.g num addr detail) [s.g.id]

/-- A trap is of a first-touch page (R124). -/
def firstTouch (t : TrapInfo) : Bool :=
  let e := fld t.detail.toNat 0 64
  t.num == 4 && fld e 5 3 == 1 && frameOf e == 0

/-- The group in focus inside the handler (R255): the frame is at `fva`, the handler's code at `hs`. -/
def inHandler (g : Group) (t : TrapInfo) (fva : Nat) (hs : Nat) : Group :=
  let pos := if g.ln.pos == .inRun then .start else g.ln.pos
  let g1 := putSreg g 63 (BitVec.ofNat 64 fva)
  { g1 with
    sup := true, trapPend := none, skipS := false, skipL := none, markStalled := false, joinWait := none, waits := [],
    hidden := some { trap := t.num, stack := g.ln.stack, retired := g.ln.retired, fmtPend := g.sc.fmtPend,
                     fmtSet := g.sc.fmtSet, dqFmt := g.q.dq.map Prod.snd, barWait := g.sc.barWait, pos := pos,
                     skipS := t.stream == .lane && g.skipS, skipL := if t.stream == .scalar then g.skipL else none, late := [],
                     exited := g.sc.exited, page := if firstTouch t then some t.addr else none, run := (g.ln.runAllot, g.ln.runBnd) },
    sc := { g1.sc with spc := BitVec.ofNat 64 hs, exited := false, fmtPend := none, fmtSet := 0, barWait := none, sbWait := none, recBeats := none },
    ln := { g.ln with lpc := 0, pos := .pop, runPos := 0, retired := 0, stack := [], fmt := 0,
                      mask := if t.stream == .lane then t.lanes else g.ln.mask },
    q := { dq := [], vq := [], rq := [] } }

/-- A trap is of a first-touch page and the free-page stack is empty: a HOST_PAGE record is due (R38, R124; log 111). -/
def hostPageDue (s : State) (t : TrapInfo) : Bool := firstTouch t && ctlRead s s.g.id.part 0x1008 4 == 0

/-- The group in focus takes a trap with both streams stopped (R255 to R259): the frame is written, past every L1, and the group enters
the handler, or the severity matrix handles it. A CLAIM that waited leaves the line (log 32). A frame page in transit makes the trap
wait (R123). -/
def enterTrap (s : State) (t : TrapInfo) : State :=
  let g := { s.g with trapPend := none }
  let hs := ctlRead s g.id.part 0x5000 8
  let fva := frameVA s g
  let spc := if t.next && t.stream == .scalar then g.sc.spc + 4 else g.sc.spc
  let s0 := { s with g := g }
  if hs = 0 || g.sup then escalate s0 t.num t.addr t.detail
  else
    match translate s0 (me s0).unit g.id.part s.tk.ctx fva true true false with
    | .ok l s1 =>
      let fr := frameBytes g spc (t.stream == .lane) t.num t.addr t.detail
      let s2 := freeSlotOwner (l1Drop (partPuts s1 g.id.part l.addr fr) l.addr 512) g
      let tm := { s2.tm with claims := s2.tm.claims.filter (fun c => c.group != g.id.group) }
      let s3 := { s2 with g := inHandler g t fva hs, tm := tm }
      if hostPageDue s0 t then
        postEvent { s3 with g := pagePosted s3.g } g.id.part (groupRec s0 g 0x0003 0xFF (BitVec.ofNat 64 t.addr) 0) false
      else s3
    | .stall => { s with g := { s.g with trapPend := some t } }
    | _ => escalate s0 t.num t.addr t.detail

/-- Take a trap of the group in focus (R255, R331, R420): it is held while accesses of the group are outstanding. -/
def takeTrap (s : State) (t : TrapInfo) : State :=
  if s.g.en.acc.isEmpty then enterTrap s t else { s with g := { s.g with trapPend := some t } }

/-- A trap of the scalar stream whose resume point is the instruction. -/
def trapS (s : State) (num addr : Nat) (detail : BitVec 192) : Out :=
  .next (takeTrap s { num := num, addr := addr, detail := detail, lanes := s.g.ln.mask, stream := .scalar, next := false })

/-- A trap of the scalar stream whose resume point is the next instruction (R257). -/
def trapNextS (s : State) (num addr : Nat) (detail : BitVec 192) : Out :=
  .next (takeTrap s { num := num, addr := addr, detail := detail, lanes := s.g.ln.mask, stream := .scalar, next := true })

/-- A trap of the lane stream taken by the lanes of `m`. -/
def trapL (s : State) (m : BitVec 64) (num addr : Nat) (detail : BitVec 192) : Out :=
  .next (takeTrap s { num := num, addr := addr, detail := detail, lanes := m, stream := .lane, next := false })

/-- ILLEGAL_OPERAND of a field of the scalar word (R433 kind 0). -/
def badField (s : State) (value pos : Nat) : Out := trapS s 0x01 0 (opDetail 0 value pos)

/-- ILLEGAL_OPERAND of a value from a scalar register (R433 kind 3). -/
def badReg (s : State) (v : Word) (pos : Nat) : Out := trapS s 0x01 0 (opDetail 3 v.toNat pos)

/-- ILLEGAL_OPERAND of a state that forbids the use (R433 kind 4). -/
def badState (s : State) (value pos : Nat) : Out := trapS s 0x01 0 (opDetail 4 value pos)

/-- Instructions that supervisor mode may not execute (R370). -/
def userOnly (s : State) (k : Out) : Out := if s.g.sup then badState s 0 0 else k

/-- The scalar stream waits: nothing is performed (R72, R80). -/
def stallS (s : State) : Out := .next s

/-- Continue a scalar access: the value, or its trap at `addr`, a stall, the model's fault. A revision pool trap names the
granule (R257). -/
def orTrapS {α : Type} (s : State) (addr : Nat) (x : MR α) (k : α → State → Out) : Out :=
  match x with
  | .ok a s1 => k a s1
  | .trap n d => trapS s n (if n = 0x0D then granVA addr else addr) d
  | .stall => stallS s
  | .fault f => .fault f

/-- Continue an instruction that reads its data at once, when the line at a location passes its check (R265). -/
def orLineS (s : State) (l : Loc) (k : State → Out) : Out :=
  match dataLine s (me s) l with
  | (u, 0) => k u
  | (u, n + 1) => trapS u (n + 1) l.va 0

/-- An access whose checks are outstanding until it performs: a load or an atomic (R331, R420). -/
def waitsOut (a : Access) : Bool :=
  match a.kind with
  | .store _ => false
  | _ => true

/-- The accesses of a stream of the group in focus whose checks are outstanding (R331, R420): a store that the stream has passed was
accepted (log 7). -/
def incomplete (s : State) (st : Stream) : List Access := s.g.en.acc.filter (fun a => a.stream == st && waitsOut a)

/-- An instruction may issue behind the stream's incomplete accesses (R331, R420): `light` ones, at most 16 of them. -/
def mayFollow (s : State) (st : Stream) (light : Bool) : Bool :=
  (incomplete s st).isEmpty || (light && (incomplete s st).all (fun a => a.undo.count < 16))

/-- Instructions whose sole effects are on scalar registers and SPC, and SLD (R331). -/
def lightS (i : Instr) : Bool :=
  match i with
  | .nop | .getfmt _ | .rdtime _ | .qstat _ | .ssrr _ _ | .sld _ _ _ | .slui _ _ | .spcadd _ _ | .sbr _ _ _ | .sjal _ _ | .sjalr _ _ _ => true
  | .sadd _ _ _ | .ssub _ _ _ | .smul _ _ _ | .smulh _ _ _ | .smulhn _ _ _ | .sdiv _ _ _ | .sdivn _ _ _ | .srem _ _ _ | .sremn _ _ _ => true
  | .sand _ _ _ | .sor _ _ _ | .sxor _ _ _ | .sandn _ _ _ | .sshl _ _ _ | .sshr _ _ _ | .ssra _ _ _ => true
  | .smin _ _ _ | .smax _ _ _ | .sminn _ _ _ | .smaxn _ _ _ | .sslt _ _ _ | .ssltn _ _ _ | .sseq _ _ _ => true
  | .sclz _ _ | .sctz _ _ | .spopc _ _ | .ssextw _ _ | .szextw _ _ => true
  | .saddi _ _ _ | .sandi _ _ _ | .sori _ _ _ | .sxori _ _ _ | .sslti _ _ _ | .sshi _ _ _ => true
  | _ => false

/-- Lane instructions of the classes INT, PRED, FP, SFU, CVT, DOT and XLANE that read no VQ entry, and LD (R420). -/
def lightL (w0 : Nat) (f : LaneFields) : Bool :=
  f.a != 0x1F1 && f.b != 0x1F1 && f.c != 0x1F1 && (fld w0 28 4 ≤ 6 || fld w0 22 10 == 576)

/-- No access of a stream of the group is outstanding, but for a remote atomic that has failed (R20, R176, log 7). -/
def quiet (s : State) (st : Stream) : Bool :=
  s.g.en.acc.all (fun a => a.stream != st)
  && s.dev.remote.all (fun r => r.group != s.g.id || r.stream != st || r.failed)

/-- An earlier access of the core to the remote line of one of the locations has not performed: they perform in issue order (R17).
DESIGN CHOICE: only accesses of its streams wait; reads and publishes of its Copy Engine and Wheel do not (log 122). -/
def remoteBusy (s : State) (ls : List Loc) : Bool :=
  ls.any (fun l => isRemote l
    && ((allGroups s).any (fun g => g.core == s.g.core
          && g.en.acc.any (fun a => a.lanes.any (fun x => isRemote x.loc && x.loc.addr / 128 == l.addr / 128)))
        || s.dev.remote.any (fun r => r.core == s.g.core && !r.failed && r.node == nodeOf l
          && r.addr / 128 == l.addr % spaceSize / 128)))

/-- A remote atomic of the stream has not returned (R179). -/
def remoteDue (s : State) (st : Stream) : Bool :=
  s.dev.remote.any (fun r => r.group == s.g.id && r.stream == st && !r.failed)

/-- An acquire of the stream has not returned: the stream's later accesses perform after it (R178, R182, R421). -/
def acquireDue (s : State) (st : Stream) : Bool :=
  s.g.en.acc.any (fun a => a.stream == st && (a.ord == 1 || a.ord == 3))
  || s.dev.remote.any (fun r => r.group == s.g.id && r.stream == st && !r.failed && (r.ord == 1 || r.ord == 3))

/-- An access on the locations waits for an earlier one: an outstanding access of the stream on one of them (log 7), one of the core on
their remote line (R17), an acquire that has not returned (R178). -/
def overlaps (s : State) (st : Stream) (ls : List Loc) (n : Nat) : Bool :=
  acquireDue s st || remoteBusy s ls || s.g.en.acc.any (fun a => a.stream == st && a.lanes.any (fun x => ls.any (fun l =>
    l.scratch == x.loc.scratch && l.partner == x.loc.partner && l.addr < x.loc.addr + 16 && x.loc.addr < l.addr + n)))

/-- The lane stream's code: base address and instruction count, the handler's in supervisor mode (R69, R255). -/
def laneCode (s : State) : Nat × Nat :=
  if s.g.sup then (ctlRead s s.g.id.part 0x5008 8, ctlRead s s.g.id.part 0x5010 4)
  else (s.tm.kernel.lbase, s.tm.kernel.lcount)

/-- Fetch a 32-bit word as a read of the group (R323). -/
def fetchWord (s : State) (va : Nat) : MR Nat :=
  if va % 4 != 0 then .trap 0x03 0
  else
    (translate s (me s).unit s.g.id.part s.tk.ctx va s.g.sup false true).bind (fun l s1 =>
      let key := readKey s1 (me s1) l
      if poisoned s1 key 4 then .trap 0x0F 0 else .ok (mread s1.mem key 4) s1)

/-- Fetch the lane triple at index `k` (R69): its three words, or none at or beyond the lane-code count. -/
def fetchTriple (s : State) (k : Nat) : MR (Option (Nat × Nat × Nat)) :=
  let (base, count) := laneCode s
  if count ≤ k then .ok none s
  else
    let a := base + 12 * k
    (fetchWord s a).bind (fun w0 s1 => (fetchWord s1 (a + 4)).bind (fun w1 s2 => (fetchWord s2 (a + 8)).bind (fun w2 s3 =>
      .ok (some (w0, w1, w2)) s3)))

/-- The J flag of the instruction at an index, false where it cannot be fetched (R92). -/
def jFlag (s : State) (k : Nat) : Bool :=
  match fetchTriple s k with
  | .ok (some (w0, _, _)) _ => bit w0 19
  | _ => false

/-- Unwind the reconvergence stack at a run start (R92): a switch to a pending path ends it, one to an empty path goes on (R416).
`forced` stands for J on an empty mask (R93). The recursion is on fuel. -/
def unwind (s : State) : Nat → LaneCtx → Bool → LaneCtx
  | 0, c, _ => c
  | n + 1, c, forced =>
    match c.stack with
    | [] => c
    | top :: rest =>
      if !(top.reconv.toNat == c.lpc && (forced || jFlag s c.lpc)) then c
      else if !top.phase then
        if top.mask = 0 then
          unwind s n { c with stack := { top with mask := c.mask, phase := true } :: rest, mask := 0 } forced
        else { c with stack := { top with mask := c.mask, phase := true } :: rest, mask := top.mask, lpc := top.target.toNat }
      else
        unwind s n { c with mask := c.mask ||| top.mask, fmt := top.fmt.zeroExtend 32, stack := rest } forced

/-- Every lane has retired: none is left in the mask or in an entry (R71, R94). -/
def allRetired (c : LaneCtx) : Bool := c.mask == 0 && c.stack.all (fun e => e.mask == 0)

/-- The lane stream at a run start whose index is known: R92, or R93 for an empty mask. With every lane retired it has drained
(R71, R102). -/
def startRun (s : State) (c : LaneCtx) : LaneCtx :=
  if allRetired c then { c with pos := .drained }
  else if c.mask = 0 then
    match c.stack with
    | [] => { c with pos := .drained }
    | top :: _ => unwind s (2 * c.stack.length + 2) { c with lpc := top.reconv.toNat } true
  else unwind s (2 * c.stack.length + 2) c false

/-- The lane context after a run's last instruction (R71, R77, R93): `next` is the next index, none for a DQ pop. -/
def endRun (c : LaneCtx) (next : Option Nat) : LaneCtx :=
  if allRetired c then { c with pos := .drained, runPos := 0 }
  else
    match next with
    | some k => { c with pos := .start, lpc := k, runPos := 0 }
    | none => if c.mask = 0 then { c with pos := .start, runPos := 0 } else { c with pos := .pop, runPos := 0 }

/-- The outstanding lane accesses of a group after an entry has left DQ behind them (R420). -/
def noteDQ (g : Group) (e : BitVec 16 × Option W32) : List Access :=
  g.en.acc.map (fun a => if a.stream == .lane then { a with undo := { a.undo with dq := a.undo.dq ++ [e] } } else a)

/-- DQ entries that leave their places only when the lane accesses before them are complete (R72, R420; log 75). -/
def dqHeld (g : Group) : Nat := g.en.acc.foldl (fun n a => max n a.undo.dq.length) 0

/-- VQ entries that leave their places only when the access that popped them is complete (R72, R420; log 75). -/
def vqHeld (g : Group) : Nat := g.en.acc.foldl (fun n a => max n a.back.vq.length) 0

/-- At a run end without a branch the next index leaves DQ with its FMT as soon as there is one (R72, R74, R77). -/
def popDQ (g : Group) : Group :=
  match g.ln.pos, g.q.dq with
  | .pop, (k, fmt) :: rest =>
    { g with en := { g.en with acc := noteDQ g (k, fmt) }, q := { g.q with dq := rest }, ln := { g.ln with pos := .start, lpc := k.toNat, fmt := fmt.getD g.ln.fmt, runPos := 0 } }
  | _, _ => g

/-- A lane instruction completes (R76, R80): the next instruction of the run, or with E the end of the run. -/
def finL (s : State) (f : LaneFields) : State :=
  if f.e then
    let s1 := freeSlotOwner s s.g
    let step := if s.g.stepping then true else s.g.halted
    { s1 with g := popDQ { s1.g with skipL := none, ln := endRun s.g.ln none, halted := step, stepping := false } }
  else
    { s with g := { s.g with skipL := none, ln := { s.g.ln with lpc := s.g.ln.lpc + 1, runPos := s.g.ln.runPos + 1 } } }

/-- A lane branch completes with the next index (R77). -/
def finBranch (s : State) (next : Nat) : State :=
  let s1 := freeSlotOwner s s.g
  let step := if s.g.stepping then true else s.g.halted
  { s1 with g := { s1.g with skipL := none, ln := endRun s.g.ln (some next), halted := step, stepping := false } }

/-- SKIP passes over the next lane instruction (R258). -/
def skipL (s : State) : Bool :=
  s.g.skipL.isSome

/-- SKIP leaves out the queue operations as well, after QUEUE_DEADLOCK (R258). -/
def skipQ (s : State) : Bool :=
  s.g.skipL == some true

/-- The lane stream waits (R80): nothing is performed. -/
def stallL (s : State) : Out := .next s

/-- A predicate of every lane as a mask: p7 reads true (R283). -/
def predMask (s : State) (k : Nat) : BitVec 64 := if k = 7 then fullMask 64 else sget 0 s.g.ln.preds k

/-- The lanes whose guard holds. -/
def guardMask (s : State) (f : LaneFields) : BitVec 64 :=
  let p := predMask s f.guard.toNat
  if f.neg then ~~~p else p

/-- The instruction's mask (R97, R283), empty under SKIP (R258). -/
def laneMask (s : State) (f : LaneFields) : BitVec 64 := if skipL s then 0 else s.g.ln.mask &&& guardMask s f

/-- Instructions of the three-register form whose third field holds an immediate (R275). -/
def immX6 (i : Instr) : Bool :=
  match i with
  | .trap _ | .reth _ | .barn _ _ _ | .sbwait _ _ _ | .tpref _ _ | .oclaim _ | .orelease _ | .rload _ _ | .tzero _ => true
  | .trigrec _ _ | .ttbind _ _ => true
  | _ => false

/-- The scalar registers that a word names (R275). -/
def scalarRegs (w : Nat) : List Nat :=
  let m := fld w 26 6
  let sd := fld w 20 6
  let sa := fld w 14 6
  let imm := match decodeScalarNat w with
    | .ok i => immX6 i
    | .error _ => false
  if imm then [sd, sa]
  else if m = 8 || m = 9 || m = 11 then [sd]
  else if m = 10 then [fld w 17 6]
  else if (2 ≤ m && m ≤ 7) || (12 ≤ m && m ≤ 16) then [sd, sa]
  else [sd, sa, fld w 8 6]

/-- Scalar registers whose value is due to work that user mode (`sup` false) or the handler has issued: of TCOPY status words and remote
atomics (R18, R198). -/
def dueS (s : State) (sup : Bool) : List Nat :=
  (s.g.en.copies.filterMap (fun c =>
    match c.kind with
    | .tensor _ => if c.sup == sup then some c.dst else none
    | _ => none))
  ++ (s.dev.remote.filterMap (fun r => if r.group == s.g.id && r.stream == .scalar && r.sup == sup then some r.dst else none))

/-- The first destination register of an access, as the instruction's field has it. -/
def accDst (a : Access) : Option Nat :=
  match a.kind with
  | .load _ _ d => some d
  | .atomic _ _ r d => if r then some d else none
  | .store _ => none

/-- The bytes of an access. -/
def accSize (a : Access) : Nat :=
  match a.kind with
  | .load n _ _ => n
  | .atomic n _ _ _ => n
  | .store n => n

/-- Scalar registers whose value is still due (R18, R198, R332). A value due to the program does not keep the handler from the registers
that RETH restores (R255). -/
def pendingS (s : State) : List Nat :=
  (incomplete s .scalar).filterMap accDst
  ++ dueS s true ++ (if s.g.sup then (dueS s false).filter (fun r => !frameReg r) else dueS s false)

/-- A value of the handler's own is due in a register that RETH restores (R255, R258). -/
def handlerDue (s : State) : Bool := (dueS s true).any frameReg

/-- Lane registers whose value is still due (R198, R424, R429). -/
def pendingL (s : State) : List Nat :=
  (incomplete s .lane).flatMap (fun a => (accDst a).toList.flatMap (fun d => (List.range (max 1 (accSize a / 4))).map (fun k => d + k)))
  ++ (s.g.en.copies.flatMap (fun c =>
    match c.kind with
    | .tensor _ => []
    | _ => [c.dst, c.dst + 1]))
  ++ (s.dev.remote.flatMap (fun r => if r.group == s.g.id && r.stream == .lane then [r.dst, r.dst + 1] else []))

/-- Registers that a lane triple may name: up to five from each operand code (R422, R405). -/
def laneRegs (f : LaneFields) : List Nat :=
  [f.d, f.a, f.b, f.c].flatMap (fun c => if c.toNat < 0x1F0 then (List.range 5).map (fun k => c.toNat + k) else [])

/-- The group in focus may issue on some stream: resident, not killed, ended or saved, no trap pending, its core not under
test, the device not tripped, its partition neither frozen nor migrated out (R25, R30, R61, R269). -/
def canIssue (s : State) : Bool :=
  s.g.live && !s.g.killed && !s.g.ended && !s.g.saved && s.g.trapPend.isNone && !s.dev.tripped
  && (coreOf s s.g.core).testing == [] && s.pt.state != 3 && s.pt.state != 5

/-- The scalar stream may issue: not exited, not stopped at a run boundary by a halt or a pre-emption (R61, R71, R273). -/
def canIssueS (s : State) : Bool :=
  canIssue s && !s.g.sc.exited && !((s.g.halted || s.g.draining) && s.g.ln.pos != .inRun)

/-- The lane stream may issue: inside a run with the lane slot (R80). -/
def canIssueL (s : State) : Bool :=
  canIssue s && s.g.ln.pos == .inRun && (quadOf s s.g.core s.g.quad).owner == some s.g.id

/-- A stop before the instruction: the state that follows, or the instruction to run in a state. -/
inductive Fetched where
  | stop (s : State)
  | fault (f : Fault)
  | run (i : Instr) (s : State)

/-- The line that a fetch of a word reads (R265). -/
def fetchLine (s : State) (va : Nat) : State × Nat :=
  if s.inp.ecc == .clean then (s, 0)
  else
    match translate s (me s).unit s.g.id.part s.tk.ctx va s.g.sup false true with
    | .ok l u => dataLine u (me u) l
    | _ => (s, 0)

/-- The word of a lane triple at `a` whose line meets the turn's outcome: the first of them, where several lie in it. -/
def lineWord (s : State) (a : Nat) : Nat :=
  let here := fun (x : Nat) => x / 64 == s.inp.va / 64
  if here a || !here (a + 8) then a else if here (a + 4) then a + 4 else a + 8

/-- The first word of a lane triple at `a` that cannot be fetched (R257). -/
def failedWord (s : State) (a : Nat) : Nat :=
  let bad := fun (x : Nat) =>
    match fetchWord s x with
    | .trap _ _ => true
    | _ => false
  if bad a then a else if bad (a + 4) then a + 4 else a + 8

/-- What a fetch's trap does. -/
def fetchTrap (s : State) (st : Stream) (num addr : Nat) (d : BitVec 192) : Fetched :=
  .stop (takeTrap s { num := num, addr := addr, detail := d, lanes := s.g.ln.mask, stream := st, next := false })

/-- The next scalar instruction of the group in focus (R69, R278, R323): fetched and decoded; a word that is no instruction
is the step for such words. SKIP passes over the instruction (R258). -/
def fetchScalar (s : State) : Fetched :=
  if !canIssueS s then .stop s
  else
    if s.g.skipS then .stop (advS { s with g := { s.g with skipS := false } })
    else
      let a := s.g.sc.spc.toNat
      let (s0, bad) := fetchLine s a
      if bad != 0 then fetchTrap s0 .scalar bad a 0
      else
      match fetchWord s0 a with
      | .trap n d => fetchTrap s0 .scalar n a d
      | .stall => .stop s0
      | .fault f => .fault f
      | .ok w s1 =>
        if (scalarRegs w).any (fun r => r != 0 && (pendingS s1).contains r) then .stop s1
        else
          match decodeScalarNat w with
          | .ok i => if mayFollow s1 .scalar (lightS i) then .run i s1 else .stop s1
          | .error _ => if mayFollow s1 .scalar false then .run (.scalarWordNotInstruction (BitVec.ofNat 32 w)) s1 else .stop s1

/-- The next lane instruction of the group in focus (R69, R285). At a run end it pops DQ (R72). -/
def fetchLane (s : State) : Fetched :=
  if !canIssueL s then .stop (if canIssue s && !s.g.halted && !s.g.draining then { s with g := popDQ s.g } else s)
  else
    let a := (laneCode s).1 + 12 * s.g.ln.lpc
    let (s0, bad) := if s.g.ln.lpc < (laneCode s).2 then fetchLine s (lineWord s a) else (s, 0)
    if bad != 0 then fetchTrap s0 .lane bad (lineWord s a) 0
    else
    match fetchTriple s0 s0.g.ln.lpc with
    | .trap n d => fetchTrap s0 .lane n (failedWord s0 a) d
    | .stall => .stop s0
    | .fault f => .fault f
    | .ok none s1 => if mayFollow s1 .lane false then .run (.laneWordNotInstruction 0 0 0 true) s1 else .stop s1
    | .ok (some (w0, w1, w2)) s1 =>
      if (laneRegs (laneFieldsOf w0 w1 w2)).any (fun r => (pendingL s1).contains r) then .stop s1
      else
        match decodeLaneNat w0 w1 w2 with
        | .ok i => if mayFollow s1 .lane (lightL w0 (laneFieldsOf w0 w1 w2)) then .run i s1 else .stop s1
        | .error _ =>
          if !mayFollow s1 .lane false then .stop s1
          else .run (.laneWordNotInstruction (BitVec.ofNat 32 w0) (BitVec.ofNat 32 w1) (BitVec.ofNat 32 w2) false) s1

/-- The next instruction of a stream, or WATCHDOG code 4 that is due at the next point between instructions (R271). -/
def fetchInstr (s : State) (st : Stream) : Fetched :=
  if s.g.timeUp && canIssue s then fetchTrap { s with g := { s.g with timeUp := false } } .scalar 0x16 0 (det [(0, 4)])
  else
    match st with
    | .scalar => fetchScalar s
    | .lane => fetchLane s

/-- RETH's return to the interrupted program (R255, R258): what the frame holds, the results that came meanwhile, then what was hidden. -/
def leaveHandler (s : State) (h : Hidden) (fr : List Byte) : State :=
  let flags := frameFld fr 0x0B 1
  let midrun := bit flags 2
  let g1 := h.late.foldl (fun g x => putSreg g x.1 x.2) (frameApply s.g fr h.dqFmt)
  let stream := if bit flags 0 then Stream.lane else Stream.scalar
  let g2 := { g1 with
    sup := false, hidden := none, waits := []
    skipS := h.skipS || (bit flags 1 && stream == .scalar)
    skipL := if bit flags 1 && stream == .lane then some (h.trap == 0x08) else h.skipL
    sc := { g1.sc with fmtPend := h.fmtPend, fmtSet := h.fmtSet, barWait := h.barWait, recBeats := none }
    ln := { g1.ln with stack := h.stack, retired := h.retired, runAllot := h.run.1, runBnd := h.run.2, pos := if midrun then .start else h.pos,
                       runPos := if midrun then g1.ln.runPos else 0 } }
  { freeSlotOwner s s.g with g := g2 }

end Sys2Proof.Machine
end

