-- ==== Sys2Proof/Machine/Operands.lean ====
section
/-! DEFINITION. Lane operands (R279 to R286): which registers each field names, the issue checks, reading a source in a lane,
writing results, legacy register blocks (R99 to R101). -/
namespace Sys2Proof.Machine

/-- How a lane instruction uses an operand field (R280, R395, R405, R407, R418, R422). -/
inductive Role where
  | none
  | src (n : Nat)    -- a source of n registers: every source code
  | dst (n : Nat)    -- a destination of n registers: v or zero
  | reg (n : Nat)    -- registers only
  | regZ (n : Nat)   -- registers or zero
  | mem (n : Nat)    -- any source code but a literal
  | pred             -- a predicate number
deriving DecidableEq, Repr

/-- The roles of d, a, b and c. -/
structure Roles where
  d : Role
  a : Role
  b : Role
  c : Role
deriving DecidableEq, Repr

/-- A failed operand check: the kind, value and position of ILLEGAL_OPERAND (R433). -/
structure BadOp where
  kind : Nat
  value : Nat
  pos : Nat
deriving DecidableEq, Repr

/-- A sub-operation that fails, reported as the whole field (R279, R433). -/
def subBad (f : LaneFields) (c : Bool) : Option BadOp := if c then some ⟨0, f.sub.toNat, 0⟩ else none

/-- Registers [r, r + n) against BND (R85): the first register at or above it. Legacy mode has no BND (R99). -/
def regCheck (s : State) (r n pos : Nat) : Option BadOp :=
  let lim := if s.tm.kernel.legacy then 0x1F0 else s.g.bnd
  if r + n ≤ lim then none else some ⟨1, max r lim, pos⟩

/-- The check of one field (R280, R285). -/
def roleCheck (s : State) (r : Role) (code : BitVec 9) (pos : Nat) : Option BadOp :=
  let k := code.toNat
  let isReg := k < 0x1F0
  let bad := some ⟨0, k, pos⟩
  match r with
  | .none => none
  | .pred => if k < 8 then none else bad
  | .src n => if isReg then regCheck s k n pos else if k ≤ 0x1F4 then none else bad
  | .mem n => if isReg then regCheck s k n pos else if k = 0x1F0 then bad else if k ≤ 0x1F4 then none else bad
  | .dst n => if isReg then regCheck s k n pos else if k = 0x1F3 then none else bad
  | .regZ n => if isReg then regCheck s k n pos else if k = 0x1F3 then none else bad
  | .reg n => if isReg then regCheck s k n pos else bad

/-- The first failing operand field, in the order d, a, b, c (log 22). -/
def rolesCheck (s : State) (f : LaneFields) (r : Roles) : Option BadOp :=
  (roleCheck s r.d f.d 6).or ((roleCheck s r.a f.a 55).or ((roleCheck s r.b f.b 46).or (roleCheck s r.c f.c 37)))

/-- The detail of ILLEGAL_ENCODING of a lane triple (R433). -/
def tripleDetail (op : Nat) (f : LaneFields) : BitVec 192 :=
  det [(0, laneWord0 op f), (4, laneWord1 f), (8, f.imm.toNat)]

/-- Fields that read a VQ entry, in the order a, b, c (R73). -/
def vqFields (f : LaneFields) (r : Roles) : Nat :=
  let one := fun (ro : Role) (c : BitVec 9) =>
    match ro with
    | .src _ => b2n (c == 0x1F1)
    | .mem _ => b2n (c == 0x1F1)
    | _ => 0
  one r.a f.a + one r.b f.b + one r.c f.c

/-- What the issue checks of R286 decide: the lowest trap, or none. `extra` is the instruction's own operand check. -/
def laneCheck (s : State) (i : Instr) (f : LaneFields) (op : Nat) (r : Roles) (extra : Option BadOp) :
    Option (Nat × BitVec 192) :=
  let encOk := match laneSpecOf i f with
    | some sp => laneOk i sp f
    | none => false
  if !encOk || (f.j && s.g.ln.runPos != 0) then some (0x00, tripleDetail op f)
  else
    match (rolesCheck s f r).or extra with
    | some b => some (0x01, opDetail b.kind b.value b.pos)
    | none => if 24 ≤ s.g.ln.runPos then some (0x02, det [(0, s.g.ln.lpc - s.g.ln.runPos)]) else none

/-- A group with `n` VQ entries popped. -/
def popVQ (s : State) (n : Nat) : State := { s with g := { s.g with q := { s.g.q with vq := s.g.q.vq.drop n } } }

/-- How imm32 reads as an operand (R281): `fl` for a floating-point instruction, at a width code. An F32 literal widens to
F64 exactly. -/
def literal (fl : Bool) (width : Nat) (imm : BitVec 32) : Nat :=
  if width != 1 then imm.toNat
  else if !fl then (imm.signExtend 64).toNat
  else
    let p := imm.toNat
    match fdec fF32 p with
    | .fin neg m x => (fround fF64 0 false neg m x false).bits
    | _ => fld p 31 1 * 2 ^ 63 + 0x7FF * 2 ^ 52 + fld p 0 23 * 2 ^ 29

/-- A source operand in lane `t` (R280): `n` registers wide, `lit` the literal, `vq` the popped entry. -/
def operand (g : Group) (code : BitVec 9) (n lit vq t : Nat) : Nat :=
  let k := code.toNat
  if k < 0x1F0 then vgetN g k t n
  else if k = 0x1F0 then lit
  else if k = 0x1F1 then vq % 2 ^ (32 * n)
  else if k = 0x1F2 then t
  else if k = 0x1F4 then g.id.group * g.width + t
  else 0

/-- The VQ entries that the fields a, b and c read (R73). -/
def vqVals (s : State) (f : LaneFields) : Nat × Nat × Nat :=
  let q := fun k => ((s.g.q.vq[k]?).getD 0).toNat
  let na := b2n (f.a == 0x1F1)
  let nb := na + b2n (f.b == 0x1F1)
  (q 0, q na, q nb)

/-- The lane that lane `t` reads its operands from: itself, or under U the lowest lane of the mask (R96). -/
def srcLane (f : LaneFields) (m : BitVec 64) (t : Nat) : Nat := if f.u then (lowLane m).getD t else t

/-- Write an `n`-register result of each lane of the mask; code zero discards (R280, R390). -/
def writeLanes (s : State) (code : BitVec 9) (n : Nat) (m : BitVec 64) (v : Nat → Nat) : State :=
  if code.toNat < 0x1F0 then
    { s with g := (lanesOf m).foldl (fun g t => vputN g code.toNat t n (v t)) s.g }
  else s

/-- Write predicate `k` in the lanes of the mask; p7 discards (R283). -/
def writePred (s : State) (k : Nat) (m : BitVec 64) (v : Nat → Bool) : State :=
  if k = 7 then s
  else
    let on := maskOf ((lanesOf m).filter v)
    let old := predMask s k
    { s with g := { s.g with ln := { s.g.ln with preds := sput 0 s.g.ln.preds k ((old &&& ~~~m) ||| on) } } }

/-- Free value for what the spec leaves open (log 10). -/
def freeVal (s : State) : Word × State := (Config.freeValue s.free, { s with free := s.free + 1 })

/-- The legacy blocks that the fields name (R100): 4 registers each; written blocks second. The blocks of one instruction count as
used in the order of the fields, those it reads before those it writes (log 115). -/
def legBlocks (f : LaneFields) (r : Roles) : List Nat × List Nat :=
  let blocks := fun (ro : Role) (c : BitVec 9) =>
    let k := c.toNat
    let rng := fun n => if k < 0x1F0 then (List.range ((k + n - 1) / 4 + 1 - k / 4)).map (fun j => k / 4 + j) else []
    match ro with
    | .src n => (rng n, [])
    | .mem n => (rng n, [])
    | .reg n => (rng n, [])
    | .regZ n => (rng n, [])
    | .dst n => ([], rng n)
    | _ => ([], [])
  let l := [blocks r.d f.d, blocks r.a f.a, blocks r.b f.b, blocks r.c f.c]
  ((l.flatMap Prod.fst).eraseDups, (l.flatMap Prod.snd).eraseDups)

/-- Use one legacy block (R100, R101): most recently used first in `legBound`; the least recently used one spills when the
allotment is full. None when the spill region is full. DESIGN CHOICE: a block that comes back frees its own place in the spill region
first, so that its swap with the victim never finds the region full (log 121). -/
def legUse (g : Group) (spill : Nat) (bind : Bool) (c : LaneCtx) (b : Nat) : Option LaneCtx :=
  let cap := g.allot / 4
  let room := spill / (16 * g.width)
  if c.legBound.contains b then some { c with legBound := b :: c.legBound.filter (fun x => x != b) }
  else if !bind && !c.legSpilled.contains b then some c
  else
    let spilled := c.legSpilled.filter (fun x => x != b)
    if c.legBound.length < cap then some { c with legBound := b :: c.legBound, legSpilled := spilled }
    else
      match c.legBound.getLast? with
      | none => none
      | some v =>
        if spilled.length < room then some { c with legBound := b :: c.legBound.dropLast, legSpilled := v :: spilled }
        else none

/-- The lane context after an instruction's register accesses in legacy mode, none for REG_SPILL (R100, R101): where a block moves
and the turn's `ecc` fails its spill or fill, too. An instruction with an empty mask accesses none (R97). -/
def legAccess (s : State) (f : LaneFields) (r : Roles) : Option LaneCtx :=
  if !s.tm.kernel.legacy || laneMask s f == 0 then some s.g.ln
  else
    let (rd, wr) := legBlocks f r
    let use := fun (bind : Bool) (acc : Option LaneCtx) (b : Nat) =>
      acc.bind (fun c => legUse s.g s.tm.kernel.spill bind c b)
    (wr.foldl (use true) (rd.foldl (use false) (some s.g.ln))).filter (fun c =>
      s.inp.ecc != .spill || c.legSpilled == s.g.ln.legSpilled)

/-- Run a lane instruction (R286, R390): the issue checks, a stall for VQ entries, legacy register blocks, then `k` with the
state, the mask and the VQ entries of a, b and c. `k` performs the pops through `popVQ` by `vqFields`. -/
def laneRun (s : State) (i : Instr) (f : LaneFields) (op : Nat) (r : Roles) (extra : Option BadOp)
    (k : State → BitVec 64 → Nat × Nat × Nat → Out) : Out :=
  match laneCheck s i f op r extra with
  | some (n, d) => trapL s s.g.ln.mask n 0 d
  | none =>
    if !skipQ s && s.g.q.vq.length < vqFields f r then stallL s
    else
      match legAccess s f r with
      | none =>
        let (a, s1) := freeVal s
        trapL s1 s.g.ln.mask 0x15 a.toNat 0
      | some c => k { s with g := { s.g with ln := c } } (laneMask s f) (vqVals s f)

/-- A lane instruction's queue pops, then its end (R73, R97). -/
def popFinL (s : State) (f : LaneFields) (r : Roles) : State :=
  finL (if skipQ s then s else popVQ s (vqFields f r)) f

end Sys2Proof.Machine
end

