-- ==== Sys2Proof/Machine/Sfu.lean ====
section
/-! DEFINITION. The special functions of R250, correctly rounded: roots and quotients by exact integer arithmetic, the
transcendental functions by fixed-point sums with far more bits than any binary32 case needs (log 21). -/
namespace Sys2Proof.Machine

/-- Fraction bits of the fixed-point sums (log 21). -/
def fxBits : Nat := 704

/-- One in fixed point. -/
def fxOne : Nat := 2 ^ fxBits

/-- Product in fixed point. -/
def fxMul (a b : Nat) : Nat := a * b / fxOne

/-- Quotient in fixed point. -/
def fxDiv (a b : Nat) : Nat := a * fxOne / b

/-- Σ over k from `k` of r^j / j!, `t` the term before: the exponential series. The recursion is on the number of terms. -/
def expSum (r : Nat) : Nat → Nat → Nat → Nat
  | 0, _, _ => 0
  | n + 1, k, t => t + expSum r n (k + 1) (fxMul t r / (k + 1))

/-- e^r for a fixed-point r in [0, 1]. -/
def fxExp (r : Nat) : Nat := expSum r 140 0 fxOne

/-- Σ u^(2j+1) / (2j+1), `p` the power: the series of artanh. -/
def atanhSum (u2 : Nat) : Nat → Nat → Nat → Nat
  | 0, _, _ => 0
  | n + 1, k, p => p / (2 * k + 1) + atanhSum u2 n (k + 1) (fxMul p u2)

/-- ln((1 + u) / (1 − u)) for a fixed-point u in [0, 1/3]. -/
def fxLn1 (u : Nat) : Nat := 2 * atanhSum (fxMul u u) 230 0 u

/-- ln 2 in fixed point: u = 1/3. -/
def fxLn2 : Nat := fxLn1 (fxOne / 3)

/-- Σ (−1)^j u^(2j+1) / (2j+1): the series of arctan, for u = 1/d. -/
def atanSum (d2 : Nat) : Nat → Nat → Nat → Int
  | 0, _, _ => 0
  | n + 1, k, p => (p / (2 * k + 1) : Nat) - atanSum d2 n (k + 1) (p / d2)

/-- π/2 in fixed point, by Machin's formula. -/
def fxHalfPi : Int := 8 * atanSum 25 170 0 (fxOne / 5) - 2 * atanSum (239 * 239) 50 0 (fxOne / 239)

/-- Σ (−1)^j r^(k+2j) / (k+2j)!: sine from k = 1, cosine from k = 0. -/
def trigSum (r2 : Nat) : Nat → Nat → Nat → Int
  | 0, _, _ => 0
  | n + 1, k, t => (t : Int) - trigSum r2 n (k + 2) (fxMul t r2 / ((k + 1) * (k + 2)))

/-- Round a fixed-point magnitude with a remainder below it. -/
def roundFx (v : Env) (neg : Bool) (m : Nat) : FR := ftzOut fF32 v.ftz (fround fF32 v.mode v.sat neg m (-(fxBits : Int)) true)

/-- Round the value just below m × 2^x in magnitude. -/
def roundBelow (v : Env) (neg : Bool) (m : Nat) (x : Int) : FR :=
  ftzOut fF32 v.ftz (fround fF32 v.mode v.sat neg (m * 2 ^ 64 - 1) (x - 64) true)

/-- A NaN result. -/
def sfuNan (fl : Fl) : FR := ⟨fnan fF32, fl⟩

/-- An infinity. -/
def sfuInf (neg : Bool) (fl : Fl) : FR := ⟨fsign fF32 neg + finfBits fF32, fl⟩

/-- A zero. -/
def sfuZero (neg : Bool) : FR := ⟨fsign fF32 neg, 0⟩

/-- m × 2^x / (n × 2^y) rounded once. -/
def divRound (v : Env) (neg : Bool) (m : Nat) (x : Int) (n : Nat) (y : Int) : FR :=
  let k := 64 + bitLen n
  let a := m * 2 ^ k
  ftzOut fF32 v.ftz (fround fF32 v.mode v.sat neg (a / n) (x - y - k) (a % n != 0))

/-- FDIV (R243, R250). -/
def sfuDiv (v : Env) (a b : Nat) : FR :=
  let x := fdec fF32 (ftzIn fF32 v.ftz a)
  let y := fdec fF32 (ftzIn fF32 v.ftz b)
  let neg := isNeg x != isNeg y
  match x, y with
  | .nan s, .nan t => sfuNan (if s || t then flInvalid else 0)
  | .nan s, _ => sfuNan (if s then flInvalid else 0)
  | _, .nan t => sfuNan (if t then flInvalid else 0)
  | .inf _, .inf _ => sfuNan flInvalid
  | .inf _, .fin _ _ _ => sfuInf neg 0
  | .fin _ _ _, .inf _ => sfuZero neg
  | .fin _ m ex, .fin _ n ey =>
    if n = 0 then if m = 0 then sfuNan flInvalid else sfuInf neg flDivzero
    else if m = 0 then sfuZero neg
    else divRound v neg m ex n ey

/-- FRCP (R250). -/
def sfuRcp (v : Env) (a : Nat) : FR :=
  match fdec fF32 (ftzIn fF32 v.ftz a) with
  | .nan s => sfuNan (if s then flInvalid else 0)
  | .inf n => sfuZero n
  | .fin n m x => if m = 0 then sfuInf n flDivzero else divRound v n 1 0 m x

/-- FSQRT (R250): the exact integer root of an even power. -/
def sfuSqrt (v : Env) (a : Nat) : FR :=
  match fdec fF32 (ftzIn fF32 v.ftz a) with
  | .nan s => sfuNan (if s then flInvalid else 0)
  | .inf n => if n then sfuNan flInvalid else sfuInf false 0
  | .fin n m x =>
    if m = 0 then sfuZero n
    else if n then sfuNan flInvalid
    else
      let m1 := if x % 2 = 0 then m * 2 ^ 128 else m * 2 ^ 129
      let x1 := if x % 2 = 0 then x - 128 else x - 129
      let r := Nat.sqrt m1
      ftzOut fF32 v.ftz (fround fF32 v.mode v.sat false r (x1 / 2) (r * r != m1))

/-- FRSQ (R250): the root of 2^k / m. -/
def sfuRsq (v : Env) (a : Nat) : FR :=
  match fdec fF32 (ftzIn fF32 v.ftz a) with
  | .nan s => sfuNan (if s then flInvalid else 0)
  | .inf n => if n then sfuNan flInvalid else sfuZero false
  | .fin n m x =>
    if m = 0 then sfuInf n flDivzero
    else if n then sfuNan flInvalid
    else
      let k : Nat := if x % 2 = 0 then 256 else 257
      let q := 2 ^ k / m
      let r := Nat.sqrt q
      ftzOut fF32 v.ftz (fround fF32 v.mode v.sat false r ((-x - k) / 2) (2 ^ k % m != 0 || r * r != q))

/-- 2^z for z = n + f/2^fxBits (R250): exact only for an integer. -/
def sfuEx2 (v : Env) (a : Nat) : FR :=
  match fdec fF32 (ftzIn fF32 v.ftz a) with
  | .nan s => sfuNan (if s then flInvalid else 0)
  | .inf n => if n then sfuZero false else sfuInf false 0
  | .fin neg m x =>
    if m = 0 then ⟨0x3F800000, 0⟩
    else if 12 < x + (bitLen m : Int) then
      ftzOut fF32 v.ftz (fround fF32 v.mode v.sat false (2 ^ 64 + 1) (if neg then -4096 else 4096) true)
    else
      -- z = fvInt neg m × 2^x in units of 2^−fxBits, exact since x ≥ −149
      let z := fvInt neg m * ((2 ^ (x + (fxBits : Int)).toNat : Nat) : Int)
      let n := z / (fxOne : Int)
      let f := (z % (fxOne : Int)).toNat
      if f = 0 then ftzOut fF32 v.ftz (fround fF32 v.mode v.sat false 1 n false)
      else ftzOut fF32 v.ftz (fround fF32 v.mode v.sat false (fxExp (fxMul f fxLn2)) (n - (fxBits : Int)) true)

/-- log2 (R250): exact for a power of two. -/
def sfuLg2 (v : Env) (a : Nat) : FR :=
  match fdec fF32 (ftzIn fF32 v.ftz a) with
  | .nan s => sfuNan (if s then flInvalid else 0)
  | .inf n => if n then sfuNan flInvalid else sfuInf false 0
  | .fin n m x =>
    if m = 0 then sfuInf true flDivzero
    else if n then sfuNan flInvalid
    else
      let e := x + (bitLen m : Int) - 1
      let one := 2 ^ (bitLen m - 1)
      if m = one then roundFV fF32 v (fvOf e 0 false)
      else
        let l := fxDiv (fxLn1 (fxOne * (m - one) / (m + one))) fxLn2
        let z := e * (fxOne : Int) + l
        if 0 ≤ z then roundFx v false z.toNat else roundFx v true ((-z).toNat - 1)

/-- The reduced angle: m × 2^x modulo π/2 as a quadrant and a fixed-point remainder. -/
def reduce (m : Nat) (x : Int) : Nat × Nat :=
  let hp := fxHalfPi.toNat
  -- z in units of 2^−fxBits; for x > 0 the quotient needs π/2 to x more bits, which fxBits holds
  let z := m * 2 ^ (x + (fxBits : Int)).toNat
  ((z / hp) % 4, z % hp)

/-- Sine (quadrant shift 0) or cosine (1) of a positive magnitude: sign and fixed-point value. -/
def trigAt (shift m : Nat) (x : Int) : Bool × Nat :=
  let (q, r) := reduce m x
  let k := (q + shift) % 4
  let r2 := fxMul r r
  let w := if k % 2 = 0 then trigSum r2 120 1 r else trigSum r2 120 0 fxOne
  (2 ≤ k, w.toNat)

/-- FSIN (R250). -/
def sfuSin (v : Env) (a : Nat) : FR :=
  match fdec fF32 (ftzIn fF32 v.ftz a) with
  | .nan s => sfuNan (if s then flInvalid else 0)
  | .inf _ => sfuNan flInvalid
  | .fin n m x =>
    if m = 0 then sfuZero n
    else if x + (bitLen m : Int) < -40 then roundBelow v n m x
    else
      let (neg, w) := trigAt 0 m x
      roundFx v (neg != n) w

/-- FCOS (R250). -/
def sfuCos (v : Env) (a : Nat) : FR :=
  match fdec fF32 (ftzIn fF32 v.ftz a) with
  | .nan s => sfuNan (if s then flInvalid else 0)
  | .inf _ => sfuNan flInvalid
  | .fin _ m x =>
    if m = 0 then ⟨0x3F800000, 0⟩
    else if x + (bitLen m : Int) < -40 then roundBelow v false 1 0
    else
      let (neg, w) := trigAt 1 m x
      roundFx v neg w

/-- FTANH (R250): (e^2x − 1) / (e^2x + 1). -/
def sfuTanh (v : Env) (a : Nat) : FR :=
  match fdec fF32 (ftzIn fF32 v.ftz a) with
  | .nan s => sfuNan (if s then flInvalid else 0)
  | .inf n => ⟨fsign fF32 n + 0x3F800000, 0⟩
  | .fin n m x =>
    if m = 0 then sfuZero n
    else if x + (bitLen m : Int) < -40 then roundBelow v n m x
    else if 7 < x + (bitLen m : Int) then roundBelow v n 1 0
    else
      let t := m * 2 ^ (x + 1 + (fxBits : Int)).toNat
      let k := t / fxLn2
      let e := fxExp (t % fxLn2) * 2 ^ k
      roundFx v n (fxDiv (e - fxOne) (e + fxOne))

end Sys2Proof.Machine
end

