-- ==== Sys2Proof/Machine/Flags.lean ====
section
/-! DEFINITION. SR_FPSTAT, FP_EXCEPTION (R98, R243, R246, R392) and the elementwise lane computation of R390. -/
namespace Sys2Proof.Machine

/-- Raise flags in the group in focus (R98). -/
def raiseFl (s : State) (fl : Fl) : State := { s with g := { s.g with fpstat := s.g.fpstat ||| fl } }

/-- Raise flags in a group by name. -/
def raiseIn (s : State) (id : GroupId) (fl : Fl) : State := modGroup s id (fun g => { g with fpstat := g.fpstat ||| fl })

/-- The union of the flags of the lanes of a mask. -/
def unionFl (m : BitVec 64) (fl : Nat → Fl) : Fl := (lanesOf m).foldl (fun acc t => acc ||| fl t) 0

/-- The flags that the kernel traps (R246, R299). -/
def trapFlags (s : State) : Fl := s.tm.kernel.fptrap.setWidth 6

/-- The lanes that raise an enabled flag: every lane of the mask under U (R246). -/
def trapLanes (s : State) (f : LaneFields) (m : BitVec 64) (fl : Nat → Fl) : BitVec 64 :=
  let ls := (lanesOf m).filter (fun t => (fl t &&& trapFlags s) != 0)
  if f.u && !ls.isEmpty then m else maskOf ls

/-- Flags of a lane instruction (R246, R392): FP_EXCEPTION with the flags set and nothing else done, or the instruction's end
`k` on a state with the flags set. -/
def withFlags (s : State) (f : LaneFields) (m : BitVec 64) (fl : Nat → Fl) (k : State → Out) : Out :=
  let all := unionFl m fl
  let lanes := trapLanes s f m fl
  let s1 := raiseFl s all
  if lanes = 0 then k s1
  else trapL s1 lanes 0x0C 0 (det [(0, lanes.toNat), (8, all.toNat)])

/-- The rounding mode of a lane instruction (R242). -/
def rndMode (s : State) (f : LaneFields) : Nat :=
  match f.rnd.toNat with
  | 0 => fld s.g.ln.fmt.toNat 12 2
  | k => k

/-- The rounding environment of a lane instruction (R242, R244, R245). -/
def laneEnv (s : State) (f : LaneFields) : Env :=
  ⟨rndMode s f, f.sat || bit s.g.ln.fmt.toNat 14, bit s.g.ln.fmt.toNat 15⟩

/-- Saturation is on for an integer instruction (R244). -/
def satOn (s : State) (f : LaneFields) : Bool := f.sat || bit s.g.ln.fmt.toNat 14

/-- Element bits and count of a width (R281): `fl` for floating-point instructions. -/
def elems (fl : Bool) (width : Nat) : Nat × Nat :=
  match width with
  | 0 => (32, 1)
  | 1 => (64, 1)
  | 2 => (16, 2)
  | _ => if fl then (16, 2) else (8, 4)

/-- Registers of an operand at a width. -/
def widthRegs (width : Nat) : Nat := if width = 1 then 2 else 1

/-- The format of a floating-point width (R281). -/
def widthFmt (width : Nat) : Fmt :=
  match width with
  | 0 => fF32
  | 1 => fF64
  | 2 => fBF16
  | _ => fF16

/-- Apply an operation to each element of three sources (R390). -/
def mapElems (e n : Nat) (op : Nat → Nat → Nat → FR) (x y z : Nat) : FR :=
  (List.range n).foldl (fun acc k =>
    let r := op (fld x (e * k) e) (fld y (e * k) e) (fld z (e * k) e)
    ⟨acc.bits + r.bits * 2 ^ (e * k), acc.fl ||| r.fl⟩) ⟨0, 0⟩

/-- The roles of an elementwise instruction at a width. -/
def elemRoles (n : Nat) (b c : Bool) : Roles :=
  ⟨.dst n, .src n, if b then .src n else .none, if c then .src n else .none⟩

/-- The value of the three sources in a lane. -/
def laneSrcs (s : State) (f : LaneFields) (fl : Bool) (m : BitVec 64) (vq : Nat × Nat × Nat) (n t : Nat) : Nat × Nat × Nat :=
  let u := srcLane f m t
  let lit := literal fl f.width.toNat f.imm
  (operand s.g f.a n lit vq.1 u, operand s.g f.b n lit vq.2.1 u, operand s.g f.c n lit vq.2.2 u)

/-- An elementwise lane instruction (R390, R392): `op` gives each element's result and flags; `lane` is the lane read. -/
def execElem (s : State) (i : Instr) (f : LaneFields) (code : Nat) (b c fl : Bool)
    (op : State → Nat → Nat → Nat → Nat → FR) : Out :=
  let n := widthRegs f.width.toNat
  let (e, cnt) := elems fl f.width.toNat
  let r := elemRoles n b c
  laneRun s i f code r none (fun s1 m vq =>
    let res := fun t =>
      let (x, y, z) := laneSrcs s1 f fl m vq n t
      mapElems e cnt (op s1 (srcLane f m t)) x y z
    withFlags s1 f m (fun t => (res t).fl) (fun s2 =>
      .next (popFinL (writeLanes s2 f.d n m (fun t => (res t).bits)) f r)))

end Sys2Proof.Machine
end

