-- ==== Sys2Proof/Machine/Convert.lean ====
section
/-! DEFINITION. CVT, lane class 0x4 (R247, R251, R399 to R402) -/
namespace Sys2Proof.Machine

/-- Registers of a value of a float code (R399). -/
def codeRegs (code : Nat) : Nat := if code = 1 then 2 else 1

/-- A pattern cut to its format. -/
def cutTo (fmt : Fmt) (x : Nat) : Nat := x % 2 ^ fmt.bits

/-- A lane instruction of one 32-bit or 64-bit result from up to three sources (R390): `srcs` their registers, `fl` whether a
literal is floating-point. -/
def execConv (s : State) (i : Instr) (f : LaneFields) (code : Nat) (r : Roles) (nd na : Nat) (fl : Bool) (extra : Option BadOp)
    (op : Env → Nat → Nat → Nat → FR) : Out :=
  laneRun s i f code r extra (fun s1 m vq =>
    let res := fun t =>
      let u := srcLane f m t
      let lit := literal fl (if na = 2 then 1 else 0) f.imm
      op (laneEnv s1 f) (operand s1.g f.a na lit vq.1 u) (operand s1.g f.b 1 f.imm.toNat vq.2.1 u)
        (operand s1.g f.c 1 f.imm.toNat vq.2.2 u)
    withFlags s1 f m (fun t => (res t).fl) (fun s2 =>
      .next (popFinL (writeLanes s2 f.d nd m (fun t => (res t).bits)) f r)))

/-- CVT (R247, R400). -/
def execCvt (f : LaneFields) (s : State) : Out :=
  let src := fld f.sub.toNat 3 3
  let dst := fld f.sub.toNat 0 3
  execConv s (.cvt f) f 256 ⟨.dst (codeRegs dst), .src (codeRegs src), .none, .none⟩ (codeRegs dst) (codeRegs src) true
    (subBad f (5 < dst || 5 < src))
    (fun v x _ _ => fConv (fmtOf src) (fmtOf dst) v (cutTo (fmtOf src) x))

/-- CVTI (R247, R400). -/
def execCvti (f : LaneFields) (s : State) : Out :=
  let fmt := fmtOf (fld f.sub.toNat 2 3)
  let nf := codeRegs (fld f.sub.toNat 2 3)
  let wide := f.sub.getLsbD 1
  let uns := f.sub.getLsbD 0
  let bits := if wide then 64 else 32
  let ni := if wide then 2 else 1
  let toFloat := f.sub.getLsbD 5
  let nd := if toFloat then nf else ni
  let na := if toFloat then ni else nf
  execConv s (.cvti f) f 257 ⟨.dst nd, .src na, .none, .none⟩ nd na (!toFloat) (subBad f (5 < fld f.sub.toNat 2 3))
    (fun v x _ _ =>
      if toFloat then ofInt fmt v (if uns then ((x % 2 ^ bits : Nat) : Int) else signed bits x)
      else
        let (z, fl) := toInt bits (!uns) v.mode (fdec fmt (ftzIn fmt v.ftz (cutTo fmt x)))
        ⟨wrapN bits z, fl⟩)

/-- PACK on three patterns (R401): `k` the format, `h` the byte pair. -/
def packVal (k h : Nat) (v : Env) (a b c : Nat) : FR :=
  let fmt := fmtOf (k + 2)
  let x := fConv fF32 fmt v a
  let y := fConv fF32 fmt v b
  if k < 2 then ⟨x.bits + y.bits * 2 ^ 16, x.fl ||| y.fl⟩
  else ⟨c - fld c (16 * h) 16 * 2 ^ (16 * h) + (x.bits + y.bits * 256) * 2 ^ (16 * h), x.fl ||| y.fl⟩

/-- PACK (R401). -/
def execPack (f : LaneFields) (s : State) : Out :=
  let k := fld f.sub.toNat 0 2
  let h := fld f.sub.toNat 2 1
  execConv s (.pack f) f 258 ⟨.dst 1, .src 1, .src 1, if k < 2 then .none else .src 1⟩ 1 1 true
    (subBad f (k < 2 && h == 1)) (packVal k h)

/-- UNPACK on a pattern (R401): element `k` as F32. -/
def unpackVal (fc k : Nat) (v : Env) (a : Nat) : FR :=
  let fmt := fmtOf (fc + 2)
  let x := fld a (fmt.bits * k) fmt.bits
  let z := fdec fmt (ftzIn fmt v.ftz x)
  ⟨(roundFV fF32 rneEnv z).bits, if fc < 2 && isSnan z then flInvalid else 0⟩

/-- UNPACK (R401). -/
def execUnpack (f : LaneFields) (s : State) : Out :=
  let k := fld f.sub.toNat 0 2
  let e := fld f.sub.toNat 2 2
  execConv s (.unpack f) f 259 ⟨.dst 1, .src 1, .none, .none⟩ 1 1 true
    (subBad f (k < 2 && 1 < e)) (fun v x _ _ => unpackVal k e v x)

/-- The ENC mode of QSCALE (R251, R402). A NaN takes the code that R402 gives it, not the ±6 of the table of R247 (log 120). -/
def scaleEnc (ab4 : Bool) (v : Env) (a rec' p : Nat) : FR :=
  let z := fdec fF32 (ftzIn fF32 v.ftz a)
  let odd := isNan z || isInf z
  if fld rec' 0 8 = 0xFF then ⟨0, if odd then flInvalid else flInexact⟩
  else if isNan z then ⟨0, flInvalid⟩
  else if isInf z then ⟨gridCode ab4 z, flInvalid⟩
  else
    let c := blockCode ab4 rec' p z
    ⟨c, if fvCmp z (blockVal ab4 rec' c p) = 0 then 0 else flInexact⟩

/-- QSCALE on three patterns (R402). FMT.SAT does not act: the instruction lists no sat (R392; log 23). -/
def scaleVal (mode : Nat) (ab4 : Bool) (v : Env) (a b c : Nat) : FR :=
  let p := fld c 0 3
  let z := fdec fF32 (ftzIn fF32 v.ftz a)
  match mode with
  | 0 => roundFV fF32 { v with sat := false } (blockVal ab4 b (if ab4 then fld a 0 4 else fld a 0 8) p)
  | 1 => scaleEnc ab4 v a b p
  | 2 => ⟨blockExp ab4 (fvAbs z), 0⟩
  | _ => ⟨b2n (microBit ab4 (fld b 0 8) z), 0⟩

/-- QSCALE (R402). -/
def execQscale (f : LaneFields) (s : State) : Out :=
  let mode := fld f.sub.toNat 0 3
  let b : Role := if mode = 2 then .none else .src 1
  let c : Role := if mode = 2 || mode == 3 then .none else .src 1
  execConv s (.qscale f) f 260 ⟨.dst 1, .src 1, b, c⟩ 1 1 true (subBad f (3 < mode))
    (scaleVal mode (f.sub.getLsbD 3))

end Sys2Proof.Machine
end

