-- ==== Sys2Proof/Machine/Publish.lean ====
section
/-! DEFINITION. What the engines share: reading and writing global memory for a group (R157, R199, R203, R361), the shadow
revision and its publish (R154, R157, R165), and the line and structure errors they meet (R262, R265, R269). -/
namespace Sys2Proof.Machine

/-- An uncorrectable error in a core structure (R262, R269): class UE_CORE with the failing address (R264), then a
self-test of the structure. -/
def raiseUE (s : State) (part core structure' ctx addr : Nat) (victims : List GroupId) : State :=
  modCore (severityUnit s part 0x21 core ctx addr victims) core (fun c => { c with testing := c.testing.insert structure' })

/-- Take an element out of a list by a number. -/
def pickAt {α : Type} : List α → Nat → Option (α × List α)
  | [], _ => none
  | x :: r, 0 => some (x, r)
  | x :: r, k + 1 => (pickAt r k).map (fun p => (p.1, x :: p.2))

/-- The order of a list that a number encodes, one digit for each place. The recursion is on the length. -/
def orderBy {α : Type} : Nat → Nat → List α → List α
  | 0, _, l => l
  | n + 1, code, l =>
    match pickAt l (code % (n + 1)) with
    | none => l
    | some (x, r) => x :: orderBy n (code / (n + 1)) r

/-- A free order of the lanes of one instruction (R176, R428, R431; log 10). -/
def freeOrder {α : Type} (s : State) (l : List α) : List α × State :=
  if l.length ≤ 1 then (l, s)
  else
    let code := (List.range 5).foldl (fun acc k => acc + (Config.freeValue (s.free + k)).toNat * 2 ^ (64 * k)) 0
    (orderBy l.length code l, { s with free := s.free + 5 })

/-- The bytes of an engine's read, each as the group's task sees it; a drop that it follows makes it wait (R137). -/
def engBytes (s : State) (w : Who) : Nat → Nat → MR (List Byte)
  | 0, _ => .ok [] s
  | n + 1, a =>
    (granted w.part (translate s w.unit w.part w.ctx (a % 2 ^ 64) w.sup false true)).bind (fun l s1 =>
      let key := readKey s1 w l
      if behindDrop s1 w l.va || cutOff s1 l then .stall
      else if poisoned s1 key 1 then .trap 0x0F 0
      else (engBytes s1 w n (a + 1)).bind (fun r s2 => .ok (mget s2.mem key :: r) s2))

/-- The 16-byte source beats that hold `n` bytes at `a`, by number (R206). -/
def srcBeats (a n : Nat) : List Nat := (List.range ((a % 16 + n + 15) / 16)).map (fun k => (a / 16 + k) % 2 ^ 60)

/-- The check of the line that holds `at'`, if an engine reads it among the 16-byte beats `beats` (R13, R265): the state, and the 64-byte
line where it fails. -/
def beatsEcc (s : State) (w : Who) (beats : List Nat) (at' : Nat) (ecc : Ecc) : State × Option Nat :=
  match beats.find? (fun b => b / 4 == at' / 64) with
  | none => (s, none)
  | some b =>
    match translate s w.unit w.part w.ctx (16 * b) w.sup false true with
    | .ok l s1 =>
      if behindDrop s1 w (16 * b) then (s1, none)
      else
        let (s2, n) := lineCheck s1 w.part w.ctx (readKey s1 w l) (16 * b) ecc
        (s2, if n = 0 then none else some (b / 4))
    | _ => (s, none)

/-- The L2 after an engine has read the lines of [a, a + n) under a hint (R111). -/
def engTouch (s : State) (w : Who) (evict n a : Nat) : State :=
  let starts := a :: ((List.range n).map (fun k => a + k)).filter (fun x => x % 128 == 0 && x != a)
  starts.foldl (fun u x =>
    match translate u w.unit w.part w.ctx (x % 2 ^ 64) w.sup false true with
    | .ok l u1 => l2Touch u1 w.part (readKey u1 w l) (min (a + n) (x - x % 128 + 128) - x) l.cls evict l.t0 false
    | _ => u) s

/-- Read `n` bytes of global memory for a group's engine, a read of the L2 under a hint (R111). -/
def engRead (s : State) (w : Who) (evict n a : Nat) : MR (List Byte) :=
  (engBytes s w n a).bind (fun bs s1 => .ok bs (if n = 0 then s1 else engTouch s1 w evict n a))

/-- The locations at which a list of bytes is to be written in global memory (R157). -/
def engLocs (s : State) (w : Who) : List Byte → Nat → MR (List (Loc × Byte))
  | [], _ => .ok [] s
  | b :: r, a =>
    (granted w.part (translate s w.unit w.part w.ctx (a % 2 ^ 64) w.sup true false)).bind (fun l s1 =>
      (engLocs s1 w r (a + 1)).bind (fun t s2 => .ok ((l, b) :: t) s2))

/-- The key that a publish of a task writes at a location: the task's own copy, or the page's frame (R150, R157). -/
def pubKey (s : State) (w : Who) (l : Loc) : Nat :=
  match findPart s w.part with
  | none => l.addr
  | some p => if writeSide p w.ctx w.rev l.va = 0 then l.addr else viewKey p w.ctx w.rev l.va l.addr

/-- The first byte of a shadow in a poisoned 64-byte line that it writes only in part (R199). -/
def partialByte (s : State) (w : Who) (sh : List (Loc × Byte)) : Option Loc :=
  let keys := sh.map (fun e => readKey s w e.1)
  let bad := fun (k : Nat) => s.dev.poison.contains (k / 64) && !(List.range 64).all (fun b => keys.contains (k / 64 * 64 + b))
  ((sh.zip keys).find? (fun e => bad e.2)).map (fun e => e.1.1)

/-- The shadow writes a poisoned 64-byte line only in part (R199). -/
def pubPartial (s : State) (w : Who) (sh : List (Loc × Byte)) : Bool := (partialByte s w sh).isSome

/-- One location of each 128-byte line of a shadow. -/
def lineReps : List (Loc × Byte) → List Nat → List Loc
  | [], _ => []
  | e :: r, seen => if seen.contains (e.1.va / 128) then lineReps r seen else e.1 :: lineReps r (e.1.va / 128 :: seen)

/-- Make the copies that a publish needs (R151, R157); it waits for pool frames, for pages in transit (R123), for drops (R137)
and for a port (R16). -/
def pubPrep (s : State) (w : Who) : List Loc → MR Unit
  | [] => .ok () s
  | l :: r =>
    if behindDrop s w l.va || cutOff s l then .stall
    else
    match prepWrite s w.part w.task w.ctx w.rev l.va l.addr l.revcap (lineBitOf l.va) with
    | .stall => .stall
    | .trap t => if t.num = 0x0D then .stall else .trap t.num t.detail
    | .ok _ s1 => pubPrep s1 w r

/-- The address at which a publish is refused (R260): in a poisoned line that it writes in part, or the first line whose write traps. -/
def pubFailVA (s : State) (w : Who) (sh : List (Loc × Byte)) : Nat :=
  let refused := fun (l : Loc) =>
    match prepWrite s w.part w.task w.ctx w.rev l.va l.addr l.revcap (lineBitOf l.va) with
    | .trap t => t.num != 0x0D
    | _ => false
  match partialByte s w sh with
  | some l => l.va
  | none => (((lineReps sh []).find? refused).map Loc.va).getD ((sh.head?.map (fun e => e.1.va)).getD 0)

/-- Write one byte of a publish: the byte, the stamp of a unit it changes, the migration bit (R149, R158). -/
def pubByte (w : Who) (source : Nat) (s : State) (e : Loc × Byte) : State :=
  let key := pubKey s w e.1
  let s1 := if mget s.mem key = e.2 then s else stampWrite s w.part key 1 source
  markDirty { s1 with mem := physPut s1.mem key e.2 } w.part key

/-- Publish a shadow at one point (R154, R157), once no drop is ahead of it (R137): its bytes, then at most one watch event for each entry and line (R165). -/
def publish (s : State) (w : Who) (source evict : Nat) (sh : List (Loc × Byte)) : MR Unit :=
  if sh.any (fun e => behindDrop s w e.1.va) then .stall
  else if pubPartial s w sh then .trap 0x0F 0
  else
    let reps := lineReps sh []
    (pubPrep s w reps).bind (fun _ s1 =>
      let m0 := s1.mem
      let s2 := sh.foldl (pubByte w source) s1
      let keys := sh.map (fun e => pubKey s1 w e.1)
      let whole := fun (l : Nat) => (List.range 64).all (fun b => keys.contains (64 * l + b))
      let s3 := { s2 with dev := { s2.dev with poison := s2.dev.poison.filter (fun l => !whole l) } }
      .ok () (reps.foldl (fun u l =>
        let key := pubKey s1 w l
        let u1 := l2Touch u w.part key 128 l.cls evict l.t0 true
        if l.watched && key == l.addr then
          watchWrite u1 w.part m0 (key - key % 128) 128 w.depth source true
        else u1) s3))

end Sys2Proof.Machine
end

