-- ==== Sys2Proof/Machine/HostPort.lean ====
section
/-! DEFINITION. The host's access through BAR2 (R28), the BAR0 registers of a virtual function (R28 to R36, R262, R263), launch
queues as the host and the Work Distributor meet them (R31 to R35), and the end of a mailbox command (R39). -/
namespace Sys2Proof.Machine

/-- The PCI Express link of a partition as a source of accesses and records (R24). -/
def linkSource (p : Partition) : Nat := 0x3000 + p.link

/-- The size of the largest aligned access of at most 16 bytes that starts at `a` and holds at most `n` bytes (R104). -/
def pieceLen (a n : Nat) : Nat :=
  ((([16, 8, 4, 2].filter (fun k => a % k == 0 && k ≤ n)).head?).getD 1)

/-- A run of bytes as aligned accesses in address order. The recursion is on fuel. -/
def piecesOf : Nat → Nat → List Byte → List (Nat × List Byte)
  | 0, _, _ => []
  | _, _, [] => []
  | n + 1, a, b :: r =>
    let k := pieceLen a (r.length + 1)
    (a, (b :: r).take k) :: piecesOf n (a + k) ((b :: r).drop k)

/-- The first virtual address of a partition's BAR2 window (R28, R29). -/
def winAddr (p : Partition) (off : Nat) : Nat := (p.winBase.toNat / 2 ^ 36 * 2 ^ 36 + off % 2 ^ 36) % 2 ^ 64

/-- Post BAR_FAULT for a BAR2 access (R28). -/
def barFault (s : State) (p : Partition) (va : Nat) : State :=
  postEvent s p.num (noneRec 0x000A (linkSource p) 0 (BitVec.ofNat 64 va) 0) false

/-- Locate every piece of a BAR2 access. -/
def locPieces (w : Who) (write : Bool) : State → List (Nat × List Byte) → MR (List (Loc × List Byte))
  | s, [] => .ok [] s
  | s, (a, b) :: r =>
    (granted w.part (translate s w.unit w.part w.ctx a w.sup write (!write))).bind (fun l s1 =>
      (locPieces w write s1 r).bind (fun ls s2 => .ok ((l, b) :: ls) s2))

/-- Store the pieces of a BAR2 write in order. -/
def storePieces (w : Who) : State → List (Loc × List Byte) → MR Unit
  | s, [] => .ok () s
  | s, (l, b) :: r => (storeAt s w l b.length (bytesNat b) 0).bind (fun _ s1 => storePieces w s1 r)

/-- Perform a posted write (R28): a write whose translation fails is dropped with a record, one that waits answers a
stall. `ecc` is the check of the line that holds `va` (R13, R265). DESIGN CHOICE: one that meets a poisoned or failing line is dropped with
BAR_FAULT as well (log 121). -/
def barWrite (s : State) (p : Partition) (off : Nat) (data : List Byte) : MR Unit :=
  let w := outside p.num (linkSource p)
  let va := winAddr p off
  let (s0, bad) := if s.inp.ecc == .clean then (s, none) else beatsEcc s w (srcBeats va data.length) s.inp.va s.inp.ecc
  if bad.isSome then .ok () (barFault s0 p va)
  else
    match (locPieces w true s0 (piecesOf data.length va data)).bind (fun ls s1 => storePieces w s1 ls) with
    | .ok _ s1 => .ok () s1
    | .trap n _ => if n = 0x0D then .stall else .ok () (barFault s0 p va)
    | .stall => .stall
    | .fault f => .fault f

/-- Queue a posted write behind those of its partition (R28). -/
def postWrite (s : State) (part off : Nat) (data : List Byte) : State :=
  modPart s part (fun p => { p with posted := p.posted ++ [(off, data)] })

/-- BAR2_WRITE (R28): the write of `data` at offset `off` of partition `part` arrives, or with `flag` the oldest write that waits
is tried again. -/
def execBar2Write (s : State) : Out :=
  match findPart s s.inp.part with
  | none => .next s
  | some p =>
    match s.inp.flag, p.posted with
    | true, [] => .next s
    | true, (off, data) :: rest =>
      match barWrite s p off data with
      | .ok _ s1 => .next (modPart s1 p.num (fun q => { q with posted := rest }))
      | .trap _ _ => .next s
      | .stall => .next s
      | .fault f => .fault f
    | false, _ :: _ => .next (postWrite s p.num s.inp.off s.inp.data)
    | false, [] =>
      match barWrite s p s.inp.off s.inp.data with
      | .ok _ s1 => .next s1
      | .trap _ _ => .next s
      | .stall => .next (postWrite s p.num s.inp.off s.inp.data)
      | .fault f => .fault f

/-- Bytes returned to the host. -/
def hostRead (s : State) (b : List Byte) : State := { s with dev := { s.dev with readOut := s.dev.readOut ++ [b] } }

/-- BAR2_READ (R28): `size` bytes at offset `off`, all ones and a record where translation fails. It follows the
writes posted before it; `ecc` is the check of the line that holds `va` (R13, R265). DESIGN CHOICE: a read that meets a poisoned or failing
line answers all ones with BAR_FAULT as well (log 121). -/
def execBar2Read (s : State) : Out :=
  match findPart s s.inp.part with
  | none => .next s
  | some p =>
    if !p.posted.isEmpty then .next s
    else
      let w := outside p.num (linkSource p)
      let va := winAddr p s.inp.off
      let n := s.inp.size
      let fail := fun (u : State) => Host.Outcome.next (hostRead (barFault u p va) (List.replicate n 0xFF))
      let (s1, bad) := if s.inp.ecc == .clean then (s, none) else beatsEcc s w (srcBeats va n) s.inp.va s.inp.ecc
      if bad.isSome then fail s1
      else
        match engRead s1 w 0 n va with
        | .ok bs s2 => .next (hostRead s2 bs)
        | .trap _ _ => fail s1
        | .stall => .next s
        | .fault f => .fault f

/-- A register value with the bits of `m` replaced by those of `v`. -/
def mergeBits (old v m : Nat) : Nat := (old &&& (2 ^ 64 - 1 - m % 2 ^ 64)) ||| (v &&& m % 2 ^ 64)

/-- A class word after a write (R263): a field written with 6 or 7 keeps its value. -/
def sevMerge (old v m : Nat) : Nat :=
  (List.range 6).foldl (fun acc k =>
    let f := fld v (4 * k) 3
    if fld m (4 * k) 3 = 7 && f < 6 then acc - fld acc (4 * k) 3 * 2 ^ (4 * k) + f * 2 ^ (4 * k) else acc) old

/-- A queue that has never been written (R29). -/
def noQueue : Queue :=
  { base := 0, log2n := 0, tickets := 0, preempt := false, enable := false, vec := 0, head := 0, tailva := 0, qstat := 0,
    ctx := 0, tail := 0 }

/-- Queue `k` of a partition. -/
def queueOf (p : Partition) (k : Nat) : Queue := sget noQueue p.queues k

/-- `f` applied to queue `k` of a partition. -/
def modQueue (s : State) (part k : Nat) (f : Queue → Queue) : State :=
  modPart s part (fun p => { p with queues := sput noQueue p.queues k (f (queueOf p k)) })

/-- The word at offset 0x08 of a queue descriptor (R32). -/
def queueWord (q : Queue) : Nat :=
  q.log2n.toNat + q.tickets.toNat * 2 ^ 8 + b2n q.preempt * 2 ^ 16 + b2n q.enable * 2 ^ 17 + q.vec.toNat * 2 ^ 24
  + q.head.toNat * 2 ^ 32

/-- A queue descriptor after a write of word `k` of its four (R32): HEAD ignores it, QSTAT clears on ones. -/
def queueWrite (q : Queue) (k v m : Nat) : Queue :=
  match k with
  | 0 => { q with base := BitVec.ofNat 64 (mergeBits q.base.toNat v m) }
  | 1 =>
    let w := mergeBits (queueWord q) v m
    { q with log2n := BitVec.ofNat 5 (fld w 0 5), tickets := BitVec.ofNat 8 (fld w 8 8), preempt := bit w 16, enable := bit w 17,
             vec := BitVec.ofNat 6 (fld w 24 6) }
  | 2 => { q with tailva := BitVec.ofNat 64 (mergeBits q.tailva.toNat v m) }
  | _ =>
    { q with qstat := q.qstat &&& ~~~(BitVec.ofNat 3 (v &&& m)), ctx := BitVec.ofNat 8 (fld (mergeBits (q.ctx.toNat * 2 ^ 8) v m) 8 8) }

/-- PC_CTL.RUN written (R30): STATE moves at once between ready and running. -/
def setRun (p : Partition) (run : Bool) : Partition :=
  { p with run := run, state := if p.state = 1 || p.state = 2 then (if run then 2 else 1) else p.state }

/-- A partition after a write of the bits `m` of its BAR0 register at 8-aligned `off` (R28, R29, R36, R263); `pf` says that the
owner of the physical function writes. A locked T_hot ignores the virtual function (log 39). -/
def regWrite (p : Partition) (off v m : Nat) (pf : Bool) : Partition :=
  if off = 0x10 then
    let w := mergeBits (b2n p.run + 2 * b2n p.drain) v m
    { setRun p (bit w 0) with drain := bit w 1 }
  else if off = 0x20 then
    { p with winBase := BitVec.ofNat 64 (mergeBits p.winBase.toNat v m / 2 ^ 36 * 2 ^ 36) }
  else if off = 0x40 then { p with evBase := BitVec.ofNat 64 (mergeBits p.evBase.toNat v m) }
  else if off = 0x48 then
    let w := mergeBits (p.evLog2.toNat + b2n p.evIe * 2 ^ 8 + p.evVec.toNat * 2 ^ 16) v m
    { p with evLog2 := BitVec.ofNat 5 (fld w 0 5), evIe := bit w 8, evVec := BitVec.ofNat 6 (fld w 16 6) }
  else if off = 0x58 then { p with evCons := BitVec.ofNat 32 (mergeBits p.evCons.toNat v m) }
  else if off = 0x100 then
    let w := mergeBits (p.thot.toNat + b2n p.thotLock * 2 ^ 8) v m
    if pf then { p with thot := BitVec.ofNat 8 (fld w 0 8), thotLock := bit w 8 }
    else if p.thotLock then p else { p with thot := BitVec.ofNat 8 (fld w 0 8) }
  else if off = 0x110 then { p with stageWd := BitVec.ofNat 64 (mergeBits p.stageWd.toNat v m) }
  else if off = 0x118 then { p with partWd := BitVec.ofNat 64 (mergeBits p.partWd.toNat v m) }
  else if 0x200 ≤ off && off < 0x400 then
    let cls := (off - 0x200) / 8
    if sevClassOk cls then
      { p with sev := sput (sevFill (sevDefault cls)) p.sev cls (BitVec.ofNat 64 (sevMerge (sevWord p cls).toNat v m)) }
    else p
  else if 0x1000 ≤ off && off < 0x1800 then
    let k := (off - 0x1000) / 32
    { p with queues := sput noQueue p.queues k (queueWrite (queueOf p k) (off / 8 % 4) v m) }
  else p

/-- Teams of a partition that are resident (R30). -/
def activeTeams (s : State) (part : Nat) : Nat := ((allTeams s).filter (fun t => t.part == part && !t.saved)).length

/-- The value that the BAR0 register at 8-aligned offset `off` of a partition's virtual function reads as (R28 to R30, R32, R36,
R263). -/
def barValue (s : State) (p : Partition) (off : Nat) : Nat :=
  if off = 0x00 then 0x2160 * 2 ^ 48 + p.num % 16 * 2 ^ 40 + p.link % 2 * 2 ^ 32 + Config.securityVersion.toNat
  else if off = 0x08 then activeTeams s p.num % 2 ^ 32 * 2 ^ 32 + b2n p.integ * 2 ^ 7 + b2n p.retiredF * 2 ^ 6 + p.state % 8
  else if off = 0x10 then b2n p.run + 2 * b2n p.drain
  else if off = 0x18 then p.gtcOffset.toNat
  else if off = 0x20 then p.winBase.toNat
  else if off = 0x40 then p.evBase.toNat
  else if off = 0x48 then p.evLog2.toNat + b2n p.evIe * 2 ^ 8 + p.evVec.toNat * 2 ^ 16
  else if off = 0x50 then p.evProd.toNat
  else if off = 0x58 then p.evCons.toNat
  else if off = 0x60 then p.evLost.toNat
  else if off = 0x100 then p.thot.toNat + b2n p.thotLock * 2 ^ 8
  else if off = 0x110 then p.stageWd.toNat
  else if off = 0x118 then p.partWd.toNat
  else if 0x200 ≤ off && off < 0x400 then (sevWord p ((off - 0x200) / 8)).toNat
  else if 0x1000 ≤ off && off < 0x1800 then
    let q := queueOf p ((off - 0x1000) / 32)
    match off / 8 % 4 with
    | 0 => q.base.toNat
    | 1 => queueWord q
    | 2 => q.tailva.toNat
    | _ => q.qstat.toNat + q.ctx.toNat * 2 ^ 8
  else 0

/-- The value that the register at 8-aligned offset `off` of a physical function's BAR0 reads as (R39). -/
def pfValue (s : State) (off : Nat) : Nat :=
  if off = 0 then s.dev.mbCmd.toNat
  else if off = 8 then b2n s.dev.mbBusy + s.dev.mbResult.toNat * 2 ^ 8
  else if 0x1000 ≤ off && off < 0x2000 then mread s.dev.mbArgs (off - 0x1000) 8
  else 0

/-- A read of `n` bytes at offset `off` of a BAR0 whose registers read as `val`: 1, 2, 4 or 8 bytes within one register (R28); the spec
gives no other read an answer. -/
def barRead (val : Nat → Nat) (off n : Nat) : Option (List Byte) :=
  if [1, 2, 4, 8].contains n && off % 8 + n ≤ 8 then some (((natBytes 8 (val (off - off % 8))).drop (off % 8)).take n) else none

/-- The Work Distributor as a source of records (R24): the spec has one on each die and names neither for a record, the model takes
that of die 0 (log 109). -/
def distSource : Nat := unitSource 0 3

/-- The LAUNCH_ERROR record of a queue (R35): the failing structure's address, the offset of its first failing field, its kind,
and the record's address field. -/
def launchError (s : State) (part q va off kind addr : Nat) : State :=
  let ctx := ((findPart s part).map (fun p => (queueOf p q).ctx.toNat)).getD 0
  let e := { noneRec 0x0005 distSource ctx (BitVec.ofNat 64 addr) (det [(0, va), (8, off), (10, kind)]) with queue := q }
  postEvent s part e false

/-- The first failing field of a queue descriptor (R33, R35). -/
def queueBad (s : State) (part : Nat) (q : Queue) : Option Nat :=
  if q.base.toNat % 128 != 0 then some 0x00
  else if q.log2n.toNat < 4 || 16 < q.log2n.toNat then some 0x08
  else if q.tailva.toNat % 4 != 0 || (supRead s part q.tailva.toNat 4).isNone then some 0x10
  else none

/-- Stop a queue with a QSTAT bit (R33). -/
def stopQueue (s : State) (part k bits : Nat) : State :=
  modQueue s part k (fun q => { q with qstat := q.qstat ||| BitVec.ofNat 3 (1 + bits) })

/-- A queue is active (R32): ENABLE is 1, TICKETS is not zero, and it is not stopped. -/
def queueActive (p : Partition) (q : Queue) : Bool :=
  q.enable && q.tickets != 0 && !q.qstat.getLsbD 0 && (p.state == 1 || p.state == 2)

/-- The queue may be taken from, but for its contents (R33). -/
def queueOn (p : Partition) (q : Queue) : Bool := p.run && !p.drain && queueActive p q

/-- The Work Distributor looks at an active queue (R33): the tail is read, and an overflow stops the queue whatever RUN and DRAIN say; an
invalid descriptor stops it when records may be taken (log 116). DESIGN CHOICE: the records name the queue's CTX as their context, and
QUEUE_OVERFLOW has address 0 (R38; log 17). -/
def wakeQueue (s : State) (part k : Nat) : State :=
  match findPart s part with
  | none => s
  | some p =>
    let q := queueOf p k
    if !queueActive p q then s
    else
      match queueBad s part q with
      | some off => if queueOn p q then launchError (stopQueue s part k 4) part k (0x1000 + 32 * k) off 4 0 else s
      | none =>
        let tail := BitVec.ofNat 32 ((supRead s part q.tailva.toNat 4).getD 0)
        let s1 := modQueue s part k (fun x => { x with tail := tail })
        if 2 ^ q.log2n.toNat < (tail - q.head).toNat then
          let e := { noneRec 0x0004 distSource q.ctx.toNat 0 0 with queue := k }
          postEvent (stopQueue s1 part k 2) part e false
        else s1

/-- Start a mailbox command (R39, R43): MB_CMD takes its value; a busy mailbox ignores it, recovery mode answers result 3. `k` gives the
state and the result. -/
def mailbox (s : State) (cmd : Nat) (k : State → State × Nat) : Out :=
  if s.dev.mbBusy then .next s
  else
    let busy := fun (r : State × Nat) =>
      Host.Outcome.next { r.1 with dev := { r.1.dev with
        mbBusy := true, mbCmd := BitVec.ofNat 64 cmd, mbNext := BitVec.ofNat 8 r.2 } }
    if s.dev.recovery then busy (s, 3) else busy (k s)

/-- A mailbox command on an existing partition whose STATE is allowed (R39): else result 3. -/
def onState (s : State) (allowed : List Nat) (k : Partition → State × Nat) : State × Nat :=
  match findPart s s.inp.part with
  | none => (s, 3)
  | some p => if allowed.contains p.state then k p else (s, 3)

end Sys2Proof.Machine
end

