-- ==== Sys2Proof/Machine/Scalar.lean ====
section
/-! DEFINITION. Scalar arithmetic, immediates and branches (R308 to R310, R318 to R323). -/
namespace Sys2Proof.Machine

/-- An ALU function of two registers: read at issue, written once, then the next word (R308). -/
def aluS (s : State) (sd sa sb : BitVec 6) (f : Word → Word → Word) : Out :=
  .next (finS s sd (f (sreg s sa) (sreg s sb)))

/-- An ALU function of one register. -/
def aluS1 (s : State) (sd sa : BitVec 6) (f : Word → Word) : Out := .next (finS s sd (f (sreg s sa)))

/-- Bits [127:64] of the signed product (R318). -/
def mulHigh (x y : Word) : Word := BitVec.ofInt 64 (x.toInt * y.toInt / 2 ^ 64)

/-- Bits [127:64] of the unsigned product (R318). -/
def mulHighN (x y : Word) : Word := BitVec.ofNat 64 (x.toNat * y.toNat / 2 ^ 64)

/-- The signed quotient of R319. -/
def divS (x y : Word) : Word :=
  if y = 0 then BitVec.allOnes 64 else BitVec.ofInt 64 (Int.tdiv x.toInt y.toInt)

/-- The unsigned quotient of R319. -/
def divN (x y : Word) : Word := if y = 0 then BitVec.allOnes 64 else BitVec.ofNat 64 (x.toNat / y.toNat)

/-- The signed remainder of R319: its sign follows x. -/
def remS (x y : Word) : Word := if y = 0 then x else BitVec.ofInt 64 (Int.tmod x.toInt y.toInt)

/-- The unsigned remainder of R319. -/
def remN (x y : Word) : Word := if y = 0 then x else BitVec.ofNat 64 (x.toNat % y.toNat)

/-- A shift amount is the low six bits (R318). -/
def shAmt (y : Word) : Nat := y.toNat % 64

/-- A shift by `n`: 0 left, 1 right with zeros, 2 right with the sign (R318, R320). -/
def shiftBy (op : Nat) (x : Word) (n : Nat) : Word :=
  if op = 0 then x <<< n else if op = 1 then x >>> n else x.sshiftRight n

/-- A truth value as a word. -/
def wordOf (b : Bool) : Word := if b then 1 else 0

/-- SADD (R318). -/
def execSadd (sd sa sb : BitVec 6) (s : State) : Out := aluS s sd sa sb (fun x y => x + y)

/-- SSUB (R318). -/
def execSsub (sd sa sb : BitVec 6) (s : State) : Out := aluS s sd sa sb (fun x y => x - y)

/-- SMUL (R318). -/
def execSmul (sd sa sb : BitVec 6) (s : State) : Out := aluS s sd sa sb (fun x y => x * y)

/-- SMULH (R318). -/
def execSmulh (sd sa sb : BitVec 6) (s : State) : Out := aluS s sd sa sb mulHigh

/-- SMULHN (R318). -/
def execSmulhn (sd sa sb : BitVec 6) (s : State) : Out := aluS s sd sa sb mulHighN

/-- SDIV (R319). -/
def execSdiv (sd sa sb : BitVec 6) (s : State) : Out := aluS s sd sa sb divS

/-- SDIVN (R319). -/
def execSdivn (sd sa sb : BitVec 6) (s : State) : Out := aluS s sd sa sb divN

/-- SREM (R319). -/
def execSrem (sd sa sb : BitVec 6) (s : State) : Out := aluS s sd sa sb remS

/-- SREMN (R319). -/
def execSremn (sd sa sb : BitVec 6) (s : State) : Out := aluS s sd sa sb remN

/-- SAND (R318). -/
def execSand (sd sa sb : BitVec 6) (s : State) : Out := aluS s sd sa sb (fun x y => x &&& y)

/-- SOR (R318). -/
def execSor (sd sa sb : BitVec 6) (s : State) : Out := aluS s sd sa sb (fun x y => x ||| y)

/-- SXOR (R318). -/
def execSxor (sd sa sb : BitVec 6) (s : State) : Out := aluS s sd sa sb (fun x y => x ^^^ y)

/-- SANDN: x and not y (R318). -/
def execSandn (sd sa sb : BitVec 6) (s : State) : Out := aluS s sd sa sb (fun x y => x &&& ~~~y)

/-- SSHL (R318). -/
def execSshl (sd sa sb : BitVec 6) (s : State) : Out := aluS s sd sa sb (fun x y => shiftBy 0 x (shAmt y))

/-- SSHR (R318). -/
def execSshr (sd sa sb : BitVec 6) (s : State) : Out := aluS s sd sa sb (fun x y => shiftBy 1 x (shAmt y))

/-- SSRA (R318). -/
def execSsra (sd sa sb : BitVec 6) (s : State) : Out := aluS s sd sa sb (fun x y => shiftBy 2 x (shAmt y))

/-- SMIN (R318). -/
def execSmin (sd sa sb : BitVec 6) (s : State) : Out :=
  aluS s sd sa sb (fun x y => if x.toInt ≤ y.toInt then x else y)

/-- SMAX (R318). -/
def execSmax (sd sa sb : BitVec 6) (s : State) : Out :=
  aluS s sd sa sb (fun x y => if x.toInt ≤ y.toInt then y else x)

/-- SMINN (R318). -/
def execSminn (sd sa sb : BitVec 6) (s : State) : Out :=
  aluS s sd sa sb (fun x y => if x.toNat ≤ y.toNat then x else y)

/-- SMAXN (R318). -/
def execSmaxn (sd sa sb : BitVec 6) (s : State) : Out :=
  aluS s sd sa sb (fun x y => if x.toNat ≤ y.toNat then y else x)

/-- SSLT (R318). -/
def execSslt (sd sa sb : BitVec 6) (s : State) : Out := aluS s sd sa sb (fun x y => wordOf (decide (x.toInt < y.toInt)))

/-- SSLTN (R318). -/
def execSsltn (sd sa sb : BitVec 6) (s : State) : Out := aluS s sd sa sb (fun x y => wordOf (decide (x.toNat < y.toNat)))

/-- SSEQ (R318). -/
def execSseq (sd sa sb : BitVec 6) (s : State) : Out := aluS s sd sa sb (fun x y => wordOf (x == y))

/-- SCLZ (R318). -/
def execSclz (sd sa : BitVec 6) (s : State) : Out := aluS1 s sd sa (fun x => BitVec.ofNat 64 (clz 64 x.toNat))

/-- SCTZ (R318). -/
def execSctz (sd sa : BitVec 6) (s : State) : Out := aluS1 s sd sa (fun x => BitVec.ofNat 64 (ctz 64 x.toNat))

/-- SPOPC (R318). -/
def execSpopc (sd sa : BitVec 6) (s : State) : Out := aluS1 s sd sa (fun x => BitVec.ofNat 64 (popc 64 x.toNat))

/-- SSEXTW (R318). -/
def execSsextw (sd sa : BitVec 6) (s : State) : Out := aluS1 s sd sa (fun x => sx 64 (zx 32 x))

/-- SZEXTW (R318). -/
def execSzextw (sd sa : BitVec 6) (s : State) : Out := aluS1 s sd sa (fun x => zx 64 (zx 32 x))

/-- SADDI (R320). -/
def execSaddi (sd sa : BitVec 6) (imm : BitVec 14) (s : State) : Out := aluS1 s sd sa (fun x => x + sx 64 imm)

/-- SANDI (R320). -/
def execSandi (sd sa : BitVec 6) (imm : BitVec 14) (s : State) : Out := aluS1 s sd sa (fun x => x &&& sx 64 imm)

/-- SORI (R320). -/
def execSori (sd sa : BitVec 6) (imm : BitVec 14) (s : State) : Out := aluS1 s sd sa (fun x => x ||| sx 64 imm)

/-- SXORI (R320). -/
def execSxori (sd sa : BitVec 6) (imm : BitVec 14) (s : State) : Out := aluS1 s sd sa (fun x => x ^^^ sx 64 imm)

/-- SSLTI: signed comparison (R320). -/
def execSslti (sd sa : BitVec 6) (imm : BitVec 14) (s : State) : Out :=
  aluS1 s sd sa (fun x => wordOf (decide (x.toInt < (sx 64 imm).toInt)))

/-- ILLEGAL_ENCODING with the scalar word in the detail (R276, R278, R433). -/
def badWord (s : State) (w : Nat) : Out := trapS s 0x00 0 (det [(0, w)])

/-- Run a scalar meaning when the encoding is an instruction, else ILLEGAL_ENCODING (R278). -/
def legalS (i : Instr) (s : State) (k : Out) : Out :=
  if legal i then k else badWord s ((encodeScalar i).getD 0)

/-- SSHI: imm[13:12] names the shift, imm[5:0] the amount (R320). -/
def execSshi (sd sa : BitVec 6) (imm : BitVec 14) (s : State) : Out :=
  legalS (.sshi sd sa imm) s (aluS1 s sd sa (fun x => shiftBy (fld imm.toNat 12 2) x (fld imm.toNat 0 6)))

/-- An upper immediate: i << 12 as a 32-bit pattern, sign-extended (R320). -/
def upper (imm : BitVec 20) : Word := sx 64 (zx 32 imm <<< 12)

/-- SLUI (R320). -/
def execSlui (sd : BitVec 6) (imm : BitVec 20) (s : State) : Out := .next (finS s sd (upper imm))

/-- SPCADD: P is the address of the SPCADD word (R320). -/
def execSpcadd (sd : BitVec 6) (imm : BitVec 20) (s : State) : Out := .next (finS s sd (s.g.sc.spc + upper imm))

/-- The test of a branch condition (R275, R321). -/
def condHolds (cond : BitVec 3) (x : Int) : Bool :=
  match cond.toNat with
  | 0 => x == 0
  | 1 => x != 0
  | 2 => decide (x < 0)
  | 3 => decide (0 ≤ x)
  | 4 => decide (x ≤ 0)
  | 5 => decide (0 < x)
  | _ => true

/-- A word offset from the address of the branch (R321, R322). -/
def branchTo (s : State) {n : Nat} (off : BitVec n) : Word := s.g.sc.spc + 4 * sx 64 off

/-- SBR (R321). -/
def execSbr (cond : BitVec 3) (sa : BitVec 6) (off : BitVec 17) (s : State) : Out :=
  legalS (.sbr cond sa off) s
    (.next (if condHolds cond (sreg s sa).toInt then jumpS s (branchTo s off) else advS s))

/-- SJAL (R322). -/
def execSjal (sd : BitVec 6) (imm : BitVec 20) (s : State) : Out :=
  .next (jumpS (setS s sd (s.g.sc.spc + 4)) (branchTo s imm))

/-- SJALR: the target comes from the old sa; a target that is not a multiple of 4 is MISALIGNED (R322). -/
def execSjalr (sd sa : BitVec 6) (imm : BitVec 14) (s : State) : Out :=
  let t := sreg s sa + sx 64 imm
  if t.toNat % 4 != 0 then trapS s 0x03 t.toNat 0
  else .next (jumpS (setS s sd (s.g.sc.spc + 4)) t)

/-- A scalar word that is no instruction: ILLEGAL_ENCODING (R278). -/
def execScalarWordNotInstruction (w : W32) (s : State) : Out := badWord s w.toNat

/-- A lane triple that is no instruction, or an index at or beyond the lane-code count: ILLEGAL_ENCODING, whatever the mask
(R69, R285, R433). The lanes are those of the active mask. -/
def execLaneWordNotInstruction (w0 w1 w2 : W32) (beyond : Bool) (s : State) : Out :=
  trapL s s.g.ln.mask 0x00 0 (if beyond then 0 else det [(0, w0.toNat), (4, w1.toNat), (8, w2.toNat)])

end Sys2Proof.Machine
end

