-- ==== Sys2Proof/Machine/Atomic.lean ====
section
/-! DEFINITION. Read-modify-write operations (R334, R427), remote atomics (R18), and the issue of an access that is performed
at once or later (R197, R331, R420; log 7). -/
namespace Sys2Proof.Machine

/-- The smaller or larger of two patterns by a comparison of their values. -/
def pickBy (below : Bool) (x y : Nat) : Nat := if below then x else y

/-- The new value of an atomic of `n` bytes (R334, R427): `x` old, `y` operand, `c` expected; none is no write. Code 12
compares. -/
def atomNew (op n x y c : Nat) : Option Nat :=
  let b := 8 * n
  let fmt := if n = 4 then fF32 else fF64
  let sgn := fun z => signed b z
  match op with
  | 0 => some ((x + y) % 2 ^ b)
  | 1 => some (pickBy (decide (sgn x ≤ sgn y)) x y)
  | 2 => some (pickBy (decide (sgn y ≤ sgn x)) x y)
  | 3 => some (min x y)
  | 4 => some (max x y)
  | 5 => some (x &&& y)
  | 6 => some (x ||| y)
  | 7 => some (x ^^^ y)
  | 8 => some y
  | 9 => some (rneAdd fmt x y)
  | 10 => some (fMinMax fmt false false x y).bits
  | 11 => some (fMinMax fmt false true x y).bits
  | _ => if x = c then some y else none

/-- An sc load or store on a fabric page takes its stamp at a slice of the target, whose M is a free value here (R184; log 53). -/
def scRemote (s : State) (core : Nat) : State :=
  let m : BitVec 48 := (Config.freeValue s.free).setWidth 48
  modCore { s with free := s.free + 1 } core (fun c => { c with clock := serialMax c.clock (serialMax (c.clock + 1) (m + 1)) })

/-- An sc access takes its stamp at the home slice of the line that it performs on (R110, R150), here or in another package (R184). -/
def scMark (s : State) (w : Who) (l : Loc) (ord : BitVec 2) : State :=
  if ord != 3 || l.scratch then s
  else if isRemote l then scRemote s w.core
  else scStamp s w.core (homeOf (readKey s w l / 128))

/-- An access with ord rel or sc waits for every earlier access of its stream (R182, R184, R421). -/
def ordWaits (s : State) (st : Stream) (ord : BitVec 2) : Bool := 2 ≤ ord.toNat && !quiet s st

/-- A write waits as its ord says; on a watched page it is a release for the trigger edge, whatever its ord (R169). -/
def writeWaits (s : State) (st : Stream) (ord : BitVec 2) (ls : List Loc) : Bool :=
  ordWaits s st ord || (ls.any (fun l => l.watched) && !quiet s st)

/-- The issuing core stalls while its next tag was used less than 40 ms earlier (R18). DESIGN CHOICE: a tag is used when its atomic issues;
a replay or a re-send after BUSY is no further use (log 122). -/
def tagBusy (s : State) (core : Nat) : Bool :=
  let c := coreOf s core
  match sget 0 c.tagUse c.tag.toNat with
  | 0 => false
  | t + 1 => s.dev.gtc.toNat < t + 40000000

/-- Put a remote request on the fabric (R16, R18): it leaves by a port of its bundle; where no port is up, it does not leave. -/
def putRequest (s : State) (r : RemoteReq) : State :=
  if r.port.isNone then s else { s with dev := { s.dev with fabricOut := s.dev.fabricOut ++ [r] } }

/-- The group's core spends a tag on a request (R18), which goes out and is awaited (R20). DESIGN CHOICE: the 40 ms of R18 count from here
alone, not from a replay or a re-send after BUSY (log 122). -/
def issueRemote (s : State) (r : RemoteReq) : State :=
  let s1 := modCore s s.g.core (fun k =>
    { k with tag := k.tag + 1, tagUse := sput 0 k.tagUse k.tag.toNat (s.dev.gtc.toNat + 1) })
  putRequest { s1 with dev := { s1.dev with remote := s1.dev.remote ++ [r] } } r

/-- Send one remote atomic of the group in focus (R18, R20); `ord` and `scope` are its own (R178, R184). -/
def sendRemote (s : State) (st : Stream) (lane : Nat) (l : Loc) (n op : Nat) (result : Bool) (dst : Nat) (y c : Nat)
    (pc : Nat) (ord : BitVec 2) (scope : BitVec 3) : State :=
  let core := coreOf s s.g.core
  let now := s.dev.gtc.toNat
  let r : RemoteReq :=
    { core := s.g.core, tag := core.tag.toNat, group := s.g.id, stream := st, lane := lane, dst := dst, size := n,
      result := result, node := nodeOf l, addr := l.addr % spaceSize, va := l.va, op := op, y := BitVec.ofNat 64 y,
      c := BitVec.ofNat 64 c, issued := now, aged := 0, sent := now, pc := pc, failed := false,
      port := portFor s (nodeOf l) (l.addr % spaceSize), sup := s.g.sup, ord := ord, scope := scope,
      ts := if ord == 3 then some (core.clock + 1) else none, performed := none }
  issueRemote s r

/-- Where the lane stream of the group in focus stands, with the first `pops` entries of VQ (R420). -/
def laneBack (s : State) (pops : Nat) : LaneBack :=
  { mask := s.g.ln.mask, stack := s.g.ln.stack, fmt := s.g.ln.fmt, rng := s.g.ln.rng, vq := s.g.q.vq.take pops }

/-- Record an access that has issued and performs later (log 7). -/
def deferAcc (s : State) (a : Access) : State :=
  { s with g := { s.g with en := { s.g.en with acc := s.g.en.acc ++ [a] } } }

/-- LD and ST of the group in focus after one more load or store has issued (R197). -/
def countAcc (s : State) (ld st : Nat) : State :=
  { s with g := { s.g with en := { s.g.en with ld := s.g.en.ld + ld, st := s.g.en.st + st } } }

/-- The value an SLD of a size code writes (R333). -/
def sldValue (size : BitVec 2) (v : Nat) : Word := if size == 1 then BitVec.ofInt 64 (signed 32 v) else BitVec.ofNat 64 v

/-- Bytes of a scalar size code (R275). -/
def scalarBytes (size : BitVec 2) : Nat := if size == 2 then 8 else 4

/-- The scalar access of the group in focus as a pending one. -/
def scalarAcc (s : State) (kind : AccKind) (ord : BitVec 2) (scope : BitVec 3) (evict : BitVec 3) (l : Loc)
    (y c : Nat) : Access :=
  { stream := .scalar, kind := kind, ord := ord, scope := scope, lanes := [⟨0, l, y, c⟩], read := [], fails := [],
    evict := evict.toNat, pc := s.g.sc.spc.toNat, runPos := 0, undo := noUndo, fields := none, back := laneBack s 0 }

/-- SLD (R330 to R333). -/
def execSld (sd sa : BitVec 6) (f : MemFields) (s : State) : Out :=
  legalS (.sld sd sa f) s
    (let a := (sreg s sa).toNat
     let n := scalarBytes f.size
     orTrapS s a (locate s (me s) s.tm 0 a n false true) (fun l s1 =>
       if 255 ≤ s.g.en.ld || ordWaits s .scalar f.ord || overlaps s .scalar [l] n then stallS s
       else
         orTrapS s a (loadAt s1 (me s) l n f.evict.toNat (f.ord == 3)) (fun v s2 =>
           if s.defer then
             .next (advS (countAcc (deferAcc s1
               (scalarAcc s1 (.load n (f.size == 1) sd.toNat) f.ord f.scope f.evict l 0 0)) 1 0))
           else .next (finS (acquireAt (scMark s2 (me s) l f.ord) f.ord f.scope.toNat) sd (sldValue f.size v)))))

/-- SST (R330 to R333). -/
def execSst (sd sa : BitVec 6) (f : MemFields) (s : State) : Out :=
  legalS (.sst sd sa f) s
    (let a := (sreg s sa).toNat
     let n := scalarBytes f.size
     let d := (sreg s sd).toNat % 2 ^ (8 * n)
     orTrapS s a (locate s (me s) s.tm 0 a n true false) (fun l s1 =>
       if 255 ≤ s.g.en.st || writeWaits s .scalar f.ord [l] || overlaps s .scalar [l] n then stallS s
       else
         orTrapS s a (storeAt s1 (me s) l n d f.evict.toNat) (fun _ s2 =>
           if s.defer then
             .next (advS (countAcc (deferAcc s1
               (scalarAcc s1 (.store n) f.ord f.scope f.evict l d 0)) 0 1))
           else .next (advS (acquireAt (scMark s2 (me s) l f.ord) f.ord f.scope.toNat)))))

/-- A scalar atomic (R330, R331, R334, R335). `op` is the code of `atomNew`. -/
def atomS (i : Instr) (op : Nat) (sd sa sb : BitVec 6) (f : AtomFields) (s : State) : Out :=
  legalS i s
    (let a := (sreg s sa).toNat
     let y := (sreg s sb).toNat
     let c := (sreg s sd).toNat
     orTrapS s a (locate s (me s) s.tm 0 a 8 true false) (fun l s1 =>
       if writeWaits s .scalar f.ord [l] || overlaps s .scalar [l] 8 then stallS s
       else if isRemote l then
         if tagBusy s s.g.core then stallS s
         else .next (advS (sendRemote s1 .scalar 0 l 8 op true sd.toNat y c s.g.sc.spc.toNat f.ord f.scope))
       else
         orTrapS s a (atomicAt s1 (me s) l 8 (fun x => atomNew op 8 x y c) f.evict.toNat) (fun x s2 =>
           if s.defer then
             .next (advS (deferAcc s1 (scalarAcc s1 (.atomic 8 op true sd.toNat) f.ord f.scope f.evict l y c)))
           else .next (finS (acquireAt (scMark s2 (me s) l f.ord) f.ord f.scope.toNat) sd (BitVec.ofNat 64 x)))))

/-- SAADD (R334). -/
def execSaadd (sd sa sb : BitVec 6) (f : AtomFields) (s : State) : Out := atomS (.saadd sd sa sb f) 0 sd sa sb f s

/-- SAMIN (R334). -/
def execSamin (sd sa sb : BitVec 6) (f : AtomFields) (s : State) : Out := atomS (.samin sd sa sb f) 1 sd sa sb f s

/-- SAMAX (R334). -/
def execSamax (sd sa sb : BitVec 6) (f : AtomFields) (s : State) : Out := atomS (.samax sd sa sb f) 2 sd sa sb f s

/-- SAAND (R334). -/
def execSaand (sd sa sb : BitVec 6) (f : AtomFields) (s : State) : Out := atomS (.saand sd sa sb f) 5 sd sa sb f s

/-- SAOR (R334). -/
def execSaor (sd sa sb : BitVec 6) (f : AtomFields) (s : State) : Out := atomS (.saor sd sa sb f) 6 sd sa sb f s

/-- SAXOR (R334). -/
def execSaxor (sd sa sb : BitVec 6) (f : AtomFields) (s : State) : Out := atomS (.saxor sd sa sb f) 7 sd sa sb f s

/-- SASWP (R334). -/
def execSaswp (sd sa sb : BitVec 6) (f : AtomFields) (s : State) : Out := atomS (.saswp sd sa sb f) 8 sd sa sb f s

/-- SACAS (R334, R335). -/
def execSacas (sd sa sb : BitVec 6) (f : AtomFields) (s : State) : Out := atomS (.sacas sd sa sb f) 12 sd sa sb f s

end Sys2Proof.Machine
end

