-- ==== Sys2Proof/Machine/System.lean ====
section
/-! DEFINITION. SYS, special registers and QUE (R311 to R317, R324 to R328, R386 to R388), but for EXIT, which may join. -/
namespace Sys2Proof.Machine

/-- NOP (R311). -/
def execNop (s : State) : Out := .next (advS s)

/-- TRAP (R313): SOFTWARE in user mode; in supervisor mode the trap of the current frame escalates (R259). -/
def execTrap (x6 : BitVec 6) (s : State) : Out :=
  match s.g.sup, s.g.hidden with
  | true, some h =>
    let fva := frameVA s s.g
    match translate s (me s).unit s.g.id.part s.tk.ctx fva true false true with
    | .ok l s1 =>
      let fr := mbytes s1.mem l.addr 512
      .next (escalate s1 h.trap (frameFld fr 0x20 8) (BitVec.ofNat 192 (frameFld fr 0x28 24)))
    | .trap n d => trapS s n fva d
    | .stall => stallS s
    | .fault f => .fault f
  | true, none => .next (escalate s 0x12 0 0)
  | false, _ => trapNextS s 0x12 0 (det [(0, x6.toNat)])

/-- BKPT (R313): BREAKPOINT, resuming after it. -/
def execBkpt (s : State) : Out := trapNextS s 0x13 0 0

/-- No lane copy that the handler issued still owes its status words (R258, R429). -/
def laneSettled (s : State) : Bool :=
  s.g.en.copies.all (fun c => !c.sup || (match c.kind with
    | .tensor _ => true
    | _ => false))

/-- The handler's lane stream is quiet (R258): every result of its runs is written. -/
def handlerQuiet (s : State) : Bool :=
  quiet s .lane && laneSettled s && (s.g.ln.pos == .drained || (s.g.ln.pos == .pop && s.g.q.dq.isEmpty))

/-- The detail of REMOTE_INDETERMINATE (R433). -/
def indetDetail (r : RemoteReq) (code : Nat) : BitVec 192 := det [(0, r.tag), (4, r.pc), (12, code)]

/-- Take REMOTE_INDETERMINATE at the resume point of a stream (R20, R257). -/
def takeIndet (s : State) (r : RemoteReq) (st : Stream) (code : Nat) : State :=
  takeTrap s { num := 0x11, addr := r.addr, detail := indetDetail r code, lanes := s.g.ln.mask, stream := st,
               next := false }

/-- The failed remote atomic of the group in focus (R20). -/
def failedReq (s : State) : Option RemoteReq := s.dev.remote.find? (fun r => r.group == s.g.id && r.failed)

/-- One remote request. -/
def sameReq (a b : RemoteReq) : Bool := a.core == b.core && a.tag == b.tag && a.group == b.group

/-- RETH's replay (R20, R314): the original request goes out again with its tag, or within the group EXPIRED is taken when
19 ms have passed since its issue. -/
def replayReq (s : State) (st : Stream) : State :=
  match failedReq s with
  | none => s
  | some r =>
    let now := s.dev.gtc.toNat
    if 19000000 ≤ now - r.issued + r.aged then takeIndet s r st 1
    else
      let r1 := { r with failed := false, sent := now, port := portFor s r.node r.addr }
      putRequest { s with dev := { s.dev with remote := modBy (sameReq r) (fun _ => r1) s.dev.remote } } r1

/-- RETH without replay executes the failed atomic again, with the operands it had, as a new atomic under a new tag (R20; log 112). -/
def againReq (s : State) : State :=
  match failedReq s with
  | none => s
  | some r =>
    let core := coreOf s s.g.core
    let now := s.dev.gtc.toNat
    let s1 := { s with dev := { s.dev with remote := dropBy (sameReq r) s.dev.remote } }
    issueRemote s1 { r with core := s.g.core, tag := core.tag.toNat, issued := now, aged := 0, sent := now, failed := false,
                            port := portFor s r.node r.addr, ts := r.ts.map (fun _ => core.clock + 1), performed := none }

/-- RETH (R258, R314); where the frame's EXITED ends the scalar stream, a barrier phase that waited for it completes (R338). -/
def execReth (x6 : BitVec 6) (s : State) : Out :=
  if 1 < x6.toNat then badField s x6.toNat 8
  else
    match s.g.sup, s.g.hidden with
    | true, some h =>
      if x6 == 1 && h.trap != 0x11 then badState s 0 0
      else if !handlerQuiet s || handlerDue s then stallS s
      else if h.trap == 0x11 && x6 == 0 && (failedReq s).isSome && tagBusy s s.g.core then stallS s
      else
        let fva := frameVA s s.g
        orTrapS s fva (translate s (me s).unit s.g.id.part s.tk.ctx fva true false true) (fun l s1 =>
          let fr := mbytes s1.mem l.addr 512
          let s0 := leaveHandler s1 h fr
          let s2 := if s0.g.sc.exited != h.exited then teamBars s0 s.g.id.part s.g.id.task s.g.id.team else s0
          let st := if bit (frameFld fr 0x0B 1) 0 then Stream.lane else Stream.scalar
          .next (if h.trap != 0x11 then s2 else if x6 == 1 then replayReq s2 st else againReq s2))
    | _, _ => badState s 0 0

/-- A SETFMT value is pending: held for the next DISPATCH, or not yet loaded by the lane stream (R74, R327). -/
def fmtPending (s : State) : Bool := s.g.sc.fmtPend.isSome || s.g.q.dq.any (fun e => e.2.isSome)

/-- SETFMT, and SSRW to SR_FMT (R74, R315, R324). -/
def setFmt (s : State) (v : Word) : Out :=
  if fld v.toNat 24 8 != 0 then badReg s v 24
  else if fmtPending s then stallS s
  else
    let f : W32 := zx 32 v
    .next (advS { s with g := { s.g with sc := { s.g.sc with fmtPend := some f, fmtSet := f } } })

/-- SETFMT (R315). -/
def execSetfmt (sa : BitVec 6) (s : State) : Out := setFmt s (sreg s sa)

/-- GETFMT (R315): the value most recently set in scalar order. -/
def execGetfmt (sd : BitVec 6) (s : State) : Out := .next (finS s sd (zx 64 s.g.sc.fmtSet))

/-- RDTIME (R316). -/
def execRdtime (sd : BitVec 6) (s : State) : Out := .next (finS s sd (ptime s s.pt))

/-- YIELD (R317): the group is marked. -/
def execYield (s : State) : Out := .next (advS { s with g := { s.g with yielded := true } })

/-- SR_THERM of the group's core (R26). -/
def thermWord (c : Core) : Word :=
  BitVec.ofNat 64 (c.temp.toNat + b2n c.hot * 2 ^ 16 + b2n c.droopy * 2 ^ 17 + c.droops.toNat * 2 ^ 24
    + c.proc.toNat * 2 ^ 32)

/-- SR_LAUNCH (R387). -/
def launchWord (t : Task) : Word :=
  BitVec.ofNat 64 (t.num + t.source % 4 * 2 ^ 32 + (if t.source = 0 then t.queue else 0) * 2 ^ 34)

/-- SR_TRIG (R171). -/
def trigWord (t : Task) : Word :=
  match t.trig with
  | none => 0
  | some r => BitVec.ofNat 64 (r.entry + b2n r.isOpen * 2 ^ 16 + 2 ^ 17)

/-- SR_PART (R388). -/
def partWord (p : Partition) (sup : Bool) : Word :=
  BitVec.ofNat 64 (p.num + p.link * 2 ^ 8 + p.vf * 2 ^ 12 + b2n sup * 2 ^ 16)

/-- SR_CNT (R197, R386). -/
def cntWord (e : EngineCtx) : Word := BitVec.ofNat 64 (e.ld + e.st * 2 ^ 8 + e.cp * 2 ^ 16 + e.tl * 2 ^ 24)

/-- A bound register's reset value: HI +infinity, LO -infinity (R252). -/
def boundReset : Word := 0x7F800000FF800000

/-- Bound register `k` of a team (R252). -/
def boundReg (t : Team) (k : Nat) : Word := sget boundReset t.bounds k

/-- The special register of an index, none for an index that is not listed (R324, R386 to R388). -/
def specialReg (s : State) (idx : Nat) : Option Word :=
  let n := fun (x : Nat) => some (BitVec.ofNat 64 x)
  if 0x100 ≤ idx && idx ≤ 0x10F then some (boundReg s.tm (idx - 0x100))
  else
    match idx with
    | 0x000 => n s.g.id.group
    | 0x001 => n s.g.id.team
    | 0x002 => n s.g.role
    | 0x003 => n s.g.width
    | 0x004 => n s.tm.kernel.groups
    | 0x005 => n s.g.quad
    | 0x006 => n s.g.core
    | 0x007 => some (launchWord s.tk)
    | 0x010 => some (zx 64 s.g.sc.fmtSet)
    | 0x011 => n s.g.allot
    | 0x012 => n s.g.bnd
    | 0x013 => some (cntWord s.g.en)
    | 0x014 => some (zx 64 s.g.fpstat)
    | 0x015 => some (zx 64 s.g.tickets)
    | 0x020 => n (s.tk.rev + s.tk.revDepth * 2 ^ 32)
    | 0x021 => some (zx 64 s.tm.marker)
    | 0x022 => some (trigWord s.tk)
    | 0x023 => some s.g.srFault
    | 0x030 => some (ptime s s.pt)
    | 0x031 => some (thermWord (coreOf s s.g.core))
    | 0x040 => some (partWord s.pt s.g.sup)
    | 0x041 => n s.tk.ctx
    | 0x110 => some s.tm.policy
    | _ => none

/-- SSRR (R324): an index that is not listed is ILLEGAL_OPERAND. -/
def execSsrr (sd : BitVec 6) (idx : BitVec 14) (s : State) : Out :=
  match specialReg s idx.toNat with
  | none => badField s idx.toNat 0
  | some v => .next (finS s sd v)

/-- A ticket count written (R82): bits [63:8] are ignored (R5); only a smaller count is taken, 0 as 1. -/
def lowerTickets (old : BitVec 8) (v : Word) : BitVec 8 :=
  let w : BitVec 8 := zx 8 v
  if old.toNat ≤ w.toNat then old else if w = 0 then 1 else w

/-- SSRW (R324): read-only registers ignore the write. -/
def execSsrw (sa : BitVec 6) (idx : BitVec 14) (s : State) : Out :=
  let v := sreg s sa
  let k := idx.toNat
  match specialReg s k with
  | none => badField s k 0
  | some _ =>
    if k = 0x010 then setFmt s v
    else if k = 0x014 then .next (advS { s with g := { s.g with fpstat := s.g.fpstat &&& ~~~(zx 6 v) } })
    else if k = 0x015 then .next (advS { s with g := { s.g with tickets := lowerTickets s.g.tickets v } })
    else if k = 0x023 then .next (advS { s with g := { s.g with srFault := v } })
    else if 0x100 ≤ k && k ≤ 0x10F then
      .next (advS { s with tm := { s.tm with bounds := sput boundReset s.tm.bounds (k - 0x100) v } })
    else if k = 0x110 then .next (advS { s with tm := { s.tm with policy := v } })
    else .next (advS s)

/-- DISPATCH (R72, R74, R326): the index goes to DQ with the pending FMT; a full DQ stalls. A push waits for the stream's
accesses (R176). -/
def execDispatch (sa : BitVec 6) (s : State) : Out :=
  let v := sreg s sa
  if fld v.toNat 16 48 != 0 then badReg s v 16
  else if 8 ≤ s.g.q.dq.length + dqHeld s.g || !quiet s .scalar then stallS s
  else
    .next (advS { s with g := { s.g with
      sc := { s.g.sc with fmtPend := none },
      q := { s.g.q with dq := s.g.q.dq ++ [(zx 16 v, s.g.sc.fmtPend)] } } })

/-- Push values to VQ, all or none (R72, R326). -/
def pushVQ (s : State) (vs : List Word) : Out :=
  if 16 < s.g.q.vq.length + vqHeld s.g + vs.length || !quiet s .scalar then stallS s
  else .next (advS { s with g := { s.g with q := { s.g.q with vq := s.g.q.vq ++ vs } } })

/-- VQPUSH (R326). -/
def execVqpush (sa : BitVec 6) (s : State) : Out := pushVQ s [sreg s sa]

/-- VQPUSH2 (R326): never one alone. -/
def execVqpush2 (sa sb : BitVec 6) (s : State) : Out := pushVQ s [sreg s sa, sreg s sb]

/-- RQPOP (R326): an empty RQ stalls. -/
def execRqpop (sd : BitVec 6) (s : State) : Out :=
  match s.g.q.rq with
  | [] => stallS s
  | v :: r => .next (finS { s with g := { s.g with q := { s.g.q with rq := r } } } sd v)

/-- QSTAT (R327). -/
def execQstat (sd : BitVec 6) (s : State) : Out :=
  .next (finS s sd (BitVec.ofNat 64 (queueCounts s.g + b2n (fmtPending s) * 2 ^ 16)))

/-- QDRAIN's condition (R328): the lane stream has drained, or both queues are empty, no run is in progress and no result
is due. -/
def drainedQ (s : State) : Bool :=
  s.g.ln.pos == .drained
  || (s.g.ln.pos == .pop && s.g.q.dq.isEmpty && s.g.q.vq.isEmpty && quiet s .lane && (pendingL s).isEmpty)

/-- QDRAIN (R328). -/
def execQdrain (s : State) : Out := if drainedQ s then .next (advS s) else stallS s

end Sys2Proof.Machine
end

