-- ==== Sys2Proof/Machine/Sync.lean ====
section
/-! DEFINITION. SYN: fences, barriers, stage barriers and waits (R207 to R209, R268, R336 to R343). -/
namespace Sys2Proof.Machine

/-- FENCE (R109, R179, R184, R337): rel and sc wait for the stream's earlier accesses, acq for its remote atomics, sc takes a stamp on its die, acq and sc
invalidate the L1. -/
def execFence (ord : BitVec 2) (scope : BitVec 3) (s : State) : Out :=
  if ordWaits s .scalar ord || (ord == 1 && remoteDue s .scalar) then stallS s
  else if ord == 3 then .next (advS (acquireAt (scStamp s s.g.core (64 * dieOf s.g.core + s.g.core % 64)) ord scope.toNat))
  else .next (advS (acquireAt s ord scope.toNat))

/-- The result word of BAR and BARN (R338): the number of the completed phase. -/
def barWord (gen : BitVec 32) (t : Team) : Word :=
  BitVec.ofNat 64 ((gen + 1).toNat * 2 ^ 32 + b2n (t.killed != 0) * 2 + 1)

/-- The group in focus no longer waits at a barrier. -/
def clearBar (s : State) : State := { s with g := { s.g with sc := { s.g.sc with barWait := none } } }

/-- The group in focus waits at a barrier in the phase after `gen`. -/
def waitBar (s : State) (k : Option Nat) (gen : BitVec 32) : State :=
  { s with g := { s.g with sc := { s.g.sc with barWait := some (k, gen.toNat) } } }

/-- The return of a barrier whose phase `gen` + 1 has completed: an acquire at scope team, with ABANDONED at scope twin (R268, R338). -/
def barReturn (s : State) (sd : BitVec 6) (gen : BitVec 32) : Out :=
  .next (finS (acquireAt (clearBar s) 1 (if s.tm.killed = 0 then 2 else 3)) sd (barWord gen s.tm))

/-- Barrier state of the team in focus: the team barrier, or a named one. -/
def barOf (t : Team) (k : Option Nat) : BarState :=
  match k with
  | none => t.bar
  | some n => sget noBar t.named n

/-- A team with a barrier replaced. -/
def putBar (t : Team) (k : Option Nat) (b : BarState) : Team :=
  match k with
  | none => { t with bar := b }
  | some n => { t with named := sput noBar t.named n b }

/-- Arrive at a barrier and wait for its phase (R338, R339, R344): an arrival that stands is not repeated. `n` is the count of
a named barrier. -/
def barArrive (s : State) (sd : BitVec 6) (k : Option Nat) (n : Nat) : Out :=
  let b := barOf s.tm k
  let arrive :=
    if !quiet s .scalar then stallS s
    else
      let b1 := { b with n := if b.arrived.isEmpty then n else b.n, arrived := b.arrived ++ [s.g.id.group] }
      let b2 := match k with
        | none => barCheck (teamGroups s s.g.id.part s.g.id.task s.g.id.team) b1
        | some _ => namedCheck s.tm.killed b1
      let s1 := { s with tm := putBar s.tm k b2 }
      if b2.gen != b.gen then barReturn s1 sd b.gen else .next (waitBar s1 k b.gen)
  match s.g.sc.barWait with
  | some (k', g0) =>
    if k' == k then if g0 = b.gen.toNat then stallS s else barReturn s sd (BitVec.ofNat 32 g0) else arrive
  | none => arrive

/-- BAR (R338). -/
def execBar (sd : BitVec 6) (s : State) : Out := barArrive s sd none 0

/-- BARN (R339): the count is 1 to G, and agrees with the one that the phase latched. -/
def execBarn (sd sa x6 : BitVec 6) (s : State) : Out :=
  let n := sreg s sa
  let b := barOf s.tm (some x6.toNat)
  if 16 ≤ x6.toNat then badField s x6.toNat 8
  else if s.g.sc.barWait.map Prod.fst != some (some x6.toNat)
      && (n.toNat = 0 || s.tm.kernel.groups < n.toNat || (!b.arrived.isEmpty && b.n != n.toNat)) then
    badReg s n 0
  else barArrive s sd (some x6.toNat) n.toNat

/-- A stage barrier of the team in focus: which core's scratchpad, and the address in it (R207). -/
def sbKey (s : State) (l : Loc) : Bool × Nat := (spSide s.tm s.g.core l.partner, l.addr)

/-- The 128 bits of a stage barrier (R207). -/
def sbGet (t : Team) (k : Bool × Nat) : Nat := mread (spOf t k.1) k.2 16

/-- A team with a stage barrier written. -/
def sbPut (t : Team) (k : Bool × Nat) (v : Nat) : Team := spWrite t k.1 k.2 16 v

/-- A field of a stage barrier replaced. -/
def sbSet (v lo len x : Nat) : Nat := v - fld v lo len * 2 ^ lo + x % 2 ^ len * 2 ^ lo

/-- Complete a stage barrier's phase (R208): PHASE flips, OVERRUN says whether excess arrived, the counts clear. -/
def sbComplete (t : Team) (k : Bool × Nat) : Team :=
  let v := sbGet t k
  let over' := t.excess.contains k
  let w := sbSet (sbSet (sbSet (sbSet (sbSet v 0 32 0) 32 32 0) 80 16 0) 100 1 (1 - fld v 100 1)) 101 1 (b2n over')
  { sbPut t k w with excess := t.excess.filter (fun x => x != k) }

/-- The phase is complete (R208); after a kill arrivals do not count (R268). -/
def sbDone (t : Team) (k : Bool × Nat) : Bool :=
  let v := sbGet t k
  fld v 32 32 == fld v 0 32 && (t.killed != 0 || fld v 80 16 == fld v 64 16)

/-- Test the completion of a phase. -/
def sbTest (t : Team) (k : Bool × Nat) : Team := if sbDone t k then sbComplete t k else t

/-- Count a landed beat of `m` bytes (R208): the team, and whether excess bytes arrived. -/
def sbBeat (t : Team) (k : Bool × Nat) (m : Nat) : Team × Bool :=
  let v := sbGet t k
  let room := fld v 0 32 - fld v 32 32
  let t1 := sbPut t k (sbSet v 32 32 (fld v 32 32 + min m room))
  let t2 := if room < m && !t1.excess.contains k then { t1 with excess := k :: t1.excess } else t1
  (sbTest t2 k, room < m)

/-- Locate a stage barrier (R106, R340). -/
def locSB (s : State) (a : Nat) : MR Loc := locate s (me s) s.tm 1 a 16 true true

/-- Some group of the team waits on the stage barrier in SBWAIT (R340). -/
def sbWaited (s : State) (k : Bool × Nat) : Bool :=
  (teamGroups s s.g.id.part s.g.id.task s.g.id.team).any (fun g => g.sc.sbWait.map Prod.fst == some k)

/-- SBINIT (R340). -/
def execSbinit (sa sb : BitVec 6) (s : State) : Out :=
  let a := (sreg s sa).toNat
  let n := sreg s sb
  if n.toNat = 0 || 65535 < n.toNat then badReg s n 0
  else
    orTrapS s a (locSB s a) (fun l s1 =>
      let k := sbKey s l
      if sbWaited s k then badState s a 0
      else if overlaps s .scalar [l] 16 then stallS s
      else
        let t := sbPut s1.tm k (n.toNat * 2 ^ 64)
        .next (advS { s1 with tm := { t with excess := t.excess.filter (fun x => x != k) } }))

/-- SBEXP (R208, R340): EXPECT saturates. -/
def execSbexp (sa sb : BitVec 6) (s : State) : Out :=
  let a := (sreg s sa).toNat
  let n := sreg s sb
  if fld n.toNat 32 32 != 0 then badReg s n 32
  else
    orTrapS s a (locSB s a) (fun l s1 =>
      let k := sbKey s l
      let v := sbGet s1.tm k
      if overlaps s .scalar [l] 16 then stallS s
      else .next (advS { s1 with tm := sbPut s1.tm k (sbSet v 0 32 (min (fld v 0 32 + n.toNat) (2 ^ 32 - 1))) }))

/-- SBARR (R191, R340): a release, waiting while the phase has its arrivals. -/
def execSbarr (sa : BitVec 6) (s : State) : Out :=
  let a := (sreg s sa).toNat
  orTrapS s a (locSB s a) (fun l s1 =>
    let k := sbKey s l
    let v := sbGet s1.tm k
    if !quiet s .scalar || fld v 80 16 == fld v 64 16 then stallS s
    else .next (advS { s1 with tm := sbTest (sbPut s1.tm k (sbSet v 80 16 (fld v 80 16 + 1))) k }))

/-- The result word of SBWAIT (R341). -/
def sbWord (t : Team) (v : Nat) : Word := BitVec.ofNat 64 (1 + 2 * fld v 101 1 + 4 * b2n (t.killed != 0))

/-- SBWAIT (R191, R209, R268, R341): passes, an acquire, once PHASE differs from P; with OVTRAP an overrun is STAGE_OVERRUN after the write. -/
def execSbwait (sd sa x6 : BitVec 6) (s : State) : Out :=
  if 1 < x6.toNat then badField s x6.toNat 8
  else
    let a := (sreg s sa).toNat
    orTrapS s a (locSB s a) (fun l s1 =>
      let k := sbKey s l
      let waits := fld (sbGet s1.tm k) 100 1 == x6.toNat
      let t := if waits && s1.tm.killed != 0 then sbTest s1.tm k else s1.tm
      let v := sbGet t k
      let mark := fun (x : Option ((Bool × Nat) × Nat)) => { s1 with tm := t, g := { s1.g with sc := { s1.g.sc with sbWait := x } } }
      if fld v 100 1 == x6.toNat then .next (mark (some (k, x6.toNat)))
      else
        let s2 := l1Inval (mark none) s.g.core
        if bit v 101 && t.kernel.ovtrap then trapNextS (setS s2 sd (sbWord t v)) 0x0A a 0
        else .next (finS s2 sd (sbWord t v)))

/-- A counter is at or below its threshold; 0xFF leaves it unconstrained (R342). -/
def underThr (v k count : Nat) : Bool := fld v (8 * k) 8 == 0xFF || count ≤ fld v (8 * k) 8

/-- WAITC (R188, R342): with CP or TL constrained an acquire. -/
def execWaitc (sa : BitVec 6) (s : State) : Out :=
  let v := sreg s sa
  let e := s.g.en
  if fld v.toNat 32 32 != 0 then badReg s v 32
  else if underThr v.toNat 0 e.ld && underThr v.toNat 1 e.st && underThr v.toNat 2 e.cp && underThr v.toNat 3 e.tl then
    .next (advS (if fld v.toNat 16 8 == 0xFF && fld v.toNat 24 8 == 0xFF then s else l1Inval s s.g.core))
  else stallS s

/-- WAITS (R343): waits until the word differs from the value last seen; the read at the home slice is an acquire. -/
def execWaits (sd sa sb : BitVec 6) (s : State) : Out :=
  let a := (sreg s sa).toNat
  orTrapS s a (locate s (me s) s.tm 0 a 8 false true) (fun l s1 =>
    if overlaps s .scalar [l] 8 then stallS s
    else
      orLineS s1 l (fun s0 =>
        orTrapS s0 a (loadAt s0 (me s) l 8 0 true) (fun v s2 =>
          if v = (sreg s sb).toNat then stallS s else .next (finS (l1Inval s2 s.g.core) sd (BitVec.ofNat 64 v)))))

end Sys2Proof.Machine
end

