-- ==== Sys2Proof/Machine/Wheel.lean ====
section
/-! DEFINITION. The Wheel's arithmetic: rule registers, cells, edges, traces, the backward sweep and matrix chunks (R84, R86,
R212 to R229, R238 to R240, R248, R253). -/
namespace Sys2Proof.Machine

/-- OPLUS of a rule: 0 MIN, 1 MAX, 2 SUM, 3 SOFTMIN, 4 SOFTMAX, 5 GEMM (R212). -/
def rOplus (r : Nat) : Nat := fld r 0 4
/-- OTIMES is MUL. -/
def rMul (r : Nat) : Bool := fld r 4 2 == 1
/-- SUBST: 0 ZERO, 1 EQ, 2 TABLE, 3 DOT, 4 DIST2, 5 ABSDIFF, 6 PRODUCT. -/
def rSubst (r : Nat) : Nat := fld r 6 4
/-- VTYPE: 0 I16, 1 I32, 2 F32, 3 F64, 4 BF16 into F32. -/
def rVtype (r : Nat) : Nat := fld r 10 4
/-- Affine planes. -/
def rAffine (r : Nat) : Bool := fld r 14 2 == 3
/-- Features per element. -/
def rFeats (r : Nat) : Nat := fld r 20 4 + 1
/-- P0 to P3. -/
def rParam (r k : Nat) : Nat := fld r (64 + 16 * k) 16
/-- A soft rule. -/
def rSoft (r : Nat) : Bool := rOplus r == 3 || rOplus r == 4

/-- The first field of a rule image that R213 and R353 refuse, by its lowest bit and width: the rows of R213 in order, and the field that
the row's requirement names (log 70). `tbase` is the kernel's table base slot. -/
def ruleBad (r : Nat) (tbase : Option Nat) : Option (Nat × Nat) :=
  let op := rOplus r
  let su := rSubst r
  let g := fld r 32 16
  let pl := fld r 14 2
  let tab := fld r 24 8
  let chk := fun (c : Bool) (f : Nat × Nat) => if c then ([] : List (Nat × Nat)) else [f]
  let oplus := (0, 4)
  let otimes := (4, 2)
  let subst := (6, 4)
  let vtype := (10, 4)
  let planes := (14, 2)
  let table := (24, 8)
  let gamma := (32, 16)
  let slot := match tbase with
    | none => false
    | some tb => fld tab 0 2 < 2 || tb + 1 ≤ 15
  (chk (op ≤ 5) oplus ++ chk (fld r 4 2 ≤ 1) otimes ++ chk (su ≤ 6) subst ++ chk (rVtype r ≤ 4) vtype
    ++ chk (pl == 1 || pl == 3) planes ++ chk (fld r 48 16 == 0) (48, 16)
    ++ (if rSoft r then chk (rVtype r == 2 || rVtype r == 4) vtype ++ chk (!rMul r) otimes
          ++ chk (!bit g 15 && 1 ≤ fld g 7 8 && fld g 7 8 ≤ 254) gamma
        else chk (g == 0) gamma)
    ++ chk (!bit r 17 || op == 1) oplus ++ chk (!bit r 16 || op ≤ 1) oplus
    ++ (if pl = 3 then chk (op ≤ 1 || rSoft r) oplus ++ chk (!rMul r) otimes else [])
    ++ (if op = 5 then chk (su == 3 || su == 6) subst ++ chk (pl == 1) planes ++ chk (!rMul r) otimes
          ++ (List.range 4).flatMap (fun k => chk (!bit r (16 + k)) (16 + k, 1))
        else [])
    ++ chk (rFeats r == 1 || (3 ≤ su && su ≤ 5)) subst
    ++ (if su = 2 then chk (fld tab 2 6 == 0 && slot) table else chk (tab == 0) table)).head?

/-- A rule that RLOAD accepts (R213, R353). -/
def ruleOk (r : Nat) (tbase : Option Nat) : Bool := (ruleBad r tbase).isNone

/-- The detail of a rule image whose field at bit `low` of `width` bits fails: its bytes, and their offset (R433). -/
def ruleDetail (r low width a : Nat) : BitVec 192 :=
  let off := low / 8
  structDetail (fld r (8 * off) (8 * ((low + width + 7) / 8 - off))) off 5 a

/-- An integer value type. -/
def vtInt (vt : Nat) : Bool := vt ≤ 1
/-- Bits of a value (R218). -/
def vtBits (vt : Nat) : Nat := if vt = 0 then 16 else if vt = 3 then 64 else 32
/-- The float format of a value type; BF16 computes in F32. -/
def vtFmt (vt : Nat) : Fmt := if vt = 3 then fF64 else fF32

/-- Saturate an integer into the value type (R216). -/
def vtSat (vt : Nat) (z : Int) : Nat :=
  let h : Int := ((2 ^ (vtBits vt - 1) : Nat) : Int)
  wrapN (vtBits vt) (clampI z (-h) (h - 1))

/-- x ⊗ g (R216). -/
def vtTimes (vt : Nat) (mul : Bool) (x g : Nat) : Nat :=
  let b := vtBits vt
  if vtInt vt then vtSat vt (if mul then signed b x * signed b g else signed b x + signed b g)
  else if mul then (fMul (vtFmt vt) rneEnv x g).bits else rneAdd (vtFmt vt) x g

/-- A rule parameter in the value type, converted exactly (R212). -/
def vtParam (vt p : Nat) : Nat :=
  if vtInt vt then wrapN (vtBits vt) (signed 16 p) else (fConv fBF16 (vtFmt vt) rneEnv p).bits

/-- An integer in the value type (R214). -/
def vtOfInt (vt : Nat) (z : Int) : Nat := if vtInt vt then vtSat vt z else (ofInt (vtFmt vt) rneEnv z).bits

/-- A NaN value. -/
def vtNan (vt x : Nat) : Bool := !vtInt vt && isNan (fdec (vtFmt vt) x)

/-- An infinite value. -/
def vtInf (vt x : Nat) : Bool := !vtInt vt && isInf (fdec (vtFmt vt) x)

/-- Strictly below, −0 below +0 (R216). -/
def vtBelow (vt x y : Nat) : Bool :=
  if vtInt vt then decide (signed (vtBits vt) x < signed (vtBits vt) y) else fvBelow (fdec (vtFmt vt) x) (fdec (vtFmt vt) y)

/-- Below zero (R215). -/
def vtNeg (vt x : Nat) : Bool :=
  if vtInt vt then decide (signed (vtBits vt) x < 0)
  else !isNan (fdec (vtFmt vt) x) && fvCmp (fdec (vtFmt vt) x) (.fin false 0 0) < 0

/-- The hard ⊕ (R216, R220): the value and the index of the candidate chosen, the first among equals; none for a NaN. -/
def hardPick (vt : Nat) (isMax : Bool) (c : List Nat) : Nat × Option Nat :=
  if c.any (vtNan vt) then (fnan (vtFmt vt), none)
  else
    let better := fun (x best : Nat) => if isMax then vtBelow vt best x else vtBelow vt x best
    let r := (c.zipIdx).foldl (fun (acc : Option (Nat × Nat)) e =>
      match acc with
      | none => some e
      | some b => if better e.1 b.1 then some e else some b) none
    match r with
    | none => (0, none)
    | some b => (b.1, some b.2)

/-- c1 = rne(log2(e) / γ) and c2 = rne(γ × ln 2) of a soft rule (R217, log 21). -/
def softConsts (r : Nat) : Nat × Nat :=
  match fdec fBF16 (fld r 32 16) with
  | .fin _ m x =>
    ((fround fF32 0 false false (2 ^ (2 * fxBits) / (m * fxLn2)) (-(fxBits : Int) - x) true).bits,
     (fround fF32 0 false false (m * fxLn2) (x - (fxBits : Int)) true).bits)
  | _ => (fnan fF32, fnan fF32)

/-- The soft ⊕ in F32 (R217). -/
def softPick (isMax : Bool) (cs : Nat × Nat) (c : List Nat) : Nat :=
  let sub := fun x y => (fSub fF32 rneEnv x y).bits
  let mul := fun x y => (fMul fF32 rneEnv x y).bits
  let neg := fun (x : Nat) => if bit x 31 then x - 2 ^ 31 else x + 2 ^ 31
  if c.any (vtNan 2) then fnan fF32
  else if c.all (fun x => x == fsign fF32 isMax + finfBits fF32) then fsign fF32 isMax + finfBits fF32
  else
    let m := (hardPick 2 isMax c).1
    let e := c.map (fun x => (sfuEx2 rneEnv (neg (mul (if isMax then sub m x else sub x m) cs.1))).bits)
    let t := match e with
      | [] => 0
      | y :: r => r.foldl (fun acc z => rneAdd fF32 acc z) y
    let l := mul cs.2 (sfuLg2 rneEnv t).bits
    if isMax then rneAdd fF32 m l else sub m l

/-- ⊕ of a rule's candidates in tie order, with the move of the hard forms (R215 to R217, R220). -/
def oplus (r : Nat) (cs : Nat × Nat) (c : List Nat) : Nat × Option Nat :=
  let vt := rVtype r
  match rOplus r with
  | 0 => hardPick vt false c
  | 1 => hardPick vt true c
  | 3 => (softPick false cs c, none)
  | 4 => (softPick true cs c, none)
  | _ =>
    match c with
    | [] => (0, none)
    | y :: l => (l.foldl (fun acc z => vtTimes vt false acc z) y, none)

/-- Bytes of a feature (R214). -/
def featSize (vt : Nat) : Nat := if vt = 2 then 4 else if vt = 3 then 8 else 2
/-- The format of a float feature. -/
def featFmt (vt : Nat) : Fmt := if vt = 2 then fF32 else if vt = 3 then fF64 else fBF16
/-- Bytes of an element (R221). -/
def elemSize (r : Nat) : Nat := if rSubst r = 1 || rSubst r = 2 then 1 else rFeats r * featSize (rVtype r)

/-- One term of a float sum (R214): the exact product, square or magnitude of difference. -/
def featTerm (su : Nat) (x y : FV) : FV :=
  if su = 3 || su = 6 then (fvMul x y).1
  else
    let d := (fvAdd 0 x (fvNeg y)).1
    if su = 4 then (fvMul d d).1 else fvAbs d

/-- The exact sum of values, with its NaNs and infinities (R214, R248, R249). -/
def sumFV (l : List FV) : FV :=
  match l with
  | [] => .fin false 0 0
  | v :: r => r.foldl (fun acc z => (fvAdd 0 acc z).1) v

/-- s of two elements, each a list of features (R214). `tab` reads a table entry. -/
def substOf (r : Nat) (tab : Nat → Nat) (a b : List Nat) : Nat :=
  let vt := rVtype r
  let su := rSubst r
  let one := fun (l : List Nat) => l.headD 0
  if su = 0 then 0
  else if su = 1 then vtParam vt (rParam r (if one a = one b then 2 else 3))
  else if su = 2 then vtOfInt vt (signed 16 (tab (64 * (one a % 64) + one b % 64)))
  else if vtInt vt then
    let term := fun (x y : Int) => if su = 3 || su = 6 then x * y else if su = 4 then (x - y) * (x - y) else |x - y|
    vtSat vt ((a.zip b).foldl (fun acc e => acc + term (signed 16 e.1) (signed 16 e.2)) 0)
  else
    let f := featFmt vt
    (roundFV (vtFmt vt) rneEnv (sumFV ((a.zip b).map (fun e => featTerm su (fdec f e.1) (fdec f e.2))))).bits

/-- Tile `k` of a group exists (R84). -/
def tileOk (g : Group) (k : Nat) : Bool := k ≤ 15 && g.bnd + (k + 1) * (1024 / g.width) ≤ g.allot

/-- The register and lane of element (i, j) of tile `k` (R86). -/
def tileReg (g : Group) (k i j : Nat) : Nat × Nat :=
  let base := g.bnd + k * (1024 / g.width)
  if g.width = 32 then (base + j, i)
  else if g.width = 16 then (base + i / 16 * 32 + j, i % 16)
  else (base + j % 16, i + 32 * (j / 16))

/-- A 32-bit element of a tile. -/
def tileGet (g : Group) (k i j : Nat) : Nat :=
  let (r, t) := tileReg g k i j
  vget g r t

/-- Write a 32-bit element of a tile. -/
def tilePut (g : Group) (k i j v : Nat) : Group :=
  let (r, t) := tileReg g k i j
  vput g r t v

/-- Element (i, j) of the plane of tile `t` of a train at accumulator `acc` (R221). -/
def accGet (g : Group) (vt acc t i j : Nat) : Nat :=
  if vt = 3 then tileGet g (acc + 2 * t) i j + 2 ^ 32 * tileGet g (acc + 2 * t + 1) i j
  else tileGet g (acc + t) i j % 2 ^ vtBits vt

/-- Write it: I16 sign-extended, F64 as two words (R221). -/
def accPut (g : Group) (vt acc t i j x : Nat) : Group :=
  if vt = 3 then tilePut (tilePut g (acc + 2 * t) i j (x % 2 ^ 32)) (acc + 2 * t + 1) i j (x / 2 ^ 32)
  else tilePut g (acc + t) i j (if vt = 0 then wrapN 32 (signed 16 x) else x)

/-- Units of 256 bytes of an edge record (R218). -/
def edgeUnits (vt : Nat) (affine : Bool) : Nat :=
  (if vt = 3 then 2 else 1) * (if affine && vt != 0 then 2 else 1)

/-- A position of an edge record under REVERSE (R222). -/
def edgePos (rev : Bool) (p : Nat) : Nat :=
  if !rev then p else if p < 32 then 31 - p else if 64 ≤ p && p < 96 then 159 - p else p

/-- A value of an edge record. -/
def edgeGet (m : Memory) (vt : Nat) (rev : Bool) (unit p : Nat) : Nat :=
  let w := vtBits vt / 8
  mread m (256 * unit + w * edgePos rev p) w

/-- Write a value of an edge record. -/
def edgePut (vt : Nat) (rev : Bool) (unit : Nat) (m : Memory) (p v : Nat) : Memory :=
  let w := vtBits vt / 8
  mwrite m (256 * unit + w * edgePos rev p) w v

/-- The result of bound checks so far: a value failed, a trap action fired (R227, R253). -/
structure Chk where
  failed : Bool
  trap : Bool
deriving DecidableEq, Repr

/-- Check one value in a format against a latched bound (R253). -/
def boundCheck (f : Fmt) (b : Option BoundLatch) (x : Nat) : Nat × Chk :=
  match b with
  | none => (x, ⟨false, false⟩)
  | some l =>
    let z := fdec f x
    if boundFails l.lo.toNat l.hi.toNat l.nan z then
      if l.act = 2 then (x, ⟨true, true⟩)
      else if l.act = 1 then (boundClamp f l.lo.toNat l.hi.toNat z, ⟨true, false⟩) else (x, ⟨true, false⟩)
    else (x, ⟨false, false⟩)

/-- Two results of checks together. -/
def Chk.or (a b : Chk) : Chk := ⟨a.failed || b.failed, a.trap || b.trap⟩

/-- A tile's inputs in rule coordinates (R215, R218, R222). -/
structure TileIn where
  s : Nat → Nat → Nat
  eq : Nat → Nat → Bool
  left : Nat → Nat
  top : Nat → Nat
  corner : Nat
  leftF : Nat → Nat
  topE : Nat → Nat

/-- Planes of a tile, row-major in rule coordinates: H, Ev, Fv and trace codes. -/
structure Planes where
  h : Array Nat
  ev : Array Nat
  fv : Array Nat
  code : Array Nat

/-- The plane value at a cell. -/
def at' (a : Array Nat) (i j : Nat) : Nat := a.getD (32 * i + j) 0

/-- The neighbours of a cell from a plane `h` and the edges: up, left, diagonal (R215). -/
def neighbours (h : Array Nat) (t : TileIn) (i j : Nat) : Nat × Nat × Nat :=
  let hu := if i = 0 then t.top j else at' h (i - 1) j
  let hl := if j = 0 then t.left i else at' h i (j - 1)
  let hd := if i = 0 then if j = 0 then t.corner else t.top (j - 1)
    else if j = 0 then t.left (i - 1) else at' h (i - 1) (j - 1)
  (hu, hl, hd)

/-- ⊕ of two candidates, extend then open; a tie chooses open (R215). The second is whether extend was chosen. -/
def pick2 (r : Nat) (cs : Nat × Nat) (ext opn : Nat) : Nat × Bool :=
  if rSoft r then ((oplus r cs [ext, opn]).1, false)
  else
    let (v, k) := oplus r cs [opn, ext]
    (v, k == some 1)

/-- One cell (R215, R220): the planes with cell number `n` added. -/
def cell (r : Nat) (cs : Nat × Nat) (t : TileIn) (p : Planes) (n : Nat) : Planes :=
  let vt := rVtype r
  let mul := rMul r
  let i := n / 32
  let j := n % 32
  let (hu, hl, hd) := neighbours p.h t i j
  let xd := vtTimes vt mul hd (t.s i j)
  let g0 := vtParam vt (rParam r 0)
  let g1 := vtParam vt (rParam r 1)
  let e := pick2 r cs (vtTimes vt mul (if i = 0 then t.topE j else at' p.ev (i - 1) j) g1) (vtTimes vt mul hu g0)
  let f := pick2 r cs (vtTimes vt mul (if j = 0 then t.leftF i else at' p.fv i (j - 1)) g1) (vtTimes vt mul hl g0)
  let xu := if rAffine r then e.1 else vtTimes vt mul hu g0
  let xl := if rAffine r then f.1 else vtTimes vt mul hl g1
  let (h0, k) := oplus r cs [xd, xu, xl]
  let restart := bit r 17 && vtNeg vt h0
  let h := if restart then 0 else h0
  let move := if restart then 0 else match k with | none => 0 | some m => m + 1
  let b2 := if rAffine r then e.2 else t.eq i j
  ⟨p.h.push h, p.ev.push e.1, p.fv.push f.1,
   p.code.push (move + 4 * b2n b2 + 8 * b2n (rAffine r && f.2))⟩

/-- All the cells of a tile. -/
def tilePlanes (r : Nat) (cs : Nat × Nat) (t : TileIn) : Planes :=
  (List.range 1024).foldl (cell r cs t) ⟨#[], #[], #[], #[]⟩

/-- TREC and TRECB command word fields (R357). -/
structure RecCmd where
  rule : Nat
  aslot : Nat
  bslot : Nat
  eislot : Nat
  ei : Nat
  eoslot : Nat
  eo : Nat
  acc : Nat
  tslot : Nat
  tidx : Nat
  len : Nat
  bnd : Nat
deriving DecidableEq, Repr

/-- The fields of a TREC or TRECB command word (R357). -/
def recCmd (w : Nat) : RecCmd :=
  ⟨fld w 0 4, fld w 4 4, fld w 8 4, fld w 12 4, fld w 16 6, fld w 22 4, fld w 26 6, fld w 32 4, fld w 36 4, fld w 40 6,
   fld w 46 6 + 1, fld w 52 4⟩

/-- The features of element `k` of block `t` in a slot (R221, R222). -/
def elemOf (r : Nat) (m : Memory) (t k : Nat) : List Nat :=
  let z := elemSize r
  let base := 32 * z * t + (if bit r 19 then 31 - k else k) * z
  if rSubst r = 1 || rSubst r = 2 then [(mget m base).toNat]
  else (List.range (rFeats r)).map (fun q => mread m (base + q * featSize (rVtype r)) (featSize (rVtype r)))

/-- The inputs of tile `t` of a train (R214, R218, R221, R222). -/
def tileIn (tm : Team) (r : Nat) (c : RecCmd) (t : Nat) : TileIn :=
  let vt := rVtype r
  let rev := bit r 19
  let u := edgeUnits vt (rAffine r)
  let ei := (slotOf tm c.eislot).data
  let lu := c.ei + 2 * u * t
  let k := fld r 24 2
  let tab := fun (x : Nat) => mread (slotOf tm (tm.kernel.tbase.getD 0 + k / 2)).data (8192 * (k % 2) + 2 * x) 2
  let as' := (List.range 32).map (elemOf r (slotOf tm c.aslot).data t)
  let bs := (List.range 32).map (elemOf r (slotOf tm c.bslot).data t)
  let el := fun (l : List (List Nat)) (i : Nat) => (l[i]?).getD []
  let s := if rSubst r = 0 then #[] else
    ((List.range 1024).map (fun n => substOf r tab (el as' (n / 32)) (el bs (n % 32)))).toArray
  { s := at' s
    eq := fun i j => rSubst r == 1 && el as' i == el bs j
    left := edgeGet ei vt rev lu
    top := edgeGet ei vt rev (lu + u)
    corner := edgeGet ei vt rev (lu + u) 32
    leftF := fun i => edgeGet ei vt rev lu (64 + i)
    topE := fun j => edgeGet ei vt rev (lu + u) (64 + j) }

/-- What a train has written so far: the group, the team, the checks. -/
structure Train where
  g : Group
  tm : Team
  chk : Chk

/-- Write one plane element to the accumulator after its bound check (R221, R227). -/
def trainAcc (vt acc t : Nat) (b : Option BoundLatch) (rev : Bool) (plane : Array Nat) (x : Train) (n : Nat) : Train :=
  let i := n / 32
  let j := n % 32
  let (v, k) := boundCheck (vtFmt vt) b (at' plane i j)
  let (pi, pj) := if rev then (31 - i, 31 - j) else (i, j)
  { x with g := accPut x.g vt acc t pi pj v, chk := x.chk.or k }

/-- Write an edge record of `u` units: the listed (position, value) pairs, zero at its other positions (R218). Every value it
writes is tested against the bound (R227), zeros and packed coordinates included (log 84). -/
def trainEdge (vt u : Nat) (b : Option BoundLatch) (rev : Bool) (slot unit : Nat) (l : List (Nat × Nat)) (x : Train) : Train :=
  (List.range (256 * u / (vtBits vt / 8))).foldl (fun y p =>
    let (v, k) := boundCheck (vtFmt vt) b (((l.find? (fun e => e.1 == p)).map Prod.snd).getD 0)
    { y with tm := modSlot y.tm slot (fun s => { s with data := edgePut vt rev unit s.data p v }), chk := y.chk.or k }) x

/-- The tile maximum in plane coordinates: value and packed position, none when every value is NaN (R218, R222). -/
def tileBest (vt : Nat) (rev : Bool) (h : Array Nat) : Option (Nat × Nat) :=
  (List.range 1024).foldl (fun acc n =>
    let (i, j) := (n / 32, n % 32)
    let x := if rev then at' h (31 - i) (31 - j) else at' h i j
    if vtNan vt x then acc
    else match acc with
      | none => some (x, 32 * i + j)
      | some b => if vtBelow vt b.1 x then some (x, 32 * i + j) else acc) none

/-- The 512 bytes of a trace record in plane coordinates (R220, R222). -/
def traceBytes (rev : Bool) (code : Array Nat) : List Byte :=
  let c := fun (i j : Nat) => if rev then at' code (31 - i) (31 - j) else at' code i j
  (List.range 512).map (fun k => BitVec.ofNat 8 (c (k / 16) (2 * (k % 16)) + 16 * c (k / 16) (2 * (k % 16) + 1)))

/-- Tile `t` of a TREC train (R215 to R222, R227). -/
def trecTile (r : Nat) (cs : Nat × Nat) (c : RecCmd) (b : Option BoundLatch) (tm : Team) (x : Train) (t : Nat) : Train :=
  let vt := rVtype r
  let rev := bit r 19
  let u := edgeUnits vt (rAffine r)
  let inp := tileIn tm r c t
  let p := tilePlanes r cs inp
  let x1 := if bit r 16 then
      { x with tm := modSlot x.tm c.tslot (fun s => { s with data := mputs s.data (512 * (c.tidx + t)) (traceBytes rev p.code) }) }
    else x
  let x2 := if c.acc = 0xF then x1 else (List.range 1024).foldl (trainAcc vt c.acc t b rev p.h) x1
  let best := if !bit r 18 then [] else
    match tileBest vt rev p.h with
    | none => [(33, fnan (vtFmt vt))]
    | some (v, at_) => [(33, v), (34, 2 ^ 15 + at_)]
  let line := fun (f : Nat → Nat) (off : Nat) => (List.range 32).map (fun k => (off + k, f k))
  let bot := line (at' p.h 31) 0 ++ [(32, inp.left 31)] ++ best
    ++ (if rAffine r then line (at' p.ev 31) 64 else [])
  let rgt := line (fun k => at' p.h k 31) 0 ++ [(32, at' p.h 31 31)] ++ best
    ++ (if rAffine r then line (fun k => at' p.fv k 31) 64 else [])
  let m := c.eo + 2 * u * t
  trainEdge vt u b rev c.eoslot (m + u) rgt (trainEdge vt u b rev c.eoslot m bot x2)

/-- Tile `t` of a TREC train of the GEMM rule (R226). -/
def gemmTile (r : Nat) (c : RecCmd) (b : Option BoundLatch) (tm : Team) (x : Train) (t : Nat) : Train :=
  let vt := rVtype r
  let inp := tileIn tm r c t
  (List.range 1024).foldl (fun y n =>
    let (v, k) := boundCheck (vtFmt vt) b (vtTimes vt false (accGet y.g vt c.acc t (n / 32) (n % 32)) (inp.s (n / 32) (n % 32)))
    { y with g := accPut y.g vt c.acc t (n / 32) (n % 32) v, chk := y.chk.or k }) x

/-- A TREC train (R214 to R227, R359). Edge units bound it to 32 tiles (R219), so its last tile enters before its first leaves (R223): every tile reads
its edges and blocks in the team as it is before the train writes (R219). -/
def trecRun (r w : Nat) (b : Option BoundLatch) (g : Group) (tm : Team) : Train :=
  let c := recCmd w
  let cs := if rSoft r then softConsts r else (0, 0)
  let step := if rOplus r = 5 then gemmTile r c b tm else trecTile r cs c b tm
  (List.range c.len).foldl step ⟨g, tm, ⟨false, false⟩⟩

/-- The weight and factor of the candidates of a cell (R229): w and f of diag, up and left, from the latched plane `h`. -/
structure Grad where
  w : Nat
  f : Nat
deriving DecidableEq, Repr

/-- w and f of candidate `k` (0 diag, 1 up, 2 left) at a cell (R229). -/
def gradOf (r : Nat) (cs : Nat × Nat) (t : TileIn) (h : Array Nat) (i j k : Nat) : Grad :=
  let vt := rVtype r
  let mul := rMul r
  let one := 0x3F800000
  let (hu, hl, hd) := neighbours h t i j
  let g0 := vtParam vt (rParam r 0)
  let g1 := vtParam vt (rParam r 1)
  let xs := [vtTimes vt mul hd (t.s i j), vtTimes vt mul hu g0, vtTimes vt mul hl g1]
  let x := (xs[k]?).getD 0
  let here := at' h i j
  let sub := fun a b => (fSub fF32 rneEnv a b).bits
  let mulF := fun a b => (fMul fF32 rneEnv a b).bits
  let w := match rOplus r with
    | 2 => one
    | 3 => if vtInf 2 x || vtInf 2 here then 0 else (sfuEx2 rneEnv (mulF (sub here x) cs.1)).bits
    | 4 => if vtInf 2 x || vtInf 2 here then 0 else (sfuEx2 rneEnv (mulF (sub x here) cs.1)).bits
    | _ =>
      let (v, m) := oplus r cs xs
      if bit r 17 && vtNeg vt v then 0 else if m == some k then one else 0
  let gk := if k = 0 then t.s i j else if k = 1 then g0 else g1
  ⟨w, if mul then mulF w gk else w⟩

/-- Tile `t` of a TRECB train (R228, R229). -/
def trecbTile (r : Nat) (cs : Nat × Nat) (c : RecCmd) (b : Option BoundLatch) (tm : Team) (x : Train) (t : Nat) : Train :=
  let vt := rVtype r
  let rev := bit r 19
  let u := edgeUnits vt false
  let inp := tileIn tm r c t
  let add := fun a b => rneAdd fF32 a b
  let mulF := fun a b => (fMul fF32 rneEnv a b).bits
  let h := ((List.range 1024).map (fun n =>
    let (i, j) := (n / 32, n % 32)
    if rev then accGet x.g vt c.acc t (31 - i) (31 - j) else accGet x.g vt c.acc t i j)).toArray
  let gr := ((List.range 3072).map (fun n => gradOf r cs inp h (n / 3 / 32) (n / 3 % 32) (n % 3))).toArray
  let w := fun k i j => (gr.getD (3 * (32 * i + j) + k) ⟨0, 0⟩).w
  let f := fun k i j => (gr.getD (3 * (32 * i + j) + k) ⟨0, 0⟩).f
  let m := c.eo + 2 * u * t
  let eo := (slotOf tm c.eoslot).data
  let gb := edgeGet eo vt rev m
  let gr' := edgeGet eo vt rev (m + u)
  let diag := (List.range 63).reverse.flatMap (fun d =>
    (List.range 32).filterMap (fun i => if i ≤ d && d - i < 32 then some (i, d - i) else none))
  let eg := diag.foldl (fun (a : Array Nat) ij =>
    let (i, j) := ij
    let e1 := if i = 31 then add 0 (gb j) else 0
    let e2 := if j = 31 then add e1 (gr' i) else e1
    let e3 := if i = 31 && j = 31 then add e2 (gr' 32) else e2
    let e4 := if i < 31 then add e3 (mulF (at' a (i + 1) j) (f 1 (i + 1) j)) else e3
    let e5 := if j < 31 then add e4 (mulF (at' a i (j + 1)) (f 2 i (j + 1))) else e4
    let e6 := if i < 31 && j < 31 then add e5 (mulF (at' a (i + 1) (j + 1)) (f 0 (i + 1) (j + 1))) else e5
    a.setIfInBounds (32 * i + j) e6) (Array.replicate 1024 0)
  let gT := fun (j : Nat) =>
    let v := mulF (at' eg 0 j) (f 1 0 j)
    if j < 31 then add v (mulF (at' eg 0 (j + 1)) (f 0 0 (j + 1))) else v
  let gL := fun (i : Nat) =>
    let v := mulF (at' eg i 0) (f 2 i 0)
    if i < 31 then add v (mulF (at' eg (i + 1) 0) (f 0 (i + 1) 0)) else add v (gb 32)
  let gC := mulF (at' eg 0 0) (f 0 0 0)
  let part := fun (k i j : Nat) =>
    let (hu, hl, hd) := neighbours h inp i j
    let nb := if k = 0 then hd else if k = 1 then hu else hl
    mulF (at' eg i j) (if rMul r then mulF (w k i j) nb else w k i j)
  let total := fun (k : Nat) => (List.range 1024).foldl (fun acc n => add acc (part k (n / 32) (n % 32))) 0
  let dg := (List.range 1024).flatMap (fun n =>
    let (i, j) := if rev then (31 - n / 32, 31 - n % 32) else (n / 32, n % 32)
    natBytes 4 (part 0 i j))
  let x1 := if c.tidx = 0x3F then x else
    { x with tm := modSlot x.tm c.tslot (fun s => { s with data := mputs s.data (512 * (c.tidx + 8 * t)) dg }) }
  let x2 := (List.range 1024).foldl (trainAcc vt c.acc t b rev eg) x1
  let line := fun (f : Nat → Nat) => (List.range 32).map (fun k => (k, f k))
  let left := line gL ++ [(33, total 1), (34, total 2)]
  let top := line gT ++ [(32, gC)]
  trainEdge vt u b rev c.eoslot (m + u) top (trainEdge vt u b rev c.eoslot m left x2)

/-- A TRECB train (R228, R359). -/
def trecbRun (r w : Nat) (b : Option BoundLatch) (g : Group) (tm : Team) : Train :=
  let c := recCmd w
  let cs := if rSoft r then softConsts r else (0, 0)
  (List.range c.len).foldl (trecbTile r cs c b tm) ⟨g, tm, ⟨false, false⟩⟩

/-- Elements of a 32-byte chunk of an A format (R226). -/
def chunkElems (afmt : Nat) : Nat :=
  match afmt with
  | 0 => 8
  | 1 => 4
  | 2 => 16
  | 3 => 16
  | 7 => 64
  | _ => 32

/-- Bytes of an element of a matrix operand that is not packed (R202). -/
def matSize (fmt : Nat) : Nat := if fmt = 0 then 4 else if fmt = 1 then 8 else if fmt = 2 || fmt = 3 then 2 else 1

/-- A matrix operand: its format code, transpose, chunk count and W4G group size, with what its slots and the record table
hold. `line` is a row of A or a column of B. -/
structure MatSrc where
  fmt : Nat
  trans : Bool
  chunks : Nat
  group : Nat
  data : Nat → Nat
  recs : Nat → Nat

/-- Element k of a line of a matrix operand as an exact value (R226, R238 to R240). -/
def matElem (s : MatSrc) (line k : Nat) : FV :=
  let c := s.chunks
  match s.fmt with
  | 6 => blockVal false (s.recs (line * 2 * c + k / 16)) (s.data (32 * c * line + k)) (k % 16 / 2)
  | 7 => blockVal true (s.recs (line * 4 * c + k / 16)) (fld (s.data (32 * c * line + k / 2)) (4 * (k % 2)) 4) (k % 16 / 2)
  | 8 =>
    let q := fld (s.data (8 * c * line + k / 2)) (4 * (k % 2)) 4
    let rec' := s.recs (line * ceilDiv (16 * c) s.group + k / s.group)
    let z := fvOf ((q : Int) - (fld rec' 16 4 : Int)) 0 false
    fdec fBF16 (roundFV fBF16 rneEnv (fvMul z (fdec fBF16 (fld rec' 0 16))).1).bits
  | f =>
    let e := matSize f
    let at_ := if s.trans then (32 * k + line) * e else 32 * c * line + k * e
    let raw := (List.range e).foldl (fun acc b => acc + s.data (at_ + b) * 2 ^ (8 * b)) 0
    if f = 9 then fvOf (signed 8 raw) 0 false
    else if f = 0xC then fvOf (raw : Int) 0 false
    else fdec (fmtOf f) raw

/-- The integer of an exact integer value. -/
def fvToInt (z : FV) : Int :=
  match z with
  | .fin n m x => fvInt n (m * 2 ^ x.toNat)
  | _ => 0

/-- One accumulator element over all chunks (R248). `dst` is the destination format code. -/
def matCell (dst : Nat) (sat : Bool) (n : Nat) (a b : Array FV) (chunks : Nat) (acc : Nat) : Nat :=
  (List.range chunks).foldl (fun acc q =>
    let prods := (List.range n).map (fun k => (fvMul (a.getD (n * q + k) (.nan false)) (b.getD (n * q + k) (.nan false))).1)
    let s := sumFV prods
    if dst = 0xB then
      let z := signed 32 acc + fvToInt s
      if sat then wrapN 32 (clampI z (-(2 ^ 31)) (2 ^ 31 - 1)) else wrapN 32 z
    else
      let f := if dst = 1 then fF64 else fF32
      (roundFV f ⟨0, sat, false⟩ (fvAdd 0 (fdec f acc) s).1).bits) acc

/-- The bytes of a slot as an array of 16,384. -/
def slotArr (s : Slot) : Array Nat := ((mbytes s.data 0 16384).map (fun b => b.toNat)).toArray

/-- Operand of a matrix command from its slots (R226, R239). -/
def slotSrc (tm : Team) (slot fmt : Nat) (trans : Bool) (chunks : Nat) : MatSrc :=
  let d := slotArr (slotOf tm slot)
  let comp := (slotOf tm (slot ^^^ 1)).data
  { fmt := fmt, trans := trans, chunks := chunks, group := 32, data := fun k => d.getD k 0, recs := fun k => mread comp (4 * k) 4 }

/-- The W4G group size of an FMT (R241). -/
def w4gGroup (fmt : Nat) : Nat := 32 * 2 ^ fld fmt 20 4

/-- TMMA and TMMAQ (R226, R248, R355, R356): `recs` reads the group records of a TMMAQ. -/
def tmmaRun (q : Bool) (w fmt : Nat) (recs : Nat → Nat) (g : Group) (tm : Team) : Group :=
  let tile := fld w 0 4
  let chunks := fld w 12 4 + 1
  let af := fld fmt 0 4
  let bf := fld fmt 4 4
  let dst := fld fmt 8 4
  let n := chunkElems af
  let a := slotSrc tm (fld w 4 4) af (bit w 17) chunks
  let b0 := slotSrc tm (fld w 8 4) bf (bit w 18) chunks
  let b := if q then { b0 with recs := recs, group := w4gGroup fmt } else b0
  let arr := fun (s : MatSrc) (l : Nat) => ((List.range (n * chunks)).map (matElem s l)).toArray
  let rows := ((List.range 32).map (arr a)).toArray
  let cols := ((List.range 32).map (arr b)).toArray
  let vt := if dst = 1 then 3 else 2
  (List.range 1024).foldl (fun h e =>
    let (i, j) := (e / 32, e % 32)
    let old := if bit w 16 then accGet h vt tile 0 i j else 0
    accPut h vt tile 0 i j (matCell dst (bit fmt 14) n (rows.getD i #[]) (cols.getD j #[]) chunks old)) g

end Sys2Proof.Machine
end

