-- ==== Sys2Proof/Machine/Tile.lean ====
section
/-! DEFINITION. Tile commands (R212, R230 to R233, R346 to R364): their fields, slots and tiles, the issue checks, batches, and
what a command does when it starts. -/
namespace Sys2Proof.Machine

/-- A failed issue check: the trap that it takes (R346). -/
structure Fail where
  num : Nat
  addr : Nat
  detail : BitVec 192
deriving DecidableEq, Repr

/-- ILLEGAL_OPERAND with a kind, value and position (R433). -/
def opFail (kind value pos : Nat) : Fail := ⟨0x01, 0, opDetail kind value pos⟩

/-- ILLEGAL_OPERAND of a field of a register's value. -/
def wordFail (w : Word) (pos : Nat) : Fail := opFail 3 w.toNat pos

/-- A check as a list of failures. -/
def failIf (c : Bool) (f : Fail) : List Fail := if c then [f] else []

/-- The check with the lowest trap number, the first among equals (R346). -/
def firstFail (l : List Fail) : Option Fail :=
  l.foldl (fun acc f =>
    match acc with
    | none => some f
    | some g => if f.num < g.num then some f else some g) none

/-- A FREE slot of the team in focus; the slot that a TCOPYX fills is left out (R349). -/
def freeSlot (s : State) (skip : Option Nat) (k : Nat) : List Fail :=
  failIf ((slotOf s.tm k).st == .free && skip != some k) (opFail 4 k 0)

/-- The latched bound register `b` of a team, none for 0xF (R252). -/
def latchBound (t : Team) (b : Nat) : Option BoundLatch :=
  if b = 15 then none
  else
    let v := boundReg t b
    some ⟨v.extractLsb' 0 32, v.extractLsb' 32 32, fld t.policy.toNat (4 * b) 2, fld t.policy.toNat (4 * b + 2) 2⟩

/-- A reserved code in the policy of the bound register that a command names (R252). -/
def boundCodes (t : Team) (b : Nat) : List Fail :=
  match latchBound t b with
  | none => []
  | some l =>
    failIf (l.act == 3) (opFail 4 t.policy.toNat (4 * b)) ++ failIf (2 ≤ l.nan) (opFail 4 t.policy.toNat (4 * b + 2))

/-- The formats of FMT are a row of R248; `q` for TMMAQ. The position of the first failing field. -/
def fmtCombo (fmt : Nat) (q : Bool) : Option Nat :=
  let a := fld fmt 0 4
  let b := fld fmt 4 4
  let d := fld fmt 8 4
  let half := fun x => x == 2 || x == 3
  let fp8 := fun x => x == 4 || x == 5
  let int8 := fun x => x == 9 || x == 0xC
  let pick := fun (aOk bOk : Bool) (dst : Nat) => if !aOk then some 0 else if !bOk then some 4 else if d != dst then some 8 else none
  if q then pick (half a) (b == 8) 0
  else if a == 1 then pick true (b == 1) 1
  else if int8 a then pick true (int8 b) 0xB
  else if half a then pick true (half b) 0
  else if fp8 a then pick true (fp8 b) 0
  else pick (a == 0 || a == 6 || a == 7) (b == a) 0

/-- The issue checks of TMMA and TMMAQ (R239, R241, R248, R355, R356); `addr` is the group table. A
follow-on, whose bits [63:60] are its kind, has a slot `skip` (R349). -/
def tmmaFails (s : State) (q : Bool) (w : Word) (addr : Nat) (skip : Option Nat) : List Fail :=
  let n := if skip.isSome then w.toNat % 2 ^ 60 else w.toNat
  let fmt := s.g.sc.fmtSet.toNat
  let af := fld fmt 0 4
  let block := af == 6 || af == 7
  let a := fld n 4 4
  let b := fld n 8 4
  let tile := fld n 0 4
  let f64 := fld fmt 8 4 == 1
  let bytes := 4 * 32 * ceilDiv (16 * (fld n 12 4 + 1)) (w4gGroup fmt)
  failIf (fld n 19 45 != 0) (wordFail w 19)
  ++ (match fmtCombo fmt q with
      | some p => [opFail 4 fmt p]
      | none => [])
  ++ failIf (!q && 1 < fld fmt 16 4) (opFail 4 fmt 16)
  ++ failIf (q && 2 < fld fmt 20 4) (opFail 4 fmt 20)
  ++ failIf (bit n 17 && block) (wordFail w 17)
  ++ failIf (bit n 18 && (block || q)) (wordFail w 18)
  ++ failIf (block && a / 2 == b / 2) (wordFail w 8)
  ++ failIf (!tileOk s.g tile || (f64 && (tile % 2 == 1 || !tileOk s.g (tile + 1)))) (wordFail w 0)
  ++ freeSlot s skip a ++ freeSlot s skip b
  ++ (if block then freeSlot s skip (a ^^^ 1) ++ freeSlot s skip (b ^^^ 1) else [])
  ++ failIf (q && addr % 4 != 0) ⟨0x03, addr, 0⟩
  ++ (if !q then [] else
      match spLocate s.tm addr bytes with
      | .ok _ => []
      | .error c => [⟨0x05, addr, protPlain c⟩])

/-- The issue checks of TREC and TRECB (R213, R218 to R221, R226 to R228, R358). -/
def trecFails (s : State) (back : Bool) (w : Word) (skip : Option Nat) : List Fail :=
  let n := if skip.isSome then w.toNat % 2 ^ 60 else w.toNat
  let c := recCmd n
  let r := (sget 0 s.g.en.rules c.rule).toNat
  let vt := rVtype r
  let gemm := rOplus r == 5
  let trace := !back && bit r 16
  let u := edgeUnits vt (rAffine r)
  let span := 2 * u * c.len
  let per := if vt = 3 then 2 else 1
  let useA := rSubst r != 0
  let f := fun (cond : Bool) (pos : Nat) => failIf cond (wordFail w pos)
  f (fld n 56 8 != 0) 56 ++ f (8 ≤ c.rule) 0
  ++ (if 8 ≤ c.rule then []
      else if fld r 14 2 == 0 then [opFail 4 c.rule 0]
      else
        f (back && !((vt == 2 || vt == 4) && !rAffine r && !gemm)) 0
        ++ f (!useA && c.aslot != 0) 4 ++ f (!useA && c.bslot != 0) 8
        ++ f (gemm && c.eislot != 0) 12 ++ f (gemm && c.ei != 0) 16 ++ f (gemm && c.eoslot != 0) 22 ++ f (gemm && c.eo != 0) 26
        ++ f (c.acc == 15 && (gemm || back)) 32
        ++ f (c.acc != 15 && ((vt == 3 && c.acc % 2 == 1) || !tileOk s.g (c.acc + per * c.len - 1))) 32
        ++ f (!back && !trace && c.tslot != 0) 36 ++ f (!back && !trace && c.tidx != 0) 40
        ++ f (trace && 32 < c.tidx + c.len) 40
        ++ f (back && c.tidx != 63 && (c.tidx % 8 != 0 || 32 < c.tidx + 8 * c.len)) 40
        ++ f (!gemm && 64 < c.ei + span) 16 ++ f (!gemm && 64 < c.eo + span) 26
        ++ f (!gemm && c.eislot == c.eoslot && c.ei != c.eo && c.ei < c.eo + span && c.eo < c.ei + span) 26
        ++ f (useA && 16384 < 32 * elemSize r * c.len) 46
        ++ f (c.bnd != 15 && vtInt vt) 52 ++ boundCodes s.tm c.bnd
        ++ (if useA then freeSlot s skip c.aslot ++ freeSlot s skip c.bslot else [])
        ++ (if gemm then [] else freeSlot s skip c.eislot ++ freeSlot s skip c.eoslot)
        ++ (if trace || (back && c.tidx != 63) then freeSlot s skip c.tslot else [])
        ++ (if rSubst r = 2 then freeSlot s skip (s.tm.kernel.tbase.getD 0 + fld r 24 2 / 2) else []))

/-- A scratchpad footprint outside the kernel's bytes (R106, R361). -/
def spFails (s : State) (a n : Nat) : List Fail :=
  match spLocate s.tm a n with
  | .ok _ => []
  | .error c => [⟨0x05, a, protPlain c⟩]

/-- The issue checks of TLDA, TST and TSTQ (R361 to R363). -/
def tstFails (s : State) (op : TileOp) (a : Nat) (w : Word) : List Fail :=
  let n := w.toNat
  let fmt := s.g.sc.fmtSet.toNat
  let df := fld fmt 8 4
  let q := op == .tstq
  let bnd := fld n 8 4
  let roff := fld n 16 32
  failIf (fld n 48 16 != 0) (wordFail w 48) ++ failIf (fld n 13 3 != 0) (wordFail w 13) ++ failIf (fld n 5 3 != 0) (wordFail w 5)
  ++ failIf (if q then roff % 16 != 0 || roff < 1024 else roff != 0) (wordFail w 16)
  ++ failIf (bit n 12 && !(q && df == 7)) (wordFail w 12)
  ++ failIf (op == .tlda && bnd != 15) (wordFail w 8)
  ++ failIf (op == .tst && bnd != 15 && df != 0) (opFail 4 fmt 8)
  ++ failIf (q && df != 6 && df != 7) (opFail 4 fmt 8)
  ++ failIf (q && 1 < fld fmt 16 4) (opFail 4 fmt 16)
  ++ failIf (!tileOk s.g (fld n 0 4)) (wordFail w 0)
  ++ boundCodes s.tm bnd
  ++ failIf (a % 16 != 0) ⟨0x03, a, 0⟩
  ++ (if bit n 4 then []
      else if !q then spFails s a 4096
      else spFails s a 1024 ++ spFails s (a + roff) (if df = 7 then 512 else 256))

/-- The issue checks of TEDGE (R364). -/
def tedgeFails (s : State) (a : Nat) (w : Word) : List Fail :=
  let n := w.toNat
  failIf (fld n 18 46 != 0) (wordFail w 18)
  ++ failIf (63 < fld n 4 6 + fld n 10 6) (wordFail w 10)
  ++ freeSlot s none (fld n 0 4)
  ++ failIf (a % 16 != 0) ⟨0x03, a, 0⟩
  ++ (if bit n 17 then [] else spFails s a (256 * (fld n 10 6 + 1)))

/-- The accumulator tiles that a command names (R232). -/
def cmdTiles (op : TileOp) (w rule fmt : Nat) : List Nat :=
  match op with
  | .trec | .trecb =>
    let c := recCmd w
    if c.acc = 15 then [] else (List.range ((if rVtype rule = 3 then 2 else 1) * c.len)).map (fun t => c.acc + t)
  | .tmma | .tmmaq => if fld fmt 8 4 = 1 then [fld w 0 4, fld w 0 4 + 1] else [fld w 0 4]
  | .tedge => []
  | _ => [fld w 0 4]

/-- The slots that a command reads and those that it only writes (R230). -/
def cmdSlots (tbase : Option Nat) (op : TileOp) (w rule fmt : Nat) : List Nat × List Nat :=
  match op with
  | .tmma =>
    let ab := [fld w 4 4, fld w 8 4]
    (if fld fmt 0 4 = 6 || fld fmt 0 4 = 7 then ab ++ ab.map (fun k => k ^^^ 1) else ab, [])
  | .tmmaq => ([fld w 4 4, fld w 8 4], [])
  | .trec =>
    let c := recCmd w
    let ab := if rSubst rule = 0 then [] else [c.aslot, c.bslot]
    let tab := if rSubst rule = 2 then [tbase.getD 0 + fld rule 24 2 / 2] else []
    if rOplus rule = 5 then (ab ++ tab, [])
    else (ab ++ tab ++ [c.eislot], [c.eoslot] ++ (if bit rule 16 then [c.tslot] else []))
  | .trecb =>
    let c := recCmd w
    let ab := if rSubst rule = 0 then [] else [c.aslot, c.bslot]
    let tab := if rSubst rule = 2 then [tbase.getD 0 + fld rule 24 2 / 2] else []
    (ab ++ tab ++ [c.eislot, c.eoslot], if c.tidx = 63 then [] else [c.tslot])
  | .tedge => if bit w 16 then ([fld w 0 4], []) else ([], [fld w 0 4])
  | _ => ([], [])

/-- The bound register number that a command names, 15 for none. -/
def cmdBound (op : TileOp) (w : Nat) : Nat :=
  match op with
  | .trec | .trecb => fld w 52 4
  | .tst | .tstq => fld w 8 4
  | _ => 15

/-- A command of the group in focus with what it latches (R212, R252, R346). -/
def mkCmd (s : State) (op : TileOp) (word arg : Word) : TileCmd :=
  let rule := match op with
    | .trec | .trecb => sget 0 s.g.en.rules (fld word.toNat 0 4)
    | _ => 0
  let fmt := s.g.sc.fmtSet
  let sl := cmdSlots s.tm.kernel.tbase op word.toNat rule.toNat fmt.toNat
  { op := op, word := word, arg := arg, rule := rule, bound := latchBound s.tm (cmdBound op word.toNat), fmt := fmt,
    sup := s.g.sup, group := s.g.id, batch := s.g.en.openB, slots := (sl.1 ++ sl.2).eraseDups, seq := s.dev.copySeq, boundFail := false,
    boundTrap := false }

/-- A batch entry with one more command (R231). -/
def batchAdd (l : List Batch) (n : Nat) (slots : List Nat) : List Batch :=
  let old := (l.find? (fun b => b.num == n)).getD
    { num := n, live := 0, slots := [], closed := false, retired := false, boundTrap := false, engine := false }
  putBy (fun b => b.num == n) { old with live := old.live + 1, slots := (old.slots ++ slots).eraseDups } l

/-- A group after a tile command was counted: TL and the open batch (R346). -/
def countCmd (g : Group) (c : TileCmd) : Group :=
  { g with en := { g.en with tl := g.en.tl + 1, batches := batchAdd g.en.batches c.batch c.slots } }

/-- Retire batches in number order (R231): what stays, and the number retired last. A batch without a fault needs no entry
once it has retired. -/
def retireBatches : List Batch → BitVec 16 → List Batch × BitVec 16
  | [], last => ([], last)
  | b :: r, last =>
    if b.retired then
      let (t, l) := retireBatches r last
      (b :: t, l)
    else if b.closed && b.live == 0 then
      let (t, l) := retireBatches r (BitVec.ofNat 16 b.num)
      if b.boundTrap || b.engine then ({ b with retired := true, slots := [] } :: t, l) else (t, l)
    else (b :: r, last)

/-- A group's batches looked at again. -/
def settleBatches (g : Group) : Group :=
  let (bs, last) := retireBatches g.en.batches g.en.lastRet
  { g with en := { g.en with batches := bs, lastRet := last } }

/-- A tile command leaves the Wheel or is dropped: TL falls, its batch has one command less and may fault (R210, R227, R231,
R359). -/
def cmdLeaves (c : TileCmd) (dropped : Bool) (g : Group) : Group :=
  let out := fun (b : Batch) =>
    { b with live := b.live - 1, engine := b.engine || dropped, boundTrap := b.boundTrap || c.boundTrap }
  settleBatches { g with
    fpstat := if c.boundFail then g.fpstat ||| flBound else g.fpstat,
    en := { g.en with tl := g.en.tl - 1, batches := modBy (fun b => b.num == c.batch) out g.en.batches } }

/-- A command leaves, and slots that nothing holds any more become READY. -/
def cmdDone (s : State) (c : TileCmd) (dropped : Bool) : State :=
  settleSlots (modGroup s c.group (cmdLeaves c dropped)) c.group.part c.group.task c.group.team

/-- The issued, unretired tile commands of a group, follow-ons included (R232). -/
def inFlight (s : State) (g : Group) : List TileCmd :=
  let c := coreOf s g.core
  (c.wheelQ ++ c.wheelRun).filter (fun x => x.group == g.id) ++ g.en.copies.filterMap (fun x => x.follow)

/-- The tiles of a command. -/
def tilesOf (c : TileCmd) : List Nat := cmdTiles c.op c.word.toNat c.rule.toNat c.fmt.toNat

/-- Some unretired command of the group uses one of the tiles. -/
def tilesBusy (s : State) (ts : List Nat) : Bool := (inFlight s s.g).any (fun c => (tilesOf c).any ts.contains)

/-- The tile commands that name an accumulator take ILLEGAL_OPERAND in legacy mode (R99, R346). -/
def legacyFails (s : State) (ts : List Nat) : List Fail := failIf (s.tm.kernel.legacy && !ts.isEmpty) (opFail 4 0 0)

/-- Issue a tile command (R346): the lowest failing check, then the stalls, then TL, the batch and the Wheel queue; its number stands in
one order with those of the copies (R157). -/
def issueTile (s : State) (op : TileOp) (word arg : Word) (fails : List Fail) : Out :=
  let c := mkCmd s op word arg
  let ts := tilesOf c
  let wait := op == .tlda || op == .tst || op == .tstq
  match firstFail (legacyFails s ts ++ fails) with
  | some f => trapS s f.num f.addr f.detail
  | none =>
    if 255 ≤ s.g.en.tl || 64 ≤ (coreOf s s.g.core).wheelQ.length || !quiet s .scalar || (wait && tilesBusy s ts) then stallS s
    else
      let s1 := modCore s s.g.core (fun k => { k with wheelQ := k.wheelQ ++ [c] })
      .next (advS { s1 with g := countCmd s1.g c, dev := { s1.dev with copySeq := s1.dev.copySeq + 1 } })

/-- The bytes of a scratchpad as a core's engine addresses them (R106). -/
def spBytes (t : Team) (core a n : Nat) : List Byte :=
  mbytes (spOf t (spSide t core (2 ^ 20 ≤ a))) (a % 2 ^ 20) n

/-- A team with a list of bytes written to a scratchpad. -/
def spPut (t : Team) (core a : Nat) (bs : List Byte) : Team :=
  if spSide t core (2 ^ 20 ≤ a) then { t with sp1 := mputs t.sp1 (a % 2 ^ 20) bs } else { t with sp0 := mputs t.sp0 (a % 2 ^ 20) bs }

/-- Read the memory side of a TLDA or TEDGE (R361). -/
def cmdLoad (s : State) (w : Who) (t : Team) (glob : Bool) (a n : Nat) : MR (List Byte) :=
  if glob then engRead s w 0 n a else .ok (spBytes t w.core a n) s

/-- The locations of several pieces. -/
def pieceLocs (s : State) (w : Who) : List (Nat × List Byte) → MR (List (Loc × Byte))
  | [] => .ok [] s
  | p :: r => (engLocs s w p.2 p.1).bind (fun l s1 => (pieceLocs s1 w r).bind (fun t s2 => .ok (l ++ t) s2))

/-- Write pieces of memory, a global store through a shadow that publishes (R157, R362). -/
def cmdStore (s : State) (w : Who) (t : Team) (glob : Bool) (pieces : List (Nat × List Byte)) : MR Team :=
  if glob then
    (pieceLocs s w pieces).bind (fun sh s1 =>
      (publish s1 w (engineSource w.core 1) 0 sh).bind (fun _ s2 => .ok t s2))
  else .ok (pieces.foldl (fun u p => spPut u w.core p.1 p.2) t) s

/-- The value of largest magnitude, the first among equals (R251). -/
def maxAbs (l : List FV) : FV :=
  match l with
  | [] => .fin false 0 0
  | x :: r => r.foldl (fun acc y => if fvCmp (fvAbs acc) (fvAbs y) < 0 then y else acc) x

/-- A value is a NaN or an infinity. -/
def notFinite (z : FV) : Bool := isNan z || isInf z

/-- Quantise 16 values with the block exponent `e` (R251): their codes and the record. -/
def quantBlock (ab4 : Bool) (e : Nat) (xs : List FV) : List Nat × Nat :=
  if e = 0xFF then (xs.map (fun _ => 0), 0xFF)
  else
    let pair := fun (p : Nat) => maxAbs ((xs.drop (2 * p)).take 2)
    let micro := (List.range 8).foldl (fun acc p => acc + b2n (microBit ab4 e (pair p)) * 2 ^ p) 0
    let spec := if ab4 then (roundFV fE4M3 rneEnv (scale2 (maxAbs xs) ((e : Int) - 127))).bits else 0
    let rec' := e + 256 * micro + 65536 * spec
    ((xs.zipIdx).map (fun x => blockCode ab4 rec' (x.2 / 2) x.1), rec')

/-- Quantise a row of 32 values (R251): codes and the two records. `one`: both share E. -/
def quantRow (ab4 one : Bool) (xs : List FV) : List Nat × List Nat :=
  let exp := fun (l : List FV) => if l.any notFinite then 0xFF else blockExp ab4 (maxAbs l)
  let lo := xs.take 16
  let hi := xs.drop 16
  let (c0, r0) := quantBlock ab4 (exp (if one then xs else lo)) lo
  let (c1, r1) := quantBlock ab4 (exp (if one then xs else hi)) hi
  (c0 ++ c1, [r0, r1])

/-- The element bytes of a row of codes: one byte each, or two codes a byte (R237). -/
def codeBytes (ab4 : Bool) (c : List Nat) : List Byte :=
  if ab4 then (List.range (c.length / 2)).map (fun k => BitVec.ofNat 8 (c.getD (2 * k) 0 + 16 * c.getD (2 * k + 1) 0))
  else c.map (BitVec.ofNat 8)

/-- The words of a tile after the bound check of each as F32 (R253, R362), row by row, and the checks. -/
def tileChecked (g : Group) (k : Nat) (b : Option BoundLatch) : List Nat × Chk :=
  (List.range 1024).foldr (fun n acc =>
    let (v, c) := boundCheck fF32 b (tileGet g k (n / 32) (n % 32))
    (v :: acc.1, c.or acc.2)) ([], ⟨false, false⟩)

/-- The pieces of memory that TSTQ writes (R363): rows of the tile as words. -/
def tstqPieces (fmt a roff half : Nat) (ws : List Nat) : List (Nat × List Byte) :=
  let ab4 := fld fmt 8 4 == 7
  (List.range 32).flatMap (fun i =>
    let row := ((ws.drop (32 * i)).take 32).map (fdec fF32)
    let (codes, recs) := quantRow ab4 (fld fmt 16 4 == 1) row
    let rb := recs.flatMap (natBytes 4)
    if ab4 then [(a + 32 * i + 16 * half, codeBytes true codes), (a + roff + 16 * i + 8 * half, rb)]
    else [(a + 32 * i, codeBytes false codes), (a + roff + 8 * i, rb)])

/-- What a tile command computes and writes when it starts: the group, the team, the checks (R214 to R229, R248 to R253, R354
to R364). -/
def runTile (s : State) (c : TileCmd) (g : Group) (t : Team) : MR (Group × Team × Chk) :=
  let w := c.word.toNat
  let a := c.arg.toNat
  let who := { whoOf s g with sup := c.sup }
  let clean : Chk := ⟨false, false⟩
  match c.op with
  | .tmma => .ok (tmmaRun false w c.fmt.toNat (fun _ => 0) g t, t, clean) s
  | .tmmaq =>
    let recs := fun (k : Nat) => bytesNat (spBytes t g.core (a + 4 * k) 4)
    .ok (tmmaRun true w c.fmt.toNat recs g t, t, clean) s
  | .trec => let x := trecRun c.rule.toNat w c.bound g t; .ok (x.g, x.tm, x.chk) s
  | .trecb => let x := trecbRun c.rule.toNat w c.bound g t; .ok (x.g, x.tm, x.chk) s
  | .tzero => .ok ((List.range 1024).foldl (fun h n => tilePut h (fld w 0 4) (n / 32) (n % 32) 0) g, t, clean) s
  | .tlda =>
    (cmdLoad s who t (bit w 4) a 4096).bind (fun bs s1 =>
      let arr := bs.toArray
      let at' := fun (k : Nat) => (arr.getD k 0).toNat
      let el := fun (n : Nat) => at' (4 * n) + 2 ^ 8 * at' (4 * n + 1) + 2 ^ 16 * at' (4 * n + 2) + 2 ^ 24 * at' (4 * n + 3)
      .ok ((List.range 1024).foldl (fun h n => tilePut h (fld w 0 4) (n / 32) (n % 32) (el n)) g, t, clean) s1)
  | .tst =>
    let (ws, chk) := tileChecked g (fld w 0 4) c.bound
    (cmdStore s who t (bit w 4) [(a, ws.flatMap (natBytes 4))]).bind (fun t1 s1 => .ok (g, t1, chk) s1)
  | .tstq =>
    let (ws, chk) := tileChecked g (fld w 0 4) c.bound
    (cmdStore s who t (bit w 4) (tstqPieces c.fmt.toNat a (fld w 16 32) (fld w 12 1) ws)).bind (fun t1 s1 => .ok (g, t1, chk) s1)
  | .tedge =>
    let k := fld w 0 4
    let at' := 256 * fld w 4 6
    let n := 256 * (fld w 10 6 + 1)
    if bit w 16 then
      (cmdStore s who t (bit w 17) [(a, mbytes (slotOf t k).data at' n)]).bind (fun t1 s1 => .ok (g, t1, clean) s1)
    else
      (cmdLoad s who t (bit w 17) a n).bind (fun bs s1 =>
        .ok (g, modSlot t k (fun x => { x with data := mputs x.data at' bs }), clean) s1)

/-- The (address, bytes) spans of global memory that a command reads or writes (R360 to R364). -/
def cmdSpans (c : TileCmd) : List (Nat × Nat) :=
  let w := c.word.toNat
  let a := c.arg.toNat
  match c.op with
  | .tlda => if bit w 4 then [(a, 4096)] else []
  | .tst => if bit w 4 then [(a, 4096)] else []
  | .tstq =>
    if bit w 4 then (tstqPieces c.fmt.toNat a (fld w 16 32) (fld w 12 1) (List.replicate 1024 0)).map (fun p => (p.1, p.2.length)) else []
  | .tedge => if bit w 17 then [(a, 256 * (fld w 10 6 + 1))] else []
  | _ => []

/-- A command with a global address writes there; the others read. -/
def cmdWrites (c : TileCmd) : Bool :=
  match c.op with
  | .tst => true
  | .tstq => true
  | .tedge => bit c.word.toNat 16
  | _ => false

/-- The Wheel queue of a core without its head. -/
def popWheel (s : State) (core : Nat) : State := modCore s core (fun k => { k with wheelQ := k.wheelQ.drop 1 })

/-- An error that a command meets (R199, R233, R265): in the 64-byte line `off` bytes after its address, which it reads or
writes, else in a slot it reads. Answers whether the command drops. -/
def cmdEcc (s : State) (c : TileCmd) (g : Group) (rd : List Nat) (ecc : Ecc) (off : Nat) : State × Bool :=
  let who := { whoOf s g with sup := c.sup }
  let va := (c.arg.toNat + off) % 2 ^ 64
  if (cmdSpans c).any (fun p => p.1 / 64 ≤ va / 64 && va / 64 ≤ (p.1 + p.2 - 1) / 64) then
    match translate s who.unit who.part who.ctx va who.sup (cmdWrites c) (!cmdWrites c) with
    | .ok l s1 =>
      let (s2, n) := lineCheck s1 who.part who.ctx (readKey s1 who l) l.va ecc
      (s2, n != 0)
    | _ => (s, false)
  else if !rd.isEmpty && (ecc == .uncorrectable || ecc == .tagFail) then
    (raiseUE s g.id.part g.core 5 who.ctx 0 ((teamGroups s g.id.part g.id.task g.id.team).map Group.id), true)
  else (s, false)

end Sys2Proof.Machine
end

