-- ==== Sys2Proof/Machine/Copy.lean ====
section
/-! DEFINITION. Copies (R196 to R211, R348 to R350): the tensor record and its checks, the element mapping, and the Copy
Engine's steps. -/
namespace Sys2Proof.Machine

/-- The tensor record in 320 bytes (R201); TRANS with rank 1 is taken as 0 (R203). -/
def recOf (bs : List Byte) : TensorRec :=
  let ctl := frameFld bs 0x08 4
  let rank := fld ctl 4 4 + 1
  { base := frameFld bs 0 8, fmt := fld ctl 0 4, rank := rank, pad := fld ctl 8 4, bnd := fld ctl 12 4, kind := fld ctl 16 4,
    swz := fld ctl 20 4, trans := bit ctl 24 && 1 < rank, dest := frameFld bs 0x0C 4, pitch := frameFld bs 0x10 4,
    dims := (List.range (min rank 12)).map (fun d =>
      let o := 0x20 + 24 * d
      { size := frameFld bs o 4, box := frameFld bs (o + 4) 4, stride := signed 64 (frameFld bs (o + 8) 8),
        wrap := frameFld bs (o + 16) 4, start := signed 32 (frameFld bs (o + 20) 4) }) }

/-- Element bytes of a copy (R202). -/
def copyElem (fmt : Nat) : Nat :=
  match fmt with
  | 1 => 8
  | 0 => 4
  | 0xB => 4
  | 2 => 2
  | 3 => 2
  | 0xA => 2
  | _ => 1

/-- An integer format of a copy. -/
def copyInt (fmt : Nat) : Bool := 9 ≤ fmt

/-- BOX of destination dimension 0 (R202). -/
def destBox (r : TensorRec) : Nat :=
  match r.dims with
  | d0 :: d1 :: _ => if r.trans then d1.box else d0.box
  | [d0] => d0.box
  | [] => 1

/-- The elements of the box. -/
def boxSize (r : TensorRec) : Nat := r.dims.foldl (fun acc d => acc * d.box) 1

/-- The destination rows, and the bytes of one row under swizzling (R202). -/
def copyRows (r : TensorRec) : Nat := boxSize r / destBox r

/-- Bytes of a destination row, rounded up to 128 when SWZ is not 0. -/
def rowBytes (r : TensorRec) : Nat :=
  let w := destBox r * copyElem r.fmt
  if r.swz = 0 then w else ceilDiv w 128 * 128

/-- The footprint of a copy on the scratchpad or in the slot (R202). -/
def copySpan (r : TensorRec) : Nat := (copyRows r - 1) * r.pitch + rowBytes r

/-- ILLEGAL_OPERAND of a field of a tensor record at `va` (R433). -/
def recFail (bs : List Byte) (off n va : Nat) : Fail := ⟨0x01, 0, structDetail (frameFld bs off n) off 2 va⟩

/-- The checks of R202 and R206 on a record's bytes at scratchpad address `va`. -/
def recFails (s : State) (bs : List Byte) (va : Nat) : List Fail :=
  let r := recOf bs
  let ctl := frameFld bs 0x08 4
  let e := copyElem r.fmt
  let f := fun (c : Bool) (off n : Nat) => failIf c (recFail bs off n va)
  f (fld ctl 25 7 != 0 || 2 < r.swz || 2 < r.kind || 2 < r.pad || 0xD ≤ r.fmt || (6 ≤ r.fmt && r.fmt ≤ 8) || 12 < r.rank
      || (r.pad == 2 && copyInt r.fmt) || (r.bnd != 15 && copyInt r.fmt)) 0x08 4
  ++ f (r.pitch < destBox r * e || r.pitch % e != 0 || (r.swz != 0 && r.pitch % 128 != 0)
      || (r.kind == 1 && 16384 < copySpan r) || (r.kind == 2 && 2 ^ 24 < boxSize r * e)) 0x10 4
  ++ f ((bs.drop 0x14).take 12 != List.replicate 12 0) 0x14 8
  ++ (r.dims.zipIdx).flatMap (fun x =>
      f (x.1.size == 0) (0x20 + 24 * x.2) 4 ++ f (x.1.box == 0 || 2 ^ 16 < x.1.box) (0x24 + 24 * x.2) 4)
  ++ boundCodes s.tm r.bnd
  ++ (if r.kind = 1 then freeSlot s none (r.dest % 16) else spFails s r.dest (copySpan r))

/-- The 320 bytes of the record at scratchpad address `a`: the beats read before, the others now (R205). -/
def recBytes (s : State) (a : Nat) : List Byte :=
  let old := match s.g.sc.recBeats with
    | some (b, l) => if b = a then l else []
    | none => []
  if old.isEmpty then spBytes s.tm s.g.core a 320
  else (List.range 20).flatMap (fun k =>
    ((old.find? (fun x => x.1 == k)).map Prod.snd).getD (spBytes s.tm s.g.core (a + 16 * k) 16))

/-- Read some more 16-byte beats of the record at `a`, as a free value says, each wholly (R205; log 10). -/
def readBeats (s : State) (a : Nat) : State :=
  let old := match s.g.sc.recBeats with
    | some (b, l) => if b = a then l else []
    | none => []
  let mask := (Config.freeValue s.free).toNat
  let new := (List.range 20).filterMap (fun k =>
    if bit mask k && !old.any (fun x => x.1 == k) then some (k, spBytes s.tm s.g.core (a + 16 * k) 16) else none)
  { s with free := s.free + 1, g := { s.g with sc := { s.g.sc with recBeats := some (a, old ++ new) } } }

/-- The beats read of a record are used up. -/
def endRec (s : State) : State := { s with g := { s.g with sc := { s.g.sc with recBeats := none } } }

/-- The record at the address in a register, or the failure of the address itself (R202). -/
def recAt (s : State) (v : Word) : Except Fail (List Byte) :=
  let a := v.toNat
  if a % 64 != 0 || s.tm.kernel.spbytes < a + 320 then .error (wordFail v 0) else .ok (recBytes s a)

/-- Read a record and go on with it (R201, R205): the reading waits for the stream's accesses, and may take its beats one after another
(log 7). -/
def withRec (s : State) (v : Word) (k : List Byte → State → Out) : Out :=
  if !quiet s .scalar then stallS s
  else if s.defer then .next (readBeats s v.toNat)
  else k (recBytes s v.toNat) (endRec s)

/-- The checks of a barrier address (R340, R348). -/
def barFails (s : State) (a : Nat) : List Fail :=
  if a % 16 != 0 then [⟨0x03, a, 0⟩] else spFails s a 16

/-- A copy of the group in focus as it issues. -/
def newCopy (s : State) (r : TensorRec) (dst : Nat) (barrier : Option Nat) (follow : Option TileCmd) : Copy :=
  { id := s.dev.copySeq, kind := .tensor r, dst := dst, evict := 0, sup := s.g.sup, barrier := barrier, follow := follow,
    bound := latchBound s.tm r.bnd, started := false, begun := 0, visited := 0, got := [], landed := [], lanesDone := [], shadow := [],
    excess := false, code := 0, fault := 0, bytes := 0 }

/-- The group in focus has issued a copy (R196, R197). -/
def addCopy (s : State) (c : Copy) : State :=
  { s with g := { s.g with en := { s.g.en with cp := s.g.en.cp + 1, copies := s.g.en.copies ++ [c] } },
           dev := { s.dev with copySeq := s.dev.copySeq + 1 } }

/-- The trap of the lowest failing check (R346), or go on. -/
def orTrapF (s : State) (fails : List Fail) (k : Out) : Out :=
  match firstFail fails with
  | some f => trapS s f.num f.addr f.detail
  | none => k

/-- TCOPY (R348). -/
def execTcopy (sd sa sb : BitVec 6) (s : State) : Out :=
  let v := sreg s sa
  let bar := if sb = 0 then none else some (sreg s sb).toNat
  let barBad := match bar with
    | none => []
    | some a => barFails s a
  match recAt s v with
  | .error f => orTrapF s (f :: barBad) (stallS s)
  | .ok _ =>
    withRec s v (fun bs u =>
      orTrapF u (recFails u bs v.toNat ++ barBad)
        (if 255 ≤ u.g.en.cp then stallS s else .next (advS (addCopy u (newCopy u (recOf bs) sd.toNat bar none)))))

/-- The follow-on that a command word names (R349). -/
def followOp (v : Word) : Option TileOp :=
  match fld v.toNat 60 4 with
  | 0 => some .tmma
  | 1 => some .trec
  | 2 => some .trecb
  | _ => none

/-- The checks of a follow-on into slot `k` (R349). -/
def followFails (s : State) (v : Word) (k : Nat) : List Fail :=
  match followOp v with
  | none => [wordFail v 60]
  | some op =>
    let c := mkCmd s op (v &&& 0x0FFFFFFFFFFFFFFF) 0
    legacyFails s (tilesOf c) ++ (if op == .tmma then tmmaFails s false v 0 (some k) else trecFails s (op == .trecb) v (some k))

/-- TCOPYX (R348, R349): the checks of the copy and of its follow-on form one set. -/
def execTcopyx (sd sa sb : BitVec 6) (s : State) : Out :=
  let v := sreg s sa
  let w := sreg s sb
  match recAt s v with
  | .error f => orTrapF s (f :: followFails s w 16) (stallS s)
  | .ok _ =>
    withRec s v (fun bs u =>
      let r := recOf bs
      orTrapF u (recFails u bs v.toNat ++ failIf (r.kind != 1) (recFail bs 0x08 4 v.toNat) ++ followFails u w (r.dest % 16))
        (if 255 ≤ u.g.en.cp || 255 ≤ u.g.en.tl then stallS s
         else
           let c := mkCmd u ((followOp w).getD .tmma) (w &&& 0x0FFFFFFFFFFFFFFF) 0
           let u1 := addCopy u (newCopy u r sd.toNat none (some c))
           .next (advS { u1 with g := countCmd u1.g c })))

/-- The components of a box-linear index, dimension 0 fastest (R203). -/
def boxIdx : List Dim → Nat → List Nat
  | [], _ => []
  | d :: r, n => n % d.box :: boxIdx r (n / d.box)

/-- The box-linear index of components with their extents, the earliest fastest. -/
def linear : List (Nat × Nat) → Nat
  | [] => 0
  | (b, n) :: r => b + n * linear r

/-- Where an element of the box comes from and goes to (R203): it lies inside, its global address, its offset. -/
structure Elem where
  inside : Bool
  gva : Nat
  off : Nat

/-- XOR of a destination offset by its row (R203). -/
def swizzle (off row swz : Nat) : Nat :=
  if swz = 1 then off ^^^ (row % 8 * 16) else if swz = 2 then off ^^^ (row % 4 * 32) else off

/-- The element at a box index (R203). -/
def elemAt (r : TensorRec) (b : List Nat) : Elem :=
  let e := copyElem r.fmt
  let xs := (b.zip r.dims).map (fun p =>
    let d := p.2
    let x0 : Int := d.start + p.1
    let x := if d.wrap = 0 then x0 else x0 % (d.wrap : Int)
    let inn := decide (0 ≤ x) && decide (x < (d.size : Int))
    (inn, if inn || r.pad != 1 then x else clampI x 0 ((d.size : Int) - 1)))
  let sum := (xs.zip r.dims).foldl (fun acc p => acc + p.1.2 * p.2.stride) (0 : Int)
  let comps := b.zip (r.dims.map Dim.box)
  let (c, rest) := match comps with
    | b0 :: b1 :: t => if r.trans then (b1.1, b0 :: t) else (b0.1, b1 :: t)
    | [b0] => (b0.1, [])
    | [] => (0, [])
  let row := linear rest
  { inside := xs.all Prod.fst, gva := wrapN 64 ((r.base : Int) + (e : Int) * sum),
    off := swizzle (row * r.pitch + c * e) row r.swz }

/-- The elements of box row `row`: those with one value of b(1) to b(n-1) (R208). -/
def rowElems (r : TensorRec) (row : Nat) : List Elem :=
  let n := match r.dims with
    | d :: _ => d.box
    | [] => 1
  (List.range n).map (fun k => elemAt r (boxIdx r.dims (row * n + k)))

/-- The destination address of an element: global for KIND 2, scratchpad for KIND 0, slot offset for KIND 1. -/
def elemDest (r : TensorRec) (x : Elem) : Nat :=
  if r.kind = 2 then x.gva else if r.kind = 0 then r.dest + x.off else x.off

/-- The destination byte addresses of an element; for KIND 2 an element outside the extent has none (R203). -/
def elemBytes (r : TensorRec) (x : Elem) : List Nat :=
  if r.kind = 2 && !x.inside then [] else (List.range (copyElem r.fmt)).map (fun k => (elemDest r x + k) % 2 ^ 64)

/-- The bytes that a beat lands: box row `row` within destination block `blk` of 64 bytes (R208). -/
def beatLen (r : TensorRec) (row blk : Nat) : Nat :=
  (rowElems r row).foldl (fun acc x => acc + ((elemBytes r x).filter (fun a => a / 64 == blk)).length) 0

/-- One number for a beat. -/
def beatId (row blk : Nat) : Nat := row * 2 ^ 58 + blk

/-- All the bytes that a copy lands (R198): for KIND 2 those inside the extent. -/
def copyTotal (r : TensorRec) : Nat :=
  let inn := fun (d : Dim) => ((List.range d.box).filter (fun b =>
    let x0 : Int := d.start + b
    let x := if d.wrap = 0 then x0 else x0 % (d.wrap : Int)
    decide (0 ≤ x) && decide (x < (d.size : Int)))).length
  copyElem r.fmt * (if r.kind = 2 then r.dims.foldl (fun acc d => acc * inn d) 1 else boxSize r)

/-- The code of a failure of the engine's path (R198): poison is 3, the rest 1. -/
def pathCode (num : Nat) : Nat := if num = 0x0F || num = 0x10 then 3 else 1

/-- Where an element is read, none for one that is not (R203): global memory, for KIND 2 the scratchpad. -/
def elemSrc (r : TensorRec) (x : Elem) : Option Nat :=
  if r.kind = 2 then if x.inside then some (r.dest + x.off) else none
  else if x.inside || r.pad == 1 then some x.gva else none

/-- The beats of an element. -/
def elemBeats (r : TensorRec) (x : Elem) : List Nat :=
  match elemSrc r x with
  | none => []
  | some a => srcBeats a (copyElem r.fmt)

/-- The value of an element in the beats read (R203, R206). -/
def gotValue (got : List (Nat × Nat)) (a : Nat) : Nat → Nat
  | 0 => 0
  | n + 1 =>
    fld (((got.find? (fun x => x.1 == a % 2 ^ 64 / 16)).map Prod.snd).getD 0) (8 * (a % 16)) 8 + 256 * gotValue got (a + 1) n

/-- The value of an element before its bound check (R203). -/
def elemValue (r : TensorRec) (got : List (Nat × Nat)) (x : Elem) : Nat :=
  match elemSrc r x with
  | some a => gotValue got a (copyElem r.fmt)
  | none => if r.pad = 0 then 0 else fnan (fmtOf r.fmt)

/-- The progress of a copy's visit of its box: the source beats read, whether a value failed its bound, the code and address of the
first failure (R198, R203, R204, R206). -/
structure Visit where
  got : List (Nat × Nat)
  bound : Bool
  fail : Option (Nat × Nat)

/-- Read those of an element's beats that no element before it has read, each once (R206); `bad` is a line that fails its check, `va` the
element's address. A beat that fails is reported by its first byte that the element takes (R260; log 123). -/
def visitBeats (w : Who) (t : Team) (r : TensorRec) (evict : Nat) (bad : Option Nat) (va : Nat) : List Nat → Visit → State → MR Visit
  | [], v, s => .ok v s
  | b :: l, v, s =>
    if v.got.any (fun x => x.1 == b) then visitBeats w t r evict bad va l v s
    else if bad == some (b / 4) then .ok { v with fail := some (3, max va (16 * b)) } s
    else
      match (if r.kind = 2 then MR.ok (spBytes t w.core (16 * b) 16) s else engRead s w evict 16 (16 * b)) with
      | .fault f => .fault f
      | .stall => .stall
      | .trap n _ => .ok { v with fail := some (pathCode n, max va (16 * b)) } s
      | .ok bs s1 => visitBeats w t r evict bad va l { v with got := (b, bytesNat bs) :: v.got } s1

/-- Visit elements of the box in order, stopping at the first that fails (R203, R204). -/
def visitElems (w : Who) (t : Team) (r : TensorRec) (evict : Nat) (b : Option BoundLatch) (bad : Option Nat) :
    List Elem → Visit → State → MR Visit
  | [], v, s => .ok v s
  | x :: l, v, s =>
    match visitBeats w t r evict bad x.gva (elemBeats r x) v s with
    | .ok v1 s1 =>
      if v1.fail.isSome then .ok v1 s1
      else
        let k := if x.inside then (boundCheck (fmtOf r.fmt) b (elemValue r v1.got x)).2 else ⟨false, false⟩
        if k.trap then .ok { v1 with bound := true, fail := some (2, x.gva) } s1
        else visitElems w t r evict b bad l { v1 with bound := v1.bound || k.failed } s1
    | y => y

/-- The bytes that a beat lands, each with its element's number and address (R203, R204, R208). -/
def beatOut (r : TensorRec) (b : Option BoundLatch) (got : List (Nat × Nat)) (blk : Nat) (els : List (Nat × Elem)) :
    List (Nat × Nat × Byte) :=
  els.flatMap (fun x =>
    let v := elemValue r got x.2
    let y := if x.2.inside then (boundCheck (fmtOf r.fmt) b v).1 else v
    ((elemBytes r x.2).zipIdx.filter (fun p => p.1 / 64 == blk)).map (fun p => (x.1, p.1, BitVec.ofNat 8 (y / 2 ^ (8 * p.2)))))

/-- A shadow with a byte more, kept in box order: where destinations overlap, the later element stands (R203). -/
def shadowPut (x : Nat × Loc × Byte) : List (Nat × Loc × Byte) → List (Nat × Loc × Byte)
  | [] => [x]
  | y :: r => if y.1 ≤ x.1 then y :: shadowPut x r else x :: y :: r

/-- The stage barrier at a scratchpad address as a group's core reaches it (R207). -/
def barKey (t : Team) (core a : Nat) : Bool × Nat := (spSide t core (2 ^ 20 ≤ a), a % 2 ^ 20)

/-- `f` applied to copy `k` of a group. -/
def modCopy (s : State) (id : GroupId) (k : Nat) (f : Copy → Copy) : State :=
  modGroup s id (fun g => { g with en := { g.en with copies := g.en.copies.mapIdx (fun j c => if j = k then f c else c) } })

/-- A copy fails with a code at an address (R198). -/
def failCopy (s : State) (id : GroupId) (k code addr : Nat) : State :=
  modCopy s id k (fun c => { c with code := code, fault := addr })

/-- The group raises BOUND (R98, R253). -/
def raiseBound (s : State) (id : GroupId) (on : Bool) : State :=
  if on then modGroup s id (fun g => { g with fpstat := g.fpstat ||| flBound }) else s

/-- The global address of a lane copy's source, none in the scratchpad (R107, R429). -/
def laneSrc (t : Team) (x : LaneCopy) : Option Nat :=
  if x.srcSpace = 1 then none else some (if x.srcSpace = 2 then (t.kernel.cbase + x.src) % 2 ^ 64 else x.src)

/-- The transfers of a lane copy, in their order (R200): the lanes whose sources lie in one 128-byte line, of constant space too, and whose
destinations lie in one 128-byte line, first the transfer of the lowest lane. -/
def transfers (t : Team) (ls : List LaneCopy) : List (List LaneCopy) :=
  let key := fun (x : LaneCopy) => ((laneSrc t x).getD x.src / 128, x.dst / 128)
  ((ls.map key).eraseDups).map (fun k => ls.filter (fun x => key x == k))

/-- A lane copy has a transfer that has not started (R200). -/
def moreTransfers (t : Team) (c : Copy) : Bool :=
  match c.kind with
  | .tensor _ => false
  | .lanes _ _ ls => c.begun < (transfers t ls).length
  | .slot _ _ ls => c.begun < (transfers t ls).length

/-- COPY_START (R196, R200, R206): copy number `idx` of group `g` starts, or the next transfer of a lane copy that has started. Copies of a group start in order, past those that wait for
another slot; a copy into a slot waits while it is FILLING or IN-USE, then the slot is FILLING. -/
def execCopyStart (s : State) : Out :=
  let id := s.inp.g
  match findGroup s id with
  | none => .next s
  | some g =>
    match g.en.copies[s.inp.idx]? with
    | none => .next s
    | some c =>
      let t := teamOf s id
      let st := fun (k : Nat) => (slotOf t k).st
      let ready := fun (k : Nat) => st k == .claimed || st k == .ready
      let before := (g.en.copies.take s.inp.idx).filter (fun x => !x.started)
      let blocks := fun (x : Copy) =>
        match copySlot x with
        | none => true
        | some k => ready k || copySlot c == some k
      let mark := modCopy s id s.inp.idx (fun x => { x with started := true, begun := x.begun + 1 })
      if (coreOf s g.core).testing != [] then .next s
      else if c.started then if moreTransfers t c then .next mark else .next s
      else if before.any blocks then .next s
      else
        match copySlot c with
        | none => .next mark
        | some k =>
          if ready k then .next (modTeamOf mark id (fun u => modSlot u k (fun x => { x with st := .filling }))) else .next s

/-- Count bytes into the barrier that a copy names (R208): the team, and whether excess arrived. -/
def countBeat (t : Team) (core : Nat) (bar : Option Nat) (m : Nat) : Team × Bool :=
  match bar with
  | none => (t, false)
  | some a => sbBeat t (barKey t core a) m

/-- On whose behalf a copy reads and writes: it keeps the translations that it has taken (R126). -/
def copyWho (s : State) (g : Group) (c : Copy) : Who := { whoOf s g with sup := c.sup, unit := copyUnit g.core c.id }

/-- The elements of a beat with their numbers in box order. -/
def beatElems (r : TensorRec) (row blk : Nat) : List (Nat × Elem) :=
  let els := rowElems r row
  ((els.zipIdx).map (fun x => (row * els.length + x.2, x.1))).filter (fun x => (elemBytes r x.2).any (fun a => a / 64 == blk))

/-- Rows of the box (R208). -/
def boxRows (r : TensorRec) : Nat :=
  boxSize r / (match r.dims with
    | d :: _ => d.box
    | [] => 1)

/-- The shadow space that a copy draws (R157): the bytes that it writes to global memory. -/
def shadowNeed (c : Copy) : Nat :=
  match c.kind with
  | .tensor r => if r.kind = 2 then boxSize r * copyElem r.fmt else 0
  | .lanes n sp ls => if sp = 1 then 0 else n * ls.length
  | .slot _ _ _ => 0

/-- The shadow space that a tile command draws (R157). -/
def cmdNeed (c : TileCmd) : Nat := if cmdWrites c then (cmdSpans c).foldl (fun n p => n + p.2) 0 else 0

/-- The unfinished commands of a core's engines, by number with the shadow space that they draw (R157). -/
def engineWrites (s : State) (core : Nat) : List (Nat × Nat) :=
  ((allGroups s).filter (fun h => h.core == core)).flatMap (fun h => h.en.copies.map (fun c => (c.id, shadowNeed c)))
  ++ (coreOf s core).wheelQ.map (fun c => (c.seq, cmdNeed c))

/-- The core's 16 MiB shadow area has room for `need` bytes of command `num`, drawn in the order of issue: the oldest unfinished write always
has (R157). -/
def shadowRoom (s : State) (core num need : Nat) : Bool :=
  let used := ((engineWrites s core).filter (fun x => x.1 < num)).foldl (fun n x => n + x.2) 0
  need == 0 || used == 0 || used + need ≤ 2 ^ 24

/-- Land a beat whose elements have been read (R203, R208): in the scratchpad or slot, or in the shadow. -/
def landBeat (s : State) (id : GroupId) (k : Nat) (g : Group) (c : Copy) (r : TensorRec) (row blk : Nat) (out : List (Nat × Nat × Byte)) :
    Out :=
  let m := out.length
  let done := fun (u : State) (sh : List (Nat × Loc × Byte)) (exc : Bool) =>
    modCopy u id k (fun x => { x with
      landed := x.landed ++ [beatId row blk], bytes := x.bytes + m, shadow := sh.foldl (fun l y => shadowPut y l) x.shadow,
      excess := x.excess || exc })
  let bytes := out.map (fun p => (p.2.1, p.2.2))
  if r.kind = 2 && !shadowRoom s g.core c.id (shadowNeed c) then .next s
  else if r.kind = 2 then
    match pieceLocs s (copyWho s g c) (bytes.map (fun p => (p.1, [p.2]))) with
    | .fault f => .fault f
    | .stall => .next s
    | .trap n _ => .next (failCopy s id k (pathCode n) ((bytes.head?.map Prod.fst).getD 0))
    | .ok sh s1 => .next (done s1 ((out.map Prod.fst).zip sh) false)
  else
    let t := teamOf s id
    let t1 := if r.kind = 0 then bytes.foldl (fun u p => spPut u g.core p.1 [p.2]) t
      else modSlot t (r.dest % 16) (fun x => { x with data := bytes.foldl (fun m p => mput m p.1 p.2) x.data })
    let (t2, exc) := countBeat t1 g.core c.barrier m
    .next (done (modTeamOf s id (fun _ => t2)) [] exc)

/-- A tensor copy visits its box up to the last element of a beat and lands the beat (R203 to R208); with `ahead` it visits the box up
to the end of row `row` and lands nothing. `va` and `ecc` are the check of one line that it reads (R265). -/
def landTensor (s : State) (id : GroupId) (k : Nat) (g : Group) (c : Copy) (r : TensorRec) (row blk : Nat) (ahead : Bool) (va : Nat)
    (ecc : Ecc) : Out :=
  let els := beatElems r row blk
  if boxRows r ≤ row || (!ahead && (els.isEmpty || c.landed.contains (beatId row blk))) then .next s
  else
    let w := copyWho s g c
    let top := if ahead then (row + 1) * (rowElems r row).length else (els.getLast?.map Prod.fst).getD 0 + 1
    let todo := (List.range (top - c.visited)).map (fun n => elemAt r (boxIdx r.dims (c.visited + n)))
    let (s1, bad) := if r.kind = 2 || ecc == .clean then (s, none)
      else beatsEcc s w ((todo.flatMap (elemBeats r)).filter (fun b => !c.got.any (fun x => x.1 == b))) va ecc
    match visitElems w (teamOf s1 id) r c.evict c.bound bad todo ⟨c.got, false, none⟩ s1 with
    | .fault f => .fault f
    | .stall => .next s
    | .trap _ _ => .next s
    | .ok v s2 =>
      let s3 := modCopy (raiseBound s2 id v.bound) id k (fun x => { x with got := v.got, visited := max c.visited top })
      match v.fail with
      | some f => .next (failCopy s3 id k f.1 f.2)
      | none => if ahead then .next s3 else landBeat s3 id k g c r row blk (beatOut r c.bound v.got blk els)

/-- A copy ended with code 1, 2 or 3 (R260, R261): SR_FAULT and class COPY. -/
def copyFault (s : State) (g : Group) (code addr : Nat) : State :=
  if code = 0 || 4 ≤ code then s
  else
    let s1 := modGroup s g.id (fun h => { h with srFault := BitVec.ofNat 64 addr })
    let rec' := { groupRec s g 0x000F 0xFF (BitVec.ofNat 64 addr) 0 with source := engineSource g.core 0 }
    severity s1 g.id.part 0x25 0 rec' [g.id]

/-- The source bytes of one lane's copy, a part of the 16-byte beat that holds them (R206, R429). -/
def laneSrcBytes (s : State) (w : Who) (t : Team) (evict : Nat) (x : LaneCopy) (n : Nat) : MR (List Byte) :=
  match laneSrc t x with
  | none => .ok (spBytes t w.core x.src n) s
  | some a => engRead s w evict n a

/-- What the lanes of a transfer read: each lane with its bytes or the code of its failure; `bad` is a line that fails its check. -/
def transferRead (w : Who) (t : Team) (evict n : Nat) (bad : Option Nat) : List LaneCopy → State → MR (List (LaneCopy × Except Nat (List Byte)))
  | [], s => .ok [] s
  | x :: r, s =>
    let one : MR (Except Nat (List Byte)) :=
      if bad.isSome && (laneSrc t x).map (· / 64) == bad then .ok (.error 3) s
      else
        match laneSrcBytes s w t evict x n with
        | .fault f => .fault f
        | .stall => .stall
        | .trap m _ => .ok (.error (pathCode m)) s
        | .ok bs s1 => .ok (.ok bs) s1
    one.bind (fun v s1 => (transferRead w t evict n bad r s1).bind (fun vs s2 => .ok ((x, v) :: vs) s2))

/-- The status word of one lane (R198, R200). -/
def laneEnds (s : State) (id : GroupId) (k : Nat) (g : Group) (c : Copy) (lane code bytes addr : Nat) : State :=
  let s1 := modGroup s id (fun h => if c.dst < 0x1F0 then vputN h c.dst lane 2 (statusWord code bytes) else h)
  let s2 := modCopy s1 id k (fun y => { y with lanesDone := y.lanesDone ++ [lane], code := max y.code code })
  copyFault s2 g code addr

/-- One transfer of an LCOPY or LCOPYO lands or fails, its lanes in a free order where they write a common byte, and its status words
are written (R200, R429). `put` stores the lanes' bytes at one point. -/
def landTransfer (s : State) (id : GroupId) (k : Nat) (g : Group) (c : Copy) (xs : List LaneCopy) (n : Nat)
    (put : State → List (Nat × List Byte) → MR Unit) : Out :=
  let w := copyWho s g c
  let t := teamOf s id
  let (s1, bad) := if s.inp.ecc == .clean then (s, none)
    else beatsEcc s w (xs.flatMap (fun x => ((laneSrc t x).map (fun a => srcBeats a n)).getD [])) s.inp.va s.inp.ecc
  match transferRead w t c.evict n bad xs s1 with
  | .fault f => .fault f
  | .stall => .next s
  | .trap _ _ => .next s
  | .ok vs s2 =>
    let good := vs.filterMap (fun v => match v.2 with
      | .ok bs => some (v.1, bs)
      | .error _ => none)
    let (order, s3) := freeOrder s2 good
    let ends := fun (u : State) (code : Nat) =>
      Host.Outcome.next (vs.foldl (fun a v =>
        match v.2 with
        | .error e => laneEnds a id k g c v.1.lane e 0 ((laneSrc t v.1).getD 0)
        | .ok _ => laneEnds a id k g c v.1.lane code (if code = 0 then n else 0) v.1.dst) u)
    if good.isEmpty then ends s3 0
    else
      match put s3 (order.map (fun x => (x.1.dst, x.2))) with
      | .fault f => .fault f
      | .stall => .next s
      | .trap m _ => ends s3 (pathCode m)
      | .ok _ s4 => ends s4 0

/-- The check of a line that a shadow will write (R199, R265): the state, and whether an uncorrectable error was met there. -/
def shadowEcc (s : State) (w : Who) (sh : List (Loc × Byte)) (at' : Nat) (ecc : Ecc) : State × Bool :=
  if ecc == .clean then (s, false)
  else
    match sh.find? (fun e => e.1.va / 64 == at' / 64) with
    | none => (s, false)
    | some e =>
      let key := readKey s w e.1
      let (s1, n) := lineCheck s w.part w.ctx key e.1.va ecc
      (s1, n != 0 && !poisoned s key 1)

/-- The transfer of a lane copy that holds a lane, once it has started and while the lane has not landed (R200). -/
def transferOf (t : Team) (c : Copy) (ls : List LaneCopy) (lane : Nat) : Option (List LaneCopy) :=
  ((transfers t ls).take c.begun).find? (fun xs => xs.any (fun x => x.lane == lane && !c.lanesDone.contains lane))

/-- COPY_BEAT_LAND (R200, R203 to R208): a beat of copy `idx` of group `g` lands. `off` and `size` name a tensor copy's box row and
destination block (with `flag` the copy only reads, up to the end of the row), `off` a lane of a lane copy's transfer; `ecc` is the
check of the line at `va` that it reads, or that a lane copy publishes to. -/
def execCopyBeatLand (s : State) : Out :=
  let id := s.inp.g
  let k := s.inp.idx
  match findGroup s id with
  | none => .next s
  | some g =>
    match g.en.copies[k]? with
    | none => .next s
    | some c =>
      if !c.started || (coreOf s g.core).testing != [] then .next s
      else
        match c.kind with
        | .tensor r =>
          if c.code != 0 then .next s else landTensor s id k g c r s.inp.off s.inp.size s.inp.flag s.inp.va s.inp.ecc
        | .lanes n sp ls =>
          match transferOf (teamOf s id) c ls s.inp.off with
          | none => .next s
          | some xs =>
            landTransfer s id k g c xs n (fun u ps =>
              if sp = 1 then .ok () (modTeamOf u id (fun t => ps.foldl (fun v p => spPut v g.core p.1 p.2) t))
              else if !shadowRoom u g.core c.id (shadowNeed c) then .stall
              else
                let w := copyWho u g c
                (pieceLocs u w ps).bind (fun sh u1 =>
                  let (u2, bad) := shadowEcc u1 w sh s.inp.va s.inp.ecc
                  if bad then .trap 0x0F 0 else publish u2 w (engineSource g.core 0) c.evict sh))
        | .slot n j ls =>
          match transferOf (teamOf s id) c ls s.inp.off with
          | none => .next s
          | some xs =>
            landTransfer s id k g c xs n (fun u ps =>
              .ok () (modTeamOf u id (fun t => modSlot t j (fun y =>
                { y with data := ps.foldl (fun m p => mputs m p.1 p.2) y.data }))))

/-- The copy leaves the group: CP falls (R197), and the translations that it kept go (R126). -/
def removeCopy (s : State) (id : GroupId) (k : Nat) : State :=
  let c? := (findGroup s id).bind (fun g => (g.en.copies[k]?).map (fun c => copyUnit g.core c.id))
  let s1 := match c? with
    | none => s
    | some u => modPart s id.part (fun p => tlbForget p u)
  modGroup s1 id (fun g => { g with en := { g.en with cp := g.en.cp - 1, copies := g.en.copies.eraseIdx k } })

/-- The slot of a copy after its end (R206): a copy that has not started leaves it. -/
def endSlot (s : State) (id : GroupId) (c : Copy) (code : Nat) : State :=
  match copySlot c with
  | none => s
  | some k =>
    if !c.started then s
    else modTeamOf s id (fun t => modSlot t k (fun x => { x with st := if code = 0 || code = 4 then .ready else .claimed }))

/-- The follow-on of a copy: sent to the Wheel, or dropped (R210). Where the Wheel is full, it stands behind the 64 commands that the
Wheel holds, and its copy has ended all the same (R224). -/
def endFollow (s : State) (g : Group) (c : Copy) (code : Nat) : State :=
  match c.follow with
  | none => s
  | some f =>
    if code = 0 || code = 4 then modCore s g.core (fun k => { k with wheelQ := k.wheelQ ++ [f] })
    else cmdDone s f true

/-- Count the beats of a copy to global memory, in the order they landed, once it has published (R191, R208). -/
def countLanded (t : Team) (core : Nat) (bar : Option Nat) (r : TensorRec) : List Nat → Team × Bool
  | [] => (t, false)
  | b :: l =>
    let (t1, e1) := countBeat t core bar (beatLen r (b / 2 ^ 58) (b % 2 ^ 58))
    let (t2, e2) := countLanded t1 core bar r l
    (t2, e1 || e2)

/-- A tensor copy ends with a code other than 4, or with 4 when it had excess bytes (R198, R260). -/
def finishTensor (s : State) (id : GroupId) (k : Nat) (g : Group) (c : Copy) (code bytes fault : Nat) : State :=
  let s1 := modGroup s id (fun h => landSreg h c.sup c.dst (BitVec.ofNat 64 (statusWord code bytes)))
  let s2 := copyFault (endSlot (removeCopy s1 id k) id c code) g code fault
  endFollow s2 g c code

/-- COPY_END (R198, R199, R206, R210): copy `idx` of group `g` ends once every beat has landed or one has failed; a shadow
publishes or is discarded. `ecc` is the check of the line at `va` if the shadow will write it (R199, R265). -/
def execCopyEnd (s : State) : Out :=
  let id := s.inp.g
  let k := s.inp.idx
  match findGroup s id with
  | none => .next s
  | some g =>
    match g.en.copies[k]? with
    | none => .next s
    | some c =>
      if !c.started || (coreOf s g.core).testing != [] then .next s
      else
        match c.kind with
        | .tensor r =>
          let w := copyWho s g c
          let sh := c.shadow.map Prod.snd
          let glob := r.kind == 2
          if c.code != 0 then .next (finishTensor s id k g c c.code (if glob then 0 else c.bytes) c.fault)
          else if c.bytes != copyTotal r then .next s
          else if !glob then .next (finishTensor s id k g c (if c.excess then 4 else 0) c.bytes 0)
          else
            let (s1, bad) := shadowEcc s w sh s.inp.va s.inp.ecc
            let here := (sh.find? (fun e => e.1.va / 64 == s.inp.va / 64)).map (fun e => e.1.va)
            if bad then .next (finishTensor s1 id k g c 3 0 (here.getD s.inp.va))
            else
              match publish s1 w (engineSource g.core 0) c.evict sh with
              | .fault f => .fault f
              | .stall => .next s
              | .trap n _ => .next (finishTensor s1 id k g c (pathCode n) 0 (pubFailVA s1 w sh))
              | .ok _ s2 =>
                let (t, exc) := countLanded (teamOf s2 id) g.core c.barrier r c.landed
                .next (finishTensor (modTeamOf s2 id (fun _ => t)) id k g c (if exc then 4 else 0) c.bytes 0)
        | .lanes _ _ ls =>
          if c.lanesDone.length < ls.length then .next s else .next (removeCopy s id k)
        | .slot _ _ ls =>
          if c.lanesDone.length < ls.length then .next s else .next (endSlot (removeCopy s id k) id c c.code)

/-- The L1 of a core after a fill of the 128-byte line at `key` (R109, R426). -/
def l1FillLine (s : State) (core key evict : Nat) : State :=
  (List.range 4).foldl (fun u k => l1Load u core (key - key % 128 + 32 * k) evict false) s

/-- Fill the L2 line that a task sees at a global address with a hint (R150), and with `lane` the L1's (R111, R426), in T0 and T1 alone
(R350): no trap, no TLB entry, no move. -/
def prefLine (s : State) (w : Who) (a evict : Nat) (demote lane : Bool) : State :=
  if (vaCheck a w.sup).isSome then s
  else
    match pageOf s w.part w.ctx a with
    | none => s
    | some p =>
      let l := locOf p.pte a p.size
      if (permFail p.pte p.level w.sup false true).isSome || bit p.pte 63 || 1 < fld p.pte 5 3 then s
      else
        let key := readKey s w l
        if demote then l2Demote s key evict
        else if (hintLevel evict).isNone then s
        else
          let s1 := l2Touch s w.part (key - key % 128) 128 l.cls evict l.t0 false
          if lane && evict != 4 then l1FillLine s1 w.core key evict else s1

/-- TPREF (R350). -/
def execTpref (sa : BitVec 6) (hint : BitVec 3) (s : State) : Out :=
  legalS (.tpref sa hint) s
    (let v := sreg s sa
     let bad := failIf (hint == 3 || hint == 6) (opFail 0 hint.toNat 8)
     match recAt s v with
     | .error f => orTrapF s (bad ++ [f]) (stallS s)
     | .ok _ =>
       withRec s v (fun bs u =>
         orTrapF u (bad ++ recFails u bs v.toNat)
           (let r := recOf bs
            let els := (List.range (boxSize r)).map (fun n => elemAt r (boxIdx r.dims n))
            let real := els.filter (fun x => x.inside || (r.pad == 1 && r.kind != 2))
            .next (advS (real.foldl (fun a x => prefLine a (me u) x.gva hint.toNat false false) u)))))

end Sys2Proof.Machine
end

