-- ==== Sys2Proof/Machine/LaneMem.lean ====
section
/-! DEFINITION. The lane classes MEM, ATOM, COPY and ACC (R418 to R430). -/
namespace Sys2Proof.Machine

/-- A lane's failed check: trap number, address, detail (R419). -/
structure LaneFail where
  lane : Nat
  num : Nat
  addr : Nat
  detail : BitVec 192
deriving DecidableEq, Repr

/-- What a lane access gives over its lanes: each lane's answer and the lanes that failed, a stall, or the model's fault. -/
inductive LR (α : Type) where
  | ok (a : List (Nat × α)) (fails : List LaneFail) (s : State)
  | stall
  | fault (f : Fault)

/-- A step of an access over its lanes, in the order of the list; a lane that fails leaves the state (R419). `addr` is the
address that a lane's trap names. -/
def overLanes {α β : Type} (f : State → β → MR α) (addr : β → Nat) : State → List (Nat × β) → LR α
  | s, [] => .ok [] [] s
  | s, (t, b) :: r =>
    match f s b with
    | .stall => .stall
    | .fault x => .fault x
    | .trap n d =>
      match overLanes f addr s r with
      | .ok as fs s1 => .ok as (⟨t, n, if n = 0x0D then granVA (addr b) else addr b, d⟩ :: fs) s1
      | x => x
    | .ok a s1 =>
      match overLanes f addr s1 r with
      | .ok as fs s2 => .ok ((t, a) :: as) fs s2
      | x => x

/-- The failure of the lowest trap number, of its lowest lane (R257, R419). -/
def worstFail (fs : List LaneFail) : Option LaneFail :=
  fs.foldl (fun acc f =>
    match acc with
    | none => some f
    | some g => if f.num < g.num || (f.num == g.num && f.lane < g.lane) then some f else some g) none

/-- The trap that lane failures give (R419): the lanes that failed with the lowest number take it. -/
def lanesTrap (s : State) (fs : List LaneFail) : Out :=
  match worstFail fs with
  | none => .next s
  | some w =>
    let m := maskOf ((fs.filter (fun f => f.num == w.num)).map LaneFail.lane)
    trapL s m w.num w.addr (if w.num = 0x03 then det [(0, m.toNat)] else w.detail)

/-- Continue a lane access when every lane passed. -/
def orLanes {α : Type} (s : State) (x : LR α) (k : List (Nat × α) → State → Out) : Out :=
  match x with
  | .stall => stallL s
  | .fault f => .fault f
  | .ok as [] s1 => k as s1
  | .ok _ fs _ => lanesTrap s fs

/-- The registers of a value of `n` bytes (R422). -/
def sizeRegs (n : Nat) : Nat := max 1 (n / 4)

/-- The bytes of a memory form's size code. -/
def mBytes (f : LaneFields) : Nat := 2 ^ mSize f

/-- A lane's address: the pair a:a+1 plus the offset (R282). -/
def laneAddr (g : Group) (f : LaneFields) (t : Nat) : Nat := wrapN 64 ((vgetN g f.a.toNat t 2 : Nat) + mOff f)

/-- The ord in force: a constant read is rlx (R107). -/
def ordOf (f : LaneFields) : BitVec 2 := if mSpace f = 2 then 0 else BitVec.ofNat 2 (mOrd f)

/-- sc stamps of the lanes of an access, and what its acquire does (R109, R184, R421). -/
def markLanes (s : State) (f : LaneFields) (ls : List (Nat × Loc)) : State :=
  acquireAt (ls.foldl (fun u l => scMark u (me u) l.2 (ordOf f)) s) (ordOf f) (mScope f)

/-- The value of a lane in a list of answers. -/
def ansOf (l : List (Nat × Nat)) (t : Nat) : Nat := ((l.find? (fun p => p.1 == t)).map Prod.snd).getD 0

/-- What an LD writes for `n` bytes read (R424). -/
def ldValue (sext : Bool) (n v : Nat) : Nat := if n ≤ 2 && sext then wrapN 32 (signed (8 * n) v) else v

/-- A lane access that has issued and performs later, with `pops` VQ entries (log 7). -/
def laneAcc (s : State) (f : LaneFields) (kind : AccKind) (ls : List LaneAcc) (pops : Nat) : Access :=
  { stream := .lane, kind := kind, ord := ordOf f, scope := BitVec.ofNat 3 (mScope f), lanes := ls, read := [], fails := [],
    evict := mEvict f, pc := s.g.ln.lpc, runPos := s.g.ln.runPos, undo := noUndo, fields := some f, back := laneBack s pops }

/-- Where some lanes have failed, a lane that passed step 4 fails step 5 on a poisoned line (R265, R419). -/
def withPoison (n : Nat) (x : LR Loc) : LR Loc :=
  match x with
  | .ok ls (f :: fs) s =>
    let meets := fun (l : Loc) (k : Nat) => poisoned s (readKey s (me s) l) k
    let hit := fun (l : Loc) => !l.scratch && !behindDrop s (me s) l.va && (match upperPart l n with
      | none => meets l n
      | some h => meets l (toSector l) || meets h (n - toSector l))
    .ok ls (f :: fs ++ (ls.filter (fun l => hit l.2)).map (fun l => ⟨l.1, 0x0F, l.2.va, 0⟩)) s
  | y => y

/-- The parts of an access of `n` bytes at address `a` of a space that lie in pages of their own, as address and size: a constant read at
CBASE + a, which need not be a multiple of its size, may go on in another page (R107). -/
def pageParts (s : State) (space n a : Nat) : List (Nat × Nat) :=
  let k := 4096 - (s.tm.kernel.cbase + a) % 4096
  if space = 2 && a % n = 0 && k < n then [(a, n), (a + k, 1)] else [(a, n)]

/-- The lanes of an access with the two parts of one lane as one location. -/
def joinParts : List (Nat × Loc) → List (Nat × Loc)
  | [] => []
  | [x] => [x]
  | x :: y :: r => if x.1 == y.1 then (x.1, { x.2 with hi := some (y.2.addr, y.2.cls, y.2.t0) }) :: joinParts r
    else x :: joinParts (y :: r)

/-- The failures of a constant read by the virtual address CBASE + c, once the address has passed steps 2 and 3 (R107, R257; log 123). -/
def constFail (s : State) (f : LaneFail) : LaneFail :=
  if f.num = 0x03 || f.detail = protPlain 6 || f.detail = protPlain 7 then f
  else { f with addr := (s.tm.kernel.cbase + f.addr) % 2 ^ 64 }

/-- The lanes of a constant access, located in parts. -/
def constLanes (s : State) (x : LR Loc) : LR Loc :=
  match x with
  | .ok ls fs u => .ok (joinParts ls) (fs.map (constFail s)) u
  | y => y

/-- Locate the lanes of an access (R419, steps 2 to 4, and step 5 of the others where one fails). -/
def locateLanes (s : State) (f : LaneFields) (m : BitVec 64) (write read : Bool) : LR Loc :=
  let n := mBytes f
  let all := overLanes (fun u (p : Nat × Nat) => locate u (me u) s.tm (mSpace f) p.1 p.2 write read) Prod.fst s
    ((lanesOf m).flatMap (fun t => (pageParts s (mSpace f) n (laneAddr s.g f t)).map (fun p => (t, p))))
  withPoison n (if mSpace f = 2 then constLanes s all else all)

/-- An access waits: its stream's earlier accesses for rel and sc, a write of a watched page for them too, or one on the same bytes
(R169, R182, R421, log 7). -/
def laneWaits (s : State) (f : LaneFields) (ls : List (Nat × Loc)) (write : Bool) : Bool :=
  (if write then writeWaits s .lane (ordOf f) (ls.map Prod.snd) else ordWaits s .lane (ordOf f))
    || overlaps s .lane (ls.map Prod.snd) (mBytes f)

/-- LD (R419 to R424). -/
def execLd (f : LaneFields) (s : State) : Out :=
  let n := mBytes f
  let k := sizeRegs n
  let r : Roles := ⟨.dst k, .reg 2, .none, .none⟩
  laneRun s (.ld f) f 576 r none (fun s1 m _ =>
    if m = 0 then .next (popFinL s1 f r)
    else
      orLanes s1 (locateLanes s1 f m false true) (fun ls s2 =>
        if 255 ≤ s.g.en.ld || laneWaits s f ls false then stallL s
        else if s.defer then
          .next (popFinL (countAcc (deferAcc s2 (laneAcc s2 f (.load n (f.sub.getLsbD 0) f.d.toNat)
            (ls.map (fun l => ⟨l.1, l.2, 0, 0⟩)) 0)) 1 0) f r)
        else
          orLanes s1 (overLanes (fun u l => loadAt u (me u) l n (mEvict f) (ordOf f == 3)) Loc.va s2 ls) (fun vs s3 =>
            .next (popFinL (writeLanes (markLanes s3 f ls) f.d k m (fun t => ldValue (f.sub.getLsbD 0) n (ansOf vs t)))
              f r))))

/-- ST (R419 to R424, R431): the lanes in a free order. -/
def execSt (f : LaneFields) (s : State) : Out :=
  let n := mBytes f
  let k := sizeRegs n
  let r : Roles := ⟨.none, .reg 2, .regZ k, .none⟩
  laneRun s (.st f) f 577 r none (fun s1 m _ =>
    if m = 0 then .next (popFinL s1 f r)
    else
      orLanes s1 (locateLanes s1 f m true false) (fun ls s2 =>
        if 255 ≤ s.g.en.st || laneWaits s f ls true then stallL s
        else
          let v := fun t => operand s2.g f.b k 0 0 t % 2 ^ (8 * n)
          let (order, s3) := freeOrder s2 ls
          orLanes s1 (overLanes (fun u (x : Loc × Nat) => storeAt u (me u) x.1 n x.2 (mEvict f)) (fun x => x.1.va) s3
              (order.map (fun l => (l.1, (l.2, v l.1))))) (fun _ s4 =>
            if s.defer then
              .next (popFinL (countAcc (deferAcc s2 (laneAcc s2 f (.store n)
                (ls.map (fun l => ⟨l.1, l.2, v l.1, 0⟩)) 0)) 0 1) f r)
            else .next (popFinL (markLanes s4 f ls) f r))))

/-- The lanes' operands of an atomic: location, y, c. -/
abbrev AtomLane := Loc × Nat × Nat

/-- Send the remote lanes of an atomic, none while a tag is busy (R18, R20). -/
def sendLanes (n op : Nat) (result : Bool) (dst : Nat) (ord : BitVec 2) (scope : BitVec 3) : State → List (Nat × AtomLane) → Option State
  | s, [] => some s
  | s, (t, l, y, c) :: r =>
    if tagBusy s s.g.core then none
    else sendLanes n op result dst ord scope (sendRemote s .lane t l n op result dst y c s.g.ln.lpc ord scope) r

/-- A lane atomic (R419 to R421, R427, R428): `op` is the code of `atomNew`, `result` whether d is written. -/
def atomL (s : State) (i : Instr) (f : LaneFields) (code op : Nat) (result hasC : Bool) : Out :=
  let n := mBytes f
  let k := sizeRegs n
  let r : Roles := ⟨if result then .dst k else .none, .reg 2, .mem k, if hasC then .mem k else .none⟩
  laneRun s i f code r none (fun s1 m vq =>
    if m = 0 then .next (popFinL s1 f r)
    else
      orLanes s1 (locateLanes s1 f m true false) (fun ls s2 =>
        if laneWaits s f ls true then stallL s
        else
          let y := fun t => operand s2.g f.b k 0 vq.2.1 t
          let c := fun t => operand s2.g f.c k 0 vq.2.2 t
          let all : List (Nat × AtomLane) := ls.map (fun l => (l.1, (l.2, y l.1, c l.1)))
          let here := all.filter (fun x => !isRemote x.2.1)
          let away := all.filter (fun x => isRemote x.2.1)
          let (order, s3) := freeOrder s2 here
          orLanes s1 (overLanes (fun u (x : AtomLane) =>
              atomicAt u (me u) x.1 n (fun old => atomNew op n old x.2.1 x.2.2) (mEvict f)) (fun x => x.1.va) s3 order)
            (fun vs s4 =>
              if s.defer && away.isEmpty then
                .next (popFinL (deferAcc s2 (laneAcc s2 f (.atomic n op result f.d.toNat)
                  (all.map (fun x => ⟨x.1, x.2.1, x.2.2.1, x.2.2.2⟩)) (vqFields f r))) f r)
              else
                match sendLanes n op result f.d.toNat (ordOf f) (BitVec.ofNat 3 (mScope f)) s4 away with
                | none => stallL s
                | some s5 =>
                  let mine := maskOf (here.map Prod.fst)
                  let s6 := if result then writeLanes s5 f.d k mine (ansOf vs) else s5
                  .next (popFinL (markLanes s6 f (here.map (fun x => (x.1, x.2.1)))) f r))))

/-- ATOM (R427, R428). -/
def execAtom (f : LaneFields) (s : State) : Out := atomL s (.atom f) f 640 f.sub.toNat true false

/-- ATOMC (R428). -/
def execAtomc (f : LaneFields) (s : State) : Out := atomL s (.atomc f) f 641 12 true true

/-- RED (R427, R428). -/
def execRed (f : LaneFields) (s : State) : Out := atomL s (.red f) f 642 f.sub.toNat false false

/-- A FREE slot is ILLEGAL_OPERAND at issue (R425, R429). -/
def slotBad (s : State) (k : Nat) : Option BadOp := if (slotOf s.tm k).st == .free then some ⟨4, k, 0⟩ else none

/-- A lane's slot offset (R425). -/
def slotOff (g : Group) (f : LaneFields) (t : Nat) : Nat := wrapN 32 ((vget g f.a.toNat t : Nat) + mOff f)

/-- The checks of a slot offset of `n` bytes (R425). -/
def slotCheck (n : Nat) (s : State) (o : Nat) : MR Nat :=
  if o % n != 0 then .trap 0x03 0 else if 16384 < o + n then .trap 0x05 (protPlain 17) else .ok o s

/-- The slot makes OST and OLD wait (R425). -/
def slotWaits (s : State) (k : Nat) : Bool := (slotOf s.tm k).st == .filling || (slotOf s.tm k).st == .inUse

/-- OST (R421, R425): its lanes perform at once, in a free order, and the slot becomes READY. -/
def execOst (f : LaneFields) (s : State) : Out :=
  let n := mBytes f
  let k := f.sub.toNat % 16
  let r : Roles := ⟨.none, .reg 1, .regZ (sizeRegs n), .none⟩
  laneRun s (.ost f) f 578 r (slotBad s k) (fun s1 m _ =>
    if m = 0 then .next (popFinL s1 f r)
    else
      orLanes s1 (overLanes (slotCheck n) id s1 ((lanesOf m).map (fun t => (t, slotOff s1.g f t)))) (fun os s2 =>
        if slotWaits s2 k || acquireDue s .lane then stallL s
        else
          let (order, s3) := freeOrder s2 os
          let data := order.foldl (fun (d : Memory) x =>
            mwrite d x.2 n (operand s3.g f.b (sizeRegs n) 0 0 x.1)) (slotOf s3.tm k).data
          .next (popFinL { s3 with tm := modSlot s3.tm k (fun _ => { st := .ready, data := data }) } f r)))

/-- OLD (R421, R425). -/
def execOld (f : LaneFields) (s : State) : Out :=
  let n := mBytes f
  let k := f.sub.toNat % 16
  let r : Roles := ⟨.dst (sizeRegs n), .reg 1, .none, .none⟩
  laneRun s (.old f) f 579 r (slotBad s k) (fun s1 m _ =>
    if m = 0 then .next (popFinL s1 f r)
    else
      orLanes s1 (overLanes (slotCheck n) id s1 ((lanesOf m).map (fun t => (t, slotOff s1.g f t)))) (fun os s2 =>
        if slotWaits s2 k || acquireDue s .lane then stallL s
        else
          let d := (slotOf s2.tm k).data
          .next (popFinL (writeLanes s2 f.d (sizeRegs n) m (fun t => mread d (ansOf os t) n)) f r)))

/-- PREF (R426): global space only, no trap after issue. -/
def execPref (f : LaneFields) (s : State) : Out :=
  let r : Roles := ⟨.none, .reg 2, .none, .none⟩
  let bad := if mSpace f != 0 then some (⟨0, mSpace f, 86⟩ : BadOp) else none
  laneRun s (.pref f) f 580 r bad (fun s1 m _ =>
    let s2 := (lanesOf m).foldl (fun u t => prefLine u (me u) (laneAddr s1.g f t) (mEvict f) (f.sub.getLsbD 0) true) s1
    .next (popFinL s2 f r))

/-- Steps 2 and 3 of R419 on one side of a lane copy (R429): alignment and reach in a space. -/
def copyReach (n space : Nat) (s : State) (a : Nat) : MR Nat :=
  if a % n != 0 then .trap 0x03 0
  else if space = 1 then
    match spLocate s.tm a n with
    | .ok _ => .ok a s
    | .error c => .trap 0x05 (protPlain c)
  else if space = 2 then if s.tm.kernel.csize < a + n then .trap 0x05 (protPlain 6) else .ok a s
  else
    match vaCheck a s.g.sup with
    | some c => .trap 0x05 (protPlain c)
    | none => .ok a s

/-- Both sides of a lane copy: each lane's lowest failing step decides (R419, R429). -/
def copyLanes (s : State) (src dst : State → Nat → MR Nat) : List (Nat × Nat × Nat) → LR (Nat × Nat)
  | [] => .ok [] [] s
  | (t, a, b) :: r =>
    match copyLanes s src dst r with
    | .ok as fs s1 =>
      match src s a, dst s b with
      | .ok _ _, .ok _ _ => .ok ((t, (a, b)) :: as) fs s1
      | .trap n d, .trap k e => .ok as ((if k < n then ⟨t, k, b, e⟩ else ⟨t, n, a, d⟩) :: fs) s1
      | .trap n d, _ => .ok as (⟨t, n, a, d⟩ :: fs) s1
      | _, .trap k e => .ok as (⟨t, k, b, e⟩ :: fs) s1
      | _, _ => .ok as fs s1
    | x => x

/-- Issue one lane copy command (R196, R197, R200, R429): it counts once in CP and follows the stream's accesses. -/
def issueLaneCopy (s : State) (i : Instr) (f : LaneFields) (code : Nat) (b : Role) (extra : Option BadOp)
    (dstOf : Group → Nat → Nat) (dst : State → Nat → MR Nat) (kind : List LaneCopy → CopyKind) : Out :=
  let r : Roles := ⟨.dst 2, .reg 2, b, .none⟩
  laneRun s i f code r extra (fun s1 m _ =>
    if m = 0 then .next (popFinL s1 f r)
    else
      orLanes s1 (copyLanes s1 (copyReach (mBytes f) (mSpace f)) dst
          ((lanesOf m).map (fun t => (t, laneAddr s1.g f t, dstOf s1.g t)))) (fun ls s2 =>
        if 255 ≤ s.g.en.cp || !quiet s .lane then stallL s
        else
          let c : Copy :=
            { id := s2.dev.copySeq, kind := kind (ls.map (fun l => ⟨l.1, l.2.1, mSpace f, l.2.2⟩)), dst := f.d.toNat, evict := mEvict f,
              sup := s2.g.sup, barrier := none, follow := none, bound := none, started := false, begun := 0, visited := 0, got := [], landed := [],
              lanesDone := [], shadow := [], excess := false, code := 0, fault := 0, bytes := 0 }
          .next (popFinL (addCopy s2 c) f r)))

/-- LCOPY (R429). -/
def execLcopy (f : LaneFields) (s : State) : Out :=
  let sp := fld f.sub.toNat 0 2
  issueLaneCopy s (.lcopy f) f 704 (.reg 2) (subBad f (1 < sp)) (fun g t => vgetN g f.b.toNat t 2)
    (copyReach (mBytes f) sp) (.lanes (mBytes f) sp)

/-- LCOPYO (R429). -/
def execLcopyo (f : LaneFields) (s : State) : Out :=
  let k := f.sub.toNat % 16
  issueLaneCopy s (.lcopyo f) f 705 (.reg 1) (slotBad s k) (fun g t => vget g f.b.toNat t) (slotCheck (mBytes f))
    (.slot (mBytes f) k)

/-- The checks of AMOVR and AMOVW on tile and offset (R430). -/
def tileMoveBad (s : State) (f : LaneFields) : Option BadOp :=
  let k := f.sub.toNat % 16
  let per := 1024 / s.g.width
  let o := f.imm.toNat
  if s.tm.kernel.legacy then some ⟨4, 0, 0⟩
  else if s.g.allot < s.g.bnd + (k + 1) * per then some ⟨1, k, 0⟩
  else if per ≤ o then some ⟨0, o, 64⟩
  else none

/-- The register that AMOVR and AMOVW name (R430). -/
def movReg (s : State) (f : LaneFields) : Nat := s.g.bnd + f.sub.toNat % 16 * (1024 / s.g.width) + f.imm.toNat

/-- AMOVR (R430): it waits for the tile's unretired commands (R232). -/
def execAmovr (f : LaneFields) (s : State) : Out :=
  let r : Roles := ⟨.dst 1, .none, .none, .none⟩
  laneRun s (.amovr f) f 768 r (tileMoveBad s f) (fun s1 m _ =>
    if m != 0 && tilesBusy s [f.sub.toNat % 16] then stallL s
    else .next (popFinL (writeLanes s1 f.d 1 m (fun t => vget s1.g (movReg s1 f) t)) f r))

/-- AMOVW (R430). -/
def execAmovw (f : LaneFields) (s : State) : Out :=
  let r : Roles := ⟨.none, .mem 1, .none, .none⟩
  laneRun s (.amovw f) f 769 r (tileMoveBad s f) (fun s1 m vq =>
    if m != 0 && tilesBusy s [f.sub.toNat % 16] then stallL s
    else
      let v := fun t => operand s1.g f.a 1 0 vq.1 t
      let g := (lanesOf m).foldl (fun g t => vput g (movReg s1 f) t (v t)) s1.g
      .next (popFinL { s1 with g := g } f r))

end Sys2Proof.Machine
end

