-- ==== Sys2Proof/Machine/Perform.lean ====
section
/-! DEFINITION. Steps of the memory system: translation walks, the performing of accesses that have issued (R181, R186, R197,
R331, R420; log 7), the entry of a handler that waited for them, shootdowns (R120), and the sc clocks (R184). -/
namespace Sys2Proof.Machine

/-- The group that the turn's inputs name comes into focus; nothing happens when it is not resident. -/
def onGroup (s : State) (k : State → Out) : Out :=
  let u := focusOn s s.inp.g
  if u.g.live && u.g.id == s.inp.g then k u else .next s

/-- HANDLER_ENTRY (R255): group `g` holds a trap and none of its accesses is outstanding. -/
def execHandlerEntry (s : State) : Out :=
  onGroup s (fun u =>
    match u.g.trapPend with
    | some t => if u.g.en.acc.isEmpty then .next (enterTrap u t) else .next u
    | none => .next u)

/-- PAGE_WALK (R117, R118): an access of group `g` at `va`, a store with `flag`, has missed the TLB; the walk fills it and
sets A and D. A walk that fails leaves the trap to the access itself (log 34), but where the line of the last entry that it reads meets
an error `ecc`, the access takes it (R13, R265): one of the lane stream with `idx` 1, else of the scalar stream. -/
def execPageWalk (s : State) : Out :=
  onGroup s (fun u =>
    let va := u.inp.va
    if (vaCheck va u.g.sup).isSome || ctlVA ≤ va || (tlbFind u.pt (me u).unit u.tk.ctx va).isSome then .next u
    else
      let (u0, bad) := match walk u u.g.id.part u.tk.ctx va with
        | .leaf l => lineCheck u u.g.id.part u.tk.ctx l.key va u.inp.ecc
        | _ => (u, 0)
      if bad != 0 then
        if canIssue u then
          let st := if u.inp.idx = 1 then Stream.lane else Stream.scalar
          .next (takeTrap u0 { num := bad, addr := va, detail := 0, lanes := u.g.ln.mask, stream := st, next := false })
        else .next u0
      else
      match walkFill u0 (me u).unit u.g.id.part u.tk.ctx va u.g.sup u.inp.flag (!u.inp.flag) with
      | .ok _ u1 => .next u1
      | .trap _ _ => .next u
      | .stall => .next u
      | .fault f => .fault f)

/-- The outstanding accesses of the group in focus with access `k` replaced. -/
def putAcc (s : State) (k : Nat) (a : Access) : State :=
  { s with g := { s.g with en := { s.g.en with acc := s.g.en.acc.set k a } } }

/-- The outstanding accesses of the group in focus without access `k`; LD or ST falls (R197). -/
def endAcc (s : State) (k : Nat) (a : Access) : State :=
  let en := s.g.en
  let (ld, st) := match a.kind with
    | .load _ _ _ => (en.ld - 1, en.st)
    | .store _ => (en.ld, en.st - 1)
    | .atomic _ _ _ _ => (en.ld, en.st)
  { s with g := { s.g with en := { en with acc := en.acc.eraseIdx k, ld := ld, st := st } } }

/-- The trap of an access's failures (R257, R419): the lowest number, its lanes, the address of the lowest of them. -/
def accTrap (fs : List (Nat × TrapInfo)) : Option TrapInfo :=
  let better := fun (x y : Nat × TrapInfo) => x.2.num < y.2.num || (x.2.num == y.2.num && x.1 < y.1)
  let worst := fs.foldl (fun (acc : Option (Nat × TrapInfo)) x =>
    match acc with
    | none => some x
    | some y => if better x y then some x else some y) none
  worst.map (fun w => { w.2 with lanes := maskOf ((fs.filter (fun f => f.2.num == w.2.num)).map Prod.fst) })

/-- A trap of an access after its issue. A trap that the same stream holds is of a later instruction and is discarded (R331); of
two streams' traps the lower number is taken (R274). -/
def lateTrap (s : State) (t : TrapInfo) : State :=
  match s.g.trapPend with
  | some o =>
    if o.stream != t.stream && o.num ≤ t.num then s else takeTrap { s with g := { s.g with trapPend := none } } t
  | none => takeTrap s t

/-- A store's stream has issued an instruction after it (log 7). -/
def movedOn (a : Access) : Bool := !waitsOut a && a.undo.count != 0

/-- The outstanding lane accesses once the last `n` DQ entries that left behind them are back. -/
def dropDQ (n : Nat) (l : List Access) : List Access :=
  l.map (fun b => if b.stream == .lane then { b with undo := { b.undo with dq := b.undo.dq.take (b.undo.dq.length - n) } } else b)

/-- The stream of the group in focus back at an access that traps, with what has issued behind it undone (R331, R420): the lane stream
has its queue entries again, and where its run has ended it stands at the start of a run that goes on there. -/
def backTo (s : State) (a : Access) : State :=
  let g := undone s.g a.undo
  match a.stream with
  | .scalar => { s with g := { g with sc := { g.sc with spc := BitVec.ofNat 64 a.pc } } }
  | .lane => { s with g := { g with
      q := { g.q with dq := a.undo.dq ++ g.q.dq, vq := a.back.vq ++ g.q.vq },
      ln := { g.ln with lpc := a.pc, runPos := a.runPos, pos := if g.ln.pos == .inRun then .inRun else .start,
                        mask := a.back.mask, stack := a.back.stack, fmt := a.back.fmt, rng := a.back.rng },
      en := { g.en with acc := dropDQ a.undo.dq.length g.en.acc } } }

/-- The loads and atomics of a stream from place `k` of the outstanding accesses on are forgotten (R331, R420). -/
def dropBehind (s : State) (st : Stream) (k : Nat) : State :=
  let gone := fun (a : Access) => a.stream == st && waitsOut a
  let tail := s.g.en.acc.drop k
  let lds := (tail.filter (fun a => gone a && (match a.kind with | .load _ _ _ => true | _ => false))).length
  { s with g := { s.g with en := { s.g.en with acc := s.g.en.acc.take k ++ dropBy gone tail, ld := s.g.en.ld - lds } } }

/-- What a finished access writes (R333, R335, R424, R428). -/
def landAcc (s : State) (a : Access) : State :=
  let m := maskOf (a.read.map Prod.fst)
  match a.stream, a.kind, a.fields with
  | .scalar, .load n sext dst, _ =>
    { s with g := putSreg s.g dst (if sext then BitVec.ofInt 64 (signed 32 (ansOf a.read 0)) else
        BitVec.ofNat 64 (ansOf a.read 0 % 2 ^ (8 * n))) }
  | .scalar, .atomic _ _ _ dst, _ => { s with g := putSreg s.g dst (BitVec.ofNat 64 (ansOf a.read 0)) }
  | .lane, .load n sext _, some f =>
    writeLanes s f.d (sizeRegs n) m (fun t => ldValue sext n (ansOf a.read t))
  | .lane, .atomic n _ result _, some f =>
    if result then writeLanes s f.d (sizeRegs n) m (ansOf a.read) else s
  | _, _, _ => s

/-- A result that access `k` has written stands in what the stream's earlier accesses undo (R331, R420). -/
def noteLand (s : State) (old : Group) (st : Stream) (k : Nat) : State :=
  let note := fun (e : Access × Nat) =>
    if e.2 < k && e.1.stream == st && waitsOut e.1 then { e.1 with undo := undoAlso e.1.undo old s.g } else e.1
  { s with g := { s.g with en := { s.g.en with acc := s.g.en.acc.zipIdx.map note } } }

/-- Access `k` after one more of its lanes has answered: it waits for the others, lands, or traps. -/
def settleAcc (s : State) (k : Nat) (a : Access) : Out :=
  if !a.lanes.isEmpty then .next (putAcc s k a)
  else
    match accTrap a.fails with
    | some t => .next (lateTrap (dropBehind (backTo (endAcc s k a) a) a.stream k) t)
    | none =>
      let u := endAcc s k a
      .next (acquireAt (noteLand (landAcc u a) u.g a.stream k) a.ord a.scope.toNat)

/-- What performing one lane of an access does. -/
def performLane (a : Access) (x : LaneAcc) (s : State) : MR Nat :=
  match a.kind with
  | .load n _ _ => loadAt s (me s) x.loc n a.evict (a.ord == 3)
  | .store n => (storeAt s (me s) x.loc n x.y a.evict).bind (fun _ u => .ok 0 u)
  | .atomic n op _ _ => atomicAt s (me s) x.loc n (fun v => atomNew op n v x.y x.c) a.evict

/-- Perform a lane that its home slice has accepted (R331): an error that its line meets since then no longer stops it, and the line stays
poisoned (log 7). -/
def performAccepted (a : Access) (x : LaneAcc) (s : State) : MR Nat :=
  let key := readKey s (me s) x.loc
  let here := fun (l : Nat) => l * 64 < key + 16 && key < l * 64 + 64
  let bad := s.dev.poison.filter here
  let u := { s with dev := { s.dev with poison := dropBy here s.dev.poison } }
  (performLane a { x with loc := { x.loc with revcap := true } } u).bind (fun v t =>
    .ok v { t with dev := { t.dev with poison := t.dev.poison ++ bad } })

/-- One lane of access `k` answers (R419): `line` is the state after its line was read and the trap number that its consumer
meets, `perform` the access. No lane of a store or atomic performs once one has failed, and none fails once one has performed or its
stream has moved on: it performs as accepted, or waits for pool frames (log 7). -/
def answerLane (s : State) (k : Nat) (a : Access) (x : LaneAcc) (line : State × Nat) (perform : State → MR Nat) : Out :=
  let isLoad := match a.kind with
    | .load _ _ _ => true
    | _ => false
  let mayFail := isLoad || (a.read.isEmpty && !movedOn a)
  let rest := a.lanes.filter (fun y => y.lane != x.lane)
  let failed := fun (u : State) (n : Nat) (d : BitVec 192) =>
    let addr := if n = 0x0D then granVA x.loc.va else x.loc.va
    let t : TrapInfo := { num := n, addr := addr, detail := d, lanes := 0, stream := a.stream, next := false }
    if u.g.killed || (!mayFail && n = 0x0D) then Host.Outcome.next u
    else if !mayFail then
      match performAccepted a x u with
      | .ok v w => settleAcc (scMark w (me w) x.loc a.ord) k { a with lanes := rest, read := a.read ++ [(x.lane, v)] }
      | .fault f => .fault f
      | _ => .next u
    else settleAcc u k { a with lanes := rest, fails := a.fails ++ [(x.lane, t)] }
  if line.2 != 0 then failed line.1 line.2 0
  else if !isLoad && !a.fails.isEmpty then settleAcc line.1 k { a with lanes := rest }
  else
    match perform line.1 with
    | .trap n d => failed line.1 n d
    | .stall => .next line.1
    | .fault f => .fault f
    | .ok v u =>
      let loc := fun (w : State) => scMark w (me w) x.loc a.ord
      settleAcc (loc u) k { a with lanes := rest, read := a.read ++ [(x.lane, v)] }

/-- The bytes of an access. -/
def kindBytes : AccKind → Nat
  | .load n _ _ => n
  | .store n => n
  | .atomic n _ _ _ => n

/-- The line that a lane's access of `n` bytes reads (R265), the second of two where `flag` is set: `ecc` is the outcome of its checks. An
access behind a drop reads nothing yet (R137). -/
def laneLine (s : State) (x : LaneAcc) (n : Nat) : State × Nat :=
  let line := fun (l : Loc) => lineCheck s s.g.id.part s.tk.ctx (readKey s (me s) l) l.va s.inp.ecc
  if x.loc.scratch || behindDrop s (me s) x.loc.va then (s, 0)
  else
    match upperPart x.loc n with
    | some h => if s.inp.flag then line h else line x.loc
    | none => line x.loc

/-- Lane `off` of outstanding access `idx` of group `g`, of the kind `sel`, performs. -/
def performStep (s : State) (sel : AccKind → Bool) : Out :=
  onGroup s (fun u =>
    match u.g.en.acc[u.inp.idx]? with
    | none => .next u
    | some a =>
      match a.lanes.find? (fun x => x.lane == u.inp.off) with
      | none => .next u
      | some x => if sel a.kind then answerLane u u.inp.idx a x (laneLine u x (kindBytes a.kind)) (performLane a x) else .next u)

/-- LOAD_DATA_RETURN (R197, R265, R331, R333, R420, R424). -/
def execLoadDataReturn (s : State) : Out :=
  performStep s (fun k => match k with | .load _ _ _ => true | _ => false)

/-- STORE_PERFORM (R164, R181, R197, R265, R331, R420). -/
def execStorePerform (s : State) : Out :=
  performStep s (fun k => match k with | .store _ => true | _ => false)

/-- ATOMIC_PERFORM (R186, R265, R331, R335, R420, R428). -/
def execAtomicPerform (s : State) : Out :=
  performStep s (fun k => match k with | .atomic _ _ _ _ => true | _ => false)

/-- SECOND_TIER_TIMEOUT (R13): lane `off` of access `idx` of group `g` fails on CXL port `port` (0 to 3); it meets poison, and
MEDIA and LINK are raised under the port's source. An access of another agent to the second tier meets the failure as the outcome of its
line (log 35). -/
def execSecondTierTimeout (s : State) : Out :=
  onGroup s (fun u =>
    match u.g.en.acc[u.inp.idx]? with
    | none => .next u
    | some a =>
      match a.lanes.find? (fun x => x.lane == u.inp.off) with
      | none => .next u
      | some x =>
        let key := readKey u (me u) x.loc
        if x.loc.scratch || key < spaceSize || 2 * spaceSize ≤ key || 4 ≤ u.inp.port then .next u
        else
          let line := lineCheck u u.g.id.part u.tk.ctx key x.loc.va (.linkFail u.inp.port)
          answerLane line.1 u.inp.idx a x line (performLane a x))

/-- A range of 2^log2 bytes around an address overlaps [a, a + n). -/
def inRange (va log2 a n : Nat) : Bool :=
  let lo := va - va % 2 ^ log2
  lo < a + n && a < lo + 2 ^ log2

/-- A shootdown record of the ring (R120). -/
def shootOf (s : State) (part idx : Nat) : Shoot :=
  let o := 32 * (idx % 64)
  let va := ctlRead s part o 8
  let log2 := ctlRead s part (o + 8) 1
  { ctx := ctlRead s part (o + 12) 4, va := va, log2 := log2, compl := ctlRead s part (o + 16) 8, fromRing := true,
    ranges := [(va - va % 2 ^ log2, 2 ^ log2)] }

/-- A partition whose TLBs and walk cache have lost the range of a shootdown, and the shootdown with the pages that they held (R120). -/
def takeShoot (p : Partition) (r : Shoot) : Partition :=
  let hit := fun (t : TlbEntry) => t.ctx == r.ctx && inRange r.va r.log2 t.va t.size
  let pages := (p.tlb.filter (fun t => hit t && t.unit ≤ partUnit)).map (fun t => (t.va, t.size))
  { tlbDrop p hit with
    walks := p.walks.filter (fun w => !(w.ctx == r.ctx && inRange r.va r.log2 w.va w.size)),
    shoots := p.shoots ++ [{ r with ranges := r.ranges ++ pages }] }

/-- Take up to `n` records from tail count `t` on: their ranges leave the TLBs (R120). -/
def takeShoots (s : State) (part : Nat) : Nat → Nat → State
  | 0, _ => s
  | n + 1, t =>
    let r := shootOf s part t
    takeShoots (modPart s part (fun p => { takeShoot p r with shootTail := BitVec.ofNat 32 (t + 1) })) part n (t + 1)

/-- SHOOTDOWN_TAIL_EVENT (R120): the tail of partition `part` has changed; at most the ring's 64 records at a time. -/
def execShootdownTailEvent (s : State) : Out :=
  match findPart s s.inp.part with
  | none => .next s
  | some p =>
    let n := (BitVec.ofNat 32 (ctlRead s s.inp.part 0x0800 4) - p.shootTail).toNat
    .next (takeShoots s s.inp.part (min n 64) p.shootTail.toNat)

/-- A page of `size` bytes lies in one of the ranges of a shootdown. -/
def shootHits (r : Shoot) (va size : Nat) : Bool := r.ranges.any (fun x => va < x.1 + x.2 && x.1 < va + size)

/-- Something still uses a translation that a shootdown invalidated (R120): an access or a remote atomic that has not performed, a shadow
or a translation that a copy keeps (R126, R199), a granule that a join holds (R153). -/
def shootBusy (s : State) (part : Nat) (r : Shoot) : Bool :=
  let ctxOf := fun (id : GroupId) => ((findTask s id.part id.task).map Task.ctx).getD 0
  (allGroups s).any (fun g =>
    g.id.part == part && ctxOf g.id == r.ctx
      && (g.en.acc.any (fun a => a.lanes.any (fun x => !x.loc.scratch && shootHits r x.loc.va 1))
        || g.en.copies.any (fun c => c.shadow.any (fun e => shootHits r e.2.1.va 1))))
  || s.dev.remote.any (fun q => q.group.part == part && !q.failed && ctxOf q.group == r.ctx && shootHits r q.va 1)
  || ((findPart s part).map (fun p =>
      p.tlb.any (fun t => partUnit < t.unit && t.ctx == r.ctx && shootHits r t.va t.size)
      || p.revs.any (fun v => v.state == 3 && v.ctx == r.ctx && v.grans.any (fun g => g.home.isSome && shootHits r g.va 4096)))).getD false

/-- SHOOTDOWN_COMPLETE (R120): the oldest shootdown of partition `part`; a completion word that cannot be written is
skipped. -/
def execShootdownComplete (s : State) : Out :=
  match findPart s s.inp.part with
  | none => .next s
  | some p =>
    match p.shoots with
    | [] => .next s
    | r :: rest =>
      if shootBusy s p.num r then .next s
      else
        let s1 := if r.compl % 8 = 0 then (supWrite s p.num r.compl (natBytes 8 1)).getD s else s
        let head := p.shootHead + 1
        let s2 := modPart s1 p.num (fun q => { q with shoots := rest, shootHead := head })
        .next (ctlWrite s2 p.num 0x0804 4 head.toNat)

/-- A core's clock after the slices of its die have raised it (R184). -/
def raisedClock (sliceM : Sparse (BitVec 48)) (core : Nat) (l : BitVec 48) : BitVec 48 :=
  let die := if core < 108 then 0 else 1
  sliceM.foldl (fun x e =>
    let lag := (e.2 - x).toNat
    if e.1 / 64 == die && 2 ^ 40 < lag && lag < 2 ^ 47 then e.2 else x) l

/-- SC_CLOCK_RAISE (R184): once each millisecond, every core that lags a slice of its die by more than 2^40. -/
def execScClockRaise (s : State) : Out :=
  .next ((List.range 216).foldl (fun u n =>
    let l := (coreOf u n).clock
    let m := raisedClock u.dev.sliceM n l
    if m = l then u else modCore u n (fun c => { c with clock := m })) s)

end Sys2Proof.Machine
end

