-- ==== Sys2Proof/Machine/Remote.lean ====
section
/-! DEFINITION. The links of the package: fabric ports and requests (R16 to R20, R118), RDMA (R21, R157), links that fail
(R262). -/
namespace Sys2Proof.Machine

/-- Post a record to the management event ring, which belongs to the outside world (R16, R25; log 36). -/
def postMgmt (s : State) (type source : Nat) : State :=
  let e := { noneRec type source 0 0 0 with gtc := s.dev.gtc, action := 1 }
  { s with dev := { s.dev with mgmtOut := s.dev.mgmtOut ++ [e] } }

/-- Raise class LINK in every partition that `f` picks (R262, R264). -/
def raiseLink (s : State) (source : Nat) (f : Partition → Bool) : State :=
  (((allParts s).filter f).map Partition.num).foldl (fun u n => severityUnit u n 0x26 source 0 0 []) s

/-- A fabric port after device reset (R16). -/
def noPort : Port := { up := true, retries := 0 }

/-- FABRIC_FLIT_CRC_RETRY (R16): the link retries a flit on port `port`; with `flag` the retry fails. -/
def execFabricFlitCrcRetry (s : State) : Out :=
  let k := s.inp.port
  let p := sget noPort s.dev.ports k
  if 12 ≤ k || !p.up then .next s
  else
    let q := { p with retries := if s.inp.flag then p.retries + 1 else 0 }
    .next { s with dev := { s.dev with ports := sput noPort s.dev.ports k q } }

/-- FABRIC_PORT_DOWN (R16, R262): port `port` has failed 64 retries in a row. -/
def execFabricPortDown (s : State) : Out :=
  let k := s.inp.port
  let p := sget noPort s.dev.ports k
  if 12 ≤ k || !p.up || p.retries < 64 then .next s
  else
    let s1 := { s with dev := { s.dev with ports := sput noPort s.dev.ports k { p with up := false } } }
    .next (raiseLink (postMgmt s1 0x0010 (0x3002 + k)) (0x3002 + k) (fun _ => true))

/-- LINK_DOWN (R24, R262): the PCI Express, Ethernet or bridge link of source index `port` goes down; a PCI Express link
concerns the partitions reached through it (log 36). -/
def execLinkDown (s : State) : Out :=
  let k := s.inp.port
  if !(k ≤ 1 || (14 ≤ k && k ≤ 22)) || s.dev.linksDown.contains k then .next s
  else
    let s1 := { s with dev := { s.dev with linksDown := s.dev.linksDown ++ [k] } }
    .next (raiseLink s1 (0x3000 + k) (fun p => 2 ≤ k || p.link == k))

/-- FABRIC_GRANT_TABLE_SET (R118): the table of partition `part` becomes `pairs`, of node and requesting partition. -/
def execFabricGrantTableSet (s : State) : Out :=
  .next (modPart s s.inp.part (fun p => { p with grants := s.inp.pairs }))

/-- The location of a device-physical address of this package that a fabric access names (R116): it has no address in any
context, so it is compared against the watches by its frame (log 13). -/
def fabricLoc (addr : Nat) : Loc :=
  { scratch := false, partner := false, addr := physKey 0 addr, va := 2 ^ 62 + addr % 2 ^ 52, watched := true, revcap := true,
    cls := 0, t0 := false }

/-- The page of a physical key is being moved to another tier (R123). -/
def physTransit (s : State) (part key : Nat) : Bool :=
  ((findPart s part).map (fun p => p.moves.any (fun m =>
    match pageOf s part m.ctx m.va with
    | none => false
    | some l =>
      let k := leafKey l.pte m.va l.size
      decide (k ≤ key) && decide (key < k + m.size)))).getD false

/-- The grant table of the target partition admits a node and its partition (R118). -/
def admits (s : State) (part node reqPart : Nat) : Bool :=
  ((findPart s part).map (fun p => p.grants.contains (node, reqPart))).getD false

/-- Record an answer to a remote package, with the stamp that its slice gave an sc access (R184). -/
def respondAt (s : State) (r : Resp) (stamp : Option (BitVec 48)) : State :=
  { s with dev := { s.dev with respOut := s.dev.respOut ++ [(r, stamp)] } }

/-- Record an answer to a remote package. -/
def respond (s : State) (r : Resp) : State := respondAt s r none

/-- What serving a request from another package gives: done, waiting, or the model's fault. -/
inductive Served where
  | done (s : State)
  | wait
  | fault (f : Fault)

/-- A request that ended in a trap number: POISON, or PROTECTION for the rest (R118, R265). -/
def refuse (s : State) (num node addr : Nat) : State :=
  respond s (if num = 0x0F || num = 0x10 then .poison node addr else .refused node addr)

/-- The stamp that the home slice gives an sc access of another package, whose clock stands one below `ts` (R184). -/
def scTarget (s : State) (key : Nat) (ts : Option (BitVec 48)) : State × Option (BitVec 48) :=
  match ts with
  | none => (s, none)
  | some t =>
    let h := homeOf (key / 128)
    let st := serialMax t (sget 0 s.dev.sliceM h + 1)
    ({ s with dev := { s.dev with sliceM := sput 0 s.dev.sliceM h st } }, some st)

/-- The lines of [key, key + n) in the L2 after a read of them for another package (R110, R111). -/
def l2TouchAll (s : State) (part key n : Nat) : State :=
  (List.range ((key + n + 127) / 128 - key / 128)).foldl (fun u k =>
    let a := max key (128 * (key / 128 + k))
    l2Touch u part a (min (key + n) (128 * (key / 128 + k) + 128) - a) 0 0 false false) s

/-- Serve a load, store or publish of another package (R13, R17, R118, R157, R184, R265): `source` is the port's source number. -/
def serveFabric (s : State) (r : FabricReq) (source : Nat) (ecc : Ecc) : Served :=
  let key := physKey 0 r.addr
  let n := if r.data.isEmpty then r.size else r.data.length
  let w := outside r.part source
  if !admits s r.part r.node r.reqPart then .done (refuse s 0x05 r.node r.addr)
  else if 2 ^ 49 < r.addr + n || !physOk s.dev.t2Bytes (key + n - 1) then .fault (.noSuchFrame (key + n - 1))
  else if r.data.isEmpty then
    let (s1, bad) := lineCheck s r.part 0 key r.addr ecc
    if bad != 0 then .done (refuse s1 bad r.node r.addr)
    else
      let (s2, st) := scTarget (l2TouchAll s1 r.part key n) key r.ts
      .done (respondAt s2 (.data r.node r.addr (mbytes s2.mem key n)) st)
  else if physTransit s r.part key then .wait
  else
    let (s0, bad) := lineCheck s r.part 0 key r.addr ecc
    let stored : MR Unit :=
      if r.publish then
        publish s0 w source 0 ((List.range n).zip r.data |>.map (fun x => (fabricLoc (r.addr + x.1), x.2)))
      else if bad != 0 then .trap bad 0
      else storeAt s0 w (fabricLoc r.addr) n (bytesNat r.data) 0
    match stored with
    | .ok _ s1 =>
      let (s2, st) := scTarget s1 key r.ts
      .done (respondAt s2 (.done r.node r.addr) st)
    | .trap num _ => .done (refuse s0 num r.node r.addr)
    | .stall => .wait
    | .fault f => .fault f

/-- Serve an atomic of another package (R18, R19, R118, R184): the target answers from its entry, or performs and records; with 65,536
entries younger than 20 ms it answers BUSY. DESIGN CHOICE: the grant is checked first, so that a replay is refused once it has been
withdrawn (log 122). -/
def serveAtomic (s : State) (r : RemoteAtomic) (source : Nat) (ecc : Ecc) : Served :=
  let now := s.dev.gtc.toNat
  let live := s.dev.replay.filter (fun e => now + e.aged < e.gtc + 20000000)
  let key := physKey 0 r.addr
  if !admits s r.part r.node r.reqPart then .done (refuse s 0x05 r.node r.addr)
  else
    match live.find? (fun e => e.node == r.node && e.core == r.core && e.tag == r.tag) with
    | some e => .done (respondAt s (.atomic r.node r.core r.tag e.result true) e.stamp)
    | none =>
      if 65536 ≤ live.length then .done (respond s (.busy r.node r.core r.tag))
      else if !physOk s.dev.t2Bytes (key + r.size - 1) then .fault (.noSuchFrame key)
      else if r.addr % r.size != 0 || physTransit s r.part key then .wait
      else
        let (s1, bad) := lineCheck s r.part 0 key r.addr ecc
        let w := outside r.part source
        if bad != 0 then .done (refuse s1 bad r.node r.addr)
        else
          match atomicAt s1 w (fabricLoc r.addr) r.size
              (fun x => atomNew r.op r.size x (r.y.toNat % 2 ^ (8 * r.size)) (r.c.toNat % 2 ^ (8 * r.size))) 0 with
          | .ok x s2 =>
            let (s3, st) := scTarget s2 key r.ts
            let e : Replay := { part := r.part, node := r.node, core := r.core, tag := r.tag, result := BitVec.ofNat 64 x, stamp := st, gtc := now, aged := 0 }
            .done (respondAt { s3 with dev := { s3.dev with replay := live ++ [e] } }
              (.atomic r.node r.core r.tag (BitVec.ofNat 64 x) false) st)
          | .trap num _ => .done (refuse s1 num r.node r.addr)
          | .stall => .wait
          | .fault f => .fault f

/-- Serve a request of another package. -/
def serveMsg (s : State) (m : FabricMsg) (source : Nat) (ecc : Ecc) : Served :=
  match m with
  | .access r => serveFabric s r source ecc
  | .atomic r => serveAtomic s r source ecc

/-- Two requests of one core of another package to one line, which perform in issue order (R17). -/
def sameLine (a b : FabricMsg) : Bool :=
  let key := fun (m : FabricMsg) =>
    match m with
    | .access r => (r.node, r.core, r.addr / 128)
    | .atomic r => (r.node, r.core, r.addr / 128)
  key a == key b

/-- A request arrives on a fabric port (R16, R17): it waits behind an earlier one of its core on its line, and where it cannot be served
yet. A port that is down brings nothing, and a device in recovery mode answers only through the mailbox (R43). -/
def arrive (s : State) (m : FabricMsg) : Out :=
  let queue := Host.Outcome.next { s with dev := { s.dev with fabricQ := s.dev.fabricQ ++ [(m, s.dev.gtc.toNat)] } }
  if 12 ≤ s.inp.port || !(sget noPort s.dev.ports s.inp.port).up || s.dev.recovery then .next s
  else if s.dev.fabricQ.any (fun e => sameLine e.1 m) then queue
  else
    match serveMsg s m (0x3002 + s.inp.port) s.inp.ecc with
    | .done u => .next u
    | .wait => queue
    | .fault f => .fault f

/-- FABRIC_REQUEST_ARRIVAL (R16, R17, R118): the request `fabric` arrives on port `port`, or with `flag` the waiting request `idx` is
tried again, unless it is older than 1 ms by now. -/
def execFabricRequestArrival (s : State) : Out :=
  if s.inp.flag then
    match s.dev.fabricQ[s.inp.idx]? with
    | none => .next s
    | some e =>
      if s.dev.recovery then .next s
      else if e.2 + 1000000 < s.dev.gtc.toNat then .next { s with dev := { s.dev with fabricQ := s.dev.fabricQ.eraseIdx s.inp.idx } }
      else if (s.dev.fabricQ.take s.inp.idx).any (fun x => sameLine x.1 e.1) then .next s
      else
        match serveMsg s e.1 (0x3002 + s.inp.port % 12) s.inp.ecc with
        | .done u => .next { u with dev := { u.dev with fabricQ := u.dev.fabricQ.eraseIdx s.inp.idx } }
        | .wait => .next s
        | .fault f => .fault f
  else arrive s (.access s.inp.fabric)

/-- FABRIC_REQUEST_DISCARD (R16): request `idx` that waits here, or with `flag` one of this package's own that has not left its
hop, is older than 1 ms. -/
def execFabricRequestDiscard (s : State) : Out :=
  let old := fun (t : Nat) => t + 1000000 < s.dev.gtc.toNat
  if s.inp.flag then
    match s.dev.fabricOut[s.inp.idx]? with
    | none => .next s
    | some r =>
      if old r.sent then .next { s with dev := { s.dev with fabricOut := s.dev.fabricOut.eraseIdx s.inp.idx } } else .next s
  else
    match s.dev.fabricQ[s.inp.idx]? with
    | none => .next s
    | some e =>
      if old e.2 then .next { s with dev := { s.dev with fabricQ := s.dev.fabricQ.eraseIdx s.inp.idx } } else .next s

/-- REMOTE_ATOMIC_REQUEST (R18, R19, R118): the atomic `remote` arrives on port `port`. -/
def execRemoteAtomicRequest (s : State) : Out := arrive s (.atomic s.inp.remote)

/-- The register that a remote atomic's result goes to (R18, R20). -/
def landRemote (g : Group) (r : RemoteReq) (v : Word) : Group :=
  match r.stream with
  | .scalar => landSreg g r.sup r.dst v
  | .lane =>
    if r.result && r.dst < 0x1F0 then vputN g r.dst r.lane (sizeRegs r.size) (v.toNat % 2 ^ (8 * r.size)) else g

/-- The remote word once the target has performed an atomic that read `v` there (R186): its value before, then after. -/
def remoteEffect (s : State) (r : RemoteReq) (v : Word) : State :=
  let key := physKey (4 + r.node) r.addr
  let old := v.toNat % 2 ^ (8 * r.size)
  let m := mwrite s.mem key r.size old
  match atomNew r.op r.size old (r.y.toNat % 2 ^ (8 * r.size)) (r.c.toNat % 2 ^ (8 * r.size)) with
  | none => { s with mem := m }
  | some x => l1Store { s with mem := mwrite m key r.size x } m none key r.size x

/-- A remote atomic has returned to its core (R109, R178, R184): the L1 keeps no copy of its word, an acquire invalidates the L1, and the
clock of an sc atomic follows the stamp that came with the answer. -/
def remoteReturn (s : State) (r : RemoteReq) (stamp : Word) : State :=
  let s1 := l1Miss s r.core (physKey (4 + r.node) r.addr)
  let s2 := if (r.ord == 1 || r.ord == 3) && l1Scope (teamOf s r.group) r.scope.toNat then l1Inval s1 r.core else s1
  if r.ts.isNone then s2
  else modCore s2 r.core (fun c => { c with clock := serialMax c.clock (stamp.setWidth 48) })

/-- REMOTE_ATOMIC_RESPONSE (R17, R19, R20): on fabric port `port` the first response for tag `idx` of core `core` brings `word` and, for
an sc atomic, the stamp `word2`; a later one is discarded. With `flag` the answer is BUSY, and the same tag goes out again in a new
flit (log 113); the 10 ms of R20 go on from the issue or the last replay. -/
def execRemoteAtomicResponse (s : State) : Out :=
  if 12 ≤ s.inp.port || !(sget noPort s.dev.ports s.inp.port).up then .next s
  else
  match s.dev.remote.find? (fun r => r.core == s.inp.core && r.tag == s.inp.idx) with
  | none => .next s
  | some r =>
    if s.inp.flag then
      .next (if r.performed.isSome then s
        else putRequest s { r with sent := s.dev.gtc.toNat, port := portFor s r.node r.addr })
    else
      let s1 := { s with dev := { s.dev with remote := dropBy (sameReq r) s.dev.remote } }
      let s2 := match r.performed with
        | some _ => s1
        | none => remoteEffect s1 r s.inp.word
      .next (modGroup (remoteReturn s2 r s.inp.word2) r.group (fun g =>
        if g.killed then g else landRemote g r (r.performed.getD s.inp.word)))

/-- REMOTE_INDETERMINATE (R20, R257): no response for tag `idx` of group `g` 10 ms after its latest send. With `flag` the target has
performed the atomic, reading `word`, and only the response was lost. -/
def execRemoteIndeterminate (s : State) : Out :=
  onGroup s (fun u =>
    match u.dev.remote.find? (fun r => r.group == u.g.id && r.tag == u.inp.idx) with
    | none => .next u
    | some r =>
      if r.failed || u.g.killed || u.g.trapPend.isSome || u.dev.gtc.toNat < r.sent + 10000000 then .next u
      else
        let lost := u.inp.flag && r.performed.isNone && r.port.isSome
        let r1 := { r with failed := true, performed := if lost then some u.inp.word else r.performed }
        let u1 := { u with dev := { u.dev with remote := modBy (sameReq r) (fun _ => r1) u.dev.remote } }
        .next (takeIndet (if lost then remoteEffect u1 r u.inp.word else u1) r r.stream 0))

/-- The queue pair `idx` serves partition `part` (R21): below 65,536, and assigned to it, or to none yet. Only a reliable connection
carries the verbs other than Send (log 114). -/
def pairOk (s : State) (send : Bool) : Bool :=
  s.inp.idx < 65536 && (match sget none s.dev.pairs s.inp.idx with
    | none => true
    | some q => q.part == s.inp.part && (send || q.reliable))

/-- The queue pair is assigned to the partition from its first use on (R21, log 114). -/
def takePair (s : State) (reliable : Bool) : State :=
  match sget none s.dev.pairs s.inp.idx with
  | some _ => s
  | none => { s with dev := { s.dev with pairs := sput none s.dev.pairs s.inp.idx (some ⟨s.inp.part, reliable⟩) } }

/-- The location of `n` bytes at an RDMA address, in the supervisor context (log 38). -/
def rdmaLoc (s : State) (w : Who) (va n : Nat) (write read : Bool) : MR Loc := locate s w noTeam 0 va n write read

/-- Deliver bytes to the requester of an RDMA operation on a port and queue pair. -/
def rdmaReply (s : State) (bs : List Byte) : State :=
  { s with dev := { s.dev with rdmaOut := s.dev.rdmaOut ++ [(s.inp.port, s.inp.idx, bs)] } }

/-- The message that an Ethernet port has open (R157) ends, or goes on at an address. -/
def rdmaNext (s : State) (next : Option (Nat × Nat)) : State :=
  { s with dev := { s.dev with rdmaOpen := sput none s.dev.rdmaOpen (s.inp.port % 8) next } }

/-- The line at an RDMA address meets `ecc` (R13, R265): the state, and whether the data is delivered. -/
def rdmaLine (s : State) (w : Who) (va : Nat) : State × Bool :=
  match rdmaLoc s w va 1 false true with
  | .ok l s1 =>
    let (s2, bad) := lineCheck s1 s.inp.part 0 l.addr va s.inp.ecc
    (s2, bad == 0)
  | _ => (s, true)

/-- RDMA_WRITE (R21, R154, R157): one part of a write message, `data` at `va` of partition `part`, arrives on Ethernet port
`port` for queue pair `idx` and publishes at one point; with `flag` it is the last part, and the message is reported complete. A
part before the last holds 16 MiB, and the next one follows it in address order; the port's area serves messages in their order of
arrival. A part that fails ends its message (log 38). -/
def execRdmaWrite (s : State) : Out :=
  let source := 0x300E + s.inp.port % 8
  let w := outside s.inp.part source
  let n := s.inp.data.length
  let turn := match sget none s.dev.rdmaOpen (s.inp.port % 8) with
    | none => true
    | some (pair, va) => pair == s.inp.idx && va == s.inp.va
  if 2 ^ 24 < n || (!s.inp.flag && n != 2 ^ 24) || !turn || !pairOk s false || (findPart s s.inp.part).isNone then .next s
  else
    let s0 := takePair s true
    let failed := Host.Outcome.next (rdmaNext s0 none)
    let (u, good) := rdmaLine s0 w s.inp.va
    if !good then .next (rdmaNext u none)
    else
    match engLocs u w s.inp.data s.inp.va with
    | .trap _ _ => failed
    | .stall => .next s
    | .fault f => .fault f
    | .ok sh s1 =>
      match publish s1 w source 0 sh with
      | .ok _ s2 => .next (if s.inp.flag then rdmaReply (rdmaNext s2 none) [] else rdmaNext s2 (some (s.inp.idx, s.inp.va + n)))
      | .trap _ _ => failed
      | .stall => .next s
      | .fault f => .fault f

/-- RDMA_READ (R21): `size` bytes at `va` of partition `part` go to queue pair `idx` of port `port`. -/
def execRdmaRead (s : State) : Out :=
  let w := outside s.inp.part (0x300E + s.inp.port % 8)
  if !pairOk s false || (findPart s s.inp.part).isNone then .next s
  else
    let (s0, good) := rdmaLine (takePair s true) w s.inp.va
    if !good then .next s0
    else
      match engRead s0 w 0 s.inp.size s.inp.va with
      | .ok bs s1 => .next (rdmaReply s1 bs)
      | .trap _ _ => .next s0
      | .stall => .next s
      | .fault f => .fault f

/-- RDMA_ATOMIC (R21): fetch-and-add of `word`, or with `flag` compare with `word2` and swap, of 8 bytes. -/
def execRdmaAtomic (s : State) : Out :=
  let w := outside s.inp.part (0x300E + s.inp.port % 8)
  if !pairOk s false || (findPart s s.inp.part).isNone then .next s
  else
    let (s0, good) := rdmaLine (takePair s true) w s.inp.va
    if !good then .next s0
    else
      match (rdmaLoc s0 w s.inp.va 8 true false).bind (fun l s1 =>
          atomicAt s1 w l 8 (fun x => atomNew (if s.inp.flag then 12 else 0) 8 x s.inp.word.toNat s.inp.word2.toNat) 0) with
      | .ok x s1 => .next (rdmaReply s1 (natBytes 8 x))
      | .trap _ _ => .next s0
      | .stall => .next s
      | .fault f => .fault f

/-- RDMA_SEND (R21, R43): a message of `data` is delivered to queue pair `idx` of port `port`, over a reliable connection, or with `flag` as an
unreliable datagram. -/
def execRdmaSend (s : State) : Out :=
  if s.dev.recovery || !pairOk s true then .next s
  else
    let s0 := takePair s (!s.inp.flag)
    .next { s0 with dev := { s0.dev with rdmaIn := s0.dev.rdmaIn ++ [(s.inp.port, s.inp.idx, s.inp.data)] } }

end Sys2Proof.Machine
end

