-- ==== Sys2Proof/Machine/Monitor.lean ====
section
/-! DEFINITION. Device reset and the Global Time Counter (R22, R43, R44), the sensors and the hot and droopy states (R25, R26,
R57), errors in core structures (R262, R269). -/
namespace Sys2Proof.Machine

/-- What lies outside the package or with the host keeps its bytes at device reset: host memory and remote nodes (log 13). -/
def outsideMem (m : Memory) : Memory := m.filter (fun c => 2 * spaceSize ≤ c.1 && !(3 * spaceSize ≤ c.1 && c.1 < 4 * spaceSize))

/-- The capacities that device reset finds behind the four CXL ports (R12): at most 4096 GiB each; an empty list stands for no change. -/
def portsFound (old found : List Nat) : List Nat :=
  if found.isEmpty then old else (List.range 4).map (fun k => min ((found[k]?).getD 0) (4096 * 2 ^ 30))

/-- DEVICE_RESET (R7, R12, R22, R26, R43, R44, R81, R184, R270): the machine right after reset, with retired twins, the fused minimum
version and the reserved signature blocks in non-volatile storage, the second tier as `nats` finds it, which queue pairs are whose, and what the outside world has received. With `flag` the firmware image fails its check; a security version below the
minimum keeps the device in recovery mode as well. -/
def execDeviceReset (s : State) : Out :=
  let d := s.dev
  .next { State.reset with
    mem := outsideMem s.mem, agenda := s.agenda, tick := s.tick, free := s.free, inp := s.inp,
    dev := { resetDevice with
      t2Ports := portsFound d.t2Ports s.inp.nats, pairs := d.pairs, minVersion := d.minVersion, retired := d.retired,
      recovery := s.inp.flag || decide (Config.securityVersion.toNat < d.minVersion), sigNext := d.sigEnd, sigEnd := d.sigEnd,
      mgmtOut := d.mgmtOut, msixOut := d.msixOut, readOut := d.readOut, rdmaOut := d.rdmaOut, rdmaIn := d.rdmaIn,
      respOut := d.respOut, fabricOut := d.fabricOut, quoteOut := d.quoteOut, streams := d.streams, keyCount := d.keyCount } }

/-- GTC_FIRMWARE_SET (R22, R43): once, before the first CREATE after a device reset, the counter takes the time master's value
`word`; in recovery mode no firmware runs that could set it. -/
def execGtcFirmwareSet (s : State) : Out :=
  if s.dev.created || s.dev.gtcSet || s.dev.recovery then .next s
  else .next { s with dev := { s.dev with gtc := s.inp.word, gtcSet := true } }

/-- GTC_SLEW_CORRECTION (R22): over `size` ns the counter advances by `size` + `corr` ns, a correction of at most 200 ppm. -/
def execGtcSlewCorrection (s : State) : Out :=
  if 200 * s.inp.size < 1000000 * s.inp.corr.natAbs then .next s
  else .next { s with dev := { s.dev with gtc := s.dev.gtc + BitVec.ofInt 64 (s.inp.size + s.inp.corr) } }

/-- The partition that owns a core's twin. -/
def ownerOf (s : State) (core : Nat) : Option Partition := (allParts s).find? (fun p => p.twins.contains (core / 2))

/-- MONITOR_REFRESH (R26): PROC of core `core` takes `word`, DROOPS the droop events of the last 1 ms. -/
def execMonitorRefresh (s : State) : Out :=
  let now := s.dev.gtc.toNat
  if 216 ≤ s.inp.core then .next s
  else
    .next (modCore s s.inp.core (fun c =>
      let n := (c.droopTimes.filter (fun t => now < t + 1000000)).length
      { c with proc := zx 32 s.inp.word, droops := BitVec.ofNat 8 (min n 255) }))

/-- THERMAL_TRIP (R25): core `core` has reached 110 °C; issue stops on every core until device reset. -/
def execThermalTrip (s : State) : Out :=
  let c := s.inp.core
  let e := noneRec 0x0009 c 0 0 0
  let s1 := ((allParts s).map Partition.num).foldl (fun u n => postEvent u n e false) s
  let s2 := postMgmt s1 0x0009 c
  .next { s2 with dev := { s2.dev with tripped := true } }

/-- POWER_THROTTLE (R25): issue slots are left idle while `flag` holds; only the pace of the agenda shows it (log 1). -/
def execPowerThrottle (s : State) : Out := .next { s with dev := { s.dev with throttled := s.inp.flag } }

/-- The groups of `groups` on core `core`; a failing byte of its SRAM (structure 4) or operand memory (5) belongs to every group of
its team (R264, R269). -/
def hitGroups (s : State) (core structure' : Nat) (ids : List GroupId) : List GroupId :=
  let here := (allGroups s).filter (fun g => ids.contains g.id && g.core == core && !g.saved)
  if structure' = 4 || structure' = 5 then
    ((allGroups s).filter (fun g => here.any (fun h => h.id.part == g.id.part && h.id.task == g.id.task && h.id.team == g.id.team))).map
      Group.id
  else here.map Group.id

/-- The context of the first of some groups, 0 when there is none. -/
def ctxOf (s : State) (ids : List GroupId) : Nat :=
  ((ids.head?.bind (fun i => findTask s i.part i.task)).map Task.ctx).getD 0

/-- CE_CORE (R262, R269): a corrected error in structure `idx` of core `core` (0 to 3 a quad's register pool, 4 SRAM, 5 operand
memory, 6 Wheel, 7 scalar unit), in the state of `groups`. The 16th of one structure within 2^30 ns starts a self-test. -/
def execCeCore (s : State) : Out :=
  let now := s.dev.gtc.toNat
  let core := s.inp.core
  let k := s.inp.idx
  let victims := hitGroups s core k s.inp.groups
  let s1 := match ownerOf s core with
    | none => s
    | some p => severityUnit s p.num 0x20 core (ctxOf s victims) s.inp.va victims
  .next (modCore s1 core (fun c =>
    let ts := c.ceTimes.filter (fun e => e.1 != k || now < e.2 + 2 ^ 30) ++ [(k, now)]
    { c with ceTimes := ts, testing := if 16 ≤ (ts.filter (fun e => e.1 == k)).length then c.testing.insert k else c.testing }))

/-- UE_CORE (R262, R264, R269): an uncorrectable error in structure `idx` of core `core`, in the state of `groups`; a self-test
starts. -/
def execUeCore (s : State) : Out :=
  let core := s.inp.core
  let victims := hitGroups s core s.inp.idx s.inp.groups
  match ownerOf s core with
  | none => .next (modCore s core (fun c => { c with testing := c.testing.insert s.inp.idx }))
  | some p => .next (raiseUE s p.num core s.inp.idx (ctxOf s victims) s.inp.va victims)

end Sys2Proof.Machine
end

