-- ==== Sys2Proof/Machine/Loader.lean ====
section
/-! DEFINITION. Kernel descriptors and their checks (R54, R55, R83, R299 to R302), and structures read from memory (R371). -/
namespace Sys2Proof.Machine

/-- The size of a field of a kernel descriptor by its offset (R299, R300). -/
def kernelField (off : Nat) : Nat :=
  if off = 0 || off = 2 then 2
  else if off < 0x0C then 1
  else if off = 0x0C || off = 0x20 || off = 0x24 || off = 0x30 || off = 0x34 then 4
  else if 0x40 ≤ off && off < 0x60 then (if off % 8 < 2 then 1 else 2)
  else 8

/-- The kernel that the 128 bytes of a descriptor give (R299, R300). -/
def kernelOf (b : List Byte) : Kernel :=
  let f := frameFld b
  let tb := f 0x08 1
  { legacy := bit (f 0x02 2) 0, ovtrap := bit (f 0x02 2) 1, width := f 0x04 1, groups := f 0x05 1, slotq := f 0x07 1,
    tbase := if tb = 0xFF then none else some tb, share := f 0x09 1, fptrap := BitVec.ofNat 8 (f 0x0A 1), spbytes := f 0x0C 4,
    sentry := f 0x10 8, lbase := f 0x18 8, lcount := f 0x20 4, spill := f 0x24 4, cbase := f 0x28 8, csize := f 0x30 4,
    teamtime := f 0x38 8,
    roles := (List.range (f 0x06 1)).map (fun k =>
      let o := 0x40 + 8 * k
      ⟨f o 1, f (o + 1) 1, f (o + 2) 2, f (o + 4) 2⟩) }

/-- The role of group `g` in a list of roles: roles take the groups in order (R83). -/
def roleOf : List RoleEntry → Nat → Nat → Nat
  | [], _, k => k
  | r :: rest, g, k => if g < r.count then k else roleOf rest (g - r.count) (k + 1)

/-- The role entry of group `g` of a kernel. -/
def roleEntry (k : Kernel) (g : Nat) : RoleEntry := (k.roles[roleOf k.roles g 0]?).getD ⟨0, 1, 4, 0⟩

/-- The core of group `g` within its team, 0 even and 1 odd, and its quad (R54). -/
def placeOf (k : Kernel) (g : Nat) : Nat × Nat :=
  if !twinKernel k then (0, g % 4)
  else if g < ceilDiv k.groups 2 then (0, g % 4)
  else (1, (g - ceilDiv k.groups 2) % 4)

/-- The groups of a kernel on one core and quad. -/
def placed (k : Kernel) (core quad : Nat) : List Nat := (List.range k.groups).filter (fun g => placeOf k g == (core, quad))

/-- Register pool bytes of groups at their initial allotments (R55). -/
def poolBytes (k : Kernel) (gs : List Nat) : Nat := gs.foldl (fun acc g => acc + k.width * (roleEntry k g).allot * 4) 0

/-- Groups of a kernel on one core. -/
def onCore (k : Kernel) (core : Nat) : Nat := ((List.range k.groups).filter (fun g => (placeOf k g).1 == core)).length

/-- One team fits an empty core or twin (R55, R301). -/
def fitsEmpty (k : Kernel) : Bool :=
  [0, 1].all (fun c =>
    [0, 1, 2, 3].all (fun q => (placed k c q).length ≤ 16 && poolBytes k (placed k c q) ≤ 256 * 1024)
    && onCore k c * k.width ≤ 4096
    && k.share * 131072 + onCore k c * k.spill ≤ 896 * 1024)

/-- A check that reports an offset when it fails. -/
def chk (c : Bool) (off : Nat) : List Nat := if c then [] else [off]

/-- The failing checks of role entry `r` of a descriptor (R300). -/
def roleBad (b : List Byte) (n r : Nat) : List Nat :=
  let f := frameFld b
  let o := 0x40 + 8 * r
  if n ≤ r then
    chk (f o 1 == 0) o ++ chk (f (o + 1) 1 == 0) (o + 1) ++ chk (f (o + 2) 2 == 0) (o + 2) ++ chk (f (o + 4) 2 == 0) (o + 4)
    ++ chk (f (o + 6) 2 == 0) (o + 6)
  else
    chk (1 ≤ f o 1 && f o 1 ≤ 128) o ++ chk (1 ≤ f (o + 1) 1) (o + 1)
    ++ chk (f (o + 2) 2 % 4 == 0 && 4 ≤ f (o + 2) 2 && f (o + 2) 2 ≤ 1024) (o + 2)
    ++ chk (f (o + 4) 2 % 4 == 0 && f (o + 4) 2 ≤ 496 && f (o + 4) 2 ≤ f (o + 2) 2) (o + 4)
    ++ chk (f (o + 6) 2 == 0) (o + 6)

/-- The failing fields of a descriptor before its role entries (R299). -/
def fieldsBad (b : List Byte) : List Nat :=
  let f := frameFld b
  let k := kernelOf b
  chk (f 0 2 == 1) 0 ++ chk (fld (f 2 2) 2 14 == 0) 2 ++ chk (k.width == 16 || k.width == 32 || k.width == 64) 4
  ++ chk (1 ≤ k.groups && k.groups ≤ 128) 5 ++ chk (1 ≤ f 6 1 && f 6 1 ≤ 4) 6 ++ chk (k.slotq ≤ 16) 7
  ++ chk (f 8 1 ≤ 14 || f 8 1 == 0xFF) 8 ++ chk (k.share ≤ 7) 9 ++ chk (fld (f 0x0A 1) 5 3 == 0) 0x0A ++ chk (f 0x0B 1 == 0) 0x0B
  ++ chk (k.spbytes % 16 == 0 && k.spbytes ≤ k.share * 131072) 0x0C ++ chk (k.sentry % 4 == 0) 0x10
  ++ chk (k.lbase % 16 == 0) 0x18 ++ chk (1 ≤ k.lcount && k.lcount ≤ 65536) 0x20
  ++ chk (k.spill % 4096 == 0 && (k.legacy || k.spill == 0)) 0x24
  ++ chk (k.csize == 0 || k.cbase + k.csize ≤ 2 ^ 55) 0x30 ++ chk (f 0x34 4 == 0) 0x34

/-- The failing checks of a descriptor as a whole (R301). -/
def teamBad (b : List Byte) : List Nat :=
  let k := kernelOf b
  chk ((k.roles.foldl (fun acc r => acc + r.count) 0) == k.groups) 0x40
  ++ chk (k.groups * k.width ≤ 8192 && (!twinKernel k || (k.width == 64 && 65 ≤ k.groups))) 0x05
  ++ chk (fitsEmpty k) 0x40
  ++ ((k.roles.zipIdx).filter (fun r => k.legacy && r.1.bnd != 0)).map (fun r => 0x44 + 8 * r.2)
  ++ chk (!k.legacy || k.slotq == 0) 0x07

/-- The first failing check of R301 on a descriptor's bytes: the offset it reports. -/
def kernelBad (b : List Byte) : Option Nat :=
  let n := frameFld b 6 1
  let rest := chk (frameFld b 0x60 32 == 0) 0x60
  (fieldsBad b ++ (List.range 4).flatMap (roleBad b n) ++ rest ++ teamBad b).head?

/-- What reading a structure gives (R371): its bytes, PAGE_NOT_PRESENT at an address, or a structure that cannot be read. -/
inductive Got where
  | ok (bs : List Byte) (s : State)
  | absent (addr : Nat) (d : BitVec 192)
  | bad (s : State)
  | stall
  | fault (f : Fault)

/-- Read `n` words of 8 bytes as SLDs on behalf of `w`, the line of each with its check (R265, R371). -/
def getWords (s : State) (w : Who) (t : Team) : Nat → Nat → Got
  | 0, _ => .ok [] s
  | n + 1, a =>
    match locate s w t 0 a 8 false true with
    | .trap num d => if num = 4 then .absent a d else .bad s
    | .stall => .stall
    | .fault f => .fault f
    | .ok l s1 =>
      let (s2, line) := dataLine s1 w l
      if line != 0 then .bad s2
      else
        match loadAt s2 w l 8 0 false with
        | .trap _ _ => .bad s2
        | .stall => .stall
        | .fault f => .fault f
        | .ok v s3 =>
          match getWords s3 w t n (a + 8) with
          | .ok r s4 => .ok (natBytes 8 v ++ r) s4
          | x => x

/-- A kernel descriptor read and checked for `w` (R301, R302): the kernel, or the failing offset and the value there; a
descriptor that cannot be read fails at 0. -/
inductive GotKernel where
  | ok (k : Kernel) (s : State)
  | bad (off value : Nat) (s : State)
  | stall
  | fault (f : Fault)

/-- Read and check a kernel descriptor (R301, R302). -/
def getKernel (s : State) (w : Who) (t : Team) (va : Nat) : GotKernel :=
  if va % 64 != 0 then .bad 0 0 s
  else
    match getWords s w t 16 va with
    | .absent _ _ => .bad 0 0 s
    | .bad s1 => .bad 0 0 s1
    | .stall => .stall
    | .fault f => .fault f
    | .ok bs s1 =>
      match kernelBad bs with
      | some off => .bad off (frameFld bs off (kernelField off)) s1
      | none => .ok (kernelOf bs) s1

end Sys2Proof.Machine
end

