-- ==== Sys2Proof/Machine/Merge.lean ====
section
/-! DEFINITION. The Millstone merge (R144, R147 to R149) and the three parts of a join (R153 to R156): its frames, the merge,
the publish. -/
namespace Sys2Proof.Machine

/-- Bytes of an element type code (R145). -/
def mergeSize (elem : Nat) : Nat :=
  match elem with
  | 0 => 1
  | 4 => 1
  | 1 => 2
  | 5 => 2
  | 8 => 2
  | 9 => 2
  | 2 => 4
  | 6 => 4
  | 0xA => 4
  | _ => 8

/-- The float format of an element type (R145), if it is one. -/
def mergeFmt (elem : Nat) : Option Fmt :=
  match elem with
  | 8 => some fF16
  | 9 => some fBF16
  | 0xA => some fF32
  | 0xB => some fF64
  | _ => none

/-- p + (c − a) of an element type (R148). -/
def mergeSum (elem p c a : Nat) : Nat :=
  match mergeFmt elem with
  | some f => rneAdd f p (fSub f rneEnv c a).bits
  | none =>
    let n := 2 ^ (8 * mergeSize elem)
    (p + c + (n - a)) % n

/-- The larger or smaller element (R148). -/
def mergePick (elem : Nat) (isMax : Bool) (p c : Nat) : Nat :=
  match mergeFmt elem with
  | some f => (fMinMax f false isMax p c).bits
  | none =>
    if elem < 4 then if isMax then max p c else min p c
    else
      let b := 8 * mergeSize elem
      pickBy' (decide (signed b p ≤ signed b c) != isMax) p c
where
  pickBy' (first : Bool) (x y : Nat) : Nat := if first then x else y

/-- One element of a merge (R147): `later` says that p carries the later write stamp (R149). -/
def mergeElem (merge elem p c a : Nat) (later : Bool) : Nat :=
  if merge = 8 then p
  else if c = a then p
  else if p = a then c
  else
    match merge with
    | 0 => c
    | 1 => p
    | 2 => mergeSum elem p c a
    | 3 => mergePick elem true p c
    | 4 => mergePick elem false p c
    | 5 => p ^^^ (c ^^^ a)
    | _ => if later then p else c

/-- The write stamp of the `n` bytes at a key: the latest of its 4-byte units (R149). -/
def stampAt (p : Partition) (key n : Nat) : Nat :=
  (List.range (max 1 (n / 4))).foldl (fun acc k => max acc (sget 0 p.stamps (key / 4 + k)).toNat) 0

/-- The merged bytes of a granule (R147, R153): `kp`, `kc` and `ka` are the keys of the parent's, child's and ancestor's
contents. -/
def mergeBytes (s : State) (p : Partition) (g : Region) (kp kc ka : Nat) : List Byte :=
  let z := mergeSize g.elem
  (List.range (4096 / z)).flatMap (fun k =>
    let at' := fun (key : Nat) => mread s.mem (key + z * k) z
    let later := decide (stampAt p (kc + z * k) z < stampAt p (kp + z * k) z)
    natBytes z (mergeElem g.merge g.elem (at' kp) (at' kc) (at' ka) later))

/-- The parent's view of a granule of a revision whose own frame is at `key`. -/
def parentKey (p : Partition) (r : Revision) (va key : Nat) : Nat := viewKey p r.ctx r.parentRev va key

/-- A granule that the child wrote (R153). -/
def childDirty (r : Revision) : List Gran := r.grans.filter (fun g => g.child.isSome)

/-- The merged contents of a granule in a join, none where it takes no part (R153). -/
def granMerged (s : State) (p : Partition) (r : Revision) (g : Gran) : Option (Loc × List Byte) :=
  match g.child, g.anc, g.merge, g.home, r.regions.find? (fun x => regionHas x g.va) with
  | some c, some a, some _, some l, some reg =>
    some (l, mergeBytes s p reg (parentKey p r g.va l.addr) (physKey 0 c) (physKey 0 a))
  | _, _, _, _, _ => none

/-- What reserving a join's frames gives (R153). -/
inductive JoinPrep where
  | ok (s : State)
  | trap (t : RevTrap)
  | stall
  | fault (f : Fault)

/-- Translate each granule as a store by the joining group would be (R153 step 1). -/
def joinTranslate (s : State) (w : Who) : List Gran → List (Gran × Loc) → JoinPrep ⊕ (List (Gran × Loc) × State)
  | [], acc => .inr (acc.reverse, s)
  | g :: r, acc =>
    match granted w.part (translate s w.unit w.part w.ctx g.va w.sup true false) with
    | .ok l s1 => joinTranslate s1 w r ((g, l) :: acc)
    | .trap n d => .inl (.trap ⟨n, g.va, d⟩)
    | .stall => .inl .stall
    | .fault f => .inl (.fault f)

/-- Reserve the copies that the publish needs on the parent side, and one merge frame for each granule (R153 step 1). -/
def joinReserve (s : State) (w : Who) (r : Revision) : List (Gran × Loc) → JoinPrep
  | [] => .ok s
  | (g, l) :: rest =>
    match prepWrite s w.part w.task r.ctx r.parentRev g.va l.addr l.revcap 0 with
    | .stall => .stall
    | .trap t => .trap (if t.num = 0x0D then ⟨0x0D, g.va, poolDetail r.num 2⟩ else t)
    | .ok _ s1 =>
      match drawFrame s1 w.part w.task with
      | none => .trap ⟨0x0D, g.va, poolDetail r.num 2⟩
      | some (f, s2) => joinReserve (clearPoison s2 (physKey 0 f) 4096) w r rest |> keep g f l
where
  keep (g : Gran) (f : Nat) (l : Loc) (x : JoinPrep) : JoinPrep :=
    match x with
    | .ok u => .ok (modRev u w.part r.num (fun q => modGran q g.va (fun h => { h with merge := some f, home := some l })))
    | y => y

/-- Step 1 of a join for `w` (R153): the revision then merges. -/
def joinStart (s : State) (w : Who) (r : Revision) (by' : Option GroupId) : JoinPrep :=
  match joinTranslate s w (childDirty r) [] with
  | .inl x => x
  | .inr (gs, s1) =>
    match joinReserve s1 w r gs with
    | .ok s2 => .ok (modRev s2 w.part r.num (fun q => { q with state := 3, joiner := by' }))
    | x => x

/-- The 64-byte lines of a granule whose merge takes poisoned bytes (R153 step 3, R265; log 33): of the parent where the child's line is
clean, of the child where the parent's is, of all three where both are dirty. -/
def taintLines (s : State) (p : Partition) (r : Revision) (g : Gran) : List Nat :=
  let hit := fun (key : Option Nat) (k : Nat) => (key.map (fun x => s.dev.poison.contains (x / 64 + k))).getD false
  let kp := g.home.map (fun l => parentKey p r g.va l.addr)
  let kc := g.child.map (physKey 0)
  let ka := g.anc.map (physKey 0)
  (List.range 64).filter (fun k =>
    if !g.dirtyC.getLsbD (k / 2) then hit kp k
    else if !g.dirtyP.getLsbD (k / 2) then hit kc k
    else hit kp k || hit kc k || hit ka k)

/-- Poison lines, each once. -/
def addPoison (s : State) (ls : List Nat) : State :=
  { s with dev := { s.dev with poison := s.dev.poison ++ ls.filter (fun l => !s.dev.poison.contains l) } }

/-- Fill the merge frames (R153 step 3), with the poison that their lines take (log 33). -/
def joinMerge (s : State) (part : Nat) (r : Revision) : State :=
  match findPart s part with
  | none => s
  | some p =>
    r.grans.foldl (fun u g =>
      match granMerged s p r g, g.merge with
      | some (_, bs), some f =>
        addPoison (partPuts u part (physKey 0 f) bs) ((taintLines s p r g).map (fun k => physKey 0 f / 64 + k))
      | _, _ => u) s

/-- The result word of a join (R155). -/
def joinWord (t : Word) (code : Nat) : Nat := 1 + 2 * code + t.toNat % 2 ^ 48 * 65536

/-- A join publish is a parent-side write of the child's lines `bits` of a granule (R151): the open revisions with the same parent side,
and the parent's own, find them dirty. -/
def markJoin (s : State) (w : Who) (r : Revision) (va key : Nat) (bits : BitVec 32) : State :=
  match findPart s w.part with
  | none => s
  | some p =>
    let side := writeSide p r.ctx r.parentRev va
    let s1 := markParent s w.part ((parentSides s w.part r.ctx side va key).filter (fun x => x.1.num != r.num)) bits
    if side = 0 then s1
    else modRev s1 w.part side (fun x => modGran x va (fun g => { g with dirtyC := g.dirtyC ||| bits }))

/-- Write a merged granule into the parent side (R149, R153 step 4): the bytes, stamps of the units it changes, the watch
events of its lines. The publish writes every line whole, so poison stays only on a line that merged poisoned bytes (R266; log 33). -/
def publishGran (s : State) (m0 : Memory) (w : Who) (source : Nat) (dst : Nat) (l : Loc) (bad : Nat → Bool) (bs : List Byte) :
    State :=
  let units := (List.range 1024).filter (fun k => mread m0 (dst + 4 * k) 4 != bytesNat ((bs.drop (4 * k)).take 4))
  let s1 := units.foldl (fun u k => stampWrite u w.part (dst + 4 * k) 4 source) s
  let lines := (List.range 64).map (fun k => dst / 64 + k)
  let poison := s1.dev.poison.filter (fun x => !lines.contains x) ++ lines.filter (fun x => bad (x - dst / 64))
  let s2 := markDirtyRange { s1 with mem := mputs s1.mem dst bs, dev := { s1.dev with poison := poison } } w.part dst 4096
  if l.watched && dst == l.addr then
    (List.range 32).foldl (fun u k => watchWrite u w.part m0 (dst + 128 * k) 128 w.depth source true) s2
  else s2

/-- The ancestor copy of a granule, which stands at `dst` on the parent side, for the sibling revisions forked since the join reserved its
frames (R150, R151): one that still equals the granule, or else the merge frame, which keeps the bytes that the publish replaces
(log 124). -/
def lateAnc (s : State) (w : Who) (r : Revision) (g : Gran) (l : Loc) (dst : Nat) : State :=
  match findPart s w.part with
  | none => s
  | some p =>
    let sibs := (parentSides s w.part r.ctx (writeSide p r.ctx r.parentRev g.va) g.va l.addr).filter (fun x => x.1.num != r.num)
    if sibs.all (fun x => (granOf x.1 x.2).anc.isSome) then s
    else
      match sameAnc sibs, g.merge with
      | some f, _ => shareAnc s w.part sibs f
      | none, some f =>
        let s1 := modRev (copyGran s w.part dst (physKey 0 f)) w.part r.num (fun q => modGran q g.va (fun h => { h with merge := none }))
        shareAnc s1 w.part sibs f
      | none, none => s

/-- Publish a join at one point and close the revision (R153 step 4, R154): `w` is the parent's task. -/
def joinPublish (s : State) (w : Who) (r : Revision) : State :=
  match findPart s w.part with
  | none => s
  | some p =>
    let source := unitSource 0 1
    let code := if r.killed then 1 else 0
    let s1 := r.grans.foldl (fun u g =>
      match granMerged s p r g with
      | none => u
      | some (l, bs) =>
        let dst := pubKey u { w with ctx := r.ctx, rev := r.parentRev } l
        let dst := dst - dst % 4096
        let bad := fun (k : Nat) => (g.merge.map (fun f => s.dev.poison.contains (physKey 0 f / 64 + k))).getD false
        publishGran (markJoin (lateAnc u w r g l dst) w r g.va l.addr g.dirtyC) s.mem w source dst l bad bs) s
    closeRev s1 w.part r.num 4 (joinWord (ptime s p) code)

/-- Close a revision that DISCARD_ON_FAULT discards (R153). -/
def joinDiscard (s : State) (part : Nat) (r : Revision) : State :=
  match findPart s part with
  | none => s
  | some p => closeRev s part r.num 5 (joinWord (ptime s p) 2)

end Sys2Proof.Machine
end

