-- ==== Sys2Proof/Machine/Rev.lean ====
section
/-! DEFINITION. REV (R142 to R159, R372 to R376), EXIT with its implicit joins (R312, R156), and the steps of a join. -/
namespace Sys2Proof.Machine

/-- A region entry of a fork descriptor (R143). -/
def regionOf (b : List Byte) (k : Nat) : Region :=
  let o := 0x20 + 16 * k
  ⟨frameFld b o 8, frameFld b (o + 8) 4, frameFld b (o + 0xC) 1 % 16, frameFld b (o + 0xC) 1 / 16⟩

/-- The first failing field of a fork descriptor, with its size (R142 to R145). -/
def forkBad (b : List Byte) : Option (Nat × Nat) :=
  let f := frameFld b
  let n := f 0x18 1
  let chk := fun (c : Bool) (off size : Nat) => if c then ([] : List (Nat × Nat)) else [(off, size)]
  let reg := fun (k : Nat) =>
    let o := 0x20 + 16 * k
    let r := regionOf b k
    let apart := (List.range k).all (fun j =>
      let q := regionOf b j
      r.va + 4096 * r.granules ≤ q.va || q.va + 4096 * q.granules ≤ r.va)
    chk (r.va % 4096 == 0 && r.va < 2 ^ 55 && apart) o 8
    ++ chk (1 ≤ r.granules && r.granules ≤ 2 ^ 28 && r.va + 4096 * r.granules ≤ 2 ^ 55) (o + 8) 4
    ++ chk (r.merge ≤ 8 && r.merge != 7 && r.elem ≤ 0xB
        && (r.merge != 6 || [2, 3, 6, 7, 0xA, 0xB].contains r.elem)) (o + 0xC) 1
    ++ chk (f (o + 0xD) 3 == 0) (o + 0xD) 3
  (chk (n ≤ 6) 0x18 1 ++ chk (f 0x19 1 ≤ 1) 0x19 1 ++ chk (f 0x1A 6 == 0) 0x1A 6 ++ (List.range (min n 6)).flatMap reg).head?

/-- The next free revision number from `n` on: not 0, not that of an open revision (R159). The recursion is on fuel. -/
def nextRevNum (p : Partition) : Nat → Nat → Nat
  | 0, n => n
  | k + 1, n =>
    let m := n % 2 ^ 32
    if m = 0 || p.revs.any (fun r => revOpen r && r.num == m) then nextRevNum p k (m + 1) else m

/-- Create a revision with its child task (R146, R372). -/
def makeFork (s : State) (k : Kernel) (b : List Byte) : State × Nat :=
  match findPart s s.g.id.part with
  | none => (s, 0)
  | some p =>
    let num := nextRevNum p (p.revs.length + 2) p.nextRev
    let lo := frameFld b 0x08 4
    let hi := frameFld b 0x0C 4
    let empty := decide (hi ≤ lo)
    let rev : Revision :=
      { num := num, ctx := s.tk.ctx, child := if empty then 0 else freshTask s p, parent := s.tk.num, parentRev := s.tk.rev,
        regions := (List.range (frameFld b 0x18 1)).map (regionOf b), grans := [], state := if empty then 2 else 1,
        discard := bit (frameFld b 0x19 1) 0, killed := false, word := 0, joiner := none, waiting := false }
    let s1 := modPart s p.num (fun q =>
      { q with revs := dropBy (fun r => r.num == num) q.revs ++ [rev], nextRev := (num + 1) % 2 ^ 32 })
    let t : Task :=
      { noTask with ctx := s.tk.ctx, source := 1, kernel := k, arg := frameFld b 0x10 8, lo := lo, hi := hi,
                    tickets := s.tk.tickets, chain := s.tk.chain, rev := num, revDepth := s.tk.revDepth + 1,
                    parent := s.tk.num }
    (if empty then s1 else enqueueTask s1 p.num t true, num)

/-- FORK (R142 to R146, R371, R372): a release, so it waits for the stream's accesses. -/
def execFork (sd sa : BitVec 6) (s : State) : Out :=
  let v := sreg s sa
  let a := v.toNat
  userOnly s
    (if a % 64 != 0 then badReg s v 0
     else if !quiet s .scalar then stallS s
     else
       match getWords s (me s) s.tm 16 a with
       | .absent addr d => trapS s 0x04 addr d
       | .bad s1 => badReg s1 v 0
       | .stall => stallS s
       | .fault f => .fault f
       | .ok b s1 =>
         match getKernel s1 (me s1) s1.tm (frameFld b 0 8) with
         | .stall => stallS s
         | .fault f => .fault f
         | .bad off value s2 => trapS s2 0x01 0 (structDetail value off 4 (frameFld b 0 8))
         | .ok k s2 =>
           match forkBad b with
           | some (off, n) => trapS s 0x01 0 (structDetail (frameFld b off n) off 0 a)
           | none =>
             if 8 ≤ s.tk.revDepth then badState s 0x020 32
             else if 4096 ≤ (s2.pt.revs.filter revOpen).length then trapS s 0x0D 0 (poolDetail 0 3)
             else
               let (s3, num) := makeFork s2 k b
               .next (finS s3 sd (BitVec.ofNat 64 num)))

/-- The group in focus waits in a JOIN since partition time `t`, or no longer (R156). -/
def setJoin (s : State) (t : Option (Word × Nat)) : State := { s with g := { s.g with joinWait := t } }

/-- A JOIN of a running or merging child waits; the partition time of its issue is kept (R156). -/
def waitJoin (s : State) (r : Revision) : Out :=
  if s.g.joinWait.isSome then stallS s else .next (setJoin s (some (ptime s s.pt, r.num)))

/-- Perform or begin the join of an ended child by the group in focus (R153): `done` continues when it has closed, and with a
deferring turn the merge and the publish are steps of their own (log 7). -/
def joinEnded (s : State) (r : Revision) (done : State → Out) : Out :=
  if r.discard && r.killed then done (joinDiscard s s.g.id.part r)
  else
    match joinStart s (me s) r (some s.g.id) with
    | .trap t => trapS s t.num t.addr t.detail
    | .stall => waitJoin s r
    | .fault f => .fault f
    | .ok s1 =>
      if s.defer then .next s1
      else
        match (findPart s1 s.g.id.part).bind (fun p => findRev p r.num) with
        | none => .next s1
        | some r1 => done (joinPublish (joinMerge s1 s.g.id.part r1) (me s1) r1)

/-- A join of the partition has begun and not published: the next waits for it (R156; log 124). -/
def merging (p : Partition) : Bool := p.revs.any (fun r => r.state == 3)

/-- Another join of the partition comes first: one that has begun and not published, or another group's JOIN of an ended child, by
(partition time at issue, source number) (R156). -/
def joinBehind (s : State) : Bool :=
  let mine := (s.g.joinWait.map Prod.fst).getD (ptime s s.pt)
  merging s.pt
  || (allGroups s).any (fun h =>
    h.id.part == s.g.id.part && h.id != s.g.id && !h.killed && !h.ended && !h.saved && h.trapPend.isNone
      && (match h.joinWait with
        | none => false
        | some (t, num) =>
          ((findRev s.pt num).map (fun r => r.state == 2)).getD false
            && (t.toNat < mine.toNat || (t == mine && h.core < s.g.core))))

/-- The child revision of the issuing task with a handle (R155). -/
def myChild (s : State) (h : Nat) : Option Revision :=
  s.pt.revs.find? (fun r => r.num == h && h != 0 && r.parent == s.tk.num)

/-- Write the word of a closed revision, an acquire (R155, R156): the joining group gets the original word once, others CODE 3. -/
def joinReturn (s : State) (sd : BitVec 6) (r : Revision) : Out :=
  let again := BitVec.ofNat 64 (7 + r.word.toNat / 65536 * 65536)
  if r.joiner == some s.g.id then
    .next (finS (modRev (l1Inval s s.g.core) s.g.id.part r.num (fun x => { x with joiner := none })) sd r.word)
  else .next (finS (l1Inval s s.g.core) sd again)

/-- JOIN and JOINTRY (R373): `wait` is JOIN's wait for a running child. -/
def joinBy (s : State) (sd sa : BitVec 6) (wait : Bool) : Out :=
  let v := sreg s sa
  userOnly s
    (if fld v.toNat 32 32 != 0 then badReg s v 32
     else
       match myChild s v.toNat with
       | none => badReg s v 0
       | some r =>
         if r.state = 1 then if wait then waitJoin s r else .next (finS s sd 0)
         else if r.state = 3 then waitJoin s r
         else if 4 ≤ r.state then joinReturn (setJoin s none) sd r
         else if joinBehind s then waitJoin s r
         else
           joinEnded s r (fun s1 =>
             let s2 := setJoin s1 none
             match (findPart s2 s.g.id.part).bind (fun p => findRev p r.num) with
             | none => .next s2
             | some r1 => .next (finS (modRev (l1Inval s2 s.g.core) s.g.id.part r.num (fun x => { x with joiner := none })) sd r1.word)))

/-- JOIN (R153 to R156, R373). -/
def execJoin (sd sa : BitVec 6) (s : State) : Out := joinBy s sd sa true

/-- JOINTRY (R155, R373). -/
def execJointry (sd sa : BitVec 6) (s : State) : Out := joinBy s sd sa false

/-- Move up to `n` frames from the pool stack to the task's reservation (R374): the state and the count moved. -/
def reserveFrames (s : State) : Nat → State × Nat
  | 0 => (s, 0)
  | n + 1 =>
    let part := s.g.id.part
    let top := ctlRead s part 0x4008 4
    if top = 0 then (s, 0)
    else
      match supRead s part (ctlRead s part 0x4000 8 + 8 * (top - 1)) 8 with
      | none => (s, 0)
      | some f =>
        let s1 := ctlWrite s part 0x4008 4 (top - 1)
        let (s2, k) := reserveFrames { s1 with tk := { s1.tk with reserve := s1.tk.reserve ++ [f] } } n
        (s2, k + 1)

/-- RVDECL (R152, R374). -/
def execRvdecl (sd sa : BitVec 6) (s : State) : Out :=
  let n := (sreg s sa).toNat
  userOnly s
    (if 2 ^ 20 < n then badReg s (sreg s sa) 0
     else
       let (s1, k) := reserveFrames s n
       .next (finS s1 sd (BitVec.ofNat 64 k)))

/-- RVDROP (R374). -/
def execRvdrop (sd sa : BitVec 6) (s : State) : Out :=
  let n := (sreg s sa).toNat
  userOnly s
    (if 2 ^ 20 < n then badReg s (sreg s sa) 0
     else
       let keep := s.tk.reserve.length - n
       let s1 := poolPush { s with tk := { s.tk with reserve := s.tk.reserve.take keep } } s.g.id.part (s.tk.reserve.drop keep)
       .next (finS s1 sd (BitVec.ofNat 64 keep)))

/-- RVID (R375). -/
def execRvid (sd sa : BitVec 6) (s : State) : Out :=
  let va := (sreg s sa).toNat
  let own := (findRev s.pt s.tk.rev).bind (fun r =>
    if s.tk.rev = 0 then none else r.regions.find? (fun g => regionHas g va))
  let opens := (openChildren s s.g.id.part s.tk.num).any (fun r => r.regions.any (fun g => regionHas g va))
  let cov := match own with
    | none => 0
    | some g => s.tk.rev + g.merge * 2 ^ 32 + g.elem * 2 ^ 36 + 2 ^ 40
  .next (finS s sd (BitVec.ofNat 64 (cov + b2n opens * 2 ^ 41)))

/-- RVSTAT (R376). -/
def execRvstat (sd sa : BitVec 6) (s : State) : Out :=
  let v := sreg s sa
  if fld v.toNat 32 32 != 0 then badReg s v 32
  else
    let resv := min s.tk.reserve.length 0xFFFFF
    let w := match myChild s v.toNat with
      | none => 0
      | some r => r.state + min (childDirty r).length (2 ^ 32 - 1) * 2 ^ 32
    .next (finS s sd (BitVec.ofNat 64 (w + resv * 2 ^ 12)))

/-- The group in focus is the task's last group (R156): no index unstarted, no other team resident or saved, every other group
of its team ended. -/
def lastGroup (s : State) : Bool :=
  s.tk.left == 1
  && (teamGroups s s.g.id.part s.g.id.task s.g.id.team).all (fun g => g.id == s.g.id || g.ended || g.killed)

/-- EXIT (R312): supervisor mode refuses it; the last group's EXIT makes the implicit joins in fork order (R156), one at a
time; then the scalar stream has ended. -/
def execExit (s : State) : Out :=
  userOnly s
    (let leave :=
      let g := { s.g with sc := { s.g.sc with exited := true, fmtPend := none } }
      Host.Outcome.next (teamBars { s with g := g } s.g.id.part s.g.id.task s.g.id.team)
     if !lastGroup s then leave
     else
       match openChildren s s.g.id.part s.tk.num with
       | [] => leave
       | r :: _ => if r.state = 2 && !merging s.pt then joinEnded s r (fun s1 => .next s1) else stallS s)

/-- The revision that a step of the Merge Unit names. -/
def stepRev (s : State) : Option Revision := (findPart s s.inp.part).bind (fun p => findRev p s.inp.idx)

/-- The parent's task of a revision as the source of a join's accesses. R153 gives the merge to the Merge Unit of the die that holds the
revision and does not say which that is: DESIGN CHOICE, die 0 (log 109). -/
def parentWho (s : State) (part : Nat) (r : Revision) : Who :=
  let t := (findTask s part r.parent).getD noTask
  { outside part (unitSource 0 1) with ctx := r.ctx, task := r.parent, rev := r.parentRev, depth := t.chain, sup := false }

/-- A line that a merge reads, at offset `off` of the child's granules laid end to end, meets `ecc` (R13, R261): of the child's copies, with
`port` 1 of the parent's, with `port` 2 of the ancestor's. Where the line itself stays sound the merged line is poisoned (log 35). -/
def mergeLine (s : State) (part : Nat) (r : Revision) : State :=
  match (childDirty r)[s.inp.off / 4096]?, findPart s part with
  | some g, some p =>
    let o := s.inp.off % 4096
    let src := match s.inp.port with
      | 0 => g.child.map (physKey 0)
      | 1 => g.home.map (fun l => parentKey p r g.va l.addr)
      | _ => g.anc.map (physKey 0)
    match src with
    | none => s
    | some k =>
      let (s1, bad) := unitLine s part r.ctx (k + o) (g.va + o) (unitSource 0 1) s.inp.ecc
      if bad = 0 || poisoned s1 (k + o) 1 then s1
      else addPoison s1 (g.merge.toList.map (fun f => (physKey 0 f + o) / 64))
  | _, _ => s

/-- A debug-halted group whose JOIN waits for a revision (R389). -/
def haltedJoiner (s : State) (part num : Nat) : Option Group :=
  (allGroups s).find? (fun h => h.id.part == part && h.halted && !h.saved && !h.killed && !h.ended && h.trapPend.isNone
    && (h.joinWait.map Prod.snd) == some num)

/-- The JOIN of a debug-halted group begins (R389); what would trap it waits for the group, which gives up its place in the order. -/
def haltedJoin (s : State) (part : Nat) (r : Revision) (h : Group) : Out :=
  let u := focusOn s h.id
  if joinBehind u then .next s
  else if r.discard && r.killed then
    .next (joinDiscard (modRev u part r.num (fun q => { q with joiner := some h.id })) part r)
  else
    match joinStart u (me u) r (some h.id) with
    | .ok s1 => .next s1
    | .trap _ => .next (setJoin u none)
    | .stall => .next s
    | .fault f => .fault f

/-- JOIN_MERGE (R147, R153, R261): the Merge Unit fills the merge frames of revision `idx` of partition `part`, or begins the join that a
debug-halted group waits for (R389). -/
def execJoinMerge (s : State) : Out :=
  match stepRev s with
  | none => .next s
  | some r =>
    if r.state = 3 then .next (joinMerge (mergeLine s s.inp.part r) s.inp.part r)
    else if r.state = 2 then
      match haltedJoiner s s.inp.part r.num with
      | some h => haltedJoin s s.inp.part r h
      | none => .next s
    else .next s

/-- JOIN_PUBLISH (R153, R154): the join of revision `idx` of partition `part` publishes and closes. -/
def execJoinPublish (s : State) : Out :=
  match stepRev s with
  | none => .next s
  | some r =>
    if r.state = 3 then .next (joinPublish (joinMerge s s.inp.part r) (parentWho s s.inp.part r) r) else .next s

/-- Discard the child copies of the granules whose translation fails, or whose page has REVCAP = 0 (R151, R156). -/
def dropUnmapped (s : State) (w : Who) (r : Revision) : State :=
  (childDirty r).foldl (fun u g =>
    let lost :=
      let u1 := modRev u w.part r.num (fun q => modGran q g.va (fun h => { h with child := none }))
      poolPush (poolUse u1 w.part 0 1) w.part g.child.toList
    match granted w.part (translate u w.unit w.part w.ctx g.va w.sup true false) with
    | .trap _ _ => lost
    | .ok l u1 =>
      match prepWrite u1 w.part w.task r.ctx r.parentRev g.va l.addr l.revcap 0 with
      | .trap t => if t.num = 0x05 then lost else u
      | _ => u
    | _ => u) s

/-- IMPLICIT_JOIN (R156): task `idx` of partition `part` lost its last group to a kill; the Merge Unit joins its oldest open
child. A join without frames waits, with one record. -/
def execImplicitJoin (s : State) : Out :=
  let part := s.inp.part
  match findTask s part s.inp.idx with
  | none => .next s
  | some t =>
    if t.left != 0 || t.ended then .next s
    else
      match openChildren s part t.num with
      | [] => .next (finishTask s part t.num)
      | r :: _ =>
        if r.state != 2 || ((findPart s part).map merging).getD false then .next s
        else if r.discard && r.killed then .next (joinDiscard s part r)
        else
          let w := parentWho s part r
          let s1 := dropUnmapped s w r
          match (findPart s1 part).bind (fun p => findRev p r.num) with
          | none => .next s
          | some r1 =>
            match joinStart s1 w r1 none with
            | .fault f => .fault f
            | .stall => .next s
            | .trap x =>
              if r.waiting then .next s
              else
                let e := { noneRec 0x0001 (unitSource 0 1) t.ctx (BitVec.ofNat 64 x.addr) x.detail with
                           trap := x.num, queue := queueField t }
                .next (modRev (postEvent s part e false) part r.num (fun q => { q with waiting := true }))
            | .ok s2 =>
              match (findPart s2 part).bind (fun p => findRev p r.num) with
              | none => .next s2
              | some r2 => .next (joinPublish (joinMerge s2 part r2) w r2)

end Sys2Proof.Machine
end

