-- ==== Sys2Proof/Machine/Watches.lean ====
section
/-! DEFINITION. WAT: watches and trigger records (R160 to R172, R377, R378). -/
namespace Sys2Proof.Machine

/-- The pages of a context's range [va, hi): each with its leaf, if it is mapped. The recursion is on fuel. -/
def pagesIn (s : State) (part ctx : Nat) : Nat → Nat → Nat → List (Nat × Option Leaf)
  | 0, _, _ => []
  | n + 1, va, hi =>
    if hi ≤ va then []
    else
      match pageOf s part ctx va with
      | none => (va, none) :: pagesIn s part ctx n (va - va % 4096 + 4096) hi
      | some l => (va, some l) :: pagesIn s part ctx n (l.va + l.size) hi

/-- The pages of a range of 2^log2 bytes. -/
def rangePages (s : State) (part ctx va log2 : Nat) : List (Nat × Option Leaf) :=
  pagesIn s part ctx (2 ^ log2 / 4096 + 2) va (va + 2 ^ log2)

/-- The keys of the leaf entries of a page: all 16 of a 64 KiB page, which must agree (R115). -/
def leafKeys (l : Leaf) : List Nat :=
  if l.level = 0 && bit l.pte 2 then (List.range 16).map (fun k => l.key - 8 * (vaIndex l.va 0 % 16) + 8 * k) else [l.key]

/-- Set or clear WATCHED in a page's leaf, and drop it from the TLB (R162, R163). -/
def setWatched (s : State) (part ctx : Nat) (on : Bool) (l : Leaf) : State :=
  let put := fun (m : Memory) (k : Nat) =>
    let e := mread m k 8
    mwrite m k 8 (e - fld e 9 1 * 512 + b2n on * 512)
  modPart { s with mem := (leafKeys l).foldl put s.mem } part (fun p =>
    tlbDrop p (fun t => t.ctx == ctx && t.va < l.va + max l.size 65536 && l.va < t.va + max t.size 65536))

/-- Some access that has issued and not performed, some copy's shadow or a translation that a copy keeps used a page in [lo, hi) of a
context, or a join holds one (R120, R126, R153). -/
def rangeInUse (s : State) (part ctx lo hi : Nat) : Bool :=
  (allGroups s).any (fun g =>
    g.id.part == part && ((findTask s part g.id.task).map Task.ctx).getD 0 == ctx
    && (g.en.acc.any (fun a => a.lanes.any (fun x => !x.loc.scratch && lo ≤ x.loc.va && x.loc.va < hi))
        || g.en.copies.any (fun c => c.shadow.any (fun e => lo ≤ e.2.1.va && e.2.1.va < hi))))
  || ((findPart s part).map (fun p =>
        p.tlb.any (fun t => partUnit < t.unit && t.ctx == ctx && t.va < hi && lo < t.va + t.size)
        || p.revs.any (fun r =>
        r.state == 3 && r.ctx == ctx && r.grans.any (fun g => g.merge.isSome && lo < g.va + 4096 && g.va < hi)))).getD false

/-- The entry that a watch descriptor gives (R161). -/
def watchOf (b : List Byte) (k : Kernel) (idx ctx : Nat) : WatchEntry :=
  let f := frameFld b
  let w := fun (o : Nat) => BitVec.ofNat 64 (f o 8)
  { idx := idx, state := 1, reason := 0, ctx := ctx, va := f 0 8, log2 := f 8 1, mode := f 9 1, elem := f 0xA 1,
    coalesce := f 0xB 1, chain := f 0xC 1, rateExp := f 0xD 1, rateCount := f 0xE 2, value := w 0x10, mask := w 0x18,
    kernel := k, arg := f 0x28 8, teams := f 0x30 4, tickets := f 0x34 1, created := 0, winStart := 0, winCount := 0,
    held := [] }

/-- The first failing field of a watch descriptor, with its size (R161). -/
def watchBad (b : List Byte) : Option (Nat × Nat) :=
  let f := frameFld b
  let chk := fun (c : Bool) (off size : Nat) => if c then ([] : List (Nat × Nat)) else [(off, size)]
  let small := fun (o : Nat) => f 0xA 1 != 4 || f o 8 < 2 ^ 32
  let log2 := 6 ≤ f 8 1 && f 8 1 ≤ 30
  (chk (f 0 8 < 2 ^ 55 && (!log2 || (f 0 8 % 2 ^ f 8 1 == 0 && f 0 8 + 2 ^ f 8 1 ≤ 2 ^ 55))) 0 8 ++ chk log2 8 1 ++ chk (f 9 1 ≤ 3) 9 1
   ++ chk (f 0xA 1 == 4 || f 0xA 1 == 8) 0xA 1 ++ chk (f 0xB 1 ≤ 2) 0xB 1 ++ chk (1 ≤ f 0xC 1 && f 0xC 1 ≤ 16) 0xC 1
   ++ chk (f 0xE 2 == 0 || (10 ≤ f 0xD 1 && f 0xD 1 ≤ 40)) 0xD 1 ++ chk (small 0x10) 0x10 8
   ++ chk (small 0x18 && (f 9 1 != 3 || f 0x18 8 != 0)) 0x18 8 ++ chk (1 ≤ f 0x30 4 && f 0x30 4 ≤ 65536) 0x30 4
   ++ chk ((b.drop 0x35).take 11 == List.replicate 11 0) 0x35 11).head?

/-- The lowest FREE entry (R162). -/
def freeEntry (p : Partition) : Option Nat := (List.range 512).find? (fun k => (findWatch p k).isNone)

/-- Translate the pages of a range as reads (R162): the trap of the first that fails, with its address. -/
def readPages (w : Who) : State → List (Nat × Option Leaf) → MR (Option (Nat × Nat × BitVec 192))
  | s, [] => .ok none s
  | s, (va, _) :: r =>
    match translate s w.unit w.part w.ctx va w.sup false true with
    | .ok _ s1 => readPages w s1 r
    | .trap n d => .ok (some (n, va, d)) s
    | .stall => .stall
    | .fault f => .fault f

/-- Arm an entry (R162): it waits for the accesses that use the pages, as its shootdown does. -/
def armWatch (s : State) (sd : BitVec 6) (b : List Byte) (k : Kernel) (va log2 : Nat) : Out :=
  let part := s.g.id.part
  let pages := rangePages s part s.tk.ctx va log2
  orTrapS s va (readPages (me s) s pages) (fun bad s1 =>
    match bad, freeEntry s1.pt with
    | some (n, a, d), _ => trapS s n a d
    | none, none => .next (finS s1 sd (BitVec.allOnes 64))
    | none, some idx =>
      if rangeInUse s1 part s.tk.ctx va (va + 2 ^ log2) then stallS s
      else
        let s2 := (pages.filterMap Prod.snd).foldl (fun u l => setWatched u part s.tk.ctx true l) s1
        let s3 := modPart s2 part (fun p => { p with watches := p.watches ++ [watchOf b k idx s.tk.ctx] })
        .next (finS s3 sd (BitVec.ofNat 64 idx)))

/-- WATCH (R161, R162, R371, R377); it reads its descriptor after the stream's earlier accesses (log 7). -/
def execWatch (sd sa : BitVec 6) (s : State) : Out :=
  let v := sreg s sa
  let a := v.toNat
  if a % 64 != 0 then badReg s v 0
  else if !quiet s .scalar then stallS s
  else
    match getWords s (me s) s.tm 8 a with
    | .absent addr d => trapS s 0x04 addr d
    | .bad s1 => badReg s1 v 0
    | .stall => stallS s
    | .fault f => .fault f
    | .ok b s1 =>
      match watchBad b with
      | some (off, n) => trapS s 0x01 0 (structDetail (frameFld b off (min n 8)) off 1 a)
      | none =>
        match getKernel s1 (me s1) s1.tm (frameFld b 0x20 8) with
        | .stall => stallS s
        | .fault f => .fault f
        | .bad off value s2 => trapS s2 0x01 0 (structDetail value off 4 (frameFld b 0x20 8))
        | .ok k s2 =>
          let va := frameFld b 0 8
          let log2 := frameFld b 8 1
          let fabric := (rangePages s2 s.g.id.part s.tk.ctx va log2).any (fun p => (p.2.map (fun l => bit l.pte 63)).getD false)
          if fabric then trapS s 0x01 0 (structDetail va 0 1 a) else armWatch s2 sd b k va log2

/-- The entry that an instruction names, or its ILLEGAL_OPERAND (R160, R163, R377): `free` allows a FREE entry. -/
def entryArg (s : State) (sa : BitVec 6) (free : Bool) (k : Nat → Option WatchEntry → Out) : Out :=
  let v := sreg s sa
  if fld v.toNat 9 55 != 0 then badReg s v 9
  else
    match findWatch s.pt v.toNat with
    | none => if free then k v.toNat none else badState s v.toNat 0
    | some w => if !s.g.sup && w.ctx != s.tk.ctx then badState s v.toNat 0 else k v.toNat (some w)

/-- UNWATCH (R163): open triggers close without a re-trigger; pages whose leaf no other entry of the partition covers, in whichever context,
lose WATCHED. -/
def execUnwatch (sa : BitVec 6) (s : State) : Out :=
  entryArg s sa false (fun idx w? =>
    match w? with
    | none => stallS s
    | some w =>
      let part := s.g.id.part
      let hi := w.va + 2 ^ w.log2
      if rangeInUse s part w.ctx w.va hi then stallS s
      else
        let leaves := fun (x : WatchEntry) => ((rangePages s part x.ctx x.va x.log2).filterMap Prod.snd).map (fun l => (wholePage l).1)
        let covered := fun (l : Leaf) => s.pt.watches.any (fun x => x.idx != idx && (leaves x).contains (wholePage l).1)
        let pages := ((rangePages s part w.ctx w.va w.log2).filterMap Prod.snd).filter (fun l => !covered l)
        let s1 := pages.foldl (fun u l => setWatched u part w.ctx false l) s
        let shut := fun (t : Task) => { t with trig := t.trig.map (fun r => { r with isOpen := false }) }
        let s2 := modTasks s1 (fun t => t.part == part && (t.trig.map (fun r => r.entry == idx)).getD false) shut
        .next (advS (modPart s2 part (fun p => { p with watches := p.watches.filter (fun x => x.idx != idx) }))))

/-- WARM (R163): arm a DISARMED entry and create the re-triggers that it holds; of an ARMED one clear the rate window. -/
def execWarm (sa : BitVec 6) (s : State) : Out :=
  entryArg s sa false (fun idx w? =>
    match w? with
    | none => stallS s
    | some w =>
      let part := s.g.id.part
      if w.state = 1 then .next (advS (modWatch s part idx (fun x => { x with winStart := 0, winCount := 0 })))
      else
        let s1 := modWatch s part idx (fun x => { x with state := 1, reason := 0, winStart := 0, winCount := 0, held := [] })
        .next (advS (w.held.foldl (fun u r => retrigger u part r) s1)))

/-- Word `k` of a trigger record (R170). -/
def trigRecWord (r : TrigRec) (k : Nat) : Word :=
  match k with
  | 0 =>
    BitVec.ofNat 64 (min r.depth 31 + r.entry * 2 ^ 16 + b2n r.merged * 2 ^ 25 + b2n r.rearm * 2 ^ 26 + r.count * 2 ^ 32)
  | 1 => BitVec.ofNat 64 r.addr
  | 2 => r.first
  | 3 => r.latest
  | 4 => r.stamp1
  | _ => r.stamp2

/-- TRIGREC (R168, R170, R378): the events absorbed so far count as read. -/
def execTrigrec (sd k : BitVec 6) (s : State) : Out :=
  if 5 < k.toNat then badField s k.toNat 8
  else
    match s.tk.trig with
    | none => .next (finS s sd 0)
    | some r =>
      .next (finS { s with tk := { s.tk with trig := some { r with since := 0 } } } sd (trigRecWord r k.toNat))

/-- TRIGACK (R168, R378). -/
def execTrigack (s : State) : Out := .next (advS (closeTrig s s.g.id.part s.g.id.task true))

/-- WSTAT (R172, R377). -/
def execWstat (sd sa : BitVec 6) (s : State) : Out :=
  entryArg s sa true (fun idx w? =>
    match w? with
    | none => .next (finS s sd 0)
    | some w =>
      let opens := (openTrigs s s.g.id.part idx).length
      .next (finS s sd (BitVec.ofNat 64 (w.state + w.reason * 4 + opens * 2 ^ 16 + b2n (!w.held.isEmpty) * 2 ^ 23
        + w.created * 2 ^ 32))))

end Sys2Proof.Machine
end

