-- ==== Sys2Proof/Machine/Timetable.lean ====
section
/-! DEFINITION. The movement timetable (R127 to R141, R379 to R381) and the Tier Engine (R121 to R123). -/
namespace Sys2Proof.Machine

/-- An entry of a timetable from its 48 bytes (R128). -/
def ttEntryOf (b : List Byte) : TTEntry :=
  let f := frameFld b
  { marker := f 0 4, period := f 4 4, kind := f 8 1, tier := f 9 1, scope := f 0xA 1, lead := f 0xB 1, slot := f 0xC 4,
    offset := f 0x10 8, length := f 0x18 8, tstride := signed 64 (f 0x20 8), pstride := signed 64 (f 0x28 8) }

/-- The tiers that a kind allows (R130). -/
def tierAllowed (kind tier : Nat) : Bool :=
  match kind with
  | 0 => tier == 1 || tier == 2
  | 1 => 1 ≤ tier && tier ≤ 3
  | 2 => tier == 0
  | 3 => tier == 0
  | 4 => tier == 1
  | _ => tier ≤ 3

/-- The failing fields of entry `k` of a timetable (R128, R130): offset and size. -/
def ttEntryBad (b : List Byte) (k : Nat) : List (Nat × Nat) :=
  let o := 0x10 + 48 * k
  let e := ttEntryOf (b.drop o)
  let chk := fun (c : Bool) (off size : Nat) => if c then ([] : List (Nat × Nat)) else [(o + off, size)]
  chk (e.kind ≤ 5) 8 1 ++ chk (tierAllowed e.kind e.tier) 9 1 ++ chk (e.scope ≤ 1) 0xA 1
  ++ chk (e.lead == 0 || e.kind == 0 || e.kind == 3) 0xB 1 ++ chk (e.slot ≤ 255) 0xC 4
  ++ chk (1 ≤ e.length && e.length ≤ 2 ^ 40) 0x18 8 ++ chk (e.scope != 1 || e.tstride == 0) 0x20 8

/-- The first failing header field (R127). -/
def ttHeadBad (b : List Byte) : Option (Nat × Nat) :=
  let f := frameFld b
  let chk := fun (c : Bool) (off size : Nat) => if c then ([] : List (Nat × Nat)) else [(off, size)]
  (chk (1 ≤ f 0 4 && f 0 4 ≤ 4096) 0 4 ++ chk (f 4 2 == 1) 4 2 ++ chk (f 6 10 == 0) 6 10).head?

/-- What reading a timetable gives (R129, R371). -/
inductive GotTT where
  | ok (es : List TTEntry) (s : State)
  | absent (addr : Nat) (d : BitVec 192)
  | bad (s : State)                       -- misaligned or unreadable
  | field (value off : Nat)               -- the first failing field
  | stall
  | fault (f : Fault)

/-- Read and check a timetable (R127 to R130). -/
def readTT (s : State) (w : Who) (t : Team) (va : Nat) : GotTT :=
  let fieldOf := fun (b : List Byte) (x : Nat × Nat) => GotTT.field (frameFld b x.1 (min x.2 8)) x.1
  if va % 16 != 0 then .bad s
  else
    match getWords s w t 2 va with
    | .absent a d => .absent a d
    | .bad s1 => .bad s1
    | .stall => .stall
    | .fault f => .fault f
    | .ok h s1 =>
      match ttHeadBad h with
      | some x => fieldOf h x
      | none =>
        let n := frameFld h 0 4
        match getWords s1 w t (6 * n) (va + 16) with
        | .absent a d => .absent a d
        | .bad s2 => .bad s2
        | .stall => .stall
        | .fault f => .fault f
        | .ok r s2 =>
          match ((List.range n).flatMap (ttEntryBad (h ++ r))).head? with
          | some x => fieldOf (h ++ r) x
          | none => .ok ((List.range n).map (fun k => ttEntryOf (r.drop (48 * k)))) s2

/-- The marker of instance `k` (R131). -/
def markOf (e : TTEntry) (k : Nat) : Nat := e.marker + k * e.period

/-- The trigger point of a released kind (R133). -/
def triggerOf (e : TTEntry) (k : Nat) : Nat := if e.kind = 0 || e.kind = 3 then markOf e k - e.lead else markOf e k

/-- The instances of an entry whose marker lies in [lo, hi] and in the series (R131). -/
def seriesIn (e : TTEntry) (lo hi : Nat) : List Nat :=
  let top := min hi 0xFFFFFFFF
  if e.period = 0 then if lo ≤ e.marker && e.marker ≤ top then [0] else []
  else if top < e.marker then []
  else
    let first := ceilDiv (lo - e.marker) e.period
    let last := (top - e.marker) / e.period
    (List.range (last + 1 - first)).map (fun k => first + k)

/-- The instances of an entry whose trigger point lies in [lo, hi] (R133). -/
def releasedIn (e : TTEntry) (lo hi : Nat) : List Nat :=
  if e.kind = 5 then []
  else (seriesIn e lo (hi + e.lead)).filter (fun k => lo ≤ triggerOf e k && triggerOf e k ≤ hi)

/-- The start of an instance's range (R131): `rel` is the team index in the task, 0 for launch scope. -/
def rangeStart (e : TTEntry) (base rel k : Nat) : Nat :=
  wrapN 64 ((base : Int) + e.offset + e.tstride * rel + e.pstride * k)

/-- A page of a range: its base and size, its leaf if it can move, whether it is a first-touch page; otherwise R131 skips
it. -/
structure TTPage where
  va : Nat
  size : Nat
  leaf : Option Leaf
  first : Bool
deriving DecidableEq, Repr

/-- R131 skips the page. -/
def skippedPage (p : TTPage) : Bool := p.leaf.isNone && !p.first

/-- The bytes that one entry of a level maps (R115). -/
def levelSpan (level : Nat) : Nat := 2 ^ (12 + 9 * level)

/-- The page of an address as a timetable sees it (R124, R131): an invalid entry stands for what it would map. -/
def ttPage (s : State) (part ctx va : Nat) : TTPage :=
  match walkWith s (rdMem s) part ctx va with
  | .leaf l =>
    let (_, base, size) := wholePage l
    if bit l.pte 63 || 4 ≤ fld l.pte 5 3 then ⟨base, size, none, false⟩ else ⟨base, size, some l, false⟩
  | .trap num d =>
    let e := fld d.toNat 0 64
    let level := fld d.toNat 64 8
    let span := if num = 4 then levelSpan level else 4096
    ⟨va - va % span, span, none, num == 4 && level ≤ 2 && fld e 5 3 == 1 && frameOf e == 0⟩
  | .fault _ => ⟨va - va % 4096, 4096, none, false⟩

/-- The pages of [va, hi). The recursion is on fuel. -/
def ttPages (s : State) (part ctx : Nat) : Nat → Nat → Nat → List TTPage
  | 0, _, _ => []
  | n + 1, va, hi =>
    if hi ≤ va then []
    else
      let p := ttPage s part ctx va
      p :: ttPages s part ctx n (p.va + p.size) hi

/-- The pages of an instance's range, none for a range that leaves the user half (R131). -/
def rangeOf (s : State) (part ctx start len : Nat) : Option (List TTPage) :=
  if 2 ^ 55 < start + len then none else some (ttPages s part ctx (len / 4096 + 2) start (start + len))

/-- What SKIP counts for the pages of a range (R131). -/
def skipsOf (r : Option (List TTPage)) : Nat :=
  match r with
  | none => 1
  | some ps => (ps.filter skippedPage).length

/-- Add to a counter that saturates at 0xFFFF (R141). -/
def sat16 (x n : Nat) : Nat := min 0xFFFF (x + n)

/-- Add to SKIP and SHORT of the teams that an instance concerns: its team, or every team of the task (R131). -/
def countTT (s : State) (part task : Nat) (team : Option Nat) (skip short : Nat) : State :=
  modTeams s (fun t => t.part == part && t.task == task && (team.isNone || team == some t.index))
    (fun t => { t with skips := sat16 t.skips skip, short := sat16 t.short short })

/-- The word of an argument slot, read under the task's context (R131). -/
def slotWord (s : State) (t : Task) (slot : Nat) : Option Nat :=
  let w : Who := { outside t.part 0 with ctx := t.ctx, task := t.num, rev := t.rev, sup := false }
  match locate s w noTeam 0 (t.arg + 8 * slot) 8 false true with
  | .ok l s1 => if poisoned s1 (readKey s1 w l) 8 then none else some (peek s1 w l 8)
  | _ => none

/-- The slot words of the entries of a scope, by entry index. -/
def slotWordsOf (s : State) (t : Task) (es : List TTEntry) (scope : Nat) : Sparse (Option Nat) :=
  es.zipIdx.foldl (fun m e => if e.1.scope = scope then sput none m e.2 (slotWord s t e.1.slot) else m) []

/-- Entries of a scope whose slot word could not be read (R131). -/
def lostSlots (es : List TTEntry) (words : Sparse (Option Nat)) (scope : Nat) : Nat :=
  (es.zipIdx.filter (fun e => e.1.scope == scope && (sget none words e.2).isNone)).length

/-- Teams of a task that have started and not exited. -/
def startedTeams (s : State) (part task : Nat) : List Team :=
  (allTeams s).filter (fun t => t.part == part && t.task == task)

/-- The launch marker of a task (R132): none when every team has exited. -/
def launchMarker (s : State) (part task : Nat) : Option Nat :=
  match findTask s part task with
  | none => none
  | some t =>
    if t.left = 0 then none
    else
      let ts := startedTeams s part task
      if ts.length < t.left then some 0
      else (ts.map (fun x => x.marker.toNat)).min?

/-- The marker of an instance's scope has passed m_k, or its team has exited (R133). -/
def instExpired (s : State) (part : Nat) (i : Instance) : Bool :=
  match (findTask s part i.task).bind (fun t => t.tt.bind (fun b => b.entries[i.entry]?)) with
  | none => true
  | some e =>
    if e.kind != 0 then false
    else
      match i.team with
      | some k =>
        match findTeam s part i.task k with
        | none => true
        | some t => markOf e i.k < t.marker.toNat
      | none =>
        match launchMarker s part i.task with
        | none => true
        | some m => markOf e i.k < m

/-- End the FETCH holds of a task that have expired (R133). -/
def expireHolds (s : State) (part task : Nat) : State :=
  endHolds s part none (fun h => !h.pin && h.inst.task == task && instExpired s part h.inst)

/-- Granules of 4 KiB wholly inside [start, start + len) that lie on a page (R137). -/
def dropGranules (start len : Nat) (p : TTPage) : List Nat :=
  let lo := max (ceilDiv start 4096) (p.va / 4096)
  let hi := min ((start + len) / 4096) ((p.va + p.size) / 4096)
  (List.range (hi - lo)).map (fun k => 4096 * (lo + k))

/-- A DROP leaves the granule (R137): its page is WATCHED, or an open revision covers it. -/
def dropExempt (s : State) (part ctx va : Nat) (l : Leaf) : Bool :=
  bit l.pte 9 || ((findPart s part).map (fun p => p.revs.any (fun r => revCovers r ctx va))).getD false

/-- Release one DROP (R137): its granules are noted at once, for the accesses of team `waits` that follow; the instance takes its place
among the released ones. -/
def releaseDrop (s : State) (part ctx : Nat) (i : Instance) (len : Nat) (waits : Option Nat) : State :=
  let gs := ((rangeOf s part ctx i.start len).getD []).flatMap (fun p => if p.leaf.isNone then [] else dropGranules i.start len p)
  modPart s part (fun p =>
    { p with insts := p.insts ++ [i], drops := p.drops ++ gs.map (fun va => ⟨i, ctx, va, waits, false⟩) })

/-- Release an instance (R133, R137); `waits` is the team whose MARK released it. -/
def releaseInst (s : State) (part ctx : Nat) (e : TTEntry) (i : Instance) (waits : Option Nat) : State :=
  if e.kind = 2 then releaseDrop s part ctx i e.length waits else modPart s part (fun p => { p with insts := p.insts ++ [i] })

/-- Instances released by a scope whose marker reaches trigger points in [lo, hi], in the order of R133. -/
def dueInsts (die task : Nat) (es : List TTEntry) (words : Sparse (Option Nat)) (scope : Nat) (team : Option Nat) (rel lo hi : Nat) :
    List (TTEntry × Instance) :=
  let due := es.zipIdx.flatMap (fun e =>
    match sget none words e.2 with
    | none => []
    | some base =>
      if e.1.scope != scope then []
      else (releasedIn e.1 lo hi).map (fun k =>
        (e.1, ({ die := die, done := 0, task := task, team := team, entry := e.2, k := k, trigger := triggerOf e.1 k,
                 start := rangeStart e.1 base rel k, woke := none } : Instance))))
  sortBy (fun x y => x.2.trigger < y.2.trigger || (x.2.trigger == y.2.trigger
    && (x.2.entry < y.2.entry || (x.2.entry == y.2.entry && x.2.k ≤ y.2.k)))) due

/-- Release the team-scope instances of a team with trigger points in [lo, hi] (R133). -/
def releaseTeam (s : State) (part task idx lo hi : Nat) : State :=
  match findTask s part task, findTeam s part task idx with
  | some t, some tm =>
    match t.tt with
    | none => s
    | some b =>
      (dueInsts (dieOf tm.core) task b.entries tm.slotWords 0 (some idx) (idx - t.lo) lo hi).foldl
        (fun u e => releaseInst u part t.ctx e.1 e.2 (some idx)) s
  | _, _ => s

/-- Release the launch-scope instances of a task with trigger points in [lo, hi] (R133): team `by'` on die `die` has raised the launch
marker; with none they go to die 0 (log 109). -/
def releaseLaunch (s : State) (part task lo hi : Nat) (die : Nat) (by' : Option Nat) : State :=
  match findTask s part task with
  | none => s
  | some t =>
    match t.tt with
    | none => s
    | some b =>
      (dueInsts die task b.entries b.slotWords 1 none 0 lo hi).foldl (fun u e => releaseInst u part t.ctx e.1 e.2 by') s

/-- After a team's marker or end: the launch marker may have risen from `old` (R132, R133). -/
def launchMoved (s : State) (part task : Nat) (old : Option Nat) (die : Nat) (by' : Option Nat) : State :=
  let s1 := match old, launchMarker s part task with
    | some a, some b => if a < b then releaseLaunch s part task (a + 1) b die by' else s
    | _, _ => s
  expireHolds s1 part task

/-- A team's timetable at its start (R131, R133): slot words, then the instances with trigger point 0. -/
def startTeamTT (s : State) (part task idx : Nat) : State :=
  match findTask s part task with
  | none => s
  | some t =>
    match t.tt with
    | none => s
    | some b =>
      let words := slotWordsOf s t b.entries 0
      let lost := lostSlots b.entries words 0 + lostSlots b.entries b.slotWords 1
      let s1 := modTeam s part task idx (fun x => { x with slotWords := words, skips := sat16 x.skips lost })
      releaseTeam s1 part task idx 0 0

/-- Bind a timetable to a task (R129, R131, R380): slot words of launch-scope entries and of the teams already started,
then every instance at or below its scope's marker is released. -/
def bindTT (s : State) (part task va policy : Nat) (es : List TTEntry) : State :=
  match findTask s part task with
  | none => s
  | some t =>
    let launch := slotWordsOf s t es 1
    let words := slotWordsOf s t es 0
    let lost := lostSlots es words 0 + lostSlots es launch 1
    let s1 := modTask s part task (fun u => { u with tt := some ⟨va, policy, es, launch⟩ })
    let ts := startedTeams s1 part task
    let s2 := modTeams s1 (fun x => x.part == part && x.task == task)
      (fun x => { x with slotWords := words, skips := sat16 x.skips lost })
    let s3 := ts.foldl (fun u x => releaseTeam u part task x.index 0 x.marker.toNat) s2
    releaseLaunch s3 part task 0 ((launchMarker s3 part task).getD 0) (dieOf s3.g.core)
      (if s3.g.live && s3.g.id.part == part && s3.g.id.task == task then some s3.g.id.team else none)

/-- A page satisfies a CHECK of tier `t` (R131, R135). -/
def pageMeets (p : Partition) (ctx t : Nat) (g : TTPage) : Bool :=
  match g.leaf with
  | some l => fld l.pte 5 3 ≤ t && !inTransit p ctx g.va
  | none => !g.first || t != 0

/-- A CHECK instance that a MARK crosses. -/
structure Crossed where
  mark : Nat
  idx : Nat
  k : Nat
  tier : Nat
  start : Nat
  len : Nat
deriving DecidableEq, Repr

/-- The CHECK instances that the team in focus crosses from `m` to `v` (R133, R135). DESIGN CHOICE: in the order of release, entry and
k, then of rising address, which says whose page is the first unsatisfied one (log 121). -/
def crossedBy (s : State) (m v : Nat) : List Crossed :=
  match s.tk.tt with
  | none => []
  | some b =>
    let l := b.entries.zipIdx.flatMap (fun e =>
      let word := if e.1.scope = 1 then sget none b.slotWords e.2 else sget none s.tm.slotWords e.2
      let rel := if e.1.scope = 1 then 0 else s.tm.index - s.tk.lo
      match word with
      | none => []
      | some base =>
        if e.1.kind != 5 then []
        else (seriesIn e.1 (m + 1) v).map (fun k =>
          (⟨markOf e.1 k, e.2, k, e.1.tier, rangeStart e.1 base rel k, e.1.length⟩ : Crossed)))
    sortBy (fun x y => x.mark < y.mark || (x.mark == y.mark && (x.idx < y.idx || (x.idx == y.idx && x.k ≤ y.k)))) l

/-- What SKIP counts in one evaluation of the crossed instances (R135). -/
def crossedSkips (s : State) (cs : List Crossed) : Nat :=
  cs.foldl (fun n c => n + skipsOf (rangeOf s s.g.id.part s.tk.ctx c.start c.len)) 0

/-- The unsatisfied pages of the crossed instances, in order (R135). -/
def unmet (s : State) (cs : List Crossed) : List (Crossed × TTPage) :=
  cs.flatMap (fun c => (((rangeOf s s.g.id.part s.tk.ctx c.start c.len).getD []).filter
    (fun g => !pageMeets s.pt s.tk.ctx c.tier g)).map (fun g => (c, g)))

/-- A move of a page to a tier. -/
def moveOf (ctx tier : Nat) (inst : Option Instance) (g : TTPage) : List Move :=
  match g.leaf with
  | none => []
  | some l => [⟨ctx, g.va, g.size, (wholePage l).1, tier, inst, 0⟩]

/-- The moves that a stalled MARK asks of the Tier Engine, at the head of its order (R135). -/
def stallMoves (s : State) (us : List (Crossed × TTPage)) : List Move :=
  (us.filter (fun u => !inTransit s.pt s.tk.ctx u.2.va)).foldl (fun acc u =>
    if acc.any (fun m => m.va == u.2.va) then acc else acc ++ moveOf s.tk.ctx u.1.tier none u.2) []

/-- A group of the team in focus is debug-halted: the halt has stopped it at a run boundary (R139, R273). -/
def teamHalted (s : State) : Bool :=
  (teamGroups s s.g.id.part s.g.id.task s.g.id.team).any (fun g => g.halted && g.ln.pos != .inRun && !g.ended && !g.killed)

/-- The effect of MARK on the marker (R132, R133): releases, and holds that expire. -/
def setMarker (s : State) (v : Nat) : State :=
  let part := s.g.id.part
  let task := s.g.id.task
  let old := launchMarker s part task
  let m := s.tm.marker.toNat
  let s1 := { s with tm := { s.tm with marker := BitVec.ofNat 32 v } }
  launchMoved (releaseTeam s1 part task s.g.id.team (m + 1) v) part task old (dieOf s.g.core) (some s.g.id.team)

/-- The limits of R379 on a marker value, as the detail of ILLEGAL_OPERAND. -/
def markBad (s : State) (v : Word) : Option (BitVec 192) :=
  if fld v.toNat 32 32 != 0 then some (opDetail 3 v.toNat 32)
  else if v.toNat < s.tm.marker.toNat then some (opDetail 3 v.toNat 0)
  else none

/-- Count MISS of the team in focus (R141). -/
def countMiss (s : State) : State := { s with tm := { s.tm with miss := sat16 s.tm.miss 1 } }

/-- Count SKIP of the team in focus (R141). -/
def countSkip (s : State) (n : Nat) : State := { s with tm := { s.tm with skips := sat16 s.tm.skips n } }

/-- The group's MARK completes, or stands stalled (R135). -/
def markSet (s : State) (b : Bool) : State := { s with g := { s.g with markStalled := b } }

/-- MARK's evaluation of the crossed CHECK instances and what follows from it (R135, R139, R140): a MARK that stands stalled waits for the
moves, and while a group of its team is halted or the partition freezes it stays so. -/
def markCheck (s : State) (v : Nat) : Out :=
  let cs := crossedBy s s.tm.marker.toNat v
  let us := unmet s cs
  let moving := us.any (fun u => inTransit s.pt s.tk.ctx u.2.va)
  if teamHalted s && s.g.markStalled then stallS s
  else if teamHalted s then .next (advS (setMarker (countSkip s cs.length) v))
  else if s.g.markStalled && (moving || !activePart s.pt) then stallS s
  else
    let s1 := markSet (countSkip s (crossedSkips s cs)) false
    match us with
    | [] => .next (advS (setMarker s1 v))
    | (c, g) :: _ =>
      match (s.tk.tt.map (fun b => b.policy)).getD 0 with
      | 1 => trapS s1 0x06 (max g.va c.start) (det [(0, c.idx), (4, c.k), (8, c.mark)])
      | 2 => .next (advS (setMarker (countMiss s1) v))
      | _ => .next (modPart (markSet s1 true) s.g.id.part (fun p =>
          if activePart p then { p with moves := stallMoves s us ++ p.moves } else p))

/-- MARK (R132, R135, R137, R379): the drops that it releases follow the stream's earlier accesses. -/
def execMark (sa : BitVec 6) (s : State) : Out :=
  let v := sreg s sa
  userOnly s
    (match markBad s v with
     | some d => trapS s 0x01 0 d
     | none =>
       if v.toNat = s.tm.marker.toNat then .next (advS (markSet s false))
       else if !quiet s .scalar then stallS s
       else markCheck s v.toNat)

/-- TTBIND (R129, R380). -/
def execTtbind (sa : BitVec 6) (policy : BitVec 2) (s : State) : Out :=
  let v := sreg s sa
  userOnly s
    (if policy == 3 then badField s 3 8
     else
       match s.tk.tt with
       | some b => if b.va == v.toNat && b.policy == policy.toNat then .next (advS s) else badState s 0 0
       | none =>
         if !quiet s .scalar then stallS s else
         match readTT s (me s) s.tm v.toNat with
         | .absent a d => trapS s 0x04 a d
         | .bad s1 => badReg s1 v 0
         | .field value off => trapS s 0x01 0 (structDetail value off 3 v.toNat)
         | .stall => stallS s
         | .fault f => .fault f
         | .ok es s1 => .next (advS (bindTT s1 s.g.id.part s.g.id.task v.toNat policy.toNat es)))

/-- A group of the team in focus is in a SCHEDULE_MISS handler (R141). -/
def teamTrapped (s : State) : Bool :=
  (teamGroups s s.g.id.part s.g.id.task s.g.id.team).any (fun g =>
    !g.killed && !g.ended && ((g.hidden.map (fun h => h.trap == 0x06)).getD false))

/-- TTSTAT (R141, R380). -/
def execTtstat (sd : BitVec 6) (s : State) : Out :=
  let pol := (s.tk.tt.map (fun b => b.policy)).getD 0
  .next (finS s sd (BitVec.ofNat 64 (pol + b2n (teamTrapped s) * 4 + b2n s.tk.tt.isSome * 8 + s.tm.skips * 2 ^ 16
    + s.tm.short * 2 ^ 32 + s.tm.miss * 2 ^ 48)))

/-- The source register of the MARK at an address of the program, if a MARK stands there (R381). -/
def markAt (s : State) (va : Nat) : Option (BitVec 6) :=
  match fetchWord { s with g := { s.g with sup := false } } va with
  | .ok w _ =>
    match decodeScalarNat w with
    | .ok (.mark sa) => some sa
    | _ => none
  | _ => none

/-- TTRESUME (R136, R381): RETH's restore, then the MARK, which spends a SKIP of the frame, without its checks. -/
def execTtresume (s : State) : Out :=
  match s.g.sup, s.g.hidden with
  | true, some h =>
    if h.trap != 0x06 then badState s 0 0
    else
      let fva := frameVA s s.g
      orTrapS s fva (translate s (me s).unit s.g.id.part s.tk.ctx fva true false true) (fun l s1 =>
        let fr := mbytes s1.mem l.addr 512
        match markAt s1 (frameFld fr 0 8) with
        | none => badState s 0 0
        | some sa =>
          if !handlerQuiet s || handlerDue s || !quiet s .scalar then stallS s
          else
            let u := leaveHandler s1 h fr
            let s2 := { u with g := { u.g with skipS := false } }
            let v := sreg s2 sa
            match markBad s2 v with
            | some d => trapS s2 0x01 0 d
            | none =>
              let s3 := countMiss s2
              .next (advS (if v.toNat = s3.tm.marker.toNat then s3 else setMarker s3 v.toNat)))
  | _, _ => badState s 0 0

/-- MARK_REEVALUATE (R135): the MARK at which group `g` stalls is evaluated again. -/
def execMarkReevaluate (s : State) : Out :=
  let s1 := focusOn s s.inp.g
  if s1.g.id != s.inp.g || !s1.g.live then .next s
  else
    match fetchScalar s1 with
    | .run (.mark sa) s2 => execMark sa s2
    | _ => .next s

/-- The L2 lines of a page (R121). -/
def pageLines (key size : Nat) : List Nat := (List.range (size / 128)).map (fun k => key / 128 + k)

/-- Pinning the lines of a page would leave a set holding pinned lines of the partition beyond half its way quota (R134). -/
def pinsTooMany (s : State) (p : Partition) (key size : Nat) : Bool :=
  let new := pageLines key size
  new.any (fun ln =>
    let die := if homeOf ln < 64 then 0 else 1
    let have' := s.dev.l2.filter (fun x => x.pinned && x.part == p.num && lineSet x.line == lineSet ln && !new.contains x.line)
    wayQuota p die / 2 < have'.length + (new.filter (fun m => lineSet m == lineSet ln)).length)

/-- Pin every line of a T0 page in the L2, filling the absent ones (R112, R121). -/
def pinLines (s : State) (part key size cls : Nat) : State :=
  (pageLines key size).foldl (fun u ln =>
    if u.dev.l2.any (fun x => x.line == ln) then
      { u with dev := { u.dev with l2 := modBy (fun x => x.line == ln) (fun x => { x with pinned := true }) u.dev.l2 } }
    else l2Fill u part ln 15 0 cls 1 true) s

/-- A page is held by a PIN or an unexpired FETCH of some task (R130, R134). -/
def heldPage (p : Partition) (ctx va size : Nat) : Bool :=
  p.holds.any (fun h => h.ctx == ctx && va ≤ h.va && h.va < va + size)

/-- The TIER of a leaf. -/
def tierOf (l : Leaf) : Nat := fld l.pte 5 3

/-- Begin an UNPIN on one page (R130, R134): the task's PIN holds and pins in transit end; a T0 page without a PIN moves to
T1. -/
def unpinPage (s : State) (part ctx : Nat) (i : Instance) (pins : Instance → Bool) (g : TTPage) : State :=
  let s1 := modPart s part (fun p => { p with moves := p.moves.map (fun m =>
    if m.ctx == ctx && m.va == g.va && (m.inst.map (fun x => x.task == i.task && pins x)).getD false then
      { m with tier := 1, inst := none } else m) })
  endHolds s1 part (some i) (fun h => h.pin && h.ctx == ctx && h.inst.task == i.task && g.va ≤ h.va && h.va < g.va + g.size)

/-- The free space of a tier for a partition is below LOW (R122), which a LOW of 0 never is. -/
def belowLow (s : State) (part tier : Nat) : Bool :=
  let low := ctlRead s part (0x2000 + 16 * tier) 8
  low != 0 && decide ((Config.tierFree s.tick part tier).toNat < low)

/-- An instance moves a page: the tier it goes to (R130, R134). -/
def goesTo (p : Partition) (ctx : Nat) (e : TTEntry) (g : TTPage) (l : Leaf) : Option Nat :=
  match e.kind with
  | 0 => if e.tier < tierOf l then some e.tier else none
  | 1 => if tierOf l < e.tier && !heldPage p ctx g.va g.size then some e.tier else none
  | 3 => if 0 < tierOf l then some 0 else none
  | 4 => if tierOf l = 0 && pinnedBy p ctx g.va then some 1 else none
  | _ => none

/-- Begin one page of an instance (R130, R133, R134): a move, a hold at once, or the page left where it is. -/
def beginPage (part ctx : Nat) (e : TTEntry) (i : Instance) (pins : Instance → Bool) (s : State) (g : TTPage) : State :=
  match g.leaf with
  | none => s
  | some l =>
    let move := modPart s part (fun p => { p with moves := p.moves ++ moveOf ctx e.tier (some i) g })
    let hold := modPart s part (fun p => { p with holds := p.holds ++ [⟨g.va, ctx, e.kind == 3, i⟩] })
    match e.kind with
    | 0 => if e.tier < tierOf l then move else if instExpired s part i then s else hold
    | 1 =>
      if e.tier ≤ tierOf l then s
      else if ((findPart s part).map (fun p => heldPage p ctx g.va g.size)).getD false then
        countTT s part i.task i.team 1 0
      else move
    | 3 => if 0 < tierOf l then move else hold
    | 4 => unpinPage s part ctx i pins g
    | _ => s

/-- Begin the pages of an instance in order (R134): the tier below LOW that stops it, the pages begun, and the state. -/
def beginPages (part ctx : Nat) (e : TTEntry) (i : Instance) (pins : Instance → Bool) : State → List TTPage → Option Nat × Nat × State
  | s, [] => (none, 0, s)
  | s, g :: r =>
    let tier := (findPart s part).bind (fun p => g.leaf.bind (goesTo p ctx e g))
    match tier.filter (belowLow s part) with
    | some t => (some t, 0, s)
    | none =>
      let (w, n, s1) := beginPages part ctx e i pins (beginPage part ctx e i pins s g) r
      (w, n + 1, s1)

/-- An UNPIN abandoned for a page: its holds end, also those that PINs in transit would leave, and the page stays in T0 (R134). -/
def dropPins (s : State) (part ctx : Nat) (i : Instance) (pins : Instance → Bool) (g : TTPage) : State :=
  let mine := fun (m : Move) =>
    m.ctx == ctx && m.va == g.va && (m.inst.map (fun x => x.task == i.task && pins x)).getD false
  modPart s part (fun p => { p with
    moves := p.moves.map (fun m => if mine m then { m with inst := none } else m),
    holds := dropBy (fun h => h.pin && h.ctx == ctx && h.inst.task == i.task && g.va ≤ h.va && h.va < g.va + g.size) p.holds })

/-- The entry of an instance. -/
def instEntry (s : State) (part : Nat) (i : Instance) : Option TTEntry :=
  (findTask s part i.task).bind (fun t => t.tt.bind (fun b => b.entries[i.entry]?))

/-- The context of an instance's task. -/
def instCtx (s : State) (part : Nat) (i : Instance) : Nat := ((findTask s part i.task).map Task.ctx).getD 0

/-- A held page that has become valid in a lower tier than its instance names (R134). -/
def strayHold (s : State) (part : Nat) (p : Partition) : List Move :=
  p.holds.flatMap (fun h =>
    match instEntry s part h.inst with
    | none => []
    | some e =>
      let g := ttPage s part h.ctx h.va
      match g.leaf with
      | none => []
      | some l => if e.tier < tierOf l && !inTransit p h.ctx g.va then moveOf h.ctx e.tier (some h.inst) g else [])

/-- Distinct begun instances that are not finished: with a move in transit, a drop that is not done, or pages not begun yet (R133). -/
def begunCount (p : Partition) : Nat :=
  let plain := fun (i : Instance) => { i with done := 0, woke := none }
  (p.moves.filterMap (fun m => m.inst) ++ (p.drops.filter (fun d => d.begun)).map Drop.inst
    ++ (p.insts.filter (fun i => i.done != 0)).map plain).eraseDups.length

/-- The demotion engine that instance `i` woke for tier `t` has found no victim (R134). -/
def givesUp (p : Partition) (i : Instance) (t : Nat) : Bool := i.woke == some t && p.noVictim.contains t

/-- The head instance `i` waits for space in tier `t`, whose demotion engine it wakes; where that engine has then found no victim, the
instance is abandoned for the pages that it has not begun (R134). -/
def waitSpace (s : State) (p : Partition) (e : TTEntry) (i : Instance) (pins : Instance → Bool) (rest : List Instance) (ps : List TTPage)
    (t : Nat) : State :=
  if givesUp p i t then
    let s1 := modPart s p.num (fun q => { q with insts := rest, noVictim := q.noVictim.filter (fun x => x != t) })
    let s2 := countTT s1 p.num i.task i.team 0 1
    if e.kind = 4 then ps.foldl (fun u g => dropPins u p.num (instCtx s p.num i) { i with done := 0, woke := none } pins g) s2 else s2
  else if i.woke == some t && p.demoting.contains t then modPart s p.num (fun q => { q with insts := i :: rest })
  else
    modPart s p.num (fun q =>
      { q with insts := { i with woke := some t } :: rest, noVictim := q.noVictim.filter (fun x => x != t),
               demoting := if q.demoting.contains t then q.demoting else q.demoting ++ [t] })

/-- The drops of a released instance begin (R133, R137). -/
def beginDrop (s : State) (part : Nat) (i : Instance) (rest : List Instance) : State :=
  modPart s part (fun q =>
    { q with insts := rest, drops := q.drops.map (fun d => if d.inst == i then { d with begun := true } else d) })

/-- TIER_ENGINE_INSTANCE_BEGIN (R133, R134, R140): the Tier Engine of die `idx` of partition `part` moves held pages that turned valid
below their tier, else begins its first released instance; a page of it in transit, a tier below LOW, or 4096 begun instances, make it
wait. What a partition still owes from a freeze comes first. -/
def execTierEngineInstanceBegin (s : State) : Out :=
  let part := s.inp.part
  match findPart s part with
  | none => .next s
  | some p =>
    if !activePart p then .next s
    else if !p.owed.isEmpty then .next (modPart s part (fun q => { q with moves := q.moves ++ q.owed, owed := [] }))
    else
      match strayHold s part p with
      | m :: _ =>
        .next (modPart s part (fun q =>
          { q with moves := q.moves ++ [m],
                   holds := q.holds.filter (fun h => !(h.ctx == m.ctx && h.va == m.va && m.inst == some h.inst)) }))
      | [] =>
        let order := sortBy (fun (x y : Instance) => x.trigger < y.trigger || (x.trigger == y.trigger
          && (x.entry < y.entry || (x.entry == y.entry && x.k ≤ y.k)))) (p.insts.filter (fun i => i.die == s.inp.idx))
        let others := p.insts.filter (fun i => i.die != s.inp.idx)
        match order with
        | [] => .next s
        | i :: tail =>
          let rest := tail ++ others
          match instEntry s part i with
          | none =>
            if p.drops.any (fun d => d.inst == i) && 4096 ≤ begunCount p then .next s else .next (beginDrop s part i rest)
          | some e =>
            let ctx := instCtx s part i
            let r := rangeOf s part ctx i.start e.length
            let ps := (r.getD []).drop i.done
            let pins := fun (x : Instance) => ((instEntry s part x).map (fun y => y.kind == 3)).getD false
            let waits := e.kind != 4 && e.kind != 2 && ps.any (fun g => g.leaf.isSome && inTransit p ctx g.va)
            let s0 := if i.done = 0 then countTT s part i.task i.team (skipsOf r) 0 else s
            if waits || (i.done = 0 && 4096 ≤ begunCount p) then .next s
            else if e.kind = 2 then .next (beginDrop s0 part i rest)
            else
              let i1 := { i with done := 0, woke := none }
              match beginPages part ctx e i1 pins (modPart s0 part (fun q => { q with insts := rest })) ps with
              | (none, _, s1) => .next s1
              | (some t, n, s1) =>
                if n = 0 && i.done = 0 && !givesUp p i t then .next (waitSpace s p e i pins rest ps t)
                else .next (waitSpace s1 p e { i with done := i.done + n } pins rest (ps.drop n) t)

/-- Copy what a page holds to its new frame: bytes, poisoned lines, write stamps, migration bits (R123, R149, R158, R265). -/
def carryPage (s : State) (part src dst size : Nat) : State :=
  let inSrc := fun (key : Nat) => src ≤ key && key < src + size
  let s1 := { s with mem := mputs s.mem dst (mbytes s.mem src size),
                     dev := { s.dev with poison := poisonCopied s.dev.poison src dst size, l2 := s.dev.l2.filter (fun x => !inSrc (x.line * 128)) } }
  let s2 := modPart s1 part (fun p =>
    { p with stamps := p.stamps.foldl (fun m e =>
        if inSrc (4 * e.1) then sput 0 m (e.1 - src / 4 + dst / 4) e.2 else m) p.stamps })
  markDirtyRange s2 part dst size

/-- The key of the frame that a tier gives a page (R121, log 12). -/
def frameKey (tier frame : Nat) : Nat := physKey (if tier ≤ 1 then 0 else tier - 1) frame

/-- The bits an entry takes with a move: TIER, FRAME, and A for a page moved up (R123, R134). -/
def movedPte (e tier frame : Nat) (up : Bool) : Nat :=
  let e1 := withTier e tier - frameOf e + frame
  if up && !bit e1 59 then e1 + 2 ^ 59 else e1

/-- A hold that a completed move leaves, unless its instance has expired (R133). -/
def holdAfter (s : State) (part : Nat) (m : Move) : State :=
  match m.inst with
  | none => s
  | some i =>
    match instEntry s part i with
    | none => s
    | some e =>
      if e.kind = 3 || (e.kind = 0 && !instExpired s part i) then
        modPart s part (fun p => { p with holds := p.holds ++ [⟨m.va, m.ctx, e.kind == 3, i⟩] })
      else s

/-- A location on a moved page at its new frame: `key` is the page's new key (R123, R126). -/
def movedLoc (ctx va size key tier : Nat) (c : Nat) (l : Loc) : Loc :=
  if c == ctx && !l.scratch && va ≤ l.va && l.va < va + size then { l with addr := key + (l.va - va), t0 := tier == 0 } else l

/-- The stores, atomics and copy shadows that stalled on a page in transit go on at its new frame (R123, R126). -/
def relocate (s : State) (part ctx va size key tier : Nat) : State :=
  let fix := fun (g : Group) =>
    let c := ((findTask s g.id.part g.id.task).map Task.ctx).getD 0
    let loc := movedLoc ctx va size key tier c
    { g with en := { g.en with
        acc := g.en.acc.map (fun a => { a with lanes := a.lanes.map (fun x => { x with loc := loc x.loc }) }),
        copies := g.en.copies.map (fun x => { x with shadow := x.shadow.map (fun e => (e.1, loc e.2.1, e.2.2)) }) } }
  modGroups s (fun g => g.id.part == part) fix

/-- A move to a tier stays within HBM, where the page keeps its frame (R121, log 12). -/
def staysPut (l : Leaf) (tier : Nat) : Bool := tierOf l ≤ 1 && tier ≤ 1

/-- A frame that a move can take (R10, R12, R116): aligned to the page, and of memory that exists. -/
def frameFits (s : State) (size frame tier : Nat) : Bool :=
  frame % size == 0 && frame < 2 ^ 52 && physOk s.dev.t2Bytes (frameKey tier frame + size - 1)

/-- What copies kept of a page's old entry goes with the move: none of them reads the page any more (R123, R126). -/
def forgetOld (s : State) (part ctx va size : Nat) : State :=
  modPart s part (fun p => { p with tlb := dropBy (fun t => t.ctx == ctx && t.va < va + size && va < t.va + t.size) p.tlb })

/-- Complete a move to a frame (R121, R123): within HBM the frame stays. -/
def finishMove (s : State) (part : Nat) (m : Move) (l : Leaf) (frame : Nat) (tier : Nat) : Out :=
  let src := leafKey l.pte m.va l.size
  let inPlace := staysPut l tier
  let dst := if inPlace then src else frameKey tier frame
  let s1 := if inPlace then s else carryPage s part src dst m.size
  let up := decide (tier < tierOf l)
  let s2 := rewritePage s1 part m.ctx l (fun k e =>
    movedPte e tier (if inPlace then frameOf e else frame + 4096 * k) up)
  let s3 := if tier = 0 then pinLines s2 part dst m.size (fld l.pte 3 2) else setTier s2 part m.ctx m.va tier
  .next (holdAfter (relocate (forgetOld s3 part m.ctx m.va m.size) part m.ctx m.va m.size dst tier) part { m with tier := tier })

/-- A copy of a group has still to read global bytes in [lo, hi) (R123, R126): its source, not what it writes. -/
def copyReads (s : State) (g : Group) (c : Copy) (lo hi : Nat) : Bool :=
  let t := teamOf s g.id
  let lane := fun (x : LaneCopy) =>
    let a := if x.srcSpace = 2 then (t.kernel.cbase + x.src) % 2 ^ 64 else x.src
    !c.lanesDone.contains x.lane && x.srcSpace != 1 && a < hi && lo < a + 16
  let held := (findPart s g.id.part).map (fun p => p.tlb.any (fun e =>
    e.unit == copyUnit g.core c.id && e.va < hi && lo < e.va + e.size))
  match c.kind with
  | .tensor r => r.kind != 2 && held.getD false
  | .lanes _ _ ls => ls.any lane
  | .slot _ _ ls => ls.any lane

/-- A load of a group, a copy, or a join that holds the translation still uses the page under its old entry (R120, R123, R126, R153). -/
def readInUse (s : State) (part ctx lo hi : Nat) : Bool :=
  (allGroups s).any (fun g =>
    g.id.part == part && ((findTask s g.id.part g.id.task).map Task.ctx).getD 0 == ctx
      && (g.en.acc.any (fun a =>
          (match a.kind with
            | .load _ _ _ => true
            | _ => false)
          && a.lanes.any (fun x => !x.loc.scratch && lo ≤ x.loc.va && x.loc.va < hi))
        || g.en.copies.any (fun c => c.started && copyReads s g c lo hi)))
  || ((findPart s part).map (fun p => p.revs.any (fun r =>
      r.state == 3 && r.ctx == ctx && r.grans.any (fun g => g.home.isSome && lo ≤ g.va && g.va < hi)))).getD false

/-- SHORT counts a diverted PIN instance once (R134, R141). -/
def countShort (s : State) (part : Nat) (i : Instance) : State :=
  match findPart s part with
  | none => s
  | some p =>
    if p.shorts.contains i then s
    else countTT (modPart s part (fun q => { q with shorts := q.shorts ++ [i] })) part i.task i.team 0 1

/-- The source number of the unit that carries out a move (R24, R261): a Tier Engine or a demotion engine. -/
def moveSource (m : Move) (key : Nat) : Nat := unitSource ((m.inst.map Instance.die).getD (homeDie key)) m.unit

/-- A line whose copy alone is lost to a failed link reads sound again (R13, log 35). -/
def soundAgain (line : Nat) (o : Out) : Out :=
  match o with
  | .next s => .next { s with dev := { s.dev with poison := dropBy (fun k => k == line) s.dev.poison } }
  | x => x

/-- TIER_MOVE_COMPLETE (R123, R134): move `idx` of partition `part` ends with frame `word`, once no read uses the old entry; an input that
names no frame for it ends nothing. The copy's line at offset `off` meets `ecc` (R261, R265). -/
def execTierMoveComplete (s : State) : Out :=
  let part := s.inp.part
  match findPart s part with
  | none => .next s
  | some p =>
    match p.moves[s.inp.idx]? with
    | none => .next s
    | some m =>
      let gone := modPart s part (fun q => { q with moves := q.moves.eraseIdx s.inp.idx })
      if readInUse s part m.ctx m.va (m.va + m.size) then .next s
      else
        match pageOf s part m.ctx m.va with
        | none => .next gone
        | some l =>
          if bit l.pte 63 || 4 ≤ tierOf l || m.tier = tierOf l then .next (holdAfter gone part m)
          else
            let key := leafKey l.pte m.va l.size
            let off := s.inp.off % m.size
            let word := s.inp.word.toNat
            let pin := (m.inst.bind (instEntry s part)).map (fun e => e.kind == 3)
            let tooMany := m.tier = 0 && pin == some true && pinsTooMany s p (if staysPut l 0 then key else frameKey 0 word) m.size
            let tier := if tooMany then 1 else m.tier
            if !staysPut l tier && !frameFits s m.size word tier then .next s
            else
              let short := fun (u : State) => if tooMany then (m.inst.map (fun i => countShort u part i)).getD u else u
              let m1 := if tooMany then { m with inst := none } else m
              if tooMany && tierOf l ≤ 1 then .next (short gone)
              else if staysPut l tier then finishMove (short gone) part m1 l word tier
              else
                let (s0, bad) := unitLine gone part m.ctx (key + off) (m.va + off) (moveSource m key) s.inp.ecc
                let line := (key + off) / 64
                if bad = 0 || poisoned s0 (key + off) 1 then finishMove (short s0) part m1 l word tier
                else soundAgain line (finishMove (addPoison (short s0) [line]) part m1 l word tier)

/-- The L2 lines of a granule without dirty sectors (R137). -/
def cleanLines (s : State) (key : Nat) : State :=
  let l2 := modBy (fun x => key ≤ 128 * x.line && 128 * x.line < key + 4096) (fun x : L2Line => { x with dirty := 0 }) s.dev.l2
  { s with dev := { s.dev with l2 := l2 } }

/-- DROP_GRANULE (R137): granule `idx` of partition `part`'s drops, of a begun instance, reads zero from here on; a granule of a WATCHED
page or of an open revision region is left, and SKIP counts it. A page in transit makes it wait. -/
def execDropGranule (s : State) : Out :=
  let part := s.inp.part
  match findPart s part with
  | none => .next s
  | some p =>
    match p.drops[s.inp.idx]? with
    | none => .next s
    | some d =>
      let s1 := modPart s part (fun q => { q with drops := q.drops.eraseIdx s.inp.idx })
      if !d.begun || inTransit p d.ctx d.va then .next s
      else
        match (ttPage s part d.ctx d.va).leaf with
        | none => .next s1
        | some l =>
          if dropExempt s part d.ctx d.va l then .next (countTT s1 part d.inst.task d.inst.team 1 0)
          else
            let key := leafKey l.pte d.va l.size
            let s2 := cleanLines (clearPoison { s1 with mem := mputs s1.mem key (List.replicate 4096 0) } key 4096) key
            .next (markDirtyRange s2 part key 4096)

/-- An open revision holds a copy of a granule of the page (R122). -/
def revHolds (p : Partition) (ctx va size key : Nat) : Bool :=
  p.revs.any (fun r => revOpen r
    && ((r.ctx == ctx && r.grans.any (fun g => (g.anc.isSome || g.child.isSome) && va ≤ g.va && g.va < va + size))
        || (revFrames r).any (fun f => key ≤ physKey 0 f && physKey 0 f < key + size)))

/-- The entries of a table that memory lists, by index; an entry whose bytes are all unlisted is 0 and invalid. -/
def tableSlots (mem : Memory) (table n : Nat) : List Nat :=
  ((mem.filter (fun c => table ≤ c.1 && c.1 < table + 8 * n)).map (fun c => (c.1 - table) / 8)).eraseDups

/-- The pages that a table of a level maps, from `va` on (R115), each once. The recursion is on the level. -/
def tablePages (s : State) (part ctx : Nat) : Nat → Nat → Nat → List TTPage
  | level, table, va =>
    let n := if level = 4 then 256 else 512
    (tableSlots s.mem table n).flatMap (fun k =>
      let e := mread s.mem (table + 8 * k) 8
      let base := va + k * 2 ^ (12 + 9 * level)
      let at' := if 2 ^ 55 ≤ base then base + 2 ^ 64 - 2 ^ 56 else base
      if !bit e 0 then []
      else if bit e 1 then
        let g := ttPage s part ctx at'
        if g.va = at' then [g] else []
      else
        match level with
        | 0 => []
        | l + 1 => tablePages s part ctx l (frameOf e) base)

/-- The pages of a tier that may be victims (R122), with their contexts, in rising order of context and address. -/
def victims (s : State) (p : Partition) (tier : Nat) : List (Nat × TTPage × Leaf) :=
  (List.range 256).flatMap (fun ctx =>
    let root := rootOf s p.num ctx
    let pages := if root = 0 then [] else sortBy (fun (x y : TTPage) => x.va ≤ y.va) (tablePages s p.num ctx 4 root 0)
    pages.filterMap (fun g =>
      match g.leaf with
      | none => none
      | some l =>
        let key := leafKey l.pte g.va l.size
        if tierOf l != tier || heldPage p ctx g.va g.size || revHolds p ctx g.va g.size key || inTransit p ctx g.va then none
        else some (ctx, g, l)))

/-- The place of a page in the clock's order (R122; log 110). -/
def clockPos (x : Nat × TTPage × Leaf) : Nat := x.1 * 2 ^ 64 + x.2.1.va + 1

/-- The page that a clock hand comes to next: the first beyond it, else the first of all (R122). -/
def afterHand (l : List (Nat × TTPage × Leaf)) (hand : Nat) : Option (Nat × TTPage × Leaf) :=
  match l.find? (fun x => hand < clockPos x) with
  | some x => some x
  | none => l.head?

/-- The class from which a tier's engine chooses, and the page its hand comes to: activations, other, KV, weights (R122). -/
def nextVictim (s : State) (p : Partition) (tier : Nat) : Option (Nat × Nat × TTPage × Leaf) :=
  let all := victims s p tier
  [2, 0, 3, 1].findSome? (fun c =>
    (afterHand (all.filter (fun x => fld x.2.2.pte 3 2 == c)) (sget 0 p.hands (4 * tier + c))).map (fun x => (c, x)))

/-- DEMOTION_VICTIM_SELECT (R121, R122): the demotion engine of tier `idx` of partition `part`. It wakes below LOW or for a waiting
instance, stops at HIGH or without a victim, and else comes to the next page of its sweep: with A set it clears A and passes over;
else the page moves down, and a T3 page goes to the host demotion ring. DESIGN CHOICE: of a 64 KiB page the sweep reads and clears the A
bit of entry 0 alone, and a T3 page may enter the ring again on a later sweep (log 121). -/
def execDemotionVictimSelect (s : State) : Out :=
  let part := s.inp.part
  let tier := s.inp.idx
  match findPart s part with
  | none => .next s
  | some p =>
    let low := ctlRead s part (0x2000 + 16 * tier) 8
    let high := max low (ctlRead s part (0x2008 + 16 * tier) 8)
    let asleep := fun (q : Partition) => { q with demoting := q.demoting.filter (fun t => t != tier) }
    if !activePart p || 4 ≤ tier || !(p.demoting.contains tier || belowLow s part tier) then .next s
    else if high = 0 || decide (high ≤ (Config.tierFree s.tick part tier).toNat) then .next (modPart s part asleep)
    else
      match nextVictim s p tier with
      | none => .next (modPart s part (fun q => { asleep q with noVictim := tier :: q.noVictim.filter (fun t => t != tier) }))
      | some (c, x) =>
        let (ctx, g, l) := x
        let s1 := modPart s part (fun q =>
          { q with demoting := if q.demoting.contains tier then q.demoting else q.demoting ++ [tier],
                   noVictim := q.noVictim.filter (fun t => t != tier), hands := sput 0 q.hands (4 * tier + c) (clockPos x) })
        if bit l.pte 59 then .next (markDirtyRange { s1 with mem := mwrite s1.mem l.key 8 (l.pte - 2 ^ 59) } part l.key 8)
        else if tier = 0 then .next (setTier s1 part ctx g.va 1)
        else if tier = 3 then .next (modPart s1 part (fun q => { q with demoteRing := q.demoteRing ++ [g.va] }))
        else .next (modPart s1 part (fun q => { q with moves := q.moves ++ (moveOf ctx (tier + 1) none g).map (fun m => { m with unit := 4 + tier }) }))

end Sys2Proof.Machine
end

