-- ==== Sys2Proof/Machine/Distributor.lean ====
section
/-! DEFINITION. Bellwether, the Work Distributor (R47 to R65): what fits a core, the draw, launch records, shares and their
halving, the start, pre-emption, save and resume of teams. -/
namespace Sys2Proof.Machine

/-- The teams resident on a core (R55). -/
def residentOn (s : State) (c : Nat) : List Team :=
  (allTeams s).filter (fun t => !t.saved && (t.core == c || (t.twin && t.core + 1 == c)))

/-- HOT_CORE_REQUEST_DELAY (R58): partition `part` has had no idle cool core for 50 µs. -/
def execHotCoreRequestDelay (s : State) : Out :=
  let due := fun (p : Partition) => (p.hotSince.map (fun t => decide (50000 ≤ (s.dev.gtc - t).toNat))).getD false
  .next (modPart (noteCool s s.inp.part) s.inp.part (fun p => { p with hotMayAsk := due p }))

/-- The side of a twin team that a core is. -/
def teamSide (t : Team) (c : Nat) : Nat := if t.twin then c % 2 else 0

/-- One more team of a kernel, with its side `side`, can be reserved on core `c` beside those resident (R55, R101). An empty core
takes every kernel whose team fits an empty core. -/
def coreFits (s : State) (k : Kernel) (c side : Nat) : Bool :=
  match residentOn s c with
  | [] => true
  | ts =>
    let all := (k, side) :: ts.map (fun t => (t.kernel, teamSide t c))
    let sum := fun (f : Kernel × Nat → Nat) => all.foldl (fun acc x => acc + f x) 0
    (coreOf s c).spShare == k.share
    && (List.range 4).all (fun q =>
      sum (fun x => (placed x.1 x.2 q).length) ≤ 16 && sum (fun x => poolBytes x.1 (placed x.1 x.2 q)) ≤ 256 * 1024)
    && sum (fun x => onCore x.1 x.2 * x.1.width) ≤ 4096
    && sum (fun x => x.1.spbytes) ≤ k.share * 131072
    && k.share * 131072 + sum (fun x => onCore x.1 x.2 * x.1.spill) ≤ 896 * 1024
    && sum (fun x => x.1.slotq) ≤ 16

/-- The core that holds a kernel's share for a request of core `c`: the even core of a twin for a twin kernel (R54). -/
def baseCore (k : Kernel) (c : Nat) : Nat := if twinKernel k then c - c % 2 else c

/-- A team of the kernel fits the core or its twin (R49, R55). -/
def fitsAt (s : State) (k : Kernel) (c : Nat) : Bool :=
  if twinKernel k then coreFits s k (baseCore k c) 0 && coreFits s k (baseCore k c + 1) 1 else coreFits s k c 0

/-- The save pool has a team area and group areas left for one more team (R55, R63; log 37). -/
def saveRoom (s : State) (p : Partition) (k : Kernel) : Bool :=
  let cap := 64 * (coresOf p).length
  let ts := (allTeams s).filter (fun t => t.part == p.num)
  ts.length + 1 ≤ cap && ts.foldl (fun acc t => acc + t.kernel.groups) 0 + k.groups ≤ cap

/-- Both cores of a twin must be idle for a twin kernel's share (R49, R52). -/
def idleFor (s : State) (k : Kernel) (c : Nat) : Bool :=
  if twinKernel k then idleCore s (baseCore k c) && idleCore s (baseCore k c + 1) else idleCore s c

/-- The core, or for a twin kernel the twin, is cool (R57). -/
def coolFor (s : State) (k : Kernel) (c : Nat) : Bool :=
  if twinKernel k then coolCore s (baseCore k c) && coolCore s (baseCore k c + 1) else coolCore s c

/-- Work of the kernel may go to a core that asks, though the core or its partner is not cool: after the delay of R58 alone. DESIGN CHOICE: a
twin that holds one core that is not cool counts as such a core (log 99). -/
def warmFor (s : State) (p : Partition) (k : Kernel) (c : Nat) : Bool := coolFor s k c || p.hotMayAsk

/-- A piece of work of the kernel can go to a core that asks. -/
def takes (s : State) (p : Partition) (k : Kernel) (c : Nat) : Bool :=
  idleFor s k c && fitsAt s k c && saveRoom s p k && warmFor s p k c

/-- Set the scratchpad share of an empty core, or of both cores of an empty twin (R55). -/
def setShare (s : State) (k : Kernel) (base : Nat) : State :=
  let one := fun (u : State) (c : Nat) =>
    if (residentOn u c).isEmpty then modCore u c (fun x => { x with spShare := k.share }) else u
  if twinKernel k then one (one s base) (base + 1) else one s base

/-- Give a core a share (R49); `hot`: it asked while it was not cool (R58). -/
def giveShare (s : State) (c part task lo hi : Nat) : State :=
  let k := kernelFor s part task
  let b := baseCore k c
  let u := modCore s b (fun x => { x with share := some ⟨part, task, lo, hi, !coolFor s k c⟩, asked := none })
  setShare (if twinKernel k then modCore u (b + 1) (fun x => { x with asked := none }) else u) k b

/-- A share whose core has turned cool is one that any other core could hold (R58). -/
def coolShare (s : State) (core : Nat) : State :=
  let one := fun (u : State) (c : Nat) =>
    match (coreOf u c).share with
    | none => u
    | some sh => if sh.hot && coolFor u (kernelFor u sh.part sh.task) c then modCore u c (fun x => { x with share := some { sh with hot := false } }) else u
  one (one s core) (core - core % 2)

/-- What a change of a core's placement state brings (R57, R58). -/
def notePlace (s : State) (core : Nat) : State :=
  let s1 := coolShare s core
  match ownerOf s core with
  | none => s1
  | some p => noteCool s1 p.num

/-- TEMP_REFRESH (R26, R57): TEMP of core `core` takes `word`, and HOT follows the partition's T_hot. A core of no partition
enters no placement state. -/
def execTempRefresh (s : State) : Out :=
  if 216 ≤ s.inp.core then .next s
  else
    let t : BitVec 16 := zx 16 s.inp.word
    let hot := fun (c : Core) =>
      match ownerOf s s.inp.core with
      | none => c.hot
      | some p => if 4 * (p.thot.toNat : Int) ≤ t.toInt then true else if t.toInt ≤ 4 * ((p.thot.toNat : Int) - 6) then false else c.hot
    .next (notePlace (modCore s s.inp.core (fun c => { c with temp := t, hot := hot c })) s.inp.core)

/-- VOLTAGE_DROOP_EVENT (R57): the fourth event of core `core` within 1 ms makes it DROOPY. -/
def execVoltageDroopEvent (s : State) : Out :=
  let now := s.dev.gtc.toNat
  if 216 ≤ s.inp.core then .next s
  else
    let droop := fun (c : Core) =>
      let ts := c.droopTimes.filter (fun t => now ≤ t + 1000000) ++ [now]
      { c with droopTimes := ts, droopy := c.droopy || 4 ≤ ts.length }
    .next (notePlace (modCore s s.inp.core droop) s.inp.core)

/-- DROOPY_EXIT (R57): 4 ms have passed without a droop event on core `core`. -/
def execDroopyExit (s : State) : Out :=
  let now := s.dev.gtc.toNat
  let c := coreOf s s.inp.core
  if !c.droopy || !c.droopTimes.all (fun t => t + 4000000 ≤ now) then .next s
  else .next (notePlace (modCore s s.inp.core (fun x => { x with droopy := false })) s.inp.core)

/-- One step of a xorshift generator (R50, R81). -/
def xorshift (x : BitVec 32) : BitVec 32 :=
  let a := x ^^^ (x <<< 13)
  let b := a ^^^ (a >>> 17)
  b ^^^ (b <<< 5)

/-- The first source whose running sum of tickets exceeds `r`. -/
def pickTicket : List (Nat × Nat) → Nat → Nat → Option Nat
  | [], _, _ => none
  | (k, t) :: rest, acc, r => if r < acc + t then some k else pickTicket rest (acc + t) r

/-- The winner of a draw among sources with tickets (R50, R81): the first whose age has reached `bound`, else by tickets with the
advanced generator. -/
def drawWin (x : BitVec 32) (age : Nat → Nat) (bound : Nat) (e : List (Nat × Nat)) : Option Nat :=
  match e.find? (fun k => bound ≤ age k.1) with
  | some k => some k.1
  | none =>
    let t := e.foldl (fun acc k => acc + k.2) 0
    if t = 0 then none else pickTicket e 0 (x.toNat % t)

/-- Ages after a draw (R50): the winner's is 0, those of the others of the draw rise, those of empty sources are 0. -/
def ageStep (ages : Sparse Nat) (e live : List Nat) (win : Nat) : Sparse Nat :=
  (List.range 66).foldl (fun (m : Sparse Nat) k =>
    if e.contains k then (if k = win then sput 0 m k 0 else sput 0 m k (sget 0 m k + 1))
    else if live.contains k then m else sput 0 m k 0) ages

/-- The address of the record that count `t` of a queue names (R31). -/
def recordVA (q : Queue) (t : Nat) : Nat := q.base.toNat + 128 * (t % 2 ^ q.log2n.toNat)

/-- The bytes of a launch record that the part reads, 0x00 to 0x3F, each of its 8-byte words read in the supervisor context (R28, R31,
R34). -/
def recordBytes (s : State) (part va : Nat) : Option (List Byte) :=
  let ws := (List.range 8).map (fun k => supRead s part (va + 8 * k) 8)
  if ws.all Option.isSome then some (ws.flatMap (fun w => natBytes 8 (w.getD 0))) else none

/-- The record before HEAD of a queue has not completed (R34, R48). -/
def prevRuns (s : State) (p : Partition) (k : Nat) (q : Queue) : Bool :=
  (allTasks s).any (fun t => t.part == p.num && t.source == 0 && t.queue == k && t.record == q.head - 1)

/-- A launch queue counts as non-empty in a draw (R48). -/
def queueReady (s : State) (p : Partition) (k : Nat) : Bool :=
  let q := queueOf p k
  queueOn p q && q.head != q.tail
    && !(prevRuns s p k q && (recordBytes s p.num (recordVA q q.head.toNat)).any (fun b => bit (frameFld b 0x21 1) 1))

/-- Tickets of the oldest task of a waiting queue. -/
def frontTickets (s : State) (p : Partition) (l : List Nat) : Nat :=
  match l with
  | [] => 0
  | n :: _ => ((findTask s p.num n).map Task.tickets).getD 0

/-- The non-empty sources of a partition with their tickets, in index order (R48). -/
def sourcesOf (s : State) (p : Partition) : List (Nat × Nat) :=
  ((List.range 64).filter (queueReady s p)).map (fun k => (k, (queueOf p k).tickets.toNat))
  ++ (if p.qf.isEmpty then [] else [(64, frontTickets s p p.qf)]) ++ (if p.qt.isEmpty then [] else [(65, frontTickets s p p.qt)])

/-- The ages of a partition's empty sources are 0 (R50). -/
def settleAges (s : State) (part : Nat) : State :=
  match findPart s part with
  | none => s
  | some p =>
    if p.ages.isEmpty then s
    else
      let live := (sourcesOf s p).map Prod.fst
      modPart s part (fun q => { q with ages := q.ages.filter (fun e => live.contains e.1) })

/-- TAIL_WORD_EVENT (R31, R33): the tail word of queue `idx` of partition `part` has changed. -/
def execTailWordEvent (s : State) : Out :=
  if s.inp.idx < 64 then .next (settleAges (wakeQueue s s.inp.part s.inp.idx) s.inp.part) else .next s

/-- QUEUE_STOP_CLEAR (R32, R33): the ones of `word` clear QSTAT bits of queue `idx`, and the Work Distributor resumes from
HEAD. -/
def execQueueStopClear (s : State) : Out :=
  if 64 ≤ s.inp.idx then .next s
  else
    let clear := fun (q : Queue) => { q with qstat := q.qstat &&& ~~~(zx 3 s.inp.word) }
    .next (settleAges (wakeQueue (modQueue s s.inp.part s.inp.idx clear) s.inp.part s.inp.idx) s.inp.part)

/-- PC_CTL_RUN (R29, R30): RUN of partition `part` is written with `flag`. -/
def execPcCtlRun (s : State) : Out := .next (settleAges (modPart s s.inp.part (fun p => setRun p s.inp.flag)) s.inp.part)

/-- PC_CTL_DRAIN (R29, R33): DRAIN of partition `part` is written with `flag`. -/
def execPcCtlDrain (s : State) : Out :=
  .next (settleAges (modPart s s.inp.part (fun p => { p with drain := s.inp.flag })) s.inp.part)

/-- The sources that a draw considers (R51): only the pre-empting queues when one of them is non-empty. -/
def drawSources (p : Partition) (l : List (Nat × Nat)) : List (Nat × Nat) :=
  let pre := l.filter (fun k => k.1 < 64 && (queueOf p k.1).preempt)
  if pre.isEmpty then l else pre

/-- The first failing field of a launch record's bytes (R34, R35). -/
def recordBad (b : List Byte) : Option Nat :=
  let f := frameFld b
  if 2 < f 0x20 1 then some 0x20
  else if fld (f 0x21 1) 2 6 != 0 then some 0x21
  else if 63 < f 0x22 1 && f 0x22 1 != 0xFF then some 0x22
  else if f 0x23 29 != 0 then some 0x23
  else none

/-- What taking a record gives: a task, nothing, or the model's fault. -/
inductive Taken where
  | task (num : Nat) (s : State)
  | none (s : State)
  | fault (f : Fault)

/-- A faulty record (R35): code 4, the LAUNCH_ERROR record, and HEAD moves on. -/
def failRecord (s : State) (part k va : Nat) (msix : Bool) (vec sva off kind : Nat) : Taken :=
  let s1 := completeLaunch s part (va + 0x78) 4 msix vec
  .none (modQueue (launchError s1 part k sva off kind va) part k (fun q => { q with head := q.head + 1 }))

/-- Create the task of a record that passed its checks (R34, R47): an empty launch completes at once. -/
def makeLaunch (s : State) (part k : Nat) (q : Queue) (b : List Byte) (va : Nat) (kn : Kernel) (es : Option (List TTEntry))
    (msix : Bool) (vec : Nat) : Taken :=
  let f := frameFld b
  let lo := f 8 4
  let hi := f 0xC 4
  let s1 := modQueue s part k (fun x => { x with head := x.head + 1 })
  if hi ≤ lo then .none (completeLaunch s1 part (va + 0x78) 0 msix vec)
  else
    match findPart s1 part with
    | none => .none s1
    | some p =>
      let num := freshTask s1 p
      let t : Task :=
        { noTask with live := true, part := part, num := num, ctx := q.ctx.toNat, source := 0, queue := k, kernel := kn,
                      arg := f 0x10 8, lo := lo, hi := hi, tickets := q.tickets.toNat, record := q.head, complVA := va + 0x78, msix := msix,
                      vector := vec, left := hi - lo }
      let s2 := addTask (modPart s1 part (fun x => { x with nextTask := num % (2 ^ 32 - 1) + 1 })) t
      match es with
      | none => .task num s2
      | some l => .task num (bindTT s2 part num (f 0x18 8) (f 0x20 1) l)

/-- Take the record at HEAD of a queue and check it in the order of R35 (R33 to R35, R129, R302). DESIGN CHOICE: a record that asks for a
message with a vector that R35 refuses sends none (log 123). -/
def takeRecord (s : State) (part k : Nat) (q : Queue) : Taken :=
  let va := recordVA q q.head.toNat
  match recordBytes s part va with
  | none => .none (launchError (stopQueue s part k 4) part k va 0 0 va)
  | some b =>
    let f := frameFld b
    let vec := if f 0x22 1 = 0xFF then q.vec.toNat else f 0x22 1
    let msix := bit (f 0x21 1) 0 && vec ≤ 63
    let fail := fun (u : State) => failRecord u part k va msix vec
    let w := { outside part distSource with ctx := q.ctx.toNat }
    match recordBad b with
    | some off => fail s va off 0
    | none =>
      if rootOf s part q.ctx.toNat = 0 then fail s (ctlVA + 0x3000 + 16 * q.ctx.toNat) 0 3
      else
        match getKernel s w noTeam (f 0 8) with
        | .bad off _ s1 => fail s1 (f 0 8) off 1
        | .stall => .none s
        | .fault x => .fault x
        | .ok kn s1 =>
          let ttva := f 0x18 8
          if ttva = 0 then makeLaunch s1 part k q b va kn none msix vec
          else
            match readTT s1 w noTeam ttva with
            | .ok es s2 => makeLaunch s2 part k q b va kn (some es) msix vec
            | .field _ off => fail s1 ttva off 2
            | .absent _ _ => fail s1 ttva 0 2
            | .bad s2 => fail s2 ttva 0 2
            | .stall => .none s
            | .fault x => .fault x

/-- Take the oldest task of QF or QT (R48). -/
def takeFront (s : State) (part : Nat) (fork : Bool) : Taken :=
  match findPart s part with
  | none => .none s
  | some p =>
    match if fork then p.qf else p.qt with
    | [] => .none s
    | n :: _ => .task n (modPart s part (fun q =>
        { q with qf := if fork then q.qf.drop 1 else q.qf, qt := if fork then q.qt else q.qt.drop 1 }))

/-- A draw of a partition (R50, R51) and what its winner yields: the winner's index with it. -/
def drawTask (s : State) (p : Partition) : Option (Nat × Taken) :=
  let live := sourcesOf s p
  let e := drawSources p live
  if e.isEmpty then none
  else
    let x := xorshift p.x
    match drawWin x (sget 0 p.ages) 4096 e with
    | none => none
    | some win =>
      let s1 := modPart s p.num (fun q =>
        { q with x := x, ages := ageStep q.ages (e.map Prod.fst) (live.map Prod.fst) win })
      some (win, if win < 64 then takeRecord s1 p.num win (queueOf p win) else takeFront s1 p.num (win == 64))

/-- A team of a pre-empting queue (R62). -/
def preempting (s : State) (t : Team) : Bool :=
  match findTask s t.part t.task, findPart s t.part with
  | some k, some p => k.source == 0 && (queueOf p k.queue).preempt
  | _, _ => false

/-- Begin to pre-empt a team (R61): its groups stop at their next run boundaries and drain, and their YIELD marks go (R329). A team that is being saved is pre-empted
again after its resume (R65). -/
def drainTeam (s : State) (t : Team) : State :=
  if t.saving then modTeam s t.part t.task t.index (fun x => { x with again := true })
  else
    let s1 := modTeam s t.part t.task t.index (fun x => { x with saving := true })
    modGroups s1 (fun g => g.id.part == t.part && g.id.task == t.task && g.id.team == t.index)
      (fun g => { g with draining := true, yielded := false, drainAt := s.dev.gtc })

/-- Move the remainder of a core's share to the resume list (R62), on the odd core of a twin that of the twin. -/
def shareAway (s : State) (c : Nat) : State :=
  match shareAt s c with
  | none => s
  | some sh =>
    let b := if (coreOf s c).share.isSome then c else c - 1
    let s1 := modCore s b (fun x => { x with share := none })
    let rest := fun (p : Partition) => { p with resume := p.resume ++ [.range sh.task sh.cur sh.hi] }
    noteCool (if sh.hi ≤ sh.cur then s1 else modPart s1 sh.part rest) sh.part

/-- Pre-empt every team on a core, and its share's remainder (R61, R62). -/
def preemptCore (s : State) (c : Nat) : State := shareAway ((residentOn s c).foldl drainTeam s) c

/-- The victim core of a pre-empting draw (R62): the latest start of its latest team, then the lowest number. -/
def preemptVictim (s : State) (p : Partition) (k : Kernel) : Option Nat :=
  let onCores := fun (c : Nat) => if twinKernel k then residentOn s c ++ residentOn s (c + 1) else residentOn s c
  let ok := fun (c : Nat) => !(onCores c).isEmpty && (onCores c).all (fun t => !preempting s t && !t.saving)
  let cand := (coresOf p).filter (fun c => (!twinKernel k || c % 2 == 0) && ok c)
  let latest := fun (c : Nat) => (onCores c).foldl (fun m t => max m t.seq) 0
  cand.foldl (fun (acc : Option Nat) c =>
    match acc with
    | none => some c
    | some d => if latest d < latest c then some c else some d) none

/-- A drawn task that the core cannot take (R49, R62): it becomes pending, and a pre-empting one where no core has room is booked on the
victim, whose teams are saved first, or waits for the first core where there is no victim, behind those that wait so already. Answers
whether the core goes on to a half. -/
def placeElsewhere (s : State) (p : Partition) (win num : Nat) : State × Bool :=
  let k := kernelFor s p.num num
  let t := (findTask s p.num num).getD noTask
  let pre := win < 64 && (queueOf p win).preempt
  let room := saveRoom s p k && (coresOf p).any (fun c => fitsAt s k c)
  if !pre || room then (modPart s p.num (fun q => { q with pending := q.pending ++ [num] }), true)
  else
    match preemptVictim s p k with
    | none => (modPart s p.num (fun q => { q with waiters := q.waiters ++ [num] }), true)
    | some c =>
      let s1 := if twinKernel k then preemptCore (preemptCore s c) (c + 1) else preemptCore s c
      (modCore s1 c (fun x => { x with booked := some ⟨p.num, num, t.lo, t.hi, true⟩ }), false)

/-- A booked task becomes the core's share when the pre-empted teams are gone (R62). -/
def takeBooked (s : State) (c : Nat) : State :=
  match (coreOf s c).booked with
  | none => s
  | some sh =>
    let k := kernelFor s sh.part sh.task
    if (residentOn s c).isEmpty && (!twinKernel k || (residentOn s (c + 1)).isEmpty) then
      setShare (modCore s c (fun x => { x with share := some sh, booked := none })) k c
    else s

/-- The share of a partition that a thief halves (R52): of the hot ones if there are any, the largest, of the lowest core. -/
def halveVictim (s : State) (p : Partition) (c : Nat) : Option (Nat × Share) :=
  let fit := fun (d : Nat) =>
    match (coreOf s d).share with
    | none => none
    | some sh =>
      let k := kernelFor s sh.part sh.task
      if sh.part = p.num && sh.cur < sh.hi && takes s p k c && baseCore k c != d then some (d, sh) else none
  let cand := (coresOf p).filterMap fit
  let hot := cand.filter (fun x =>
    !coolCore s x.1 || (twinKernel (kernelFor s x.2.part x.2.task) && !coolCore s (x.1 + 1)))
  (if hot.isEmpty then cand else hot).foldl (fun (acc : Option (Nat × Share)) x =>
    match acc with
    | none => some x
    | some y => if y.2.hi - y.2.cur < x.2.hi - x.2.cur then some x else some y) none

/-- Halve a share for core `c` (R53). -/
def halve (s : State) (c d : Nat) (sh : Share) : State :=
  let k := kernelFor s sh.part sh.task
  let hot := !coolCore s d || (twinKernel k && !coolCore s (d + 1))
  let mid := if hot then sh.cur else sh.cur + (sh.hi - sh.cur) / 2
  let rest := if mid = sh.cur then none else some { sh with hi := mid }
  giveShare (modCore s d (fun x => { x with share := rest })) c sh.part sh.task mid sh.hi

/-- The first slot of a quad that no group holds (R254). -/
def freeQslot (used : List Nat) : Nat := (((List.range 16).filter (fun k => !used.contains k)).head?).getD 0

/-- The slots in use on a quad. -/
def usedSlots (s : State) (core quad : Nat) : List Nat :=
  ((allGroups s).filter (fun g => g.core == core && g.quad == quad && !g.saved)).map Group.qslot

/-- A group of a kernel as it starts (R55, R69, R83, R84). -/
def newGroup (s : State) (k : Kernel) (id : GroupId) (base : Nat) (halts : List Halt) : Group :=
  let r := roleEntry k id.group
  let (side, quad) := placeOf k id.group
  let core := base + side
  let role := roleOf k.roles id.group 0
  { noGroup with
    live := true, id := id, role := role, width := k.width, core := core, quad := quad,
    qslot := freeQslot (usedSlots s core quad), allot := r.allot, bnd := if k.legacy then 0 else r.bnd,
    tickets := BitVec.ofNat 8 r.tickets,
    halted := halts.any (fun h => h.task == id.task && h.roles.getLsbD role),
    sc := { noGroup.sc with spc := BitVec.ofNat 64 k.sentry },
    ln := { noGroup.ln with mask := fullMask k.width } }

/-- The image of a group at DBG_IMG (R272, log 43): the frame layout of R256 at its handler slot, where a base is set. -/
def writeImage (s : State) (g : Group) : State :=
  let base := ctlRead s g.id.part 0x6010 8
  if base = 0 then s
  else (supWrite s g.id.part (base + 512 * hslot g) (frameBytes g g.sc.spc false 0xFF 0 0)).getD s

/-- Add the groups of a team, all eligible at once (R55); one that starts halted has its image (R273). -/
def addGroups (s : State) (k : Kernel) (part task idx base : Nat) (halts : List Halt) : State :=
  (List.range k.groups).foldl (fun u g =>
    let h := newGroup u k ⟨part, task, idx, g⟩ base halts
    let v := { u with groups := u.groups ++ [h] }
    if h.halted then writeImage v h else v) s

/-- Start team `idx` of a task on a core (R54, R55, R133): the team, its groups, the instances released at its start. -/
def startTeam (s : State) (p : Partition) (task idx base : Nat) : State :=
  let k := kernelFor s p.num task
  let t : Team :=
    { noTeam with live := true, part := p.num, task := task, index := idx, kernel := k, twin := twinKernel k, core := base,
                  startGtc := s.dev.gtc, seq := s.tick }
  let s1 := setShare s k base
  let s2 := { s1 with teams := s1.teams ++ [t] }
  let s3 := addGroups s2 k p.num task idx base p.halts
  startTeamTT (modTask s3 p.num task (fun x => { x with started := true })) p.num task idx

/-- The partition starts and restores teams: neither frozen, freezing, resetting nor migrated out (R45, R61). -/
def teamsRun (p : Partition) : Bool := (p.state == 1 || p.state == 2) && p.keptCtl.isNone

/-- TEAM_START (R53 to R55, R58, R62): core `core` starts the next index of its share when one team of it fits and the core, or the
twin, is cool or had to ask while it was not. -/
def execTeamStart (s : State) : Out :=
  let c := s.inp.core
  let s0 := takeBooked s c
  match (coreOf s0 c).share with
  | none => .next s0
  | some sh =>
    match findPart s0 sh.part with
    | none => .next s0
    | some p =>
      let k := kernelFor s0 sh.part sh.task
      let cool := sh.hot || coolFor s0 k c
      let tested := (coreOf s0 c).testing != [] || (twinKernel k && (coreOf s0 (c + 1)).testing != [])
      if !teamsRun p || !cool || tested || (coreOf s0 c).retiring || sh.hi ≤ sh.cur || !fitsAt s0 k c || !saveRoom s0 p k then .next s0
      else
        let rest := if sh.cur + 1 = sh.hi then none else some { sh with cur := sh.cur + 1 }
        .next (noteCool (startTeam (modCore s0 c (fun x => { x with share := rest })) p sh.task sh.cur c) p.num)

/-- What a retired twin still owes (R270): once none of its teams is left to save, the twin leaves its partition and the records are
posted. -/
def finishRetire (s : State) (core : Nat) : State :=
  let tw := core / 2
  let busy := fun (c : Nat) => !(residentOn s c).isEmpty
  if !(coreOf s (2 * tw)).retiring || busy (2 * tw) || busy (2 * tw + 1) then s
  else
    let off := fun (u : State) (c : Nat) => modCore u c (fun x => { x with retiring := false })
    let s1 := off (off s (2 * tw)) (2 * tw + 1)
    match ownerOf s1 core with
    | none => s1
    | some p =>
      let s2 := modPart s1 p.num (fun q => { q with twins := q.twins.filter (fun t => t != tw), retiredF := true })
      let s3 := postEvent s2 p.num (noneRec 0x0008 core 0 0 0) false
      severityUnit s3 p.num 0x27 core 0 0 []

/-- A group has stopped at a run boundary with its work drained (R61): its accesses have performed, remote ones too, but for those that
have failed (R20, R431; log 60). Of an ended or killed group nothing is due. -/
def drainedGroup (s : State) (g : Group) : Bool :=
  g.ended || g.saved || (!g.killed && g.ln.pos != .inRun && g.en.acc.isEmpty && g.en.copies.isEmpty && g.en.tl == 0
    && s.dev.remote.all (fun r => r.group != g.id || r.failed))

/-- The slice of a group's save area, whose place the spec does not give (R63, R195; log 9). -/
def saveSlice (id : GroupId) : Nat := Config.homeSlice (2 ^ 50 + id.team * 128 + id.group) % 128

/-- The 512 bytes at a supervisor address of a context, where they can be read. -/
def slotBytes (s : State) (unit part ctx va : Nat) : Option (List Byte) :=
  match translate s unit part ctx va true false true with
  | .ok l s1 => some (mbytes s1.mem l.addr 512)
  | _ => none

/-- The context of a group's task. -/
def groupCtx (s : State) (g : Group) : Nat := ((findTask s g.id.part g.id.task).map Task.ctx).getD 0

/-- The base of the halt images, 0 for none (R272). -/
def imageBase (s : State) (part : Nat) : Nat := ctlRead s part 0x6010 8

/-- A saved group with what it takes along: its handler frame, and its image where it is halted (R64, R273, R274; log 43). -/
def keepFrame (s : State) (g : Group) : Group :=
  let unit := quadUnit g.core g.quad
  let base := imageBase s g.id.part
  if g.ended || g.frame.isSome then g
  else
    { g with
      frame := if g.sup then slotBytes s unit g.id.part (groupCtx s g) (frameVA s g) else none,
      image := if g.halted && base != 0 then slotBytes s unit g.id.part 0 (base + 512 * hslot g) else none }

/-- TEAM_SAVE (R61, R63, R195): team `off` of task `idx` of partition `part` has drained; its state moves to the save pool and its
resources return to the core. Under a RESET with INSPECT its groups' images are written (R42). -/
def execTeamSave (s : State) : Out :=
  let part := s.inp.part
  let task := s.inp.idx
  let idx := s.inp.off
  match findTeam s part task idx with
  | none => .next s
  | some t =>
    let gs := teamGroups s part task idx
    if !t.saving || t.saved || !gs.all (drainedGroup s) then .next s
    else
      let inspect := ((findPart s part).map (fun p => p.state == 4)).getD false
      let s0 := if inspect then (gs.filter (fun g => !g.ended)).foldl writeImage s else s
      let s1 := gs.foldl (fun u g => if g.ended then u else freeSlotOwner (scStamp u g.core (saveSlice g.id)) g) s0
      let s2 := modGroups s1 (fun g => g.id.part == part && g.id.task == task && g.id.team == idx)
        (fun g => keepFrame s1 { g with saved := true, draining := false, markStalled := false })
      let s3 := modTeam s2 part task idx (fun x => { x with saved := true, saving := false })
      .next (finishRetire (modPart s3 part (fun p => { p with resume := p.resume ++ [.team task idx] })) t.core)

/-- A group's handler frame cannot be moved: the severity matrix handles its trap (R254, R259; log 117). -/
def lostFrame (s : State) (g : Group) : State :=
  let num := (g.hidden.map Hidden.trap).getD 0
  severity s g.id.part num 3 (trapRec s g num (frameVA s g) 0) [g.id]

/-- A restored group finds its frame at its new handler slot, and s63 names it (R274), and its image where it is halted (log 43). -/
def moveSlot (s : State) (id : GroupId) : State :=
  match findGroup s id with
  | none => s
  | some g =>
    let base := imageBase s g.id.part
    let s1 := match g.image with
      | some b => (supWrite s g.id.part (base + 512 * hslot g) b).getD s
      | none => s
    if !g.sup then s1
    else
      let va := frameVA s1 g
      let s2 := modGroup s1 g.id (fun h => putSreg h 63 (BitVec.ofNat 64 va))
      match g.frame, translate s2 (quadUnit g.core g.quad) g.id.part (groupCtx s2 g) va true true false with
      | some b, .ok l s3 => l1Drop (partPuts s3 g.id.part l.addr b) l.addr 512
      | _, _ => lostFrame s2 g

/-- Restore one group of a team on its new core (R64, R195). -/
def restoreGroup (k : Kernel) (base : Nat) (s : State) (g : Group) : State :=
  let (side, quad) := placeOf k g.id.group
  let core := base + side
  let slot := freeQslot (usedSlots s core quad)
  let place := fun (h : Group) =>
    { h with core := core, quad := quad, qslot := slot, saved := false, yielded := false, markStalled := false,
             waits := if h.ended then [(.ended, s.dev.gtc)] else [] }
  modGroup (scStamp s core (saveSlice g.id)) g.id place

/-- Restore a saved team on a core (R64): all its groups become eligible at once. A pre-emption that reached it during its save takes
effect at this run boundary (R65; log 117). -/
def restoreTeam (s : State) (part task idx base : Nat) : State :=
  match findTeam s part task idx with
  | none => s
  | some t =>
    let gs := teamGroups s part task idx
    let s1 := setShare s t.kernel base
    let s2 := modTeam s1 part task idx (fun x =>
      { x with saved := false, again := false, core := base, startGtc := s.dev.gtc, seq := s.tick })
    let s3 := (gs.map Group.id).foldl moveSlot (gs.foldl (restoreGroup t.kernel base) s2)
    let s4 := modGroups s3 (fun g => g.id.part == part && g.id.task == task && g.id.team == idx) (fun g => { g with frame := none, image := none })
    if t.again then drainTeam s4 { t with saving := false } else s4

/-- A resume entry fits a core that asks (R49, R64). -/
def resumeFits (s : State) (p : Partition) (c : Nat) (r : Resume) : Bool :=
  match r with
  | .team task _ => let k := kernelFor s p.num task; idleFor s k c && fitsAt s k c && warmFor s p k c
  | .range task _ _ => takes s p (kernelFor s p.num task) c

/-- Some team of a task is being saved (R61). -/
def beingSaved (s : State) (part task : Nat) : Bool :=
  (allTeams s).any (fun t => t.part == part && t.task == task && t.saving && !t.saved)

/-- The oldest resume entry of a partition that fits a core, taken (R49, R64): a range whole, but of one whose pre-emption is still under way
the thief takes a half (R53, R65; log 99). -/
def takeResume (s : State) (p : Partition) (c : Nat) : Option State :=
  match p.resume.find? (resumeFits s p c) with
  | none => none
  | some r =>
    let put := fun (l : List Resume) => modPart s p.num (fun q => { q with resume := q.resume.flatMap (fun x => if x == r then l else [x]) })
    match r with
    | .team task idx => some (restoreTeam (put []) p.num task idx (baseCore (kernelFor s p.num task) c))
    | .range task lo hi =>
      let mid := if beingSaved s p.num task then lo + (hi - lo) / 2 else lo
      some (giveShare (put (if lo < mid then [.range task lo mid] else [])) c p.num task mid hi)

/-- A core may ask for work (R49, R58): idle, neither under test nor retiring, and cool, or hot after the delay with no idle cool
core. -/
def mayAsk (s : State) (p : Partition) (c : Nat) : Bool :=
  (coresOf p).contains c && idleCore s c && (coreOf s c).testing == [] && !(coreOf s c).retiring && !s.dev.tripped && teamsRun p
    && (coolCore s c || (p.hotMayAsk && !idleCool s p))

/-- The core's request stands from now on, if it did not yet (R49). -/
def ask (s : State) (c : Nat) : State := modCore s c (fun x => { x with asked := some (x.asked.getD s.dev.gtc) })

/-- The request of a core is the next of its partition, in the order of time and core number (R49). -/
def isNextAsker (s : State) (p : Partition) (c : Nat) : Bool :=
  let t := fun (d : Nat) => ((coreOf s d).asked.map BitVec.toNat)
  (coresOf p).all (fun d =>
    match t d, t c with
    | some x, some y => !mayAsk s p d || y < x || (y == x && c ≤ d)
    | _, _ => true)

/-- Core `core`'s request: it stands from the time at which the core first asks, and `answer` serves it in a later turn, when it is the next
(R49). A core that gets nothing asks again. -/
def onRequest (s : State) (answer : State → Partition → Nat → Out) : Out :=
  let c := s.inp.core
  match ownerOf s c with
  | none => .next s
  | some p =>
    let done := modCore s c (fun x => { x with asked := none })
    if (coreOf s c).asked.isNone then if mayAsk s p c then .next (ask s c) else .next s
    else if !mayAsk s p c then .next done
    else if isNextAsker s p c then answer done p c
    else .next s

/-- A waiting task of a list that a core can take, as its share (R49, R62): the state without it in the list. -/
def takeTask (s : State) (p : Partition) (c : Nat) (l : List Nat) : Option State :=
  (l.find? (fun n => takes s p (kernelFor s p.num n) c)).map (fun n =>
    let t := (findTask s p.num n).getD noTask
    let s1 := modPart s p.num (fun q => { q with waiters := dropBy (fun m => m == n) q.waiters, pending := dropBy (fun m => m == n) q.pending })
    giveShare s1 c p.num n t.lo t.hi)

/-- The first of a winner that found no victim (R62) and a resume entry that fits a core, given to it (R49, R64). -/
def takeFirst (s : State) (p : Partition) (c : Nat) : Option State :=
  match takeTask s p c p.waiters with
  | some u => some u
  | none => takeResume s p c

/-- TEAM_RESUME (R62, R64): core `core` takes a task that waits for the first core, or restores the oldest resume entry that fits it. -/
def execTeamResume (s : State) : Out :=
  onRequest s (fun s p c => .next (noteCool ((takeFirst s p c).getD s) p.num))

/-- Steps 3 and 4 of R49 for a core: a draw, else a half. -/
def drawOrHalve (s : State) (p : Partition) (c : Nat) : Out :=
  let half := fun (u : State) =>
    match halveVictim u p c with
    | none => Host.Outcome.next u
    | some x => .next (halve u c x.1 x.2)
  match drawTask s p with
  | none => half s
  | some (_, .fault f) => .fault f
  | some (_, .none s1) => half s1
  | some (win, .task num s1) =>
    match findPart s1 p.num with
    | none => .next s1
    | some p1 =>
      let t := (findTask s1 p.num num).getD noTask
      if takes s1 p1 t.kernel c then .next (giveShare s1 c p.num num t.lo t.hi)
      else
        let (s2, more) := placeElsewhere s1 p1 win num
        if more then half s2 else .next s2

/-- Answer a core's request (R49, R62). -/
def answerRequest (s0 : State) (p : Partition) (c : Nat) : Out :=
  match takeFirst s0 p c with
  | some s1 => .next s1
  | none =>
    match takeTask s0 p c p.pending with
    | some s1 => .next s1
    | none => drawOrHalve s0 p c

/-- An outcome with the ages and the coolness of a partition settled (R50, R58). -/
def settled (part : Nat) (o : Out) : Out :=
  match o with
  | .next s => .next (noteCool (settleAges s part) part)
  | x => x

/-- IDLE_CORE_REQUEST (R33, R35, R47 to R53, R62): core `core` asks; the Work Distributor looks at the partition's queues and
answers with a resume entry, a pending task, a drawn task or a half. -/
def execIdleCoreRequest (s : State) : Out :=
  onRequest s (fun s p0 c =>
    let s0 := settleAges ((List.range 64).foldl (fun u k => wakeQueue u p0.num k) s) p0.num
    match findPart s0 p0.num with
    | none => .next s0
    | some p => settled p.num (answerRequest s0 p c))

end Sys2Proof.Machine
end

