-- ==== Sys2Proof/Machine/Engine.lean ====
section
/-! DEFINITION. ENG: slots, rules, tile commands and batches as the scalar stream drives them (R345 to R367). -/
namespace Sys2Proof.Machine

/-- OCLAIM (R351): waits until the slot is FREE; SLOT_QUOTA when the team holds SLOTQ slots. -/
def execOclaim (slot : BitVec 4) (s : State) : Out :=
  let held := ((List.range 16).filter (fun k => (slotOf s.tm k).st != .free)).length
  if (slotOf s.tm slot.toNat).st != .free then stallS s
  else if s.tm.kernel.slotq ≤ held then trapS s 0x0E 0 (det [(0, s.tm.kernel.slotq), (1, held)])
  else .next (advS { s with tm := modSlot s.tm slot.toNat (fun x => { x with st := .claimed }) })

/-- ORELEASE (R352): waits for the slot's copies and batches, then frees it. -/
def execOrelease (slot : BitVec 4) (s : State) : Out :=
  let k := slot.toNat
  let gs := teamGroups s s.g.id.part s.g.id.task s.g.id.team
  if (slotOf s.tm k).st == .free then badState s k 0
  else if gs.any (fun g => g.en.copies.any (fun c => copySlot c == some k))
      || slotHeld s s.g.id.part s.g.id.task s.g.id.team k then stallS s
  else .next (advS { s with tm := modSlot s.tm k (fun x => { x with st := .free }) })

/-- RLOAD (R213, R265, R353): the two words, which lie in one line, are read as SLDs of size 8, then the rule is checked. -/
def execRload (sa : BitVec 6) (k : BitVec 3) (s : State) : Out :=
  let a := (sreg s sa).toNat
  if a % 16 != 0 then trapS s 0x03 a 0
  else
    orTrapS s a (locate s (me s) s.tm 0 a 8 false true) (fun l0 s1 =>
      orTrapS s (a + 8) (locate s1 (me s) s.tm 0 (a + 8) 8 false true) (fun l1 s2 =>
        if overlaps s .scalar [l0, l1] 8 then stallS s
        else
          orLineS s2 l0 (fun s0 =>
            orTrapS s0 a (loadAt s0 (me s) l0 8 0 false) (fun v0 s3 =>
              orTrapS s0 (a + 8) (loadAt s3 (me s) l1 8 0 false) (fun v1 s4 =>
                let r := v0 + 2 ^ 64 * v1
                match ruleBad r s.tm.kernel.tbase with
                | some (low, width) => trapS s0 0x01 0 (ruleDetail r low width a)
                | none =>
                  let en := s4.g.en
                  .next (advS { s4 with g := { s4.g with en := { en with rules := sput 0 en.rules k.toNat (BitVec.ofNat 128 r) } } }))))))

/-- TMMA (R226, R248, R355). -/
def execTmma (sa : BitVec 6) (s : State) : Out := issueTile s .tmma (sreg s sa) 0 (tmmaFails s false (sreg s sa) 0 none)

/-- TMMAQ (R240, R356). -/
def execTmmaq (sa sb : BitVec 6) (s : State) : Out :=
  issueTile s .tmmaq (sreg s sa) (sreg s sb) (tmmaFails s true (sreg s sa) (sreg s sb).toNat none)

/-- TREC (R357 to R359). -/
def execTrec (sa : BitVec 6) (s : State) : Out := issueTile s .trec (sreg s sa) 0 (trecFails s false (sreg s sa) none)

/-- TRECB (R228, R229, R357 to R359). -/
def execTrecb (sa : BitVec 6) (s : State) : Out := issueTile s .trecb (sreg s sa) 0 (trecFails s true (sreg s sa) none)

/-- TZERO (R360). -/
def execTzero (tile : BitVec 4) (s : State) : Out :=
  issueTile s .tzero (zx 64 tile) 0 (failIf (!tileOk s.g tile.toNat) (opFail 1 tile.toNat 8))

/-- TLDA (R361, R362). -/
def execTlda (sa sb : BitVec 6) (s : State) : Out :=
  issueTile s .tlda (sreg s sb) (sreg s sa) (tstFails s .tlda (sreg s sa).toNat (sreg s sb))

/-- TST (R361, R362). -/
def execTst (sa sb : BitVec 6) (s : State) : Out :=
  issueTile s .tst (sreg s sb) (sreg s sa) (tstFails s .tst (sreg s sa).toNat (sreg s sb))

/-- TSTQ (R251, R361, R363). -/
def execTstq (sa sb : BitVec 6) (s : State) : Out :=
  issueTile s .tstq (sreg s sb) (sreg s sa) (tstFails s .tstq (sreg s sa).toNat (sreg s sb))

/-- TEDGE (R364). -/
def execTedge (sa sb : BitVec 6) (s : State) : Out :=
  issueTile s .tedge (sreg s sb) (sreg s sa) (tedgeFails s (sreg s sa).toNat (sreg s sb))

/-- Closed batches of a group that have not retired (R365, R367). -/
def closedCount (g : Group) : Nat := (g.en.batches.filter (fun b => b.closed && !b.retired)).length

/-- TFENCE (R231, R365): closes the open batch, stalling while 64 are unretired. -/
def execTfence (sd : BitVec 6) (s : State) : Out :=
  if 64 ≤ closedCount s.g then stallS s
  else
    let n := s.g.en.openB
    let old := (s.g.en.batches.find? (fun b => b.num == n)).getD
      { num := n, live := 0, slots := [], closed := false, retired := false, boundTrap := false, engine := false }
    let en := { s.g.en with
      openB := n + 1, batches := putBy (fun b => b.num == n) { old with closed := true } s.g.en.batches }
    let s1 := { s with g := settleBatches { s.g with en := en } }
    let s2 := settleSlots s1 s.g.id.part s.g.id.task s.g.id.team
    .next (finS s2 sd (BitVec.ofNat 64 (n % 65536)))

/-- The earliest faulted batch that no TWAIT has reported, among those that satisfy `p` (R366, R367). -/
def firstFaulted (g : Group) (p : Nat → Bool) : Option Batch :=
  g.en.batches.find? (fun b => (b.engine || b.boundTrap) && p b.num)

/-- A group with the faulted batches up to `k` reported; a retired batch is then forgotten. -/
def reportUpTo (g : Group) (k : Nat) : Group :=
  { g with en := { g.en with batches := g.en.batches.filter (fun b => !(b.retired && b.num ≤ k)) } }

/-- TWAIT (R188, R366): passing is an acquire; BOUND or ENGINE for the earliest unreported faulted batch up to k, which the trap reports. -/
def execTwait (sa : BitVec 6) (s : State) : Out :=
  let v := sreg s sa
  let op := s.g.en.openB
  let d := (op + 65536 - v.toNat % 65536) % 65536
  let k := op - d
  if fld v.toNat 16 48 != 0 then badReg s v 16
  else if d = 0 then badReg s v 0
  else if 32768 < d || op < d then .next (advS (l1Inval s s.g.core))
  else if s.g.en.batches.any (fun b => !b.retired && b.num ≤ k) then stallS s
  else
    match firstFaulted s.g (fun n => decide (n ≤ k)) with
    | none => .next (advS (l1Inval s s.g.core))
    | some f => trapS { s with g := reportUpTo s.g k } (if f.engine then 0x17 else 0x0B) 0 (det [(0, f.num % 65536)])

/-- TSTAT (R367). -/
def execTstat (sd : BitVec 6) (s : State) : Out :=
  let e := s.g.en
  let f := firstFaulted s.g (fun _ => true)
  let first := (f.map (fun b => b.num % 65536)).getD 0
  .next (finS s sd (BitVec.ofNat 64 (e.openB % 65536 + e.lastRet.toNat * 2 ^ 16 + e.tl * 2 ^ 32 + closedCount s.g * 2 ^ 40
    + b2n f.isSome * 2 ^ 47 + first * 2 ^ 48)))

/-- TILE_COMMAND_START (R157, R224, R230): the oldest command of the Wheel of core `core` waits, drops, or runs; a write to global memory
waits for shadow space. `ecc` and `off` say which error its read meets. -/
def execTileCommandStart (s : State) : Out :=
  let core := s.inp.core
  let k := coreOf s core
  match k.wheelQ with
  | [] => .next s
  | c :: _ =>
    match findGroup s c.group with
    | none => .next (popWheel s core)
    | some g =>
      let t := teamOf s c.group
      let sl := cmdSlots t.kernel.tbase c.op c.word.toNat c.rule.toNat c.fmt.toNat
      let st := fun (x : Nat) => (slotOf t x).st
      let gs := teamGroups s c.group.part c.group.task c.group.team
      let due := fun (x : Nat) => gs.any (fun h => h.en.copies.any (fun y => !y.started && copySlot y == some x))
      let e := cmdEcc s c g sl.1 s.inp.ecc s.inp.off
      if k.testing != [] || sl.1.any (fun x => st x == .filling || (st x == .claimed && due x)) || sl.2.any (fun x => st x == .filling)
          || !shadowRoom s core c.seq (cmdNeed c) then
        .next s
      else if sl.1.any (fun x => st x == .claimed || st x == .free) then .next (cmdDone (popWheel s core) c true)
      else if e.2 then .next (cmdDone (popWheel e.1 core) c true)
      else
        match runTile e.1 c g t with
        | .fault f => .fault f
        | .stall => .next s
        | .trap _ _ => .next (cmdDone (popWheel s core) c true)
        | .ok (g1, t1, chk) s1 =>
          let c1 := { c with boundFail := chk.failed, boundTrap := chk.trap }
          let use := c.slots.foldl (fun u x => modSlot u x (fun y => { y with st := .inUse })) t1
          let s2 := modGroup s1 c.group (fun h => { h with ln := { h.ln with v := g1.ln.v } })
          let s3 := modTeamOf s2 c.group (fun u => { u with slots := use.slots, sp0 := use.sp0, sp1 := use.sp1 })
          .next (modCore (popWheel s3 core) core (fun q => { q with wheelRun := q.wheelRun ++ [c1] }))

/-- TILE_COMMAND_RETIRE (R223, R227, R231): running command number `idx` of core `core` retires. It pauses while the core is
under test (R269). -/
def execTileCommandRetire (s : State) : Out :=
  let core := s.inp.core
  if (coreOf s core).testing != [] then .next s else
  match (coreOf s core).wheelRun[s.inp.idx]? with
  | none => .next s
  | some c =>
    let s1 := modCore s core (fun k => { k with wheelRun := k.wheelRun.eraseIdx s.inp.idx })
    .next (cmdDone s1 c false)

end Sys2Proof.Machine
end

