-- ==== Sys2Proof/Machine/Registers.lean ====
section
/-! DEFINITION. REG: register hand-over between the groups of a team on one quad (R84 to R89, R382 to R385). -/
namespace Sys2Proof.Machine

/-- Free blocks of the group's team on its quad (R88). -/
def freeBlk (s : State) : Nat := sget 0 s.tm.freeBlocks (quadKey s.tm s.g)

/-- The team in focus with the free blocks of the group's quad replaced. -/
def putBlk (s : State) (n : Nat) : Team := { s.tm with freeBlocks := sput 0 s.tm.freeBlocks (quadKey s.tm s.g) n }

/-- The claim line of the group's quad, first come first (R88). -/
def claimLine (s : State) : List Claim := s.tm.claims.filter (fun c => c.quad == quadKey s.tm s.g)

/-- Some unretired tile command of the group uses a register from `lo` up (R87, R88). -/
def regsBusy (s : State) (lo : Nat) : Bool :=
  (inFlight s s.g).any (fun c => (tilesOf c).any (fun k => lo < s.g.bnd + (k + 1) * (1024 / s.g.width)))

/-- A group with `n` blocks more, whose registers read zero (R88). -/
def growBy (g : Group) (n : Nat) : Group :=
  { g with allot := g.allot + 4 * n,
           ln := { g.ln with v := g.ln.v.filter (fun e => e.1 / 64 < g.allot || g.allot + 4 * n ≤ e.1 / 64) } }

/-- A group with `n` blocks less, whose registers lose their contents (R88, R382). -/
def shrinkBy (g : Group) (n : Nat) : Group :=
  { g with allot := g.allot - 4 * n, ln := { g.ln with v := g.ln.v.filter (fun e => e.1 / 64 < g.allot - 4 * n) } }

/-- Legacy register mode and supervisor mode refuse the instruction (R99, R370). -/
def notLegacy (i : Instr) (s : State) (k : Out) : Out :=
  if s.tm.kernel.legacy then badWord s ((encodeScalar i).getD 0) else userOnly s k

/-- GIVEBACK (R88, R382). -/
def execGiveback (sa : BitVec 6) (s : State) : Out :=
  let n := (sreg s sa).toNat
  notLegacy (.giveback sa) s
    (if 256 < n || s.g.allot < 4 * n + max s.g.bnd 4 then badReg s (sreg s sa) 0
     else if n = 0 then .next (advS s)
     else if regsBusy s (s.g.allot - 4 * n) then stallS s
     else .next (advS { s with tm := putBlk s (freeBlk s + n), g := shrinkBy s.g n }))

/-- The state after a claim of `n` blocks is met (R88): the claim leaves the line. -/
def takeBlocks (s : State) (n : Nat) : State :=
  let t := putBlk s (freeBlk s - n)
  { s with tm := { t with claims := t.claims.filter (fun c => c.group != s.g.id.group) }, g := growBy s.g n }

/-- CLAIM (R88, R382): waits in the quad's line until it is first and F is enough. -/
def execClaim (sa : BitVec 6) (s : State) : Out :=
  let n := (sreg s sa).toNat
  let line := claimLine s
  let mine := fun (c : Claim) => c.group == s.g.id.group
  notLegacy (.claim sa) s
    (if 256 < n || 1024 < s.g.allot + 4 * n then badReg s (sreg s sa) 0
     else if n = 0 then .next (advS s)
     else if (line.head?.map mine).getD true && n ≤ freeBlk s then .next (advS (takeBlocks s n))
     else if line.any mine then stallS s
     else
       let c : Claim := { quad := quadKey s.tm s.g, group := s.g.id.group, n := n }
       .next { s with tm := { s.tm with claims := s.tm.claims ++ [c] } })

/-- CLAIMTRY (R88, R382): never waits. -/
def execClaimtry (sd sa : BitVec 6) (s : State) : Out :=
  let n := (sreg s sa).toNat
  notLegacy (.claimtry sd sa) s
    (if 256 < n || 1024 < s.g.allot + 4 * n then badReg s (sreg s sa) 0
     else if n = 0 then .next (finS s sd 1)
     else if (claimLine s).isEmpty && n ≤ freeBlk s then .next (finS (takeBlocks s n) sd 1)
     else .next (finS s sd 0))

/-- SETBND (R87, R383). -/
def execSetbnd (sa : BitVec 6) (s : State) : Out :=
  let v := (sreg s sa).toNat
  notLegacy (.setbnd sa) s
    (if v % 4 != 0 || 496 < v || s.g.allot < v then badReg s (sreg s sa) 0
     else if v = s.g.bnd then .next (advS s)
     else if regsBusy s (min v s.g.bnd) then stallS s
     else .next (advS { s with g := { s.g with bnd := v } }))

/-- GETALLOT (R385). -/
def execGetallot (sd : BitVec 6) (s : State) : Out :=
  let bnd := if s.tm.kernel.legacy then 0 else s.g.bnd
  let f := if s.tm.kernel.legacy then 0 else freeBlk s
  .next (finS s sd (BitVec.ofNat 64 (s.g.allot + bnd * 2 ^ 16 + f * 2 ^ 32 + b2n (!(claimLine s).isEmpty) * 2 ^ 48)))

end Sys2Proof.Machine
end

