-- ==== Sys2Proof/Machine/Finish.lean ====
section
/-! DEFINITION. The run lottery (R79 to R81), the end of groups, teams and launches (R35, R71, R88, R312), the deadlock detectors
(R75, R89), the watchdogs (R209, R271), and retirement (R270). -/
namespace Sys2Proof.Machine

/-- The lane stream of the group in focus as its next run would start it (R72, R74, R77, R92, R384): none while the index is not known. A
run resumed inside starts where it stopped (R258, log 19). -/
def nextRun (s : State) : Option Group :=
  let g := popDQ s.g
  match g.ln.pos with
  | .start =>
    let ln := if g.ln.runPos = 0 then startRun s g.ln else g.ln
    some { g with ln := if ln.pos == .drained then ln else
      { ln with pos := .inRun, runAllot := if g.ln.runPos = 0 then g.allot else ln.runAllot,
                runBnd := if g.ln.runPos = 0 then g.bnd else ln.runBnd } }
  | .pop => none
  | .inRun => none
  | .drained => none

/-- VQ entries that the a, b and c fields of a triple pop (R73). -/
def vqNeed (f : LaneFields) : Nat := b2n (f.a == 0x1F1) + b2n (f.b == 0x1F1) + b2n (f.c == 0x1F1)

/-- VQ entries that an instruction pops (R72, R73). -/
def vqPops (i : Instr) (f : LaneFields) : Nat :=
  match i with
  | .vqpop _ => 1
  | _ => vqNeed f

/-- VQ entries that the instruction of a triple pops, none where it is no instruction. -/
def vqPopsW (w0 w1 w2 : Nat) : Nat :=
  match decodeLaneNat w0 w1 w2 with
  | .ok i => vqPops i (laneFieldsOf w0 w1 w2)
  | .error _ => 0

/-- How many registers the fields a, b and c of a lane instruction read where they name registers (R390, R400, R405, R412, R419). -/
def srcWidths (i : Instr) (f : LaneFields) : Nat × Nat × Nat :=
  let n := widthRegs f.width.toNat
  let k := sizeRegs (mBytes f)
  match i with
  | .pand _ | .por _ | .pxor _ | .pnot _ => (0, 0, 0)
  | .cvt _ => (codeRegs (fld f.sub.toNat 3 3), 0, 0)
  | .cvti _ => (if !f.sub.getLsbD 5 then codeRegs (fld f.sub.toNat 2 3) else if f.sub.getLsbD 1 then 2 else 1, 0, 0)
  | .dotn _ => if f.sub.getLsbD 0 then (5, 5, 1) else (3, 3, 1)
  | .rng _ | .ld _ | .pref _ => (2, 0, 0)
  | .st _ => (2, k, 0)
  | .ost _ => (1, k, 0)
  | .old _ => (1, 0, 0)
  | .atom _ | .atomc _ | .red _ => (2, k, k)
  | .lcopy _ => (2, 2, 0)
  | .lcopyo _ => (2, 1, 0)
  | _ => (n, n, n)

/-- The source registers of a lane instruction (R79). -/
def srcRegs (i : Instr) (f : LaneFields) : List Nat :=
  let regs := fun (used : Bool) (c : BitVec 9) (n : Nat) =>
    if used && c.toNat < 0x1F0 then (List.range n).map (fun k => c.toNat + k) else []
  match laneSpecOf i f with
  | none => []
  | some sp => regs sp.a f.a (srcWidths i f).1 ++ regs sp.b f.b (srcWidths i f).2.1 ++ regs sp.c f.c (srcWidths i f).2.2

/-- The first instruction of a run can take its sources (R79), or SKIP leaves its pops out (R258). -/
def firstReady (s : State) (g : Group) : Bool :=
  match fetchTriple { s with g := g } g.ln.lpc with
  | .ok (some (w0, w1, w2)) _ =>
    (g.skipL == some true || vqPopsW w0 w1 w2 ≤ g.q.vq.length)
      && (match decodeLaneNat w0 w1 w2 with
        | .ok i => !(srcRegs i (laneFieldsOf w0 w1 w2)).any (fun r => (pendingL s).contains r)
        | .error _ => true)
  | _ => true

/-- A group is ready for the quad's lane slot (R79); the group as it would run. -/
def readyRun (s : State) (id : GroupId) : Option Group :=
  let u := focusOn s id
  if !canIssue u || u.g.halted || u.g.draining then none
  else (nextRun u).filter (fun g => g.ln.pos == .drained || firstReady u g)

/-- The groups of a quad in slot order (R81). -/
def quadGroups (s : State) (core quad : Nat) : List Group :=
  let gs := (allGroups s).filter (fun g => g.core == core && g.quad == quad && !g.saved && !g.ended && !g.killed)
  sortBy (fun a b =>
    let x := (teamOf s a.id).seq
    let y := (teamOf s b.id).seq
    x < y || (x == y && a.id.group < b.id.group)) gs

/-- Ages and marks after a draw (R81, R317): the winner's age is 0, the others' of the draw rise, and their marks are spent; so are those
of `left`, the groups of the quad that the draw leaves out. -/
def afterDraw (drawn left : List GroupId) (win : GroupId) (g : Group) : Group :=
  if drawn.contains g.id then { g with age := if g.id == win then 0 else g.age + 1, yielded := false }
  else if left.contains g.id then { g with yielded := false }
  else g

/-- A trap of one stream of the group in focus with no lanes of its own. -/
def waitTrap (s : State) (st : Stream) (num addr : Nat) (detail : BitVec 192) : State :=
  takeTrap s { num := num, addr := addr, detail := detail, lanes := s.g.ln.mask, stream := st, next := false }

/-- The unwinding that starts a group's run pops an entry beside spilled ones, which reads one back (R95). -/
def fills (old new : LaneCtx) : Bool := 32 < old.stack.length && new.stack.length < old.stack.length

/-- A run whose unwinding meets a failing fill: STACK_SPILL before it changes anything; the address is a free value (R95, log 10). -/
def fillTrap (s : State) (id : GroupId) : State :=
  let u := focusOn s id
  let (a, u1) := freeVal { u with g := popDQ u.g }
  waitTrap u1 .lane 0x14 a.toNat 0

/-- The stream that a wait belongs to. -/
def waitStream (k : Wait) : Option Stream :=
  match k with
  | .queueS | .accessS | .barrier | .mark => some .scalar
  | .queueL | .accessL => some .lane
  | .starved | .ended => none

/-- RUN_ARBITRATION (R72, R77, R79 to R81, R92, R95, R317): with the lane slot of quad `idx` of core `core` free and a group ready, the
lottery chooses whose run issues. A group whose next run is empty has drained (R93). -/
def execRunArbitration (s : State) : Out :=
  let core := s.inp.core
  let quad := s.inp.idx
  let q := quadOf s core quad
  if q.owner.isSome || 4 ≤ quad then .next s
  else
    let gs := quadGroups s core quad
    let ready := gs.filterMap (fun g => (readyRun s g.id).map (fun r => (g, r)))
    if ready.isEmpty then .next s
    else
      let plain := ready.filter (fun x => !x.1.yielded)
      let drawn := if plain.isEmpty then ready else plain
      let left := if plain.isEmpty then [] else gs.map Group.id
      let x := xorshift q.x
      let e := (List.range drawn.length).zip (drawn.map (fun r => r.1.tickets.toNat))
      let age := fun (k : Nat) => ((drawn[k]?).map (fun r => r.1.age)).getD 0
      match (drawWin x age 64 e).bind (fun k => drawn[k]?) with
      | none => .next s
      | some (w, r) =>
        let s1 := modGroups s (fun _ => true) (afterDraw (drawn.map (fun y => y.1.id)) left w.id)
        if s.inp.ecc == .spill && fills w.ln r.ln then .next (fillTrap (putQuad s1 core quad { q with x := x }) w.id)
        else
          let s2 := modGroup s1 w.id (fun g =>
            { g with ln := r.ln, q := r.q, en := { g.en with acc := r.en.acc }, waits := g.waits.filter (fun x => waitStream x.1 != some .lane) })
          .next (putQuad s2 core quad { q with x := x, owner := if r.ln.pos == .inRun then some w.id else none })

/-- A group's lane stream has drained after EXIT (R71). -/
def laneDrained (g : Group) : Bool := g.ln.pos == .drained || (g.ln.pos == .pop && g.q.dq.isEmpty)

/-- A group has ended (R71, R267, R312): a killed one when none of its commands runs in the Wheel. -/
def groupOver (s : State) (g : Group) : Bool :=
  if g.killed then !(coreOf s g.core).wheelRun.any (fun c => c.group == g.id)
  else
    g.sc.exited && !g.sup && g.trapPend.isNone && !g.saved && laneDrained g && g.en.acc.isEmpty && g.en.copies.isEmpty
      && g.en.ld == 0 && g.en.st == 0 && g.en.cp == 0 && g.en.tl == 0

/-- The machine without a team and its groups (R71). -/
def dropTeam (s : State) (part task idx : Nat) : State :=
  let isG := fun (g : Group) => g.id.part == part && g.id.task == task && g.id.team == idx
  let isT := fun (t : Team) => t.part == part && t.task == task && t.index == idx
  { s with
    g := if isG s.g then noGroup else s.g, groups := dropBy isG s.groups,
    tm := if isT s.tm then noTeam else s.tm, teams := dropBy isT s.teams,
    dev := { s.dev with remote := s.dev.remote.filter (fun r =>
      !(r.group.part == part && r.group.task == task && r.group.team == idx)) } }

/-- A team whose groups have all ended ends, and its task when nothing of it is left (R71, R132, R153). -/
def endTeam (s : State) (part task idx : Nat) : State :=
  if !(teamGroups s part task idx).all (fun g => g.ended) then s
  else
    let old := launchMarker s part task
    let s1 := modPart (dropTeam s part task idx) part (fun p =>
      { p with resume := p.resume.filter (fun r => r != .team task idx) })
    let core := ((findTeam s part task idx).map Team.core).getD 0
    let s2 := launchMoved (finishRetire (modTask s1 part task (fun t => { t with left := t.left - 1 })) core) part task old
      (dieOf core) none
    match findTask s2 part task with
    | none => s2
    | some t => if t.left = 0 then finishTask s2 part task else s2

/-- GROUP_END (R71, R88, R267, R312): group `g` ends; its allotment joins F, and its team and task end with their last group. -/
def execGroupEnd (s : State) : Out :=
  match findGroup s s.inp.g with
  | none => .next s
  | some g =>
    if g.ended || !groupOver s g then .next s
    else
      let id := g.id
      let blocks := if g.killed then 0 else g.allot / 4
      let s1 := freeSlotOwner (modGroup s id (fun h => { h with ended := true, waits := [(.ended, s.dev.gtc)], en := { h.en with acc := [] } })) g
      let s2 := modTeamOf s1 id (fun t =>
        { t with freeBlocks := sput 0 t.freeBlocks (quadKey t g) (sget 0 t.freeBlocks (quadKey t g) + blocks) })
      .next (endTeam (teamBars (settleSlots s2 id.part id.task id.team) id.part id.task id.team) id.part id.task id.team)

/-- The machine without an ended task. -/
def dropTask (s : State) (part num : Nat) : State :=
  let isK := fun (t : Task) => t.part == part && t.num == num
  { s with tk := if isK s.tk then noTask else s.tk, tasks := dropBy isK s.tasks }

/-- LAUNCH_COMPLETION (R35): task `idx` of partition `part` has ended; a launch's completion word is written, then its MSI-X
message is sent. The task is no longer kept. -/
def execLaunchCompletion (s : State) : Out :=
  match findTask s s.inp.part s.inp.idx with
  | none => .next s
  | some t =>
    if !t.ended then .next s
    else
      let code := if t.ctxKilled then 2 else if t.killedAny then 1 else 0
      let s1 := if t.source = 0 then completeLaunch s t.part t.complVA code t.msix t.vector else s
      .next (dropTask s1 t.part t.num)

/-- Some group of a team is saved, being saved, debug-halted or on a core under test, which suspends its counts (R75, R89, R209, R269,
R271). -/
def countsOff (s : State) (id : GroupId) : Bool :=
  (teamGroups s id.part id.task id.team).any (fun g =>
    g.saved || g.draining || g.halted || (coreOf s g.core).testing != [])

/-- The clk that have passed since a GTC value, at 1.2 GHz (R2). -/
def clkSince (s : State) (t : Word) : Nat := (s.dev.gtc - t).toNat * 6 / 5

/-- A group has waited for something for `n` clk. -/
def waited (s : State) (g : Group) (k : Wait) (n : Nat) : Bool := g.waits.any (fun w => w.1 == k && n ≤ clkSince s w.2)

/-- The counts of the groups of a team start again from zero (R75, R89, R209, R271, R273). -/
def restartTeam (s : State) (part task idx : Nat) : State :=
  modGroups s (fun g => g.id.part == part && g.id.task == task && g.id.team == idx)
    (fun g => { g with waits := if g.ended then [(.ended, s.dev.gtc)] else [], drainAt := s.dev.gtc })

/-- The next scalar instruction of the group in focus, if one can issue. -/
def peekS (s : State) : Option Instr :=
  match fetchScalar s with
  | .run i _ => some i
  | _ => none

/-- The next lane instruction of the group in focus, if one can issue. -/
def peekL (s : State) : Option (Instr × LaneFields) :=
  match fetchLane s with
  | .run i u =>
    match fetchTriple u u.g.ln.lpc with
    | .ok (some (w0, w1, w2)) _ => some (i, laneFieldsOf w0 w1 w2)
    | _ => none
  | _ => none

/-- The scalar stream is stalled on a queue operation (R72, R75, R328). -/
def scalarQueueStall (s : State) : Bool :=
  match peekS s with
  | some (.dispatch _) => 8 ≤ s.g.q.dq.length
  | some (.vqpush _) => 16 < s.g.q.vq.length + 1
  | some (.vqpush2 _ _) => 16 < s.g.q.vq.length + 2
  | some (.rqpop _) => s.g.q.rq.isEmpty
  | some .qdrain => s.g.ln.pos != .drained && !(s.g.ln.pos == .pop && s.g.q.dq.isEmpty && s.g.q.vq.isEmpty)
  | _ => false

/-- The lane stream is stalled on VQ or RQ inside a run (R72, R75). -/
def laneRunStall (s : State) : Bool :=
  if skipQ s then false
  else
  match peekL s with
  | some (.lpush _, f) => s.g.q.vq.length < vqNeed f || 8 ≤ s.g.q.rq.length
  | some (i, f) => s.g.q.vq.length < vqPops i f
  | none => false

/-- The group as its next run would start, when its index is known and its first instruction lacks entries of VQ (R72, R79). -/
def runEndStall (s : State) : Option Group :=
  (nextRun s).filter (fun g =>
    match fetchTriple { s with g := g } g.ln.lpc with
    | .ok (some (w0, w1, w2)) _ => g.ln.pos != .drained && g.skipL != some true && g.q.vq.length < vqPopsW w0 w1 w2
    | _ => false)

/-- The lane stream is stalled on a queue operation (R72, R75). -/
def laneQueueStall (s : State) : Bool :=
  laneRunStall s || (s.g.ln.pos == .pop && s.g.q.dq.isEmpty) || (runEndStall s).isSome

/-- QUEUE_DEADLOCK (R71, R75, R433): group `g` has been stalled for 64 clk on its own queues, in both streams, or after EXIT in its
lane stream, inside a run or at its start (log 45). -/
def execQueueDeadlock (s : State) : Out :=
  onGroup s (fun v =>
    let u := if canIssue v && !v.g.halted && !v.g.draining then { v with g := popDQ v.g } else v
    if u.g.trapPend.isSome || countsOff u u.g.id || u.g.skipS || !waited u u.g .queueL 64 then .next u
    else if u.g.sc.exited then
      let out := fun (v : State) => Host.Outcome.next (waitTrap v .lane 0x08 0 (det [(0, v.g.sc.spc.toNat)]))
      if laneRunStall u then out u
      else
        match runEndStall u with
        | some g => out { u with g := { g with ln := { g.ln with pos := .start } } }
        | none => .next u
    else if scalarQueueStall u && laneQueueStall u && waited u u.g .queueS 64 then
      .next (waitTrap u .scalar 0x08 0 (det [(0, u.g.ln.lpc)]))
    else .next u)

/-- A group's scalar stream has moved: another instruction, a trap, an access of its own. -/
def movedS (old new : Group) : Bool :=
  old.sc.spc != new.sc.spc || old.sup != new.sup || old.trapPend != new.trapPend || old.killed != new.killed || old.sc.exited != new.sc.exited
    || old.en.acc.length != new.en.acc.length

/-- A group's lane stream has moved: another instruction or run, a trap, an access of its own. -/
def movedL (old new : Group) : Bool :=
  old.ln.lpc != new.ln.lpc || old.ln.pos != new.ln.pos || old.ln.runPos != new.ln.runPos || old.sup != new.sup
    || old.trapPend != new.trapPend || old.killed != new.killed || old.en.acc.length != new.en.acc.length

/-- An instruction run in a state waits: the stream does not move. -/
def stuck (moved : Group → Group → Bool) (u : State) (k : State → Out) : Bool :=
  match k u with
  | .next v => !moved u.g v.g
  | _ => false

/-- The meaning of a scalar instruction that waits at a barrier, a stage barrier or for a claim (R89). -/
def barrierRun (i : Instr) : Option (State → Out) :=
  match i with
  | .bar sd => some (execBar sd)
  | .barn sd sa x => some (execBarn sd sa x)
  | .sbwait sd sa x => some (execSbwait sd sa x)
  | .claim sa => some (execClaim sa)
  | _ => none

/-- The scalar stream of the group in focus waits at a barrier, a stage barrier or for a claim (R89). -/
def atBarrier (s : State) : Bool :=
  match fetchScalar s with
  | .run i u => ((barrierRun i).map (stuck movedS u)).getD false
  | _ => false

/-- A group has waited for 256 clk at a barrier, at a stage barrier or for a claim, or has ended that long ago (R89). -/
def waitsOn (s : State) (g : Group) : Bool := waited s g .ended 256 || (waited s g .barrier 256 && atBarrier (focusOn s g.id))

/-- CLAIM_DEADLOCK (R89, R433): on the quad of group `g` every group of its team has waited or ended for 256 clk, one at least in
CLAIM; each waiting CLAIM takes the trap. -/
def execClaimDeadlock (s : State) : Out :=
  match findGroup s s.inp.g with
  | none => .next s
  | some g =>
    let t := teamOf s g.id
    let gs := (teamGroups s g.id.part g.id.task g.id.team).filter (fun h => h.core == g.core && h.quad == g.quad && !h.killed)
    let claimers := gs.filter (fun h => t.claims.any (fun c => c.group == h.id.group))
    if countsOff s g.id || claimers.isEmpty || !gs.all (waitsOn s) || g.killed then .next s
    else
      .next (claimers.foldl (fun u h =>
        let v := focusOn u h.id
        let n := ((v.tm.claims.find? (fun c => c.group == h.id.group)).map Claim.n).getD 0
        let free := sget 0 v.tm.freeBlocks (quadKey v.tm v.g)
        if v.g.trapPend.isSome then v else waitTrap v .scalar 0x07 0 (det [(0, n), (4, free)])) s)

/-- STAGE_STARVED (R209, R433): group `g` has waited STAGE_WD clk at an SBWAIT with DELIV < EXPECT; STARVED is set. -/
def execStageStarved (s : State) : Out :=
  onGroup s (fun u =>
    match u.g.sc.sbWait with
    | none => .next u
    | some (k, p) =>
      let v := sbGet u.tm k
      if countsOff u u.g.id || u.g.trapPend.isSome || fld v 0 32 ≤ fld v 32 32 || fld v 100 1 != p
          || !waited u u.g .starved u.pt.stageWd.toNat then .next u
      else
        let here := spSide u.tm u.g.core false == k.1
        let a := k.2 + (if here then 0 else 2 ^ 20)
        let u1 := { u with tm := sbPut u.tm k (sbSet v 102 1 1) }
        .next (waitTrap u1 .scalar 0x09 a (det [(0, fld v 32 32), (4, fld v 0 32)])))

/-- WATCHDOG with a code on a stream of the group in focus (R271, R433). -/
def watchdog (s : State) (st : Stream) (code : Nat) : State := waitTrap s st 0x16 0 (det [(0, code)])

/-- The streams of the group in focus that `which` picks no longer wait for their loads and atomics: their destinations are not written,
and the streams stand at them (R271, R331). -/
def dropWaits (s : State) (which : Stream → Bool) : State :=
  let waits := fun (a : Access) => which a.stream && waitsOut a
  let gone := s.g.en.acc.filter waits
  let lds := (gone.filter (fun a => match a.kind with | .load _ _ _ => true | _ => false)).length
  let back := fun (u : State) (st : Stream) => ((gone.find? (fun a => a.stream == st)).map (backTo u)).getD u
  let s1 := back (back s .scalar) .lane
  { s1 with g := { s1.g with en := { s1.g.en with acc := dropBy waits s1.g.en.acc, ld := s1.g.en.ld - lds } } }

/-- The oldest copy of a group ends with code 5 (R198, R211). -/
def abandonCopy (s : State) (g : Group) (c : Copy) : State :=
  match c.kind with
  | .tensor r => finishTensor s g.id 0 g c 5 (if r.kind = 2 then 0 else c.bytes) 0
  | .lanes _ _ ls => removeCopy (modGroup s g.id (fun h => abandonLanes h c ls)) g.id 0
  | .slot _ _ ls => endSlot (removeCopy (modGroup s g.id (fun h => abandonLanes h c ls)) g.id 0) g.id c 5

/-- A group's unretired batches are faulted, then every copy of it ends with code 5 and its tile commands leave (R211, R233). -/
def abandonWork (s : State) (id : GroupId) : State :=
  match findGroup s id with
  | none => s
  | some g =>
    let s0 := modGroup s id (fun h =>
      { h with en := { h.en with batches := modBy (fun b => !b.retired) (fun b : Batch => { b with engine := true }) h.en.batches } })
    let s1 := g.en.copies.foldl (fun u c => abandonCopy u g c) s0
    let k := coreOf s1 g.core
    let mine := (k.wheelQ ++ k.wheelRun).filter (fun c => c.group == id)
    let s2 := modCore s1 g.core (fun x =>
      { x with wheelQ := x.wheelQ.filter (fun c => c.group != id), wheelRun := x.wheelRun.filter (fun c => c.group != id) })
    mine.foldl (fun u c => cmdDone u c true) s2

/-- Some group of a team stands on a core under test (R269, R271). -/
def teamTested (s : State) (id : GroupId) : Bool :=
  (teamGroups s id.part id.task id.team).any (fun g => (coreOf s g.core).testing != [])

/-- DRAIN_WATCHDOG (R61, R211, R233, R271): the drain of group `g` for a pre-emption, FREEZE or halt has exceeded PART_WD; its work
is given up, and it takes WATCHDOG code 1 at its stop point. For a save or FREEZE it is then saved in its handler state. -/
def execDrainWatchdog (s : State) : Out :=
  onGroup s (fun u =>
    if !(u.g.draining || u.g.halted) || drainedGroup u u.g || u.g.killed || teamTested u u.g.id
        || clkSince u u.g.drainAt < u.pt.partWd.toNat then .next u
    else
      let u1 := dropWaits (abandonWork u u.g.id) (fun _ => true)
      let t : TrapInfo :=
        { num := 0x16, addr := 0, detail := det [(0, 1)], lanes := u1.g.ln.mask, stream := .scalar, next := false }
      let u2 := enterTrap u1 t
      let g := { u2.g with saved := u.g.draining && !u2.g.killed, draining := false }
      .next { u2 with g := if g.saved then keepFrame u2 g else g })

/-- The scalar stream of the group in focus stands at a MARK under STALL (R135). -/
def markWait (s : State) : Bool :=
  match peekS s with
  | some (.mark sa) => (s.tk.tt.map (fun b => b.policy == 0)).getD false && quiet s .scalar && stuck movedS s (execMark sa)
  | _ => false

/-- MARK_STALL_WATCHDOG (R135, R139, R271): a MARK of group `g` has been stalled under STALL for PART_WD. -/
def execMarkStallWatchdog (s : State) : Out :=
  onGroup s (fun u =>
    .next (if !countsOff u u.g.id && waited u u.g .mark u.pt.partWd.toNat && markWait u then watchdog u .scalar 2 else u))

/-- The meaning of a scalar instruction that waits for its own access or status word, and of those whose wait counts as one (R271, R342,
R370). A CLAIM has a detector of its own (R89), and a JOIN waits unbounded for a running child (R373). -/
def accessRunS (s : State) (i : Instr) : Option (State → Out) :=
  match i with
  | .sld sd sa f => some (execSld sd sa f)
  | .sst sd sa f => some (execSst sd sa f)
  | .saadd sd sa sb f => some (execSaadd sd sa sb f)
  | .samin sd sa sb f => some (execSamin sd sa sb f)
  | .samax sd sa sb f => some (execSamax sd sa sb f)
  | .saand sd sa sb f => some (execSaand sd sa sb f)
  | .saor sd sa sb f => some (execSaor sd sa sb f)
  | .saxor sd sa sb f => some (execSaxor sd sa sb f)
  | .saswp sd sa sb f => some (execSaswp sd sa sb f)
  | .sacas sd sa sb f => some (execSacas sd sa sb f)
  | .rload sa k => some (execRload sa k)
  | .waitc sa => some (execWaitc sa)
  | .setbnd sa => some (execSetbnd sa)
  | .giveback sa => some (execGiveback sa)
  | .fork sd sa => some (execFork sd sa)
  | .watch sd sa => some (execWatch sd sa)
  | .unwatch sa => some (execUnwatch sa)
  | .ttbind sa policy => some (execTtbind sa policy)
  | .join sd sa => if ((myChild s (sreg s sa).toNat).map (fun r => r.state == 1)).getD false then none else some (execJoin sd sa)
  | _ => none

/-- The meaning of a lane instruction that waits for its own access (R271). -/
def accessRunL (i : Instr) : Option (State → Out) :=
  match i with
  | .ld f => some (execLd f)
  | .st f => some (execSt f)
  | .atom f => some (execAtom f)
  | .atomc f => some (execAtomc f)
  | .red f => some (execRed f)
  | _ => none

/-- Registers of a stream that a copy's status word is due in (R198). -/
def statusDue (s : State) (st : Stream) : List Nat :=
  s.g.en.copies.flatMap (fun c =>
    match c.kind, st with
    | .tensor _, .scalar => [c.dst]
    | .lanes _ _ _, .lane => [c.dst, c.dst + 1]
    | .slot _ _ _, .lane => [c.dst, c.dst + 1]
    | _, _ => [])

/-- Registers that the next instruction of a stream names. -/
def nextRegs (s : State) (st : Stream) : List Nat :=
  match st with
  | .scalar =>
    (match fetchWord s s.g.sc.spc.toNat with
      | .ok w _ => scalarRegs w
      | _ => [])
  | .lane =>
    (match fetchTriple s s.g.ln.lpc with
      | .ok (some (w0, w1, w2)) _ => laneRegs (laneFieldsOf w0 w1 w2)
      | _ => [])

/-- The instruction of a stream waits for its own access or status word: one that is outstanding, one that cannot be issued, or a
register of a copy's status word that it names (R198, R271). One that only reads a remote atomic's register waits unbounded (R332). -/
def accessWait (s : State) (st : Stream) : Bool :=
  let mine := !(incomplete s st).isEmpty
  let due := fun (_ : Unit) => (nextRegs s st).any (fun r => (statusDue s st).contains r)
  match st with
  | .scalar =>
    mine || (match fetchScalar s with
      | .run i u => ((accessRunS u i).map (stuck movedS u)).getD false
      | .stop _ => canIssueS s && due ()
      | .fault _ => false)
  | .lane =>
    mine || (match fetchLane s with
      | .run i u => ((accessRunL i).map (stuck movedL u)).getD false
      | .stop _ => canIssueL s && due ()
      | .fault _ => false)

/-- What a stream of the group in focus that stands waits for (R75, R89, R135, R271). -/
def waitsNow (s : State) (st : Stream) : List Wait :=
  let when := fun (b : Bool) (k : Wait) => if b then [k] else []
  match st with
  | .scalar =>
    when (scalarQueueStall s) .queueS ++ when (accessWait s .scalar) .accessS ++ when (atBarrier s) .barrier ++ when (markWait s) .mark
  | .lane => when (laneQueueStall s) .queueL ++ when (accessWait s .lane) .accessL

/-- ACCESS_WATCHDOG (R271, R332): the instruction of group `g`'s scalar stream, or with `flag` of its lane stream, has waited PART_WD
for its own access; the destination is not written. Of this trap and one that the other stream holds the lower is taken (R274). With `idx` not 0 an atomic that was dropped performs nevertheless. -/
def execAccessWatchdog (s : State) : Out :=
  onGroup s (fun u =>
    let st := if u.inp.flag then Stream.lane else .scalar
    let n := u.pt.partWd.toNat
    let due := waited u u.g (if u.inp.flag then .accessL else .accessS) n
    let held := (u.g.trapPend.map (fun t => t.stream == st)).getD false
    if countsOff u u.g.id || held || !due || !accessWait u st then .next u
    else
      let late := u.g.en.acc.filter (fun a => a.stream == st && match a.kind with
        | .atomic _ _ _ _ => true
        | _ => false)
      let perform := fun (v : State) (a : Access) =>
        a.lanes.foldl (fun w x =>
          match performLane a x w with
          | .ok _ w1 => w1
          | _ => w) v
      let u1 := dropWaits u (fun x => x == st)
      let t : TrapInfo := { num := 0x16, addr := 0, detail := det [(0, 3)], lanes := u1.g.ln.mask, stream := st, next := false }
      .next (lateTrap (if u.inp.idx = 0 then u1 else late.foldl perform u1) t))

/-- TEAM_TIME_WATCHDOG (R271): team `off` of task `idx` of partition `part` has reached its kernel's time limit; every group takes
WATCHDOG code 4 at its next point between instructions, and the count starts again (log 42). -/
def execTeamTimeWatchdog (s : State) : Out :=
  let part := s.inp.part
  match findTeam s part s.inp.idx s.inp.off with
  | none => .next s
  | some t =>
    let gs := teamGroups s part t.task t.index
    let tested := gs.any (fun g => (coreOf s g.core).testing != [])
    if t.kernel.teamtime = 0 || t.saved || tested || gs.any (fun g => g.saved || g.draining || g.halted)
        || clkSince s t.startGtc < t.kernel.teamtime then .next s
    else
      let s1 := gs.foldl (fun u g =>
        let v := focusOn u g.id
        if v.g.id != g.id || v.g.killed || v.g.ended then v
        else if v.g.trapPend.isSome then { v with g := { v.g with timeUp := true } }
        else watchdog v .scalar 4) s
      .next (modTeam s1 part t.task t.index (fun x => { x with startGtc := s.dev.gtc }))

/-- Retire a twin (R270): its teams are pre-empted, but those of `dead`, whose save needs the failed structure, are killed; the rest
follows when none is left to save. -/
def retireTwin (s : State) (core : Nat) (dead : List GroupId) : State :=
  let tw := core / 2
  let lost := fun (g : Group) => g.core / 2 == tw && dead.any (fun i => i.part == g.id.part && i.task == g.id.task && i.team == g.id.team)
  let s1 := (((allGroups s).filter lost).map Group.id).foldl killGroup s
  let s2 := preemptCore (preemptCore s1 (2 * tw)) (2 * tw + 1)
  let on := fun (u : State) (c : Nat) => modCore u c (fun x => { x with retiring := true })
  let s3 := on (on s2 (2 * tw)) (2 * tw + 1)
  finishRetire { s3 with dev := { s3.dev with retired := s3.dev.retired ++ [tw] } } core

/-- The counts of the groups of a core, and of their teams, start again from zero after a pause (R269, R271). -/
def restartCounts (s : State) (core : Nat) : State :=
  let now := s.dev.gtc
  let here := (allGroups s).filter (fun g => g.core == core && !g.saved)
  let of := fun (g : Group) (part task idx : Nat) => g.id.part == part && g.id.task == task && g.id.team == idx
  let s1 := modTeams s (fun t => here.any (fun g => of g t.part t.task t.index)) (fun t => { t with startGtc := now })
  modGroups s1 (fun h => here.any (fun g => of g h.id.part h.id.task h.id.team))
    (fun h => { h with waits := if h.ended then [(.ended, now)] else [], drainAt := now })

/-- SELF_TEST_COMPLETE (R269, R270): the test of structure `idx` of core `core` ends; with `flag` it failed and the twin is retired, the
teams of `groups` being those that cannot be saved. The pause lasts while a structure of the core is tested, and counts towards no
watchdog. -/
def execSelfTestComplete (s : State) : Out :=
  let c := s.inp.core
  let k := s.inp.idx
  if !(coreOf s c).testing.contains k then .next s
  else
    let s1 := modCore s c (fun x => { x with testing := dropBy (· == k) x.testing, ceTimes := x.ceTimes.filter (fun e => e.1 != k) })
    let s2 := restartCounts s1 c
    .next (if s.inp.flag then retireTwin s2 c s.inp.groups else s2)

end Sys2Proof.Machine
end

