-- ==== Sys2Proof/Machine/Debug.lean ====
section
/-! DEFINITION. The debugger's commands (R272, R273): halt, resume and step of the groups of a task's roles. -/
namespace Sys2Proof.Machine

/-- The op, the task and the role mask of a DBG_CMD value (R272). -/
def dbgOp (w : Nat) : Nat := fld w 0 3

/-- A group that a DBG_CMD value names (R272). -/
def dbgNames (part w : Nat) (g : Group) : Bool :=
  g.id.part == part && g.id.task == fld w 32 32 && bit (fld w 8 4) g.role

/-- A named group stands as a halt or a step leaves it (R273). -/
def dbgStopped (s : State) (g : Group) : Bool := g.ended || (g.halted && !g.stepping && drainedGroup s g)

/-- A command of a partition has begun: its word is the last one seen (R272). -/
def dbgBegin (s : State) (part : Nat) (w : Nat) (waits : Bool) : State :=
  modPart s part (fun p => { p with dbgLast := BitVec.ofNat 64 w, dbgWait := waits })

/-- A command of a partition has completed: DBG_DONE advances (R272). -/
def dbgDone (s : State) (part : Nat) : State :=
  let s1 := ctlWrite s part 0x6008 8 ((ctlRead s part 0x6008 8 + 1) % 2 ^ 64)
  modPart s1 part (fun p => { p with dbgWait := false })

/-- A halt or step whose groups have all stopped writes their images and completes (R273). -/
def dbgFinish (s : State) (part w : Nat) : State :=
  let gs := (allGroups s).filter (dbgNames part w)
  if !gs.all (dbgStopped s) then s
  else dbgDone ((gs.filter (fun g => !g.ended && !g.saved)).foldl writeImage s) part

/-- One debug command (R272): with op `op`, a new value of DBG_CMD starts it by `start`, and a started halt or step is looked at
again. An op that the part ignores is only noted. -/
def dbgEvent (op : Nat) (start : State → Nat → Nat → State) (s : State) : Out :=
  let part := s.inp.part
  match findPart s part with
  | none => .next s
  | some p =>
    let w := ctlRead s part 0x6000 8
    let last := p.dbgLast.toNat
    if p.dbgWait then .next (if dbgOp last = op then dbgFinish s part last else s)
    else if w = last then .next s
    else if dbgOp w = op then .next (start s part w)
    else if dbgOp w = 0 || 4 ≤ dbgOp w then .next (dbgBegin s part w false)
    else .next s

/-- A halt begins (R273): the named groups, and those that start later, stop at run boundaries. -/
def startHalt (s : State) (part w : Nat) : State :=
  let h : Halt := { task := fld w 32 32, roles := BitVec.ofNat 4 (fld w 8 4) }
  let s1 := modGroups s (dbgNames part w) (fun g => { g with halted := true, stepping := false, drainAt := s.dev.gtc })
  dbgBegin (modPart s1 part (fun p => { p with halts := p.halts ++ [h] })) part w true

/-- A group with its image read back as RETH reads a frame (R258, R273). -/
def fromImage (g : Group) (fr : List Byte) : Group :=
  let flags := frameFld fr 0x0B 1
  let g1 := frameApply g fr (g.q.dq.map Prod.snd)
  let stream := if bit flags 0 then Stream.lane else Stream.scalar
  { g1 with
    sc := { g1.sc with recBeats := none },
    skipS := g1.skipS || (bit flags 1 && stream == .scalar),
    skipL := if bit flags 1 && stream == .lane then some false else g1.skipL,
    ln := { g1.ln with pos := if bit flags 2 then .start else g.ln.pos, runPos := if bit flags 2 then g1.ln.runPos else 0 } }

/-- A halted group continues, and its team's counts start again (R102, R271, R273). -/
def resumeGroup (s : State) (g : Group) : State :=
  let base := ctlRead s g.id.part 0x6010 8
  let back :=
    if base = 0 || g.ended then g
    else
      match translate s (quadUnit g.core g.quad) g.id.part 0 (base + 512 * hslot g) true false true with
      | .ok l _ => fromImage g (mbytes s.mem l.addr 512)
      | _ => g
  let s1 := modGroup s g.id (fun _ => { back with halted := false, stepping := false })
  restartTeam (modTeamOf s1 g.id (fun t => { t with startGtc := s.dev.gtc })) g.id.part g.id.task g.id.team

/-- A resume acts at once (R273): the halt is lifted for the named roles. -/
def startResume (s : State) (part w : Nat) : State :=
  let lift := fun (h : Halt) => if h.task = fld w 32 32 then { h with roles := h.roles &&& ~~~(BitVec.ofNat 4 (fld w 8 4)) } else h
  let s1 := modPart s part (fun p => { p with halts := (p.halts.map lift).filter (fun h => h.roles != 0) })
  let gs := (allGroups s1).filter (fun g => dbgNames part w g && g.halted)
  dbgDone (dbgBegin (gs.foldl resumeGroup s1) part w false) part

/-- A step begins (R273): each halted named group runs to the end of one run. -/
def startStep (s : State) (part w : Nat) : State :=
  let gs := (allGroups s).filter (fun g => dbgNames part w g && g.halted && !g.ended)
  let s1 := modGroups s (fun g => dbgNames part w g && g.halted && !g.ended) (fun g => { g with halted := false, stepping := true })
  dbgBegin (gs.foldl (fun u g => restartTeam u g.id.part g.id.task g.id.team) s1) part w true

/-- DEBUG_HALT (R272, R273) in partition `part`. -/
def execDebugHalt (s : State) : Out := dbgEvent 1 startHalt s

/-- DEBUG_RESUME (R272, R273) in partition `part`. -/
def execDebugResume (s : State) : Out := dbgEvent 2 startResume s

/-- DEBUG_STEP (R272, R273) in partition `part`. -/
def execDebugStep (s : State) : Out := dbgEvent 3 startStep s

end Sys2Proof.Machine
end

