-- ==== Sys2Proof/Machine/Control.lean ====
section
/-! DEFINITION. CTRL, lane class 0x8: lane branches and the reconvergence stack (R90 to R95, R415, R416) -/
namespace Sys2Proof.Machine

/-- The lanes that a branch's guard selects (R283): none under SKIP (R97, R258). -/
def takenMask (s : State) (f : LaneFields) : BitVec 64 := if skipL s then 0 else s.g.ln.mask &&& guardMask s f

/-- The group's lane context replaced. -/
def putLane (s : State) (c : LaneCtx) : State := { s with g := { s.g with ln := c } }

/-- The issue of a lane branch: its checks, then `k` with the taken lanes. -/
def branchRun (s : State) (i : Instr) (f : LaneFields) (code : Nat) (k : State → BitVec 64 → Out) : Out :=
  laneRun s i f code ⟨.none, .none, .none, .none⟩ none (fun s1 _ _ => k s1 (takenMask s1 f))

/-- Push an entry and go on, or STACK_SPILL before anything changes: at a depth of 256, or where 32 entries are held and the turn's
`ecc` fails the spill (R95). The spill address is a free value (log 10). -/
def pushEntry (s : State) (e : StackEntry) (mask : BitVec 64) (next : Nat) : Out :=
  if 256 ≤ s.g.ln.stack.length || (32 ≤ s.g.ln.stack.length && s.inp.ecc == .spill) then
    let (a, s1) := freeVal s
    trapL s1 s.g.ln.mask 0x14 a.toNat 0
  else .next (finBranch (putLane s { s.g.ln with stack := e :: s.g.ln.stack, mask := mask }) next)

/-- LBR (R90). -/
def execLbr (f : LaneFields) (s : State) : Out :=
  branchRun s (.lbr f) f 512 (fun s1 t =>
    let c := s1.g.ln
    if t = 0 then .next (finBranch s1 (c.lpc + 1))
    else if t = c.mask then .next (finBranch s1 (bTarget f))
    else
      pushEntry s1 { mask := c.mask &&& ~~~t, phase := false, fmt := zx 24 c.fmt, target := BitVec.ofNat 16 (c.lpc + 1),
                     reconv := BitVec.ofNat 16 (bReconv f) } t (bTarget f))

/-- LJMP (R90, R97). -/
def execLjmp (f : LaneFields) (s : State) : Out :=
  branchRun s (.ljmp f) f 513 (fun s1 t => .next (finBranch s1 (if t = 0 then s1.g.ln.lpc + 1 else bTarget f)))

/-- LBREAK (R94, R415, R416). -/
def execLbreak (f : LaneFields) (s : State) : Out :=
  branchRun s (.lbreak f) f 514 (fun s1 t =>
    let c := s1.g.ln
    let rest := c.mask &&& ~~~t
    let e : StackEntry := { mask := t, phase := true, fmt := zx 24 c.fmt, target := 0, reconv := BitVec.ofNat 16 (bReconv f) }
    if t = 0 then .next (finBranch s1 (c.lpc + 1))
    else
      match c.stack with
      | top :: more =>
        if top.phase && top.reconv.toNat == bReconv f then
          .next (finBranch (putLane s1 { c with stack := { top with mask := top.mask ||| t } :: more, mask := rest })
            (c.lpc + 1))
        else pushEntry s1 e rest (c.lpc + 1)
      | [] => pushEntry s1 e rest (c.lpc + 1))

/-- LEXIT (R94): its lanes leave the mask and every entry, and never run again. -/
def execLexit (f : LaneFields) (s : State) : Out :=
  branchRun s (.lexit f) f 515 (fun s1 t =>
    let c := s1.g.ln
    let c1 := { c with mask := c.mask &&& ~~~t, retired := c.retired ||| t,
                       stack := c.stack.map (fun e => { e with mask := e.mask &&& ~~~t }) }
    .next (finBranch (putLane s1 c1) (c.lpc + 1)))

end Sys2Proof.Machine
end

