-- ==== Sys2Proof/Machine/Int.lean ====
section
/-! DEFINITION. INT, lane class 0x0 (R390 to R394) -/
namespace Sys2Proof.Machine

/-- ival of R394: a pattern of `e` bits read as signed, or unsigned with sub[0]. -/
def ivalOf (f : LaneFields) (e x : Nat) : Int := if f.sub.getLsbD 0 then (x : Int) else signed e x

/-- An exact integer result in `e` bits: wrapped, or clamped with OVERFLOW and INEXACT (R244, R394). -/
def intRes (sat uns : Bool) (e : Nat) (z : Int) : FR :=
  let lo : Int := if uns then 0 else -((2 ^ (e - 1) : Nat) : Int)
  let hi : Int := if uns then ((2 ^ e : Nat) : Int) - 1 else ((2 ^ (e - 1) : Nat) : Int) - 1
  if sat && (z < lo || hi < z) then ⟨wrapN e (clampI z lo hi), flOverflow⟩ else ⟨wrapN e z, 0⟩

/-- A result that raises no flag. -/
def plain (x : Nat) : FR := ⟨x, 0⟩

/-- The element bits of an integer width. -/
def intBits (f : LaneFields) : Nat := (elems false f.width.toNat).1

/-- An arithmetic instruction of R394 that may saturate: `op` gives the exact result. -/
def intArith (s : State) (i : Instr) (f : LaneFields) (code : Nat) (b c : Bool) (op : Int → Int → Int → Int) : Out :=
  let e := intBits f
  execElem s i f code b c false (fun s1 _ x y z =>
    intRes (satOn s1 f) (f.sub.getLsbD 0) e (op (ivalOf f e x) (ivalOf f e y) (ivalOf f e z)))

/-- An integer instruction that raises no flag. -/
def intPlain (s : State) (i : Instr) (f : LaneFields) (code : Nat) (b c : Bool) (op : Nat → Nat → Nat → Nat → Nat) : Out :=
  let e := intBits f
  execElem s i f code b c false (fun _ _ x y z => plain (op e x y z % 2 ^ e))

/-- The bit field instructions' position, length and end (R394). -/
def bfTop (e y : Nat) : Nat × Nat × Nat := (fld y 0 7, fld y 8 7, min (fld y 0 7 + fld y 8 7) e)

/-- VBFX on one value (R394). -/
def bfExtract (sgn : Bool) (e x y : Nat) : Nat :=
  let (pos, len, top) := bfTop e y
  if len = 0 || e ≤ pos then 0
  else
    let v := fld x pos (top - pos)
    if sgn then wrapN e (signed (top - pos) v) else v

/-- VBFI on one value (R394). -/
def bfInsert (e x y z : Nat) : Nat :=
  let (pos, len, top) := bfTop e y
  if len = 0 || e ≤ pos then z
  else z - fld z pos (top - pos) * 2 ^ pos + fld x 0 (top - pos) * 2 ^ pos

/-- VADD (R394). -/
def execVadd (f : LaneFields) (s : State) : Out :=
  intArith s (.vadd f) f 0 true false (fun x y _ => x + y)

/-- VSUB (R394). -/
def execVsub (f : LaneFields) (s : State) : Out :=
  intArith s (.vsub f) f 1 true false (fun x y _ => x - y)

/-- VMUL (R394). -/
def execVmul (f : LaneFields) (s : State) : Out :=
  intArith s (.vmul f) f 2 true false (fun x y _ => x * y)

/-- VMULH: the high half of the exact product (R394). -/
def execVmulh (f : LaneFields) (s : State) : Out :=
  intPlain s (.vmulh f) f 3 true false (fun e x y _ => wrapN e (ivalOf f e x * ivalOf f e y / ((2 ^ e : Nat) : Int)))

/-- VMAD (R394). -/
def execVmad (f : LaneFields) (s : State) : Out :=
  intArith s (.vmad f) f 4 true true (fun x y z => x * y + z)

/-- VMIN (R394). -/
def execVmin (f : LaneFields) (s : State) : Out :=
  intPlain s (.vmin f) f 5 true false (fun e x y _ => if signed e x ≤ signed e y then x else y)

/-- VMAX (R394). -/
def execVmax (f : LaneFields) (s : State) : Out :=
  intPlain s (.vmax f) f 6 true false (fun e x y _ => if signed e x ≤ signed e y then y else x)

/-- VMINN (R394). -/
def execVminn (f : LaneFields) (s : State) : Out :=
  intPlain s (.vminn f) f 7 true false (fun _ x y _ => min x y)

/-- VMAXN (R394). -/
def execVmaxn (f : LaneFields) (s : State) : Out :=
  intPlain s (.vmaxn f) f 8 true false (fun _ x y _ => max x y)

/-- VABS: always signed (R394). -/
def execVabs (f : LaneFields) (s : State) : Out :=
  execElem s (.vabs f) f 9 false false false (fun s1 _ x _ _ =>
    let e := intBits f
    intRes (satOn s1 f) false e ((signed e x).natAbs))

/-- VNEG: always signed (R394). -/
def execVneg (f : LaneFields) (s : State) : Out :=
  execElem s (.vneg f) f 10 false false false (fun s1 _ x _ _ =>
    let e := intBits f
    intRes (satOn s1 f) false e (-(signed e x)))

/-- VAND (R394). -/
def execVand (f : LaneFields) (s : State) : Out :=
  intPlain s (.vand f) f 11 true false (fun _ x y _ => x &&& y)

/-- VOR (R394). -/
def execVor (f : LaneFields) (s : State) : Out :=
  intPlain s (.vor f) f 12 true false (fun _ x y _ => x ||| y)

/-- VXOR (R394). -/
def execVxor (f : LaneFields) (s : State) : Out :=
  intPlain s (.vxor f) f 13 true false (fun _ x y _ => x ^^^ y)

/-- VNOT (R394). -/
def execVnot (f : LaneFields) (s : State) : Out :=
  intPlain s (.vnot f) f 14 false false (fun e x _ _ => 2 ^ e - 1 - x)

/-- VSHL (R394). -/
def execVshl (f : LaneFields) (s : State) : Out :=
  intPlain s (.vshl f) f 15 true false (fun e x y _ => x * 2 ^ (y % e))

/-- VSHR (R394). -/
def execVshr (f : LaneFields) (s : State) : Out :=
  intPlain s (.vshr f) f 16 true false (fun e x y _ => x / 2 ^ (y % e))

/-- VSRA (R394). -/
def execVsra (f : LaneFields) (s : State) : Out :=
  intPlain s (.vsra f) f 17 true false (fun e x y _ => wrapN e (signed e x / ((2 ^ (y % e) : Nat) : Int)))

/-- VPOPC (R394). -/
def execVpopc (f : LaneFields) (s : State) : Out :=
  intPlain s (.vpopc f) f 18 false false (fun e x _ _ => popc e x)

/-- VCLZ (R394). -/
def execVclz (f : LaneFields) (s : State) : Out :=
  intPlain s (.vclz f) f 19 false false (fun e x _ _ => clz e x)

/-- VBFX (R394). -/
def execVbfx (f : LaneFields) (s : State) : Out :=
  intPlain s (.vbfx f) f 20 true false (fun e x y _ => bfExtract (f.sub.getLsbD 0) e x y)

/-- VBFI (R394). -/
def execVbfi (f : LaneFields) (s : State) : Out :=
  intPlain s (.vbfi f) f 21 true true (fun e x y z => bfInsert e x y z)

/-- VSEL: the predicate of the lane that is read (R394). -/
def execVsel (f : LaneFields) (s : State) : Out :=
  execElem s (.vsel f) f 22 true false false (fun s1 t x y _ =>
    plain (if laneIn (predMask s1 (fld f.sub.toNat 0 3)) t != f.sub.getLsbD 3 then x else y))

/-- VMOV (R394). -/
def execVmov (f : LaneFields) (s : State) : Out :=
  intPlain s (.vmov f) f 23 false false (fun _ x _ _ => x)

end Sys2Proof.Machine
end

