-- ==== Sys2Proof/Machine/Cross.lean ====
section
/-! DEFINITION. XLANE, lane class 0x6 (R407 to R410) -/
namespace Sys2Proof.Machine

/-- The segment size of a seg code (R407). -/
def segSize (w seg : Nat) : Nat := if seg = 0 then w else 2 ^ seg

/-- A seg code that the width does not admit (R407). -/
def segBad (s : State) (f : LaneFields) : Option BadOp :=
  let seg := fld f.sub.toNat 0 3
  subBad f (seg = 7 || s.g.width < segSize s.g.width seg)

/-- Kind 11 is ILLEGAL_OPERAND (R407). -/
def kindBad (f : LaneFields) : Option BadOp := subBad f (fld f.sub.toNat 3 2 = 3)

/-- A shuffle (R408): `src` gives the source lane from the lane, its segment's base and size, and the index. -/
def shuffle (s : State) (i : Instr) (f : LaneFields) (code : Nat) (src : Nat → Nat → Nat → Nat → Nat) : Out :=
  let n := widthRegs f.width.toNat
  let lit := literal false f.width.toNat f.imm
  let r : Roles := ⟨.dst n, .src n, .src n, .none⟩
  laneRun s i f code r (segBad s f) (fun s1 m vq =>
    let size := segSize s1.g.width (fld f.sub.toNat 0 3)
    let val := fun t =>
      operand s1.g f.a n lit vq.1 (src t (t - t % size) size (operand s1.g f.b n lit vq.2.1 t))
    .next (popFinL (writeLanes s1 f.d n m val) f r))

/-- SHFL (R408). -/
def execShfl (f : LaneFields) (s : State) : Out := shuffle s (.shfl f) f 384 (fun _ base size i => base + i % size)

/-- SHFLUP (R408). -/
def execShflup (f : LaneFields) (s : State) : Out :=
  shuffle s (.shflup f) f 385 (fun t base _ i => if base + i ≤ t then t - i else t)

/-- SHFLDN (R408). -/
def execShfldn (f : LaneFields) (s : State) : Out :=
  shuffle s (.shfldn f) f 386 (fun t base size i => if t + i < base + size then t + i else t)

/-- SHFLX (R408). -/
def execShflx (f : LaneFields) (s : State) : Out :=
  shuffle s (.shflx f) f 387 (fun t base size i => base + ((t - base) ^^^ (i % size)))

/-- BCAST (R408): the index as read in the lowest active lane. -/
def execBcast (f : LaneFields) (s : State) : Out :=
  let n := widthRegs f.width.toNat
  let lit := literal false f.width.toNat f.imm
  let r : Roles := ⟨.dst n, .src n, .src n, .none⟩
  laneRun s (.bcast f) f 388 r none (fun s1 m vq =>
    let u := operand s1.g f.b n lit vq.2.1 ((lowLane m).getD 0) % s1.g.width
    .next (popFinL (writeLanes s1 f.d n m (fun _ => operand s1.g f.a n lit vq.1 u)) f r))

/-- The operator of a reduction or scan (R409): 0 sum, 1 minimum, 2 maximum, on `e` bits of a kind. -/
def redOp (v : Env) (op kind e : Nat) (x y : Nat) : FR :=
  let fmt := if e = 64 then fF64 else fF32
  let iv := fun (p : Nat) => if kind = 1 then (p : Int) else signed e p
  if kind = 2 then
    if op = 0 then fAdd fmt { v with ftz := false } x y else fMinMax fmt false (op == 2) x y
  else if op = 0 then intRes v.sat (kind == 1) e (iv x + iv y)
  else if op = 1 then plain (if iv x ≤ iv y then x else y)
  else plain (if iv x ≤ iv y then y else x)

/-- The running values of a list under an operator, and the union of the flags of its steps (R409). -/
def running (op : Nat → Nat → FR) (acc : Nat) : List Nat → List Nat × Fl
  | [] => ([acc], 0)
  | x :: r =>
    let z := op acc x
    let (l, fl) := running op z.bits r
    (acc :: l, z.fl ||| fl)

/-- The identity of an exclusive scan (R409). -/
def scanId (op kind e : Nat) : Nat :=
  if op = 0 then 0
  else if kind = 2 then (let fmt := if e = 64 then fF64 else fF32; fsign fmt true + finfBits fmt)
  else if kind = 0 then 2 ^ (e - 1)
  else 0

/-- What the active lanes of one segment receive, in lane order, and the flags (R409): `mode` 0 reduction, 1 inclusive scan,
2 exclusive scan. A NaN of the first lane is written as the default NaN (R236). -/
def segResult (v : Env) (op kind e mode : Nat) (xs : List Nat) : List Nat × Fl :=
  match xs with
  | [] => ([], 0)
  | x0 :: r =>
    let fmt := if e = 64 then fF64 else fF32
    let x := if kind = 2 && isNan (fdec fmt x0) then fnan fmt else x0
    let snan := if kind = 2 && xs.any (fun p => isSnan (fdec fmt p)) then flInvalid else 0
    let (l, fl) := running (redOp v op kind e) x r
    let out := match mode with
      | 0 => xs.map (fun _ => (l.getLast?).getD x)
      | 1 => l
      | _ => scanId op kind e :: l.dropLast
    (out, fl ||| snan)

/-- A reduction or scan (R409). -/
def reduceBy (s : State) (i : Instr) (f : LaneFields) (code op : Nat) (scan : Bool) : Out :=
  let n := widthRegs f.width.toNat
  let e := 32 * n
  let kind := fld f.sub.toNat 3 2
  let lit := literal (kind == 2) f.width.toNat f.imm
  let r : Roles := ⟨.dst n, .src n, .none, .none⟩
  laneRun s i f code r ((segBad s f).or (kindBad f)) (fun s1 m vq =>
    let size := segSize s1.g.width (fld f.sub.toNat 0 3)
    let env := if op = 0 then laneEnv s1 f else rneEnv
    let mode := if !scan then 0 else if f.sub.getLsbD 5 then 2 else 1
    let seg := fun t => (lanesOf m).filter (fun u => u / size == t / size)
    let res := fun t => segResult env op kind e mode ((seg t).map (fun u => operand s1.g f.a n lit vq.1 u))
    let val := fun t => (((seg t).zip (res t).1).find? (fun p => p.1 == t)).elim 0 Prod.snd
    withFlags s1 f m (fun t => (res t).2) (fun s2 => .next (popFinL (writeLanes s2 f.d n m val) f r)))

/-- REDSUM (R409). -/
def execRedsum (f : LaneFields) (s : State) : Out := reduceBy s (.redsum f) f 389 0 false

/-- REDMIN (R409). -/
def execRedmin (f : LaneFields) (s : State) : Out := reduceBy s (.redmin f) f 390 1 false

/-- REDMAX (R409). -/
def execRedmax (f : LaneFields) (s : State) : Out := reduceBy s (.redmax f) f 391 2 false

/-- SCANADD (R409). -/
def execScanadd (f : LaneFields) (s : State) : Out := reduceBy s (.scanadd f) f 392 0 true

/-- SCANMAX (R409). -/
def execScanmax (f : LaneFields) (s : State) : Out := reduceBy s (.scanmax f) f 393 2 true

/-- BALLOT (R410). -/
def execBallot (f : LaneFields) (s : State) : Out :=
  let n := widthRegs f.width.toNat
  let lit := literal false f.width.toNat f.imm
  let r : Roles := ⟨.dst n, .src n, .none, .none⟩
  laneRun s (.ballot f) f 394 r none (fun s1 m vq =>
    let word := maskOf ((lanesOf m).filter (fun t => operand s1.g f.a n lit vq.1 t != 0))
    .next (popFinL (writeLanes s1 f.d n m (fun _ => word.toNat)) f r))

/-- VOTEANY and VOTEALL (R410): `all` asks every active lane of the segment. -/
def voteBy (s : State) (i : Instr) (f : LaneFields) (code : Nat) (all : Bool) : Out :=
  let n := widthRegs f.width.toNat
  let lit := literal false f.width.toNat f.imm
  let r : Roles := ⟨.pred, .src n, .none, .none⟩
  laneRun s i f code r (segBad s f) (fun s1 m vq =>
    let size := segSize s1.g.width (fld f.sub.toNat 0 3)
    let on := fun t => operand s1.g f.a n lit vq.1 t != 0
    let val := fun t =>
      let seg := (lanesOf m).filter (fun u => u / size == t / size)
      if all then seg.all on else seg.any on
    .next (popFinL (writePred s1 f.d.toNat m val) f r))

/-- VOTEANY (R410). -/
def execVoteany (f : LaneFields) (s : State) : Out := voteBy s (.voteany f) f 395 false

/-- VOTEALL (R410). -/
def execVoteall (f : LaneFields) (s : State) : Out := voteBy s (.voteall f) f 396 true

end Sys2Proof.Machine
end

