-- ==== Sys2Proof/Machine/Dot.lean ====
section
/-! DEFINITION. DOT, lane class 0x5 (R249, R405, R406) -/
namespace Sys2Proof.Machine

/-- A NaN decoded from an 8-bit element is quiet (R406). -/
def quietFV (z : FV) : FV := if isNan z then .nan false else z

/-- The float form of a dot (R406): the exact sum of c and the products, rounded once. -/
def dotFloat (v : Env) (c : Nat) (ps : List (FV × FV)) : FR :=
  let terms := ps.map (fun p => fvMul p.1 p.2)
  roundWith fF32 v (fvSum v.mode ((fdec fF32 (ftzIn fF32 v.ftz c), 0) :: terms))

/-- The integer form of a dot (R406). -/
def dotInt (sat : Bool) (c : Nat) (ps : List (Int × Int)) : FR :=
  intRes sat false 32 (ps.foldl (fun acc p => acc + p.1 * p.2) (signed 32 c))

/-- The 16 elements of a block in a lane's registers, as one number with its record word (R237, R405). -/
def blockElems (ab8 : Bool) (x : Nat) : List FV :=
  let rec' := if ab8 then fld x 128 32 else fld x 64 32
  (List.range 16).map (fun k => blockVal (!ab8) rec' (if ab8 then fld x (8 * k) 8 else fld x (4 * k) 4) (k / 2))

/-- A dot instruction's shared run: `na` registers of a and b. -/
def execDot (s : State) (i : Instr) (f : LaneFields) (code : Nat) (ab : Role) (na : Nat) (extra : Option BadOp)
    (op : State → Nat → Nat → Nat → FR) : Out :=
  let r : Roles := ⟨.dst 1, ab, ab, .src 1⟩
  laneRun s i f code r extra (fun s1 m vq =>
    let res := fun t =>
      let u := srcLane f m t
      op s1 (operand s1.g f.a na f.imm.toNat vq.1 u) (operand s1.g f.b na f.imm.toNat vq.2.1 u)
        (operand s1.g f.c 1 f.imm.toNat vq.2.2 u)
    withFlags s1 f m (fun t => (res t).fl) (fun s2 =>
      .next (popFinL (writeLanes s2 f.d 1 m (fun t => (res t).bits)) f r)))

/-- DOTN (R405, R406): register operands only for a and b. -/
def execDotn (f : LaneFields) (s : State) : Out :=
  let ab8 := f.sub.getLsbD 0
  let n := if ab8 then 5 else 3
  execDot s (.dotn f) f 320 (.reg n) n none (fun s1 x y c =>
    dotFloat (laneEnv s1 f) c ((blockElems ab8 x).zip (blockElems ab8 y)))

/-- DOT2 (R405, R406). -/
def execDot2 (f : LaneFields) (s : State) : Out :=
  let el := fun (x k : Nat) => fld x (16 * k) 16
  let iv := fun (uns : Bool) (x : Nat) => if uns then (x : Int) else signed 16 x
  let fmt := widthFmt f.width.toNat
  execDot s (.dot2 f) f 321 (.src 1) 1 none (fun s1 x y c =>
    if f.sub.getLsbD 0 then
      dotInt (satOn s1 f) c ([0, 1].map (fun k => (iv (f.sub.getLsbD 1) (el x k), iv (f.sub.getLsbD 2) (el y k))))
    else
      let v := laneEnv s1 f
      let fv := fun (p : Nat) => fdec fmt (ftzIn fmt v.ftz p)
      dotFloat v c ([0, 1].map (fun k => (fv (el x k), fv (el y k)))))

/-- DOT4 (R405, R406): one integer and one float format is ILLEGAL_OPERAND. -/
def execDot4 (f : LaneFields) (s : State) : Out :=
  let fa := fld f.sub.toNat 0 2
  let fb := fld f.sub.toNat 2 2
  let el := fun (x k : Nat) => fld x (8 * k) 8
  let iv := fun (fc x : Nat) => if fc = 1 then (x : Int) else signed 8 x
  let fv := fun (fc x : Nat) => quietFV (fdec (fmtOf (fc + 2)) x)
  execDot s (.dot4 f) f 322 (.src 1) 1 (subBad f (decide (fa < 2) != decide (fb < 2)))
    (fun s1 x y c =>
      if fa < 2 then dotInt (satOn s1 f) c ((List.range 4).map (fun k => (iv fa (el x k), iv fb (el y k))))
      else dotFloat (laneEnv s1 f) c ((List.range 4).map (fun k => (fv fa (el x k), fv fb (el y k)))))

end Sys2Proof.Machine
end

