-- ==== Sys2Proof/Machine/Fp.lean ====
section
/-! DEFINITION. FP, lane class 0x2 (R397) -/
namespace Sys2Proof.Machine

/-- An FP instruction on the format of its width (R397). -/
def fpElem (s : State) (i : Instr) (f : LaneFields) (code : Nat) (b c : Bool)
    (op : Fmt → Env → Nat → Nat → Nat → FR) : Out :=
  execElem s i f code b c true (fun s1 _ => op (widthFmt f.width.toNat) (laneEnv s1 f))

/-- FABS and FNEG on a pattern (R397): `neg` inverts the sign, else it is cleared. -/
def fSignOp (fmt : Fmt) (v : Env) (neg : Bool) (a : Nat) : FR :=
  let x := ftzIn fmt v.ftz a
  let z := fdec fmt x
  let top := 2 ^ (fmt.bits - 1)
  if isNan z then ⟨fnan fmt, if isSnan z then flInvalid else 0⟩
  else if neg then ⟨if x < top then x + top else x - top, 0⟩
  else ⟨x % top, 0⟩

/-- FCLAMP (R397): a NaN a gives NaN; a NaN bound is ignored. -/
def fClamp (fmt : Fmt) (v : Env) (a b c : Nat) : FR :=
  let bad := isSnan (fdec fmt a) || isSnan (fdec fmt b) || isSnan (fdec fmt c)
  let fl := if bad then flInvalid else 0
  if isNan (fdec fmt a) then ⟨fnan fmt, fl⟩
  else ⟨(fMinMax fmt v.ftz false (fMinMax fmt v.ftz true a b).bits c).bits, fl⟩

/-- FADD (R397). -/
def execFadd (f : LaneFields) (s : State) : Out :=
  fpElem s (.fadd f) f 128 true false (fun fmt v x y _ => fAdd fmt v x y)

/-- FSUB (R397). -/
def execFsub (f : LaneFields) (s : State) : Out :=
  fpElem s (.fsub f) f 129 true false (fun fmt v x y _ => fSub fmt v x y)

/-- FMUL (R397). -/
def execFmul (f : LaneFields) (s : State) : Out :=
  fpElem s (.fmul f) f 130 true false (fun fmt v x y _ => fMul fmt v x y)

/-- FFMA (R397). -/
def execFfma (f : LaneFields) (s : State) : Out :=
  fpElem s (.ffma f) f 131 true true (fFma)

/-- FMIN (R397). -/
def execFmin (f : LaneFields) (s : State) : Out :=
  fpElem s (.fmin f) f 132 true false (fun fmt v x y _ => fMinMax fmt v.ftz false x y)

/-- FMAX (R397). -/
def execFmax (f : LaneFields) (s : State) : Out :=
  fpElem s (.fmax f) f 133 true false (fun fmt v x y _ => fMinMax fmt v.ftz true x y)

/-- FABS (R397). -/
def execFabs (f : LaneFields) (s : State) : Out :=
  fpElem s (.fabs f) f 134 false false (fun fmt v x _ _ => fSignOp fmt v false x)

/-- FNEG (R397). -/
def execFneg (f : LaneFields) (s : State) : Out :=
  fpElem s (.fneg f) f 135 false false (fun fmt v x _ _ => fSignOp fmt v true x)

/-- FCLAMP (R397). -/
def execFclamp (f : LaneFields) (s : State) : Out :=
  fpElem s (.fclamp f) f 136 true true (fClamp)

/-- FRND (R397). -/
def execFrnd (f : LaneFields) (s : State) : Out :=
  fpElem s (.frnd f) f 137 false false (fun fmt v x _ _ => fRnd fmt v x)

end Sys2Proof.Machine
end

