-- ==== Sys2Proof/Machine/Misc.lean ====
section
/-! DEFINITION. MISC, lane class 0x7 (R411 to R414) -/
namespace Sys2Proof.Machine

/-- One round of Philox-4x32 (R412) on (x0, x1, x2, x3) with keys k0, k1. -/
def philoxRound (x : Nat × Nat × Nat × Nat) (k0 k1 : Nat) : Nat × Nat × Nat × Nat :=
  let p0 := 0xD2511F53 * x.1
  let p1 := 0xCD9E8D57 * x.2.2.1
  ((p1 / 2 ^ 32) ^^^ x.2.1 ^^^ k0, p1 % 2 ^ 32, (p0 / 2 ^ 32) ^^^ x.2.2.2 ^^^ k1, p0 % 2 ^ 32)

/-- `n` rounds with the key schedule of R412. -/
def philox : Nat → Nat → Nat → Nat × Nat × Nat × Nat → Nat × Nat × Nat × Nat
  | 0, _, _, x => x
  | n + 1, k0, k1, x => philox n ((k0 + 0x9E3779B9) % 2 ^ 32) ((k1 + 0xBB67AE85) % 2 ^ 32) (philoxRound x k0 k1)

/-- The four words of one lane's draw as one number, word 0 lowest. -/
def rngDraw (group t : Nat) (ctr : Word) (k0 k1 : Nat) : Nat :=
  let x := philox 10 k0 k1 (t, fld ctr.toNat 0 32, fld ctr.toNat 32 32, group)
  x.1 + x.2.1 * 2 ^ 32 + x.2.2.1 * 2 ^ 64 + x.2.2.2 * 2 ^ 96

/-- RNG (R412): the counter advances once for a mask that is not empty. -/
def execRng (f : LaneFields) (s : State) : Out :=
  let n := fld f.sub.toNat 0 2 + 1
  let r : Roles := ⟨.dst n, .reg 2, .none, .none⟩
  laneRun s (.rng f) f 448 r none (fun s1 m _ =>
    let val := fun t => rngDraw s1.g.id.group t s1.g.ln.rng (vget s1.g f.a.toNat t) (vget s1.g (f.a.toNat + 1) t)
    let s2 := writeLanes s1 f.d n m val
    let ctr := if m = 0 then s2.g.ln.rng else s2.g.ln.rng + 1
    .next (popFinL { s2 with g := { s2.g with ln := { s2.g.ln with rng := ctr } } } f r))

/-- LPUSH (R72, R413): the push follows the stream's accesses (R176). -/
def execLpush (f : LaneFields) (s : State) : Out :=
  let n := widthRegs f.width.toNat
  let r : Roles := ⟨.none, .src n, .none, .none⟩
  laneRun s (.lpush f) f 449 r none (fun s1 m vq =>
    if skipQ s1 then .next (popFinL s1 f r)
    else if 8 ≤ s1.g.q.rq.length || !quiet s1 .lane then stallL s
    else
      let v := match lowLane m with
        | none => 0
        | some t => operand s1.g f.a n 0 vq.1 t
      .next (popFinL { s1 with g := { s1.g with q := { s1.g.q with rq := s1.g.q.rq ++ [BitVec.ofNat 64 v] } } } f r))

/-- VQPOP (R72, R413): one entry whatever the mask holds. -/
def execVqpop (f : LaneFields) (s : State) : Out :=
  let n := widthRegs f.width.toNat
  let r : Roles := ⟨.dst n, .none, .none, .none⟩
  laneRun s (.vqpop f) f 450 r none (fun s1 m _ =>
    if skipQ s1 then .next (popFinL s1 f r)
    else
      match s1.g.q.vq with
      | [] => stallL s
      | v :: _ => .next (popFinL (popVQ (writeLanes s1 f.d n m (fun _ => v.toNat)) 1) f r))

/-- The special register that RDSR reads (R414): SR_FMT is the FMT in force for the run. -/
def laneSpecial (s : State) (idx : Nat) : Option Word :=
  if idx = 0x010 then some (zx 64 s.g.ln.fmt)
  else if idx = 0x011 then some (BitVec.ofNat 64 s.g.ln.runAllot)
  else if idx = 0x012 then some (BitVec.ofNat 64 s.g.ln.runBnd)
  else specialReg s idx

/-- RDSR (R414). -/
def execRdsr (f : LaneFields) (s : State) : Out :=
  let n := widthRegs f.width.toNat
  let r : Roles := ⟨.dst n, .none, .none, .none⟩
  let idx := fld f.imm.toNat 0 14
  let bad := if fld f.imm.toNat 14 18 != 0 then some (⟨0, fld f.imm.toNat 14 18, 78⟩ : BadOp)
    else if (laneSpecial s idx).isNone then some ⟨0, idx, 64⟩ else none
  laneRun s (.rdsr f) f 451 r bad (fun s1 m _ =>
    .next (popFinL (writeLanes s1 f.d n m (fun _ => ((laneSpecial s1 idx).getD 0).toNat)) f r))

/-- LNOP (R413). -/
def execLnop (f : LaneFields) (s : State) : Out :=
  let r : Roles := ⟨.none, .none, .none, .none⟩
  laneRun s (.lnop f) f 452 r none (fun s1 _ _ => .next (popFinL s1 f r))

end Sys2Proof.Machine
end

