-- ==== Sys2Proof/Machine/Pred.lean ====
section
/-! DEFINITION. PRED, lane class 0x1 (R395, R396) -/
namespace Sys2Proof.Machine

/-- A cond code on the sign of a comparison: eq, ne, lt, le, gt, ge (R395). -/
def condOf (c : Nat) (k : Int) : Bool :=
  match c with
  | 0 => k == 0
  | 1 => k != 0
  | 2 => k < 0
  | 3 => k ≤ 0
  | 4 => 0 < k
  | _ => 0 ≤ k

/-- The sign of x − y. -/
def signOf (x y : Int) : Int := if x < y then -1 else if x = y then 0 else 1

/-- A cond of 6 or 7 is ILLEGAL_OPERAND (R395). -/
def condBad (f : LaneFields) : Option BadOp :=
  subBad f (5 < fld f.sub.toNat 0 3)

/-- A comparison into a predicate of each active lane (R396): `op` gives the value and the flags. -/
def setPred (s : State) (i : Instr) (f : LaneFields) (code : Nat) (b fl : Bool) (extra : Option BadOp)
    (op : Nat → Nat → Bool × Fl) : Out :=
  let n := widthRegs f.width.toNat
  let r : Roles := ⟨.pred, .src n, if b then .src n else .none, .none⟩
  laneRun s i f code r extra (fun s1 m vq =>
    let res := fun t =>
      let (x, y, _) := laneSrcs s1 f fl m vq n t
      op x y
    withFlags s1 f m (fun t => (res t).2) (fun s2 =>
      .next (popFinL (writePred s2 f.d.toNat m (fun t => (res t).1)) f r)))

/-- FSETP on two patterns (R396): a NaN gives sub[3]; FTZ does not apply. -/
def fCompare (fmt : Fmt) (cond : Nat) (unordered : Bool) (x y : Nat) : Bool × Fl :=
  let a := fdec fmt x
  let b := fdec fmt y
  let fl := if isSnan a || isSnan b then flInvalid else 0
  if isNan a || isNan b then (unordered, fl) else (condOf cond (fvCmp a b), fl)

/-- VSETP (R396). -/
def execVsetp (f : LaneFields) (s : State) : Out :=
  let e := (if f.width.toNat = 1 then 64 else 32)
  let v := fun (x : Nat) => if f.sub.getLsbD 3 then (x : Int) else signed e x
  setPred s (.vsetp f) f 64 true false (condBad f) (fun x y => (condOf (fld f.sub.toNat 0 3) (signOf (v x) (v y)), 0))

/-- FSETP (R396). -/
def execFsetp (f : LaneFields) (s : State) : Out :=
  setPred s (.fsetp f) f 65 true true (condBad f)
    (fCompare (widthFmt f.width.toNat) (fld f.sub.toNat 0 3) (f.sub.getLsbD 3))

/-- A logic instruction on predicates (R396): `op` combines the lane masks of a and b. Under U the lowest active lane's values
are written to every active lane (R96). -/
def predLogic (s : State) (i : Instr) (f : LaneFields) (code : Nat) (b : Bool)
    (op : BitVec 64 → BitVec 64 → BitVec 64) : Out :=
  let r : Roles := ⟨.pred, .pred, if b then .pred else .none, .none⟩
  laneRun s i f code r none (fun s1 m _ =>
    let v := op (predMask s1 f.a.toNat) (predMask s1 f.b.toNat)
    .next (popFinL (writePred s1 f.d.toNat m (fun t => laneIn v (srcLane f m t))) f r))

/-- PAND (R396). -/
def execPand (f : LaneFields) (s : State) : Out :=
  predLogic s (.pand f) f 66 true (fun x y => x &&& y)

/-- POR (R396). -/
def execPor (f : LaneFields) (s : State) : Out :=
  predLogic s (.por f) f 67 true (fun x y => x ||| y)

/-- PXOR (R396). -/
def execPxor (f : LaneFields) (s : State) : Out :=
  predLogic s (.pxor f) f 68 true (fun x y => x ^^^ y)

/-- PNOT (R396). -/
def execPnot (f : LaneFields) (s : State) : Out :=
  predLogic s (.pnot f) f 69 false (fun x _ => ~~~x)

/-- PMOV: whether the whole value is not zero (R396). -/
def execPmov (f : LaneFields) (s : State) : Out :=
  setPred s (.pmov f) f 70 false false none (fun x _ => (x != 0, 0))

/-- The predicates of a lane as bits, p7 reading 1 (R396). -/
def predBits (s : State) (t : Nat) : Nat :=
  (List.range 8).foldl (fun acc k => acc + b2n (laneIn (predMask s k) t) * 2 ^ k) 0

/-- PRD (R396). -/
def execPrd (f : LaneFields) (s : State) : Out :=
  let r : Roles := ⟨.dst 1, .none, .none, .none⟩
  laneRun s (.prd f) f 71 r none (fun s1 m _ =>
    .next (popFinL (writeLanes s1 f.d 1 m (fun t => predBits s1 (srcLane f m t))) f r))

end Sys2Proof.Machine
end

