-- ==== Sys2Proof/Machine/Special.lean ====
section
/-! DEFINITION. SFU, lane class 0x3 (R250, R398) -/
namespace Sys2Proof.Machine

/-- An SFU instruction (R398). -/
def sfuElem (s : State) (i : Instr) (f : LaneFields) (code : Nat) (b : Bool) (op : Env → Nat → Nat → FR) : Out :=
  execElem s i f code b false true (fun s1 _ x y _ => op (laneEnv s1 f) x y)

/-- FRCP (R250, R398). -/
def execFrcp (f : LaneFields) (s : State) : Out :=
  sfuElem s (.frcp f) f 192 false (fun v x _ => sfuRcp v x)

/-- FRSQ (R250, R398). -/
def execFrsq (f : LaneFields) (s : State) : Out :=
  sfuElem s (.frsq f) f 193 false (fun v x _ => sfuRsq v x)

/-- FSQRT (R250, R398). -/
def execFsqrt (f : LaneFields) (s : State) : Out :=
  sfuElem s (.fsqrt f) f 194 false (fun v x _ => sfuSqrt v x)

/-- FDIV (R250, R398). -/
def execFdiv (f : LaneFields) (s : State) : Out :=
  sfuElem s (.fdiv f) f 195 true sfuDiv

/-- FEX2 (R250, R398). -/
def execFex2 (f : LaneFields) (s : State) : Out :=
  sfuElem s (.fex2 f) f 196 false (fun v x _ => sfuEx2 v x)

/-- FLG2 (R250, R398). -/
def execFlg2 (f : LaneFields) (s : State) : Out :=
  sfuElem s (.flg2 f) f 197 false (fun v x _ => sfuLg2 v x)

/-- FSIN (R250, R398). -/
def execFsin (f : LaneFields) (s : State) : Out :=
  sfuElem s (.fsin f) f 198 false (fun v x _ => sfuSin v x)

/-- FCOS (R250, R398). -/
def execFcos (f : LaneFields) (s : State) : Out :=
  sfuElem s (.fcos f) f 199 false (fun v x _ => sfuCos v x)

/-- FTANH (R250, R398). -/
def execFtanh (f : LaneFields) (s : State) : Out :=
  sfuElem s (.ftanh f) f 200 false (fun v x _ => sfuTanh v x)

end Sys2Proof.Machine
end

