-- ==== Sys2Proof/Machine/Tenancy.lean ====
section
/-! DEFINITION. The mailbox commands (R39 to R46): creating, resizing, resetting and destroying a partition, quotes, and moving a
partition between devices. -/
namespace Sys2Proof.Machine

/-- The die of a logical twin (R8). -/
def twinDie (twin : Nat) : Nat := twin / 54

/-- The partitions other than number `num`. -/
def otherParts (s : State) (num : Nat) : List Partition := (allParts s).filter (fun p => p.num != num)

/-- The sum of a quantity over partitions. -/
def sumParts (l : List Partition) (f : Partition → Nat) : Nat := l.foldl (fun acc p => acc + f p) 0

/-- The L2 way quota on a die. -/
def waysOn (ways : List Nat) (die : Nat) : Nat := (ways[die]?).getD 0

/-- The way quotas and class counts are admissible beside those of other partitions (R40). -/
def waysOk (others : List Partition) (twins ways classWays : List Nat) : Bool :=
  [0, 1].all (fun d =>
    let q := waysOn ways d
    sumParts others (fun p => waysOn p.ways d) + q ≤ 32
      && (!twins.any (fun t => twinDie t == d) || (q != 0 && (classWays.take 4).all (fun c => c ≤ q))))

/-- The shares sum to at most 256 with a new one (R40). -/
def shareOk (others : List Partition) (share : Nat) : Bool := sumParts others Partition.share + share ≤ 256

/-- The twins are free of other partitions and not retired (R40). -/
def twinsOk (s : State) (others : List Partition) (twins : List Nat) : Bool :=
  twins.all (fun t => t < 108 && !s.dev.retired.contains t && !others.any (fun p => p.twins.contains t))

/-- The result of the checks of R40 but for STATE and capacity: 1 for a number out of range, 2 for what is taken, else 0. -/
def createCheck (s : State) (a : CreateArgs) : Nat :=
  let others := otherParts s a.number
  if 15 < a.number || 1 < a.link || 15 < a.vf then 1
  else if !twinsOk s others a.twins || others.any (fun p => p.link == a.link && p.vf == a.vf)
      || !waysOk others a.twins a.ways a.classWays || !shareOk others a.share then 2
  else 0

/-- The capacity not given to partitions suffices (R40). -/
def capacityOk (s : State) (hbm t2 : Nat) : Bool :=
  sumParts (allParts s) Partition.hbm + hbm ≤ Config.hbmBytes && sumParts (allParts s) Partition.t2 + t2 ≤ s.dev.t2Bytes

/-- Cut `n` bytes from the gaps between taken ranges, which are in rising order, of [lo, hi) (log 40). -/
def cutGaps : List (Nat × Nat) → Nat → Nat → Nat → List (Nat × Nat)
  | [], lo, hi, n => if n = 0 then [] else [(lo, min n (hi - lo))]
  | (a, len) :: r, lo, hi, n =>
    if n = 0 then []
    else
      let k := min n (a - lo)
      (if k = 0 then [] else [(lo, k)]) ++ cutGaps r (a + len) hi (n - k)

/-- Physical ranges of `n` bytes of a space that no partition has (log 40). -/
def freeFrames (s : State) (space n cap : Nat) : List (Nat × Nat) :=
  let taken := ((allParts s).flatMap Partition.frames).filter (fun f => f.1 / spaceSize == space)
  cutGaps (sortBy (fun (x y : Nat × Nat) => x.1 ≤ y.1) taken) (physKey space 0) (physKey space cap) n

/-- The physical byte belongs to a partition: its capacity or its control page. -/
def ownsKey (p : Partition) (key : Nat) : Bool :=
  p.frames.any (fun f => f.1 ≤ key && key < f.1 + f.2) || (ctlKey p.num 0 ≤ key && key < ctlKey p.num 65536)

/-- The partition's bytes read as zero, and its lines are no longer poisoned (R42, R266). -/
def wipe (s : State) (p : Partition) : State :=
  { s with mem := s.mem.filter (fun c => !ownsKey p c.1),
           dev := { s.dev with poison := s.dev.poison.filter (fun l => !ownsKey p (l * 64)) } }

/-- The machine without partition `part` itself. -/
def dropPart (s : State) (part : Nat) : State :=
  { s with pt := if s.pt.num = part then noPartition else s.pt, parts := dropBy (fun p => p.num == part) s.parts }

/-- Add a partition, which is not in focus. -/
def addPart (s : State) (p : Partition) : State := { s with parts := s.parts ++ [p] }

/-- The partition of a CREATE (R29, R40, R42, R51). -/
def newPart (s : State) (a : CreateArgs) : Partition :=
  { noPartition with
    num := a.number, create := a, state := 1, link := a.link, vf := a.vf, twins := a.twins, ways := a.ways, classWays := a.classWays,
    hbm := a.hbm, t2 := a.t2, frames := freeFrames s 0 a.hbm Config.hbmBytes ++ freeFrames s 1 a.t2 s.dev.t2Bytes,
    share := a.share, x := BitVec.ofNat 32 s.dev.gtc.toNat ||| 1,
    dataKey := Config.dataKey s.dev.keyCount, tagKey := Config.tagKey s.dev.keyCount }

/-- CREATE (R39, R40, R42): `create` holds the arguments. Where several checks fail, a number out of range comes first, then STATE, then
what is taken (log 118). -/
def execCreate (s : State) : Out :=
  let a := s.inp.create
  mailbox s 0x01 (fun s =>
    let r := createCheck s a
    if r = 1 then (s, 1)
    else if (findPart s a.number).isSome then (s, 3)
    else if r != 0 || !capacityOk s a.hbm a.t2 then (s, 2)
    else
      let p := newPart s a
      let s1 := addPart (wipe s p) p
      ({ s1 with dev := { s1.dev with created := true, keyCount := s1.dev.keyCount + 1 } }, 0))

/-- Nothing of a partition's work is left on the machine: its tasks, teams, groups, shares, tile commands, lines and remote
requests. -/
def clearWork (s : State) (part : Nat) : State :=
  let isG := fun (g : Group) => g.id.part == part
  let isT := fun (t : Team) => t.part == part
  let isK := fun (t : Task) => t.part == part
  let core := fun (c : Core) =>
    { c with share := c.share.filter (fun sh => sh.part != part), booked := c.booked.filter (fun sh => sh.part != part),
             wheelQ := c.wheelQ.filter (fun w => w.group.part != part),
             wheelRun := c.wheelRun.filter (fun w => w.group.part != part) }
  let quad := fun (e : Nat × Quad) => (e.1, { e.2 with owner := e.2.owner.filter (fun i => i.part != part) })
  { s with
    g := if isG s.g then noGroup else s.g, groups := dropBy isG s.groups,
    tm := if isT s.tm then noTeam else s.tm, teams := dropBy isT s.teams,
    tk := if isK s.tk then noTask else s.tk, tasks := dropBy isK s.tasks,
    cores := s.cores.map core,
    dev := { s.dev with
      quads := (s.dev.quads.map quad).filter (fun e => e.2 != noQuad), l2 := s.dev.l2.filter (fun l => l.part != part),
      remote := s.dev.remote.filter (fun r => r.group.part != part) } }

/-- DESTROY (R39, R42): every context is killed, the keys and the memory become zero, the capacity is free. In STATE migrated
out only the number and the function are released. -/
def execDestroy (s : State) : Out :=
  mailbox s 0x02 (fun s => onState s [1, 2, 3, 5] (fun p =>
    if p.state = 5 then (dropPart s p.num, 0)
    else
      let launches := (allTasks s).filter (fun t => t.part == p.num && t.source == 0)
      let s1 := cancelTasks s p.num (fun _ => true)
      let s2 := launches.foldl (fun u t => completeLaunch u p.num t.complVA 2 t.msix t.vector) s1
      (dropPart (wipe (clearWork s2 p.num) p) p.num, 0)))

/-- The mailbox works on a command of a partition until MAILBOX_COMMAND_COMPLETE. -/
def mbWaits (s : State) (cmd part : Nat) : State := { s with dev := { s.dev with mbWait := some (cmd, part) } }

/-- SETQUOTA (R39, R41): the new share and ways apply from the next frame boundary; ones that CREATE would refuse give result 2 (log
118). -/
def execSetquota (s : State) : Out :=
  let a := s.inp.create
  mailbox s 0x03 (fun s => onState s [1, 2] (fun p =>
    let others := otherParts s p.num
    if waysOk others p.twins a.ways a.classWays && shareOk others a.share then
      (mbWaits (modPart s p.num (fun q => { q with quotaPend := some (a.share, a.ways, a.classWays) })) 3 p.num, 0)
    else (s, 2)))

/-- HBM_FRAME_BOUNDARY (R41): a frame of 256 slots begins. -/
def execHbmFrameBoundary (s : State) : Out :=
  let apply := fun (u : State) (p : Partition) =>
    match p.quotaPend with
    | none => u
    | some (share, ways, classWays) =>
      modPart u p.num (fun q => { q with share := share, ways := ways, classWays := classWays, quotaPend := none })
  .next ((allParts s).foldl apply s)

/-- Pre-empt every resident team of a partition (R61). -/
def drainPart (s : State) (part : Nat) : State :=
  ((allTeams s).filter (fun t => t.part == part && !t.saved)).foldl drainTeam s

/-- RESET (R39, R42): INSPECT is bit 0 of the first argument word, which the model takes as 8 bytes (log 118). Without it every context is killed at once; with it the teams
are saved first. -/
def execReset (s : State) : Out :=
  mailbox s 0x04 (fun s =>
    let w := mread s.dev.mbArgs 0 8
    if 1 < w then (s, 1)
    else
      onState s [1, 2, 3] (fun p =>
        let out := fun (u : State) => modPart u p.num (fun q => { q with state := 4, keptCtl := none })
        if w = 0 then (mbWaits (out (resetPart s p.num)) 5 p.num, 0)
        else (mbWaits (out (drainPart s p.num)) 4 p.num, 0)))

/-- FREEZE (R45, R61): PC_CTL is kept, DRAIN is set and every team is pre-empted. -/
def execFreeze (s : State) : Out :=
  mailbox s 0x10 (fun s => onState s [1, 2] (fun p =>
    let keep := fun (q : Partition) => { q with keptCtl := some (q.run, q.drain), drain := true }
    (mbWaits (settleAges (drainPart (modPart s p.num keep) p.num) p.num) 0x10 p.num, 0)))

/-- Every team of a partition is saved. -/
def allSaved (s : State) (part : Nat) : Bool := (allTeams s).all (fun t => t.part != part || t.saved)

/-- A freeze has nothing left to wait for (R45, R140, R156): teams saved, moves and merges finished, no remote atomic under
way. -/
def frozenNow (s : State) (p : Partition) : Bool :=
  allSaved s p.num && p.moves.isEmpty && p.revs.all (fun r => r.state != 3)
    && s.dev.remote.all (fun r => r.group.part != p.num || r.failed)

/-- The largest sc stamp taken (R195). -/
def maxStamp (s : State) : BitVec 48 :=
  (s.cores.map Core.clock ++ s.dev.sliceM.map Prod.snd).foldl serialMax 0

/-- The unstarted indices that a partition's cores hold, as range entries of the resume list (R45, R62). -/
def shareRanges (s : State) (p : Partition) : List Resume :=
  (coresOf p).flatMap (fun c =>
    ((coreOf s c).share.toList ++ (coreOf s c).booked.toList).filterMap (fun sh =>
      if sh.part = p.num && sh.cur < sh.hi then some (.range sh.task sh.cur sh.hi) else none))

/-- What an export streams of a partition: the times of its own remote atomics as partition times, and the ages of its replay entries
(R46); `keep` picks the bytes (R45, R140, R158). -/
def imageOf (s : State) (p : Partition) (final : Bool) (keep : Nat → Bool) : Image :=
  let off := p.gtcOffset.toNat
  let time := fun (r : RemoteReq) => { r with issued := r.issued + off - r.aged, aged := 0, sent := r.sent + off }
  { part := { p with resume := p.resume ++ shareRanges s p },
    tasks := (allTasks s).filter (fun t => t.part == p.num), teams := (allTeams s).filter (fun t => t.part == p.num),
    groups := (allGroups s).filter (fun g => g.id.part == p.num),
    mem := s.mem.filter (fun c => ownsKey p c.1 && keep c.1), poison := s.dev.poison.filter (fun l => ownsKey p (l * 64)),
    replay := (s.dev.replay.filter (fun e => e.part == p.num)).map (fun e => { e with gtc := 0, aged := s.dev.gtc.toNat - e.gtc + e.aged }),
    remote := (s.dev.remote.filter (fun r => r.group.part == p.num)).map time,
    srcTime := ptime s p, maxStamp := maxStamp s,
    pinned := s.dev.l2.filter (fun l => l.part == p.num && l.pinned), final := final }

/-- An image joins the stream that the host carries. -/
def streamOut (s : State) (i : Image) : State := { s with dev := { s.dev with streams := s.dev.streams ++ [i] } }

/-- EXPORT (R45, R46, R158): a pre-copy round of what was written since the last, the first round whole; of a frozen partition the
final stream, whose image holds the memory as it then is, after which the capacity is zeroed and freed. In STATE 5 the registers but those
of its name, time and events read as at CREATE (log 119). -/
def execExportPart (s : State) : Out :=
  mailbox s 0x11 (fun s => onState s [1, 2, 3] (fun p =>
    if p.state = 3 then
      let s1 := streamOut s (imageOf s p true (fun _ => true))
      let out : Partition :=
        { noPartition with num := p.num, create := p.create, state := 5, link := p.link, vf := p.vf, gtcOffset := p.gtcOffset,
                           integ := p.integ, retiredF := p.retiredF }
      (modPart (wipe (clearWork s1 p.num) p) p.num (fun _ => out), 0)
    else
      let s1 := streamOut s (imageOf s p false (fun k => !p.dirtyOn || p.dirty.any (fun l => l / 32 == k / 4096)))
      (mbWaits (modPart s1 p.num (fun q => { q with dirtyOn := true, dirty := [] })) 0x11 p.num, 0)))

/-- A group's name in another partition. -/
def rePart (n : Nat) (i : GroupId) : GroupId := { i with part := n }

/-- The partition of an import (R45, R158): named and placed by the arguments, everything else as the stream has it. -/
def importedPart (a : CreateArgs) (i : Image) : Partition :=
  let p := i.part
  let rev := fun (r : Revision) => { r with joiner := r.joiner.map (rePart a.number) }
  { p with
    num := a.number, create := { a with hbm := p.hbm, t2 := p.t2 }, state := 3, link := a.link, vf := a.vf, twins := a.twins, ways := a.ways, classWays := a.classWays,
    share := a.share, imported := some (i.srcTime, i.maxStamp), revs := p.revs.map rev, tlb := [], walks := [],
    dirtyOn := false, dirty := [], hotMayAsk := false, hotSince := none }

/-- The key of a byte of an image on this device: its control page moves with the partition's number (log 40). -/
def importKey (i : Image) (num key : Nat) : Nat :=
  if ctlKey i.part.num 0 ≤ key && key < ctlKey i.part.num 65536 then key - ctlKey i.part.num 0 + ctlKey num 0 else key

/-- Rebuild a partition from its final stream (R45): its capacity holds what the image brings and zeros, and the entries of the replay
table keep their ages (R46). -/
def importInto (s : State) (a : CreateArgs) (i : Image) : State :=
  let n := a.number
  let group := fun (g : Group) => { g with id := rePart n g.id }
  let p := importedPart a i
  let s := wipe s p
  let mem := i.mem.foldl (fun m c => mput m (importKey i n c.1) c.2) s.mem
  { s with
    groups := s.groups ++ i.groups.map group, teams := s.teams ++ i.teams.map (fun t => { t with part := n }),
    tasks := s.tasks ++ i.tasks.map (fun t => { t with part := n }), parts := s.parts ++ [p],
    mem := mem,
    dev := { s.dev with
      created := true, poison := s.dev.poison ++ i.poison.map (fun l => importKey i n (64 * l) / 64),
      replay := s.dev.replay ++ i.replay.map (fun e => { e with part := n, gtc := s.dev.gtc.toNat }),
      remote := s.dev.remote ++ i.remote.map (fun r => { r with group := rePart n r.group }),
      l2 := s.dev.l2 ++ i.pinned.map (fun l => { l with part := n }) } }

/-- Two lists of ranges share a byte. -/
def rangesMeet (a b : List (Nat × Nat)) : Bool := a.any (fun x => b.any (fun y => x.1 < y.1 + y.2 && y.1 < x.1 + x.2))

/-- IMPORT (R39, R45): final stream `idx` becomes a frozen partition as `create` places it; `flag` says that a chunk was rejected.
Its frames keep their device-physical addresses, which must be free (log 40). -/
def execImportPart (s : State) : Out :=
  let a := s.inp.create
  mailbox s 0x12 (fun s =>
    let r := createCheck s a
    match s.dev.streams[s.inp.idx]? with
    | none => (s, 1)
    | some i =>
      if s.inp.flag || !i.final || r = 1 then (s, 1)
      else if (findPart s a.number).isSome then (s, 3)
      else if r != 0 || !capacityOk s i.part.hbm i.part.t2
          || rangesMeet i.part.frames ((allParts s).flatMap Partition.frames) then (s, 2)
      else (importInto s a i, 0))

/-- PC_CTL as it was before FREEZE, and STATE from its RUN (R30, R45). -/
def thawPart (p : Partition) : Partition :=
  let (run, drain) := p.keptCtl.getD (p.run, p.drain)
  { p with run := run, drain := drain, keptCtl := none, imported := none, state := if run then 2 else 1 }

/-- What THAW does on a destination (R46, R195): GTC_OFFSET, by which the partition's remote atomics know how long ago in partition time
they were issued, and every slice and core beyond the exported stamps (log 41). -/
def thawTime (s : State) (p : Partition) (src : Word) (top : BitVec 48) : State :=
  let off := src.toNat + 1 - s.dev.gtc.toNat
  let s1 := modPart s p.num (fun q => { q with gtcOffset := BitVec.ofNat 64 off })
  let s2 := (List.range 216).foldl (fun u c => modCore u c (fun x => { x with clock := top + 1 })) s1
  let now := s.dev.gtc.toNat
  let issued := fun (r : RemoteReq) =>
    if r.group.part = p.num then { r with issued := now, aged := now + off - r.issued, sent := now } else r
  { s2 with dev := { s2.dev with
    sliceM := (List.range 128).foldl (fun m h => sput 0 m h (top + 1)) s2.dev.sliceM,
    remote := s2.dev.remote.map issued } }

/-- THAW (R39, R45, R46): the partition runs again; its teams resume from the resume list. -/
def execThaw (s : State) : Out :=
  mailbox s 0x13 (fun s => onState s [3] (fun p =>
    let s1 := match p.imported with
      | none => s
      | some (src, top) => thawTime s p src top
    (mbWaits (modPart s1 p.num thawPart) 0x13 p.num, 0)))

/-- The bytes of a partition's creation arguments and quotas, which a quote measures (R44). -/
def argBytes (p : Partition) : List Byte :=
  let a := p.create
  ([a.number, a.link, a.vf, a.hbm, a.t2, a.share] ++ a.twins ++ a.ways ++ a.classWays ++ [p.share] ++ p.ways
    ++ p.classWays).flatMap (natBytes 8)

/-- The signed bytes 0x000 to 0x09F of a quote with signature index `k` (R44). -/
def quoteBytes (s : State) (p : Partition) (k : Nat) : List Byte :=
  natBytes 2 1 ++ natBytes 2 p.num ++ natBytes 4 Config.securityVersion.toNat ++ natBytes 8 (ptime s p).toNat
  ++ natBytes 32 s.inp.nonce.toNat ++ natBytes 32 Config.firmwareMeasurement.toNat
  ++ natBytes 32 (Config.shake256 (argBytes p)).toNat ++ natBytes 32 Config.identityHash.toNat ++ natBytes 8 k ++ natBytes 8 0

/-- QUOTE (R39, R44): with the requester's `nonce`. A block of 1024 indices is reserved before its first use; `flag` says that the
reservation write fails. -/
def execQuote (s : State) : Out :=
  mailbox s 0x20 (fun s => onState s [1, 2, 3, 4, 5] (fun p =>
    let d := s.dev
    let needs := d.sigNext == d.sigEnd
    if needs && s.inp.flag then (s, 3)
    else
      let b := quoteBytes s p d.sigNext
      ({ s with dev := { d with
        sigNext := d.sigNext + 1, sigEnd := if needs then d.sigNext + 1024 else d.sigEnd,
        quoteOut := d.quoteOut ++ [(b, Config.sign d.sigNext b)] } }, 0)))

/-- The record of a finished migration step (R38, R45), from the device firmware (R24). -/
def migrationRec (s : State) (part : Nat) : State := postEvent s part (noneRec 0x000B 0x5000 0 0 0) false

/-- What is left of a command that waits (R39, R41, R42, R45), or nothing while it has to wait on. A MIGRATION record is posted for FREEZE, a
pre-copy EXPORT and THAW, but not for the final EXPORT and IMPORT, whose partition runs nowhere (log 119). -/
def finishCmd (s : State) (cmd part : Nat) : Option State :=
  match findPart s part with
  | none => some s
  | some p =>
    if cmd = 3 then (if p.quotaPend.isSome then none else some s)
    else if cmd = 4 then (if allSaved s part then some (resetPart s part) else none)
    else if cmd = 5 then some (modPart s part (fun q => { q with state := if q.run then 2 else 1 }))
    else if cmd = 0x10 then
      (if frozenNow s p then some (migrationRec (modPart s part (fun q => { q with state := 3 })) part) else none)
    else some (migrationRec s part)

/-- MAILBOX_COMMAND_COMPLETE (R39): the command that runs ends with its result. -/
def execMailboxCommandComplete (s : State) : Out :=
  if !s.dev.mbBusy then .next s
  else
    let done := fun (u : State) =>
      Host.Outcome.next { u with dev := { u.dev with mbBusy := false, mbResult := u.dev.mbNext, mbWait := none } }
    match s.dev.mbWait with
    | none => done s
    | some (cmd, part) =>
      match finishCmd s cmd part with
      | none => .next s
      | some u => done u

/-- The command of an MB_CMD value (R39). One that the table does not list has a free result (log 10). -/
def startCommand (s : State) (v : Nat) : Out :=
  match v with
  | 0x01 => execCreate s
  | 0x02 => execDestroy s
  | 0x03 => execSetquota s
  | 0x04 => execReset s
  | 0x10 => execFreeze s
  | 0x11 => execExportPart s
  | 0x12 => execImportPart s
  | 0x13 => execThaw s
  | 0x20 => execQuote s
  | _ => mailbox s v (fun s => ({ s with free := s.free + 1 }, (Config.freeValue s.free).toNat % 256))

/-- BAR0_REGISTER_WRITE (R28, R29, R39): `data`, 4 or 8 aligned bytes, at offset `off` of the virtual function of partition
`part`, written by the physical function's owner with `flag`; with `idx` 1 the offset lies in the physical function's own BAR0, whose
MB_CMD starts a command and whose argument area it writes. Any other size is ignored. -/
def execBar0RegisterWrite (s : State) : Out :=
  let n := s.inp.data.length
  let off := s.inp.off
  let sh := 8 * (off % 8)
  let v := bytesNat s.inp.data * 2 ^ sh
  let m := (2 ^ (8 * n) - 1) * 2 ^ sh
  if !((n == 4 || n == 8) && off % n == 0) then .next s
  else if s.inp.idx = 1 then
    if off < 8 then startCommand s (mergeBits s.dev.mbCmd.toNat v m)
    else if 0x1000 ≤ off && off < 0x2000 then
      .next { s with dev := { s.dev with mbArgs := mputs s.dev.mbArgs (off - 0x1000) s.inp.data } }
    else .next s
  else .next (settleAges (modPart s s.inp.part (fun p => regWrite p (off - off % 8) v m s.inp.flag)) s.inp.part)

end Sys2Proof.Machine
end

