-- ==== Sys2Proof/Machine/Dispatch.lean ====
section
/-! DEFINITION. One arm for each constructor of `Instr`: one call of its meaning, or its refusal by name. -/
namespace Sys2Proof.Machine

open Sys2Proof

/-- The meaning of every instruction and step. -/
def exec (i : Instr) (s : State) : Host.Outcome State Fault Refusal :=
  match i with
  | .nop => Sys2Proof.Machine.execNop s
  | .exit => Sys2Proof.Machine.execExit s
  | .trap x6 => Sys2Proof.Machine.execTrap x6 s
  | .reth x6 => Sys2Proof.Machine.execReth x6 s
  | .bkpt => Sys2Proof.Machine.execBkpt s
  | .setfmt sa => Sys2Proof.Machine.execSetfmt sa s
  | .getfmt sd => Sys2Proof.Machine.execGetfmt sd s
  | .rdtime sd => Sys2Proof.Machine.execRdtime sd s
  | .yield => Sys2Proof.Machine.execYield s
  | .sadd sd sa sb => Sys2Proof.Machine.execSadd sd sa sb s
  | .ssub sd sa sb => Sys2Proof.Machine.execSsub sd sa sb s
  | .smul sd sa sb => Sys2Proof.Machine.execSmul sd sa sb s
  | .smulh sd sa sb => Sys2Proof.Machine.execSmulh sd sa sb s
  | .smulhn sd sa sb => Sys2Proof.Machine.execSmulhn sd sa sb s
  | .sdiv sd sa sb => Sys2Proof.Machine.execSdiv sd sa sb s
  | .sdivn sd sa sb => Sys2Proof.Machine.execSdivn sd sa sb s
  | .srem sd sa sb => Sys2Proof.Machine.execSrem sd sa sb s
  | .sremn sd sa sb => Sys2Proof.Machine.execSremn sd sa sb s
  | .sand sd sa sb => Sys2Proof.Machine.execSand sd sa sb s
  | .sor sd sa sb => Sys2Proof.Machine.execSor sd sa sb s
  | .sxor sd sa sb => Sys2Proof.Machine.execSxor sd sa sb s
  | .sandn sd sa sb => Sys2Proof.Machine.execSandn sd sa sb s
  | .sshl sd sa sb => Sys2Proof.Machine.execSshl sd sa sb s
  | .sshr sd sa sb => Sys2Proof.Machine.execSshr sd sa sb s
  | .ssra sd sa sb => Sys2Proof.Machine.execSsra sd sa sb s
  | .smin sd sa sb => Sys2Proof.Machine.execSmin sd sa sb s
  | .smax sd sa sb => Sys2Proof.Machine.execSmax sd sa sb s
  | .sminn sd sa sb => Sys2Proof.Machine.execSminn sd sa sb s
  | .smaxn sd sa sb => Sys2Proof.Machine.execSmaxn sd sa sb s
  | .sslt sd sa sb => Sys2Proof.Machine.execSslt sd sa sb s
  | .ssltn sd sa sb => Sys2Proof.Machine.execSsltn sd sa sb s
  | .sseq sd sa sb => Sys2Proof.Machine.execSseq sd sa sb s
  | .sclz sd sa => Sys2Proof.Machine.execSclz sd sa s
  | .sctz sd sa => Sys2Proof.Machine.execSctz sd sa s
  | .spopc sd sa => Sys2Proof.Machine.execSpopc sd sa s
  | .ssextw sd sa => Sys2Proof.Machine.execSsextw sd sa s
  | .szextw sd sa => Sys2Proof.Machine.execSzextw sd sa s
  | .saddi sd sa imm => Sys2Proof.Machine.execSaddi sd sa imm s
  | .sandi sd sa imm => Sys2Proof.Machine.execSandi sd sa imm s
  | .sori sd sa imm => Sys2Proof.Machine.execSori sd sa imm s
  | .sxori sd sa imm => Sys2Proof.Machine.execSxori sd sa imm s
  | .sslti sd sa imm => Sys2Proof.Machine.execSslti sd sa imm s
  | .sshi sd sa imm => Sys2Proof.Machine.execSshi sd sa imm s
  | .slui sd imm => Sys2Proof.Machine.execSlui sd imm s
  | .spcadd sd imm => Sys2Proof.Machine.execSpcadd sd imm s
  | .sbr cond sa off => Sys2Proof.Machine.execSbr cond sa off s
  | .sjal sd imm => Sys2Proof.Machine.execSjal sd imm s
  | .sjalr sd sa imm => Sys2Proof.Machine.execSjalr sd sa imm s
  | .ssrr sd idx => Sys2Proof.Machine.execSsrr sd idx s
  | .ssrw sa idx => Sys2Proof.Machine.execSsrw sa idx s
  | .sld sd sa f => Sys2Proof.Machine.execSld sd sa f s
  | .sst sd sa f => Sys2Proof.Machine.execSst sd sa f s
  | .saadd sd sa sb f => Sys2Proof.Machine.execSaadd sd sa sb f s
  | .samin sd sa sb f => Sys2Proof.Machine.execSamin sd sa sb f s
  | .samax sd sa sb f => Sys2Proof.Machine.execSamax sd sa sb f s
  | .saand sd sa sb f => Sys2Proof.Machine.execSaand sd sa sb f s
  | .saor sd sa sb f => Sys2Proof.Machine.execSaor sd sa sb f s
  | .saxor sd sa sb f => Sys2Proof.Machine.execSaxor sd sa sb f s
  | .saswp sd sa sb f => Sys2Proof.Machine.execSaswp sd sa sb f s
  | .sacas sd sa sb f => Sys2Proof.Machine.execSacas sd sa sb f s
  | .dispatch sa => Sys2Proof.Machine.execDispatch sa s
  | .vqpush sa => Sys2Proof.Machine.execVqpush sa s
  | .vqpush2 sa sb => Sys2Proof.Machine.execVqpush2 sa sb s
  | .rqpop sd => Sys2Proof.Machine.execRqpop sd s
  | .qstat sd => Sys2Proof.Machine.execQstat sd s
  | .qdrain => Sys2Proof.Machine.execQdrain s
  | .fence ord scope => Sys2Proof.Machine.execFence ord scope s
  | .bar sd => Sys2Proof.Machine.execBar sd s
  | .barn sd sa x6 => Sys2Proof.Machine.execBarn sd sa x6 s
  | .sbinit sa sb => Sys2Proof.Machine.execSbinit sa sb s
  | .sbexp sa sb => Sys2Proof.Machine.execSbexp sa sb s
  | .sbarr sa => Sys2Proof.Machine.execSbarr sa s
  | .sbwait sd sa x6 => Sys2Proof.Machine.execSbwait sd sa x6 s
  | .waitc sa => Sys2Proof.Machine.execWaitc sa s
  | .waits sd sa sb => Sys2Proof.Machine.execWaits sd sa sb s
  | .tcopy sd sa sb => Sys2Proof.Machine.execTcopy sd sa sb s
  | .tcopyx sd sa sb => Sys2Proof.Machine.execTcopyx sd sa sb s
  | .tpref sa hint => Sys2Proof.Machine.execTpref sa hint s
  | .oclaim slot => Sys2Proof.Machine.execOclaim slot s
  | .orelease slot => Sys2Proof.Machine.execOrelease slot s
  | .rload sa k => Sys2Proof.Machine.execRload sa k s
  | .tmma sa => Sys2Proof.Machine.execTmma sa s
  | .tmmaq sa sb => Sys2Proof.Machine.execTmmaq sa sb s
  | .trec sa => Sys2Proof.Machine.execTrec sa s
  | .trecb sa => Sys2Proof.Machine.execTrecb sa s
  | .tzero tile => Sys2Proof.Machine.execTzero tile s
  | .tlda sa sb => Sys2Proof.Machine.execTlda sa sb s
  | .tst sa sb => Sys2Proof.Machine.execTst sa sb s
  | .tstq sa sb => Sys2Proof.Machine.execTstq sa sb s
  | .tedge sa sb => Sys2Proof.Machine.execTedge sa sb s
  | .tfence sd => Sys2Proof.Machine.execTfence sd s
  | .twait sa => Sys2Proof.Machine.execTwait sa s
  | .tstat sd => Sys2Proof.Machine.execTstat sd s
  | .fork sd sa => Sys2Proof.Machine.execFork sd sa s
  | .join sd sa => Sys2Proof.Machine.execJoin sd sa s
  | .jointry sd sa => Sys2Proof.Machine.execJointry sd sa s
  | .rvdecl sd sa => Sys2Proof.Machine.execRvdecl sd sa s
  | .rvdrop sd sa => Sys2Proof.Machine.execRvdrop sd sa s
  | .rvid sd sa => Sys2Proof.Machine.execRvid sd sa s
  | .rvstat sd sa => Sys2Proof.Machine.execRvstat sd sa s
  | .watch sd sa => Sys2Proof.Machine.execWatch sd sa s
  | .unwatch sa => Sys2Proof.Machine.execUnwatch sa s
  | .warm sa => Sys2Proof.Machine.execWarm sa s
  | .trigrec sd k => Sys2Proof.Machine.execTrigrec sd k s
  | .trigack => Sys2Proof.Machine.execTrigack s
  | .wstat sd sa => Sys2Proof.Machine.execWstat sd sa s
  | .mark sa => Sys2Proof.Machine.execMark sa s
  | .ttbind sa policy => Sys2Proof.Machine.execTtbind sa policy s
  | .ttstat sd => Sys2Proof.Machine.execTtstat sd s
  | .ttresume => Sys2Proof.Machine.execTtresume s
  | .giveback sa => Sys2Proof.Machine.execGiveback sa s
  | .claim sa => Sys2Proof.Machine.execClaim sa s
  | .claimtry sd sa => Sys2Proof.Machine.execClaimtry sd sa s
  | .setbnd sa => Sys2Proof.Machine.execSetbnd sa s
  | .getallot sd => Sys2Proof.Machine.execGetallot sd s
  | .vadd f => Sys2Proof.Machine.execVadd f s
  | .vsub f => Sys2Proof.Machine.execVsub f s
  | .vmul f => Sys2Proof.Machine.execVmul f s
  | .vmulh f => Sys2Proof.Machine.execVmulh f s
  | .vmad f => Sys2Proof.Machine.execVmad f s
  | .vmin f => Sys2Proof.Machine.execVmin f s
  | .vmax f => Sys2Proof.Machine.execVmax f s
  | .vminn f => Sys2Proof.Machine.execVminn f s
  | .vmaxn f => Sys2Proof.Machine.execVmaxn f s
  | .vabs f => Sys2Proof.Machine.execVabs f s
  | .vneg f => Sys2Proof.Machine.execVneg f s
  | .vand f => Sys2Proof.Machine.execVand f s
  | .vor f => Sys2Proof.Machine.execVor f s
  | .vxor f => Sys2Proof.Machine.execVxor f s
  | .vnot f => Sys2Proof.Machine.execVnot f s
  | .vshl f => Sys2Proof.Machine.execVshl f s
  | .vshr f => Sys2Proof.Machine.execVshr f s
  | .vsra f => Sys2Proof.Machine.execVsra f s
  | .vpopc f => Sys2Proof.Machine.execVpopc f s
  | .vclz f => Sys2Proof.Machine.execVclz f s
  | .vbfx f => Sys2Proof.Machine.execVbfx f s
  | .vbfi f => Sys2Proof.Machine.execVbfi f s
  | .vsel f => Sys2Proof.Machine.execVsel f s
  | .vmov f => Sys2Proof.Machine.execVmov f s
  | .vsetp f => Sys2Proof.Machine.execVsetp f s
  | .fsetp f => Sys2Proof.Machine.execFsetp f s
  | .pand f => Sys2Proof.Machine.execPand f s
  | .por f => Sys2Proof.Machine.execPor f s
  | .pxor f => Sys2Proof.Machine.execPxor f s
  | .pnot f => Sys2Proof.Machine.execPnot f s
  | .pmov f => Sys2Proof.Machine.execPmov f s
  | .prd f => Sys2Proof.Machine.execPrd f s
  | .fadd f => Sys2Proof.Machine.execFadd f s
  | .fsub f => Sys2Proof.Machine.execFsub f s
  | .fmul f => Sys2Proof.Machine.execFmul f s
  | .ffma f => Sys2Proof.Machine.execFfma f s
  | .fmin f => Sys2Proof.Machine.execFmin f s
  | .fmax f => Sys2Proof.Machine.execFmax f s
  | .fabs f => Sys2Proof.Machine.execFabs f s
  | .fneg f => Sys2Proof.Machine.execFneg f s
  | .fclamp f => Sys2Proof.Machine.execFclamp f s
  | .frnd f => Sys2Proof.Machine.execFrnd f s
  | .frcp f => Sys2Proof.Machine.execFrcp f s
  | .frsq f => Sys2Proof.Machine.execFrsq f s
  | .fsqrt f => Sys2Proof.Machine.execFsqrt f s
  | .fdiv f => Sys2Proof.Machine.execFdiv f s
  | .fex2 f => Sys2Proof.Machine.execFex2 f s
  | .flg2 f => Sys2Proof.Machine.execFlg2 f s
  | .fsin f => Sys2Proof.Machine.execFsin f s
  | .fcos f => Sys2Proof.Machine.execFcos f s
  | .ftanh f => Sys2Proof.Machine.execFtanh f s
  | .cvt f => Sys2Proof.Machine.execCvt f s
  | .cvti f => Sys2Proof.Machine.execCvti f s
  | .pack f => Sys2Proof.Machine.execPack f s
  | .unpack f => Sys2Proof.Machine.execUnpack f s
  | .qscale f => Sys2Proof.Machine.execQscale f s
  | .dotn f => Sys2Proof.Machine.execDotn f s
  | .dot2 f => Sys2Proof.Machine.execDot2 f s
  | .dot4 f => Sys2Proof.Machine.execDot4 f s
  | .shfl f => Sys2Proof.Machine.execShfl f s
  | .shflup f => Sys2Proof.Machine.execShflup f s
  | .shfldn f => Sys2Proof.Machine.execShfldn f s
  | .shflx f => Sys2Proof.Machine.execShflx f s
  | .bcast f => Sys2Proof.Machine.execBcast f s
  | .redsum f => Sys2Proof.Machine.execRedsum f s
  | .redmin f => Sys2Proof.Machine.execRedmin f s
  | .redmax f => Sys2Proof.Machine.execRedmax f s
  | .scanadd f => Sys2Proof.Machine.execScanadd f s
  | .scanmax f => Sys2Proof.Machine.execScanmax f s
  | .ballot f => Sys2Proof.Machine.execBallot f s
  | .voteany f => Sys2Proof.Machine.execVoteany f s
  | .voteall f => Sys2Proof.Machine.execVoteall f s
  | .rng f => Sys2Proof.Machine.execRng f s
  | .lpush f => Sys2Proof.Machine.execLpush f s
  | .vqpop f => Sys2Proof.Machine.execVqpop f s
  | .rdsr f => Sys2Proof.Machine.execRdsr f s
  | .lnop f => Sys2Proof.Machine.execLnop f s
  | .lbr f => Sys2Proof.Machine.execLbr f s
  | .ljmp f => Sys2Proof.Machine.execLjmp f s
  | .lbreak f => Sys2Proof.Machine.execLbreak f s
  | .lexit f => Sys2Proof.Machine.execLexit f s
  | .ld f => Sys2Proof.Machine.execLd f s
  | .st f => Sys2Proof.Machine.execSt f s
  | .ost f => Sys2Proof.Machine.execOst f s
  | .old f => Sys2Proof.Machine.execOld f s
  | .pref f => Sys2Proof.Machine.execPref f s
  | .atom f => Sys2Proof.Machine.execAtom f s
  | .atomc f => Sys2Proof.Machine.execAtomc f s
  | .red f => Sys2Proof.Machine.execRed f s
  | .lcopy f => Sys2Proof.Machine.execLcopy f s
  | .lcopyo f => Sys2Proof.Machine.execLcopyo f s
  | .amovr f => Sys2Proof.Machine.execAmovr f s
  | .amovw f => Sys2Proof.Machine.execAmovw f s
  | .scalarWordNotInstruction w => Sys2Proof.Machine.execScalarWordNotInstruction w s
  | .laneWordNotInstruction w0 w1 w2 beyond => Sys2Proof.Machine.execLaneWordNotInstruction w0 w1 w2 beyond s
  | .deviceReset => Sys2Proof.Machine.execDeviceReset s
  | .gtcFirmwareSet => Sys2Proof.Machine.execGtcFirmwareSet s
  | .gtcSlewCorrection => Sys2Proof.Machine.execGtcSlewCorrection s
  | .fabricFlitCrcRetry => Sys2Proof.Machine.execFabricFlitCrcRetry s
  | .fabricPortDown => Sys2Proof.Machine.execFabricPortDown s
  | .fabricRequestDiscard => Sys2Proof.Machine.execFabricRequestDiscard s
  | .remoteAtomicRequest => Sys2Proof.Machine.execRemoteAtomicRequest s
  | .remoteAtomicResponse => Sys2Proof.Machine.execRemoteAtomicResponse s
  | .remoteIndeterminate => Sys2Proof.Machine.execRemoteIndeterminate s
  | .secondTierTimeout => Sys2Proof.Machine.execSecondTierTimeout s
  | .rdmaWrite => Sys2Proof.Machine.execRdmaWrite s
  | .rdmaRead => Sys2Proof.Machine.execRdmaRead s
  | .rdmaAtomic => Sys2Proof.Machine.execRdmaAtomic s
  | .rdmaSend => Sys2Proof.Machine.execRdmaSend s
  | .bar2Write => Sys2Proof.Machine.execBar2Write s
  | .bar2Read => Sys2Proof.Machine.execBar2Read s
  | .bar0RegisterWrite => Sys2Proof.Machine.execBar0RegisterWrite s
  | .pcCtlRun => Sys2Proof.Machine.execPcCtlRun s
  | .pcCtlDrain => Sys2Proof.Machine.execPcCtlDrain s
  | .queueStopClear => Sys2Proof.Machine.execQueueStopClear s
  | .create => Sys2Proof.Machine.execCreate s
  | .destroy => Sys2Proof.Machine.execDestroy s
  | .setquota => Sys2Proof.Machine.execSetquota s
  | .reset => Sys2Proof.Machine.execReset s
  | .freeze => Sys2Proof.Machine.execFreeze s
  | .exportPart => Sys2Proof.Machine.execExportPart s
  | .importPart => Sys2Proof.Machine.execImportPart s
  | .thaw => Sys2Proof.Machine.execThaw s
  | .quote => Sys2Proof.Machine.execQuote s
  | .hbmFrameBoundary => Sys2Proof.Machine.execHbmFrameBoundary s
  | .thermalTrip => Sys2Proof.Machine.execThermalTrip s
  | .powerThrottle => Sys2Proof.Machine.execPowerThrottle s
  | .tempRefresh => Sys2Proof.Machine.execTempRefresh s
  | .monitorRefresh => Sys2Proof.Machine.execMonitorRefresh s
  | .voltageDroopEvent => Sys2Proof.Machine.execVoltageDroopEvent s
  | .droopyExit => Sys2Proof.Machine.execDroopyExit s
  | .hotCoreRequestDelay => Sys2Proof.Machine.execHotCoreRequestDelay s
  | .tailWordEvent => Sys2Proof.Machine.execTailWordEvent s
  | .idleCoreRequest => Sys2Proof.Machine.execIdleCoreRequest s
  | .teamStart => Sys2Proof.Machine.execTeamStart s
  | .teamSave => Sys2Proof.Machine.execTeamSave s
  | .teamResume => Sys2Proof.Machine.execTeamResume s
  | .groupEnd => Sys2Proof.Machine.execGroupEnd s
  | .launchCompletion => Sys2Proof.Machine.execLaunchCompletion s
  | .runArbitration => Sys2Proof.Machine.execRunArbitration s
  | .queueDeadlock => Sys2Proof.Machine.execQueueDeadlock s
  | .claimDeadlock => Sys2Proof.Machine.execClaimDeadlock s
  | .drainWatchdog => Sys2Proof.Machine.execDrainWatchdog s
  | .markStallWatchdog => Sys2Proof.Machine.execMarkStallWatchdog s
  | .accessWatchdog => Sys2Proof.Machine.execAccessWatchdog s
  | .teamTimeWatchdog => Sys2Proof.Machine.execTeamTimeWatchdog s
  | .stageStarved => Sys2Proof.Machine.execStageStarved s
  | .handlerEntry => Sys2Proof.Machine.execHandlerEntry s
  | .ceCore => Sys2Proof.Machine.execCeCore s
  | .ueCore => Sys2Proof.Machine.execUeCore s
  | .selfTestComplete => Sys2Proof.Machine.execSelfTestComplete s
  | .pageWalk => Sys2Proof.Machine.execPageWalk s
  | .loadDataReturn => Sys2Proof.Machine.execLoadDataReturn s
  | .storePerform => Sys2Proof.Machine.execStorePerform s
  | .atomicPerform => Sys2Proof.Machine.execAtomicPerform s
  | .shootdownTailEvent => Sys2Proof.Machine.execShootdownTailEvent s
  | .shootdownComplete => Sys2Proof.Machine.execShootdownComplete s
  | .demotionVictimSelect => Sys2Proof.Machine.execDemotionVictimSelect s
  | .tierMoveComplete => Sys2Proof.Machine.execTierMoveComplete s
  | .scClockRaise => Sys2Proof.Machine.execScClockRaise s
  | .tierEngineInstanceBegin => Sys2Proof.Machine.execTierEngineInstanceBegin s
  | .dropGranule => Sys2Proof.Machine.execDropGranule s
  | .markReevaluate => Sys2Proof.Machine.execMarkReevaluate s
  | .joinMerge => Sys2Proof.Machine.execJoinMerge s
  | .joinPublish => Sys2Proof.Machine.execJoinPublish s
  | .implicitJoin => Sys2Proof.Machine.execImplicitJoin s
  | .copyStart => Sys2Proof.Machine.execCopyStart s
  | .copyBeatLand => Sys2Proof.Machine.execCopyBeatLand s
  | .copyEnd => Sys2Proof.Machine.execCopyEnd s
  | .tileCommandStart => Sys2Proof.Machine.execTileCommandStart s
  | .tileCommandRetire => Sys2Proof.Machine.execTileCommandRetire s
  | .debugHalt => Sys2Proof.Machine.execDebugHalt s
  | .debugResume => Sys2Proof.Machine.execDebugResume s
  | .debugStep => Sys2Proof.Machine.execDebugStep s
  | .mailboxCommandComplete => Sys2Proof.Machine.execMailboxCommandComplete s
  | .fabricGrantTableSet => Sys2Proof.Machine.execFabricGrantTableSet s
  | .linkDown => Sys2Proof.Machine.execLinkDown s
  | .fabricRequestArrival => Sys2Proof.Machine.execFabricRequestArrival s

end Sys2Proof.Machine
end

