-- ==== Sys2Proof/Machine/Turns.lean ====
section
/-! DEFINITION. Whose turn is next (log 1): the head of the agenda, and with an empty agenda the model's own rotation over what
the machine's agents can do without an input. What a turn fetches, and the passing of time (log 6). -/
namespace Sys2Proof.Machine

open Sys2Proof

/-- Inputs that name a group and an item of it. -/
def inpG (id : GroupId) (k off size : Nat) : Inputs := { noInputs with g := id, part := id.part, idx := k, off := off, size := size }

/-- Inputs that name a partition and an item of it. -/
def inpP (part k off : Nat) : Inputs := { noInputs with part := part, idx := k, off := off }

/-- Inputs that name a core and an item of it. -/
def inpC (core k : Nat) : Inputs := { noInputs with core := core, idx := k }

/-- The first lane of each outstanding access of a group performs. -/
def accTurns (g : Group) : List Turn :=
  (List.range g.en.acc.length).flatMap (fun k =>
    match g.en.acc[k]? with
    | none => []
    | some a =>
      let i := match a.kind with
        | .load _ _ _ => Instr.loadDataReturn
        | .store _ => .storePerform
        | .atomic _ _ _ _ => .atomicPerform
      (a.lanes.take 1).map (fun x => .event i (inpG g.id k x.lane 0)))

/-- The first beat of a tensor copy that has not landed: its box row and destination block. -/
def firstBeat (c : Copy) (r : TensorRec) : Option (Nat × Nat) :=
  let n0 := match r.dims with
    | d :: _ => d.box
    | [] => 1
  (List.range (boxSize r / n0)).findSome? (fun row =>
    let blks := ((rowElems r row).flatMap (elemBytes r)).map (fun a => a / 64)
    (blks.find? (fun b => !c.landed.contains (beatId row b))).map (fun b => (row, b)))

/-- The first lane of a lane copy that has not landed. -/
def firstLane (c : Copy) (ls : List LaneCopy) : Option (Nat × Nat) :=
  (ls.find? (fun x => !c.lanesDone.contains x.lane)).map (fun x => (x.lane, 0))

/-- The copies of a group start, land and end. -/
def copyTurns (s : State) (g : Group) : List Turn :=
  (List.range g.en.copies.length).flatMap (fun k =>
    match g.en.copies[k]? with
    | none => []
    | some c =>
      let beat := match c.kind with
        | .tensor r => firstBeat c r
        | .lanes _ _ ls => firstLane c ls
        | .slot _ _ ls => firstLane c ls
      let start := [.event .copyStart (inpG g.id k 0 0)]
      if !c.started then start
      else (if moreTransfers (teamOf s g.id) c then start else []) ++ beat.toList.map (fun b => .event .copyBeatLand (inpG g.id k b.1 b.2)) ++ [.event .copyEnd (inpG g.id k 0 0)])

/-- What a group, and the units that serve it, can do next. -/
def groupTurns (s : State) (g : Group) : List Turn :=
  if g.ended then []
  else
    [.issue g.id .scalar false .clean 0, .issue g.id .lane false .clean 0, .event .runArbitration (inpC g.core g.quad),
     .event .handlerEntry (inpG g.id 0 0 0), .event .groupEnd (inpG g.id 0 0 0)] ++ accTurns g ++ copyTurns s g

/-- What a core can do next. -/
def coreTurns (c : Core) : List Turn :=
  (if c.share.isSome || c.booked.isSome then [.event .teamStart (inpC c.num 0)] else [])
  ++ (if c.wheelQ.isEmpty then [] else [.event .tileCommandStart (inpC c.num 0)])
  ++ (if c.wheelRun.isEmpty then [] else [.event .tileCommandRetire (inpC c.num 0)])

/-- What a partition's units can do next. -/
def partTurns (s : State) (p : Partition) : List Turn :=
  ((List.range 64).filter (fun k => (queueOf p k).enable)).map (fun k => .event .tailWordEvent (inpP p.num k 0))
  ++ (coresOf p).map (fun c => .event .idleCoreRequest (inpC c 0))
  ++ [.event .shootdownTailEvent (inpP p.num 0 0), .event .shootdownComplete (inpP p.num 0 0),
      .event .tierEngineInstanceBegin (inpP p.num 0 0), .event .dropGranule (inpP p.num 0 0),
      .event .debugHalt (inpP p.num 0 0), .event .debugResume (inpP p.num 0 0), .event .debugStep (inpP p.num 0 0)]
  ++ p.demoting.map (fun k => .event .demotionVictimSelect (inpP p.num k 0))
  ++ (p.revs.filter (fun r => r.state == 3)).map (fun r => .event .joinPublish (inpP p.num r.num 0))
  ++ ((allTasks s).filter (fun t => t.part == p.num && t.left == 0 && !t.ended)).map (fun t => .event .implicitJoin (inpP p.num t.num 0))
  ++ ((allTasks s).filter (fun t => t.part == p.num && t.ended)).map (fun t => .event .launchCompletion (inpP p.num t.num 0))
  ++ ((allTeams s).filter (fun t => t.part == p.num && t.saving)).map (fun t => .event .teamSave (inpP p.num t.task t.index))

/-- The model's own rotation (log 1). -/
def autoTurns (s : State) : List Turn :=
  (allGroups s).flatMap (groupTurns s) ++ s.cores.flatMap coreTurns ++ (allParts s).flatMap (partTurns s)
  ++ (if s.dev.mbBusy then [.event .hbmFrameBoundary noInputs, .event .mailboxCommandComplete noInputs] else [])
  ++ [.event .scClockRaise noInputs]

/-- The turn of a step and the state without it on the agenda. -/
def takeTurn (s : State) : Option Turn × State :=
  match s.agenda with
  | t :: r => (some t, { s with agenda := r })
  | [] =>
    let l := autoTurns s
    (l[s.tick % l.length]?, s)

/-- The steps of other agents that leave the L1s as they are; at every other one the L1s lose their lines (log 106). -/
def keepsL1 (i : Instr) : Bool :=
  i ∈ [.loadDataReturn, .storePerform, .atomicPerform, .runArbitration, .pageWalk, .bar2Write]

/-- The state in which a step of another agent runs: its inputs, and the L1s. -/
def eventState (i : Instr) (inp : Inputs) (s : State) : State := { (if keepsL1 i then s else l1Flush s) with inp := inp }

/-- The scalar instruction that the group in focus would issue now moves it on. -/
def issuesS (s : State) : Bool :=
  match fetchScalar s with
  | .run i u =>
    (match exec i u with
      | .next v => movedS u.g v.g
      | _ => false)
  | _ => false

/-- How far a group's slot lies behind that of the group of its quad that issued a scalar instruction last (R70; log 115). -/
def slotsAfter (q : Quad) (g : Group) : Nat := (g.qslot + 15 - q.last) % 16

/-- Another group of the quad comes before the group in focus in the round of the scalar unit, and could issue (R70). -/
def othersFirst (s : State) : Bool :=
  let q := quadOf s s.g.core s.g.quad
  let rivals := (allGroups s).filter (fun h =>
    h.core == s.g.core && h.quad == s.g.quad && !h.saved && h.id != s.g.id && slotsAfter q h < slotsAfter q s.g)
  rivals.any (fun h => issuesS (focusOn { s with defer := false, inp := noInputs } h.id))

/-- What a turn runs: the instruction that a stream fetches, or an agent's step with its inputs. A stream of a group that is not
resident does nothing, nor does a scalar stream whose quad turns to another group first (R70). -/
def fetchTurn (s : State) : Option Turn → Fetched
  | none => .stop s
  | some (.event i inp) => .run i (eventState i inp s)
  | some (.issue id st defer ecc va) =>
    let u := { focusOn s id with defer := defer, inp := { noInputs with ecc := ecc, va := va } }
    if u.g.live && u.g.id == id && !(st == .scalar && othersFirst u) then fetchInstr u st else .stop u

/-- What a step runs. -/
def fetchNext (s : State) : Fetched := fetchTurn (takeTurn s).2 (takeTurn s).1

/-- A stream of a group has moved in a turn. -/
def moved (st : Stream) (old new : Group) : Bool :=
  match st with
  | .scalar => movedS old new
  | .lane => movedL old new

/-- What a group waits for after a turn of one of its streams (R75, R89, R271): a stream that moved waits for nothing, one that stands
waits since it was first found to, and the other stream no longer waits for what has come. -/
def noteWait (s : State) (st : Stream) (old new : Group) : List (Wait × Word) :=
  if (moved st old new && new.waits.isEmpty) || countsOff s new.id then []
  else
    let here := if moved st old new then [] else waitsNow s st
    let mine := here.map (fun k => (k, ((new.waits.find? (fun w => w.1 == k)).map Prod.snd).getD s.dev.gtc))
    let others := new.waits.filter (fun w => waitStream w.1 != some st)
    let other := match st with
      | .scalar => Stream.lane
      | .lane => .scalar
    mine ++ (if others.isEmpty then [] else others.filter (fun w => waitStream w.1 != some other || (waitsNow s other).contains w.1))

/-- The accesses of a stream after a turn in which it issued one instruction more behind them (R331, R420). -/
def noteBehind (st : Stream) (old new : Group) : Group :=
  let issued := moved st old new && (st == .scalar || old.ln.pos == .inRun)
  if !issued || old.en.acc.isEmpty then new
  else
    let n := old.en.acc.length
    let more := fun (a : Access) => if waitsOut a then undoMore a.undo old new else { a.undo with count := a.undo.count + 1 }
    let note := fun (e : Access × Nat) => if e.2 < n && e.1.stream == st then { e.1 with undo := more e.1 } else e.1
    { new with en := { new.en with acc := new.en.acc.zipIdx.map note } }

/-- What a turn of a stream leaves beside the instruction's own effect: how long the stream has waited, and the last scalar issue of the
quad (R70). -/
def noteTurn (before s : State) : Option Turn → State
  | some (.issue id st _ _ _) =>
    match findGroup before id with
    | none => s
    | some old =>
      if !(s.g.live && s.g.id == id) then s
      else
        let g := noteBehind st old s.g
        let u := { s with g := { g with waits := noteWait { s with g := g } st old g } }
        if st == .scalar && movedS old s.g then putQuad u old.core old.quad { quadOf u old.core old.quad with last := old.qslot } else u
  | _ => s

/-- An SBWAIT of a group lacks bytes of the phase it waits for (R209, R341). -/
def starves (s : State) (g : Group) : Bool :=
  match g.sc.sbWait with
  | none => false
  | some (k, p) =>
    let v := sbGet (teamOf s g.id) k
    fld v 32 32 < fld v 0 32 && fld v 100 1 == p

/-- A group with the time for which its SBWAIT has lacked bytes (R209). -/
def noteStarved (s : State) (g : Group) : Group :=
  let rest := g.waits.filter (fun w => w.1 != .starved)
  if !starves s g || countsOff s g.id then { g with waits := rest }
  else { g with waits := (.starved, ((g.waits.find? (fun w => w.1 == .starved)).map Prod.snd).getD s.dev.gtc) :: rest }

/-- The groups whose SBWAIT is timed, after a step (R209). -/
def noteStages (s : State) : State :=
  modGroups s (fun g => g.sc.sbWait.isSome || g.waits.any (fun w => w.1 == .starved)) (noteStarved s)

/-- Time passes at the end of a step (R22; log 6). -/
def tickOn (s : State) : State :=
  { s with tick := s.tick + 1, dev := { s.dev with gtc := s.dev.gtc + BitVec.ofNat 64 (Config.elapsedNs s.tick) } }

/-- Where `codeState` places an instruction. -/
def codeVA : Nat := 0x10000

/-- A translation of the page of `codeVA`: a valid local leaf of tier T1 that user mode may read. -/
def codePte : Word := BitVec.ofNat 64 (2 ^ 62 + 2 ^ 60 + 0x10000 + 2 ^ 11 + 0x20 + 3)

/-- A partition number that no partition has. -/
def freshPart (s : State) : Nat := (allParts s).foldl (fun n p => max n (p.num + 1)) 0

/-- The machine with a group on quad 0 of core 0 whose next instruction, of the stream `st`, is the bytes `bs` (log 2): a partition,
a task, a team and the group in focus, a TLB entry for the code, the bytes, the lane slot, and the turn. -/
def codeState (s : State) (st : Stream) (bs : List Byte) : State :=
  let n := freshPart s
  let u := unfocus s
  let id : GroupId := ⟨n, 1, 0, 0⟩
  let k := { noKernel with lbase := codeVA, lcount := 1, groups := 1 }
  let p := { noPartition with
    num := n, state := 2, run := true,
    tlb := [{ unit := quadUnit 0 0, ctx := 1, va := codeVA, size := 4096, pte := codePte, level := 0 }] }
  let v := { u with
    g := { noGroup with live := true, id := id, sc := { noGroup.sc with spc := BitVec.ofNat 64 codeVA },
                        ln := { noGroup.ln with pos := .inRun } },
    tm := { noTeam with live := true, part := n, task := 1, kernel := k },
    tk := { noTask with live := true, part := n, num := 1, ctx := 1, kernel := k, hi := 1, left := 1, started := true },
    pt := p, mem := mputs u.mem (physKey 0 codeVA) bs, agenda := .issue id st false .clean 0 :: u.agenda,
    dev := { u.dev with tripped := false, poison := u.dev.poison.filter (fun l => l != codeVA / 64) } }
  let w := putQuad v 0 0 { quadOf v 0 0 with owner := some id, last := 15 }
  if (coreOf w 0).testing != [] then modCore w 0 (fun c => { c with testing := [] }) else w

end Sys2Proof.Machine
end

