-- ==== Sys2Proof/Machine/Step.lean ====
section
/-! DEFINITION. One step of the machine: the turn that is next runs its instruction, and time passes (log 1, log 6). -/
namespace Sys2Proof.Machine

open Sys2Proof

/-- One step. -/
def step (s : State) : Host.Outcome State Fault Refusal :=
  let turn := (takeTurn s).1
  match fetchNext s with
  | .stop u => .next (tickOn (noteStages (noteTurn s u turn)))
  | .fault f => .fault f
  | .run i u =>
    match exec i u with
    | .next v => .next (tickOn (noteStages (noteTurn s v turn)))
    | .fault f => .fault f
    | .refused r => .refused r

/-- `s` with the instruction of `nbits` bits `w` where the next step fetches it (log 2). -/
def State.withFetchWord (s : State) (nbits w : Nat) : State :=
  if nbits ≤ 32 then codeState s .scalar (natBytes 4 w) else codeState s .lane (natBytes 12 w)

end Sys2Proof.Machine
end

