-- ==== Sys2Proof/Safety.lean ====
section
/-! DEFINITION. What a safe run is: the memory keeps its canonical form, and each step answers a next state. -/
namespace Sys2Proof

/-- The invariant of the machine's memory (log 3). -/
def MemOk (s : Machine.State) : Prop := s.mem.wf = true

/-- A step that neither faults nor is refused. -/
def Goes (s : Machine.State) : Prop := ∃ t, Machine.step s = .next t

/-- A run of `k` steps that stops nowhere, its memory in canonical form throughout. -/
def SafeFor : Nat → Machine.State → Prop
  | 0, s => MemOk s
  | k + 1, s => MemOk s ∧ ∃ t, Machine.step s = .next t ∧ SafeFor k t

end Sys2Proof
end

