-- ==== Sys2Proof/Certificates/Slice0/Obligations.lean ====
section
/-! DEFINITION. The statements for the provers: what the numbered rules say an instruction or the machine does. -/
namespace Sys2Proof.Claims

open Sys2Proof Sys2Proof.Machine

/-- `t` is `s` but for scalar register `sd`, which holds `v` (a write of s0 is discarded, R276), and SPC, which is at the next
word: every other scalar register, every flag, special register, queue, lane register and byte is as before. -/
structure ScalarResult (s t : State) (sd : BitVec 6) (v : Word) : Prop where
  value : sd ≠ 0 → sreg t sd = v
  zero : sreg t 0 = 0
  others : ∀ r, r ≠ sd → sreg t r = sreg s r
  pc : t.g.sc.spc = s.g.sc.spc + 4
  bytes : ∀ a, mget t.mem a = mget s.mem a
  rest : t = { s with g := { s.g with sc := { s.g.sc with regs := t.g.sc.regs, spc := s.g.sc.spc + 4 } } }

/-- The instruction completes, and its whole effect is the result `v` in `sd` and the next word. -/
def Gives (i : Instr) (s : State) (sd : BitVec 6) (v : Word) : Prop :=
  ∃ t, exec i s = .next t ∧ ScalarResult s t sd v

/-- The instruction completes at SPC `pc` with `v` in `sd`, and nothing else changes. -/
def JumpsTo (i : Instr) (s : State) (sd : BitVec 6) (v pc : Word) : Prop :=
  ∃ t, exec i s = .next t ∧ (sd ≠ 0 → sreg t sd = v) ∧ (∀ r, r ≠ sd → sreg t r = sreg s r) ∧
    (∀ a, mget t.mem a = mget s.mem a) ∧
    t = { s with g := { s.g with sc := { s.g.sc with regs := t.g.sc.regs, spc := pc } } }

/-- The least signed 64-bit value. -/
def intMin64 : Word := BitVec.ofNat 64 (2 ^ 63)

/-- The quotient and remainder of R319, signed. -/
def divRule (x y : Word) : Word × Word :=
  if y = 0 then (BitVec.allOnes 64, x)
  else if x = intMin64 ∧ y = BitVec.allOnes 64 then (intMin64, 0)
  else
    let q := BitVec.ofInt 64 (Int.tdiv x.toInt y.toInt)
    (q, x - y * q)

/-- The quotient and remainder of R319, unsigned. -/
def divRuleN (x y : Word) : Word × Word :=
  if y = 0 then (BitVec.allOnes 64, x) else (x / y, x - y * (x / y))

/-- Zero bits of `x` before the first 1, in the order of `pick`. -/
def zerosBefore (x : Word) (pick : Nat → Nat) : Nat := ((List.range 64).takeWhile (fun k => !x.getLsbD (pick k))).length

/-- The test of a condition code of R275 on a signed value; 110 is always. -/
def condTest (cond : BitVec 3) (x : Int) : Prop :=
  (cond = 0 ∧ x = 0) ∨ (cond = 1 ∧ x ≠ 0) ∨ (cond = 2 ∧ x < 0) ∨ (cond = 3 ∧ 0 ≤ x) ∨ (cond = 4 ∧ x ≤ 0) ∨
    (cond = 5 ∧ 0 < x) ∨ cond = 6

end Sys2Proof.Claims

open Sys2Proof Sys2Proof.Machine Sys2Proof.Claims

/-- R318, R319: the arithmetic functions of major 0x01 write the sum, the difference, the low or high half of the exact product,
the quotient or the remainder, for every state and every operand, and change nothing else. -/
def Obligations.ScalarArithmetic : Prop :=
  ∀ (s : State) (sd sa sb : BitVec 6),
    let x := sreg s sa
    let y := sreg s sb
    Gives (.sadd sd sa sb) s sd (BitVec.ofNat 64 (x.toNat + y.toNat)) ∧
    Gives (.ssub sd sa sb) s sd (BitVec.ofInt 64 (x.toInt - y.toInt)) ∧
    Gives (.smul sd sa sb) s sd (BitVec.ofNat 64 (x.toNat * y.toNat)) ∧
    Gives (.smulh sd sa sb) s sd ((x.signExtend 128 * y.signExtend 128).extractLsb' 64 64) ∧
    Gives (.smulhn sd sa sb) s sd ((x.zeroExtend 128 * y.zeroExtend 128).extractLsb' 64 64) ∧
    Gives (.sdiv sd sa sb) s sd (divRule x y).1 ∧ Gives (.sdivn sd sa sb) s sd (divRuleN x y).1 ∧
    Gives (.srem sd sa sb) s sd (divRule x y).2 ∧ Gives (.sremn sd sa sb) s sd (divRuleN x y).2

/-- R278, R318, R320: the logic functions and shifts act bit by bit, a shift using y[5:0] alone with zeros or copies of bit 63
entering; minimum, maximum and the comparisons, signed and unsigned; leading and trailing zeros, the population count and the word
extensions; the immediate forms, SLUI and SPCADD; SSHI with op 11 or with imm[11:6] not zero is ILLEGAL_ENCODING. -/
def Obligations.ScalarLogicAndImmediateForms : Prop :=
  (∀ (s : State) (sd sa sb : BitVec 6),
      let x := sreg s sa
      let y := sreg s sb
      let n := (y.extractLsb' 0 6).toNat
      Gives (.sand sd sa sb) s sd (x &&& y) ∧ Gives (.sor sd sa sb) s sd (x ||| y) ∧
      Gives (.sxor sd sa sb) s sd (x ^^^ y) ∧ Gives (.sandn sd sa sb) s sd (x &&& ~~~y) ∧
      (∃ v, Gives (.sshl sd sa sb) s sd v ∧ ∀ k, k < 64 → v.getLsbD k = (decide (n ≤ k) && x.getLsbD (k - n))) ∧
      (∃ v, Gives (.sshr sd sa sb) s sd v ∧ ∀ k, k < 64 → v.getLsbD k = x.getLsbD (k + n)) ∧
      (∃ v, Gives (.ssra sd sa sb) s sd v ∧
        ∀ k, k < 64 → v.getLsbD k = if k + n < 64 then x.getLsbD (k + n) else x.getLsbD 63) ∧
      (∃ v, Gives (.smin sd sa sb) s sd v ∧ (v = x ∨ v = y) ∧ v.toInt = min x.toInt y.toInt) ∧
      (∃ v, Gives (.smax sd sa sb) s sd v ∧ (v = x ∨ v = y) ∧ v.toInt = max x.toInt y.toInt) ∧
      (∃ v, Gives (.sminn sd sa sb) s sd v ∧ (v = x ∨ v = y) ∧ v.toNat = min x.toNat y.toNat) ∧
      (∃ v, Gives (.smaxn sd sa sb) s sd v ∧ (v = x ∨ v = y) ∧ v.toNat = max x.toNat y.toNat) ∧
      Gives (.sslt sd sa sb) s sd (if x.slt y then 1 else 0) ∧
      Gives (.ssltn sd sa sb) s sd (if x.ult y then 1 else 0) ∧
      Gives (.sseq sd sa sb) s sd (if x = y then 1 else 0)) ∧
  (∀ (s : State) (sd sa : BitVec 6),
      let x := sreg s sa
      Gives (.sclz sd sa) s sd (BitVec.ofNat 64 (zerosBefore x (fun k => 63 - k))) ∧
      Gives (.sctz sd sa) s sd (BitVec.ofNat 64 (zerosBefore x (fun k => k))) ∧
      Gives (.spopc sd sa) s sd (BitVec.ofNat 64 ((List.range 64).countP x.getLsbD)) ∧
      Gives (.ssextw sd sa) s sd ((x.extractLsb' 0 32).signExtend 64) ∧
      Gives (.szextw sd sa) s sd ((x.extractLsb' 0 32).zeroExtend 64)) ∧
  (∀ (s : State) (sd sa : BitVec 6) (k : BitVec 14) (i : BitVec 20),
      let x := sreg s sa
      let op := (k.extractLsb' 12 2).toNat
      let n := (k.extractLsb' 0 6).toNat
      Gives (.saddi sd sa k) s sd (x + k.signExtend 64) ∧ Gives (.sandi sd sa k) s sd (x &&& k.signExtend 64) ∧
      Gives (.sori sd sa k) s sd (x ||| k.signExtend 64) ∧ Gives (.sxori sd sa k) s sd (x ^^^ k.signExtend 64) ∧
      Gives (.sslti sd sa k) s sd (if x.slt (k.signExtend 64) then 1 else 0) ∧
      (op ≠ 3 ∧ k.extractLsb' 6 6 = 0 →
        Gives (.sshi sd sa k) s sd (if op = 0 then x <<< n else if op = 1 then x >>> n else x.sshiftRight n)) ∧
      (op = 3 ∨ k.extractLsb' 6 6 ≠ 0 →
        exec (.sshi sd sa k) s = trapS s 0x00 0 (BitVec.ofNat 192 (siWord 7 sd.toNat sa.toNat k.toNat))) ∧
      Gives (.slui sd i) s sd ((i ++ (0 : BitVec 12)).signExtend 64) ∧
      Gives (.spcadd sd i) s sd (s.g.sc.spc + (i ++ (0 : BitVec 12)).signExtend 64))

/-- R321, R322: SBR goes to P + 4 × off when the test holds and to P + 4 otherwise; cond 111, and cond always with sa not s0, are
ILLEGAL_ENCODING. SJAL and SJALR write P + 4 and jump; SJALR takes its target from the old sa, and a target that is not a multiple of
4 is MISALIGNED at that address with neither sd nor SPC changed. The words that the rules give decode to these instructions. -/
def Obligations.ScalarBranchesAndCalls : Prop :=
  ∀ (s : State) (cond : BitVec 3) (sd sa : BitVec 6) (off : BitVec 17) (imm : BitVec 20) (k : BitVec 14),
    let p := s.g.sc.spc
    let t := sreg s sa + k.signExtend 64
    (cond ≠ 7 ∧ (cond = 6 → sa = 0) →
      (condTest cond (sreg s sa).toInt → JumpsTo (.sbr cond sa off) s 0 0 (p + 4 * off.signExtend 64)) ∧
      (¬condTest cond (sreg s sa).toInt → JumpsTo (.sbr cond sa off) s 0 0 (p + 4))) ∧
    (cond = 7 ∨ (cond = 6 ∧ sa ≠ 0) →
      exec (.sbr cond sa off) s = trapS s 0x00 0
        (BitVec.ofNat 192 (10 * 2 ^ 26 + cond.toNat * 2 ^ 23 + sa.toNat * 2 ^ 17 + off.toNat))) ∧
    JumpsTo (.sjal sd imm) s sd (p + 4) (p + 4 * imm.signExtend 64) ∧
    (t.extractLsb' 0 2 = 0 → JumpsTo (.sjalr sd sa k) s sd (p + 4) t) ∧
    (t.extractLsb' 0 2 ≠ 0 → exec (.sjalr sd sa k) s = trapS s 0x03 t.toNat 0) ∧
    decodeWords [0x2B000005] = .ok (.sbr 6 0 5) ∧ decodeWords [0x300F8000] = .ok (.sjalr 0 62 0)

namespace Sys2Proof.Claims

/-- The scalar stream goes on at the next word with the group otherwise as `f` makes it; nothing outside the group changes. -/
def Becomes (i : Instr) (s : State) (f : Group → Group) : Prop :=
  exec i s = .next { s with g := { f s.g with sc := { (f s.g).sc with spc := s.g.sc.spc + 4 } } }

/-- The instruction completes and its whole effect is the state `x`, in which no group has moved, and the next word. -/
def After (i : Instr) (s x : State) : Prop :=
  exec i s = .next { x with g := { s.g with sc := { s.g.sc with spc := s.g.sc.spc + 4 } } }

/-- The instruction completes as an acquire: the L1 of its core has lost its lines (R109), and the rest of its effect is the result
`v` in `sd` and the next word. -/
def GivesAcquired (i : Instr) (s : State) (sd : BitVec 6) (v : Word) : Prop :=
  ∃ t, exec i s = .next t ∧ ScalarResult (l1Inval s s.g.core) t sd v

/-- An acquire of this scope reaches beyond the group's core (R109): twin or wider, or team on a twin team. -/
def wide (s : State) (scope : BitVec 3) : Prop := 3 ≤ scope.toNat ∨ (scope = 2 ∧ s.tm.twin = true)

/-- The group can enter the handler (R254, R255, R259): user mode, no access outstanding, no trap held, a handler installed, and a
frame that can be written; `l` is where it lies and `s1` the state with the frame's page used. -/
structure HandlerReady (s : State) (l : Loc) (s1 : State) : Prop where
  user : s.g.sup = false
  idle : s.g.en.acc = []
  free : s.g.trapPend = none
  installed : ctlRead s s.g.id.part 0x5000 8 ≠ 0
  frame : translate s (me s).unit s.g.id.part s.tk.ctx (frameVA s s.g) true true false = .ok l s1

/-- What R255 and R256 say of the entry: `u` is the state after `s` took the trap `t`, its frame at `l`. -/
structure HandlerEntered (s u : State) (t : TrapInfo) (l : Loc) (s1 : State) : Prop where
  mode : u.g.sup = true
  spc : u.g.sc.spc = BitVec.ofNat 64 (ctlRead s s.g.id.part 0x5000 8)
  s63 : sreg u 63 = BitVec.ofNat 64 (frameVA s s.g)
  regs : ∀ r, r ≠ 63 → sreg u r = sreg s r
  queues : u.g.q = { dq := [], vq := [], rq := [] }
  fmt : u.g.ln.fmt = 0
  stack : u.g.ln.stack = []
  lane : u.g.ln.pos = .pop
  mask : u.g.ln.mask = if t.stream = .lane then t.lanes else s.g.ln.mask
  vectors : u.g.ln.v = s.g.ln.v ∧ u.g.ln.preds = s.g.ln.preds
  share : u.g.allot = s.g.allot ∧ u.g.bnd = s.g.bnd ∧ u.g.tickets = s.g.tickets ∧ u.g.fpstat = s.g.fpstat
  engines : u.g.en = s.g.en
  fSpc : mread u.mem l.addr 8 = (if t.next = true ∧ t.stream = .scalar then s.g.sc.spc + 4 else s.g.sc.spc).toNat
  fLpc : mread u.mem (l.addr + 0x08) 2 = s.g.ln.lpc % 65536
  fTrap : mread u.mem (l.addr + 0x0A) 1 = t.num % 256
  fLane : bit (mread u.mem (l.addr + 0x0B) 1) 0 = (t.stream == .lane)
  fSkip : bit (mread u.mem (l.addr + 0x0B) 1) 1 = false
  fMidrun : bit (mread u.mem (l.addr + 0x0B) 1) 2 =
    ((s.g.ln.pos == .inRun || s.g.ln.pos == .start) && s.g.ln.runPos != 0)
  fExited : bit (mread u.mem (l.addr + 0x0B) 1) 3 = s.g.sc.exited
  fCounts : mread u.mem (l.addr + 0x0C) 2 = (s.g.q.dq.length + 2 ^ 4 * s.g.q.vq.length + 2 ^ 9 * s.g.q.rq.length) % 65536
  fRun : mread u.mem (l.addr + 0x0E) 1 = s.g.ln.runPos % 256
  fMask : mread u.mem (l.addr + 0x10) 8 = s.g.ln.mask.toNat
  fFmt : mread u.mem (l.addr + 0x18) 4 = s.g.ln.fmt.toNat
  fDepth : mread u.mem (l.addr + 0x1C) 4 = s.g.ln.stack.length % 2 ^ 32
  fAddr : mread u.mem (l.addr + 0x20) 8 = t.addr % 2 ^ 64
  fDetail : mread u.mem (l.addr + 0x28) 24 = t.detail.toNat
  fRegs : ∀ k : BitVec 6, 1 ≤ k.toNat → k.toNat ≤ 15 → mread u.mem (l.addr + 0x38 + 8 * k.toNat) 8 = (sreg s k).toNat
  fS62 : mread u.mem (l.addr + 0xB8) 8 = (sreg s 62).toNat
  fDq : ∀ k, k < 8 → mread u.mem (l.addr + 0xC0 + 2 * k) 2 = ((s.g.q.dq[k]?).map (fun e => e.1.toNat)).getD 0
  fVq : ∀ k, k < 16 → mread u.mem (l.addr + 0xD0 + 8 * k) 8 = ((s.g.q.vq[k]?).map BitVec.toNat).getD 0
  fRq : ∀ k, k < 8 → mread u.mem (l.addr + 0x150 + 8 * k) 8 = ((s.g.q.rq[k]?).map BitVec.toNat).getD 0
  fS63 : mread u.mem (l.addr + 0x190) 8 = (sreg s 63).toNat
  bytes : ∀ a, a < l.addr ∨ l.addr + 512 ≤ a → mget u.mem a = mget s1.mem a

/-- The queues hold no more than they can (R72), and the lane stream's index and run position have their widths (R69, R76). -/
def QueuesFit (g : Group) : Prop :=
  g.q.dq.length ≤ 8 ∧ g.q.vq.length ≤ 16 ∧ g.q.rq.length ≤ 8 ∧ g.ln.lpc < 65536 ∧ g.ln.runPos < 256

/-- Scalar register `k` after RETH: the last result that came for it meanwhile, else `v` (R255). -/
def restored (h : Hidden) (k : BitVec 6) (v : Word) : Word :=
  (((h.late.filter (fun e => e.1 == k.toNat)).getLast?).map Prod.snd).getD v

/-- The action of the severity matrix for a trap of this core is at most 3 (R262, R263). -/
def killsOnly (s : State) (n : Nat) : Prop := ∃ p, findPart s s.g.id.part = some p ∧ sevAction p n s.g.core ≤ 3

end Sys2Proof.Claims

/-- R255, R256, R278, R285, R313: taking a trap writes the frame, empties the queues, and starts the handler in supervisor mode. In
user mode TRAP takes SOFTWARE with the immediate in the detail and BKPT takes BREAKPOINT, both resuming at the next instruction; a
word or triple that is no instruction takes ILLEGAL_ENCODING at itself with the words in the detail. For a first-touch page with no free
frame a HOST_PAGE record follows. The model's choices in it: log 16, log 76 and log 111. -/
def Obligations.TrapsEnterHandler : Prop :=
  ∀ (s : State) (l : Loc) (s1 : State) (t : TrapInfo) (x6 : BitVec 6) (w w0 w1 w2 : W32), HandlerReady s l s1 →
    let m := s.g.ln.mask
    (hostPageDue s t = false → HandlerEntered s (takeTrap s t) t l s1) ∧
    (hostPageDue s t = true → ∃ u, HandlerEntered s u t l s1 ∧
      takeTrap s t = postEvent u s.g.id.part (groupRec s s.g 0x0003 0xFF (BitVec.ofNat 64 t.addr) 0) false) ∧
    (∃ u, exec (.trap x6) s = .next u ∧ HandlerEntered s u ⟨0x12, 0, x6.setWidth 192, m, .scalar, true⟩ l s1) ∧
    (∃ u, exec .bkpt s = .next u ∧ HandlerEntered s u ⟨0x13, 0, 0, m, .scalar, true⟩ l s1) ∧
    (∃ u, exec (.scalarWordNotInstruction w) s = .next u ∧
      HandlerEntered s u ⟨0x00, 0, w.setWidth 192, m, .scalar, false⟩ l s1) ∧
    (∃ u, exec (.laneWordNotInstruction w0 w1 w2 false) s = .next u ∧
      HandlerEntered s u ⟨0x00, 0, (w2 ++ w1 ++ w0).setWidth 192, m, .lane, false⟩ l s1) ∧
    (∃ u, exec (.laneWordNotInstruction w0 w1 w2 true) s = .next u ∧
      HandlerEntered s u ⟨0x00, 0, 0, m, .lane, false⟩ l s1)

/-- R259, R264, R267, R313, R314: with no handler installed, or in supervisor mode, a trap goes to the severity matrix; with an
action of at most 3 the group is killed, its queues are discarded, and no scalar or vector register changes but those that await a
status word of its copies. RETH in user mode, with
an immediate beyond 1, or with REPLAY after another trap than REMOTE_INDETERMINATE is ILLEGAL_OPERAND; TRAP in supervisor mode
escalates the trap that its frame names. The model's choices in it: log 81. -/
def Obligations.EscalatedTrapsAndReturnChecks : Prop :=
  (∀ (s : State) (t : TrapInfo), s.g.en.acc = [] → s.g.trapPend = none → s.g.live = true → s.g.killed = false →
      s.g.ended = false → (ctlRead s s.g.id.part 0x5000 8 = 0 ∨ s.g.sup = true) → killsOnly s t.num →
      let u := takeTrap s t
      u.g.killed = true ∧ u.g.id = s.g.id ∧ u.g.sup = false ∧ u.g.q = { dq := [], vq := [], rq := [] } ∧
      (∀ r, (∀ c ∈ s.g.en.copies, c.dst ≠ r.toNat) → sreg u r = sreg s r) ∧ (s.g.en.copies = [] → u.g.ln.v = s.g.ln.v) ∧
      u.g.sc.spc = s.g.sc.spc) ∧
  (∀ (s : State) (x6 : BitVec 6),
      (2 ≤ x6.toNat → exec (.reth x6) s = trapS s 0x01 0 (opDetail 0 x6.toNat 8)) ∧
      (x6.toNat ≤ 1 → s.g.sup = false → exec (.reth x6) s = trapS s 0x01 0 (opDetail 4 0 0)) ∧
      (∀ h, s.g.sup = true → s.g.hidden = some h → h.trap ≠ 0x11 → exec (.reth 1) s = trapS s 0x01 0 (opDetail 4 0 0)) ∧
      (∀ h l s1, s.g.sup = true → s.g.hidden = some h →
        translate s (me s).unit s.g.id.part s.tk.ctx (frameVA s s.g) true false true = .ok l s1 →
        exec (.trap x6) s =
          .next (escalate s1 h.trap (mread s1.mem (l.addr + 0x20) 8) (BitVec.ofNat 192 (mread s1.mem (l.addr + 0x28) 24)))))

/-- R255, R258: RETH restores what the frame holds, then the results that came meanwhile for the registers it restores, unhides the stack
and the SKIP that the other stream had pending, and leaves supervisor mode. FMT's reserved bits read 0 (R241). The model's choices in it: log
27 and log 81. -/
def Obligations.ReturnRestoresFrame : Prop :=
  ∀ (s : State) (h : Hidden) (l : Loc) (s1 : State), s.g.sup = true → s.g.hidden = some h → h.trap ≠ 0x11 →
    handlerQuiet s = true → handlerDue s = false → s1.g = s.g →
    translate s (me s).unit s.g.id.part s.tk.ctx (frameVA s s.g) true false true = .ok l s1 →
    ∃ u, exec (.reth 0) s = .next u ∧
      let fld' := fun (o n : Nat) => mread s1.mem (l.addr + o) n
      u.g.sup = false ∧ u.mem = s1.mem ∧ u.g.sc.spc = BitVec.ofNat 64 (fld' 0 8) ∧ u.g.ln.lpc = fld' 8 2 ∧
      u.g.ln.mask = BitVec.ofNat 64 (fld' 0x10 8) ∧ u.g.ln.fmt = BitVec.ofNat 32 (fld' 0x18 3) ∧
      u.g.sc.exited = bit (fld' 0x0B 1) 3 ∧ u.g.ln.stack = h.stack ∧ u.g.ln.retired = h.retired ∧
      (∀ k : BitVec 6, 1 ≤ k.toNat → k.toNat ≤ 15 → sreg u k = restored h k (BitVec.ofNat 64 (fld' (0x38 + 8 * k.toNat) 8))) ∧
      sreg u 62 = restored h 62 (BitVec.ofNat 64 (fld' 0xB8 8)) ∧ sreg u 63 = restored h 63 (BitVec.ofNat 64 (fld' 0x190 8)) ∧
      (∀ k : BitVec 6, 16 ≤ k.toNat → k.toNat ≤ 61 → sreg u k = restored h k (sreg s k)) ∧
      u.g.skipS = (h.skipS || (bit (fld' 0x0B 1) 1 && !bit (fld' 0x0B 1) 0)) ∧
      u.g.skipL = (if bit (fld' 0x0B 1) 1 && bit (fld' 0x0B 1) 0 then some (h.trap == 0x08) else h.skipL) ∧
      u.g.ln.v = s.g.ln.v ∧ u.g.ln.preds = s.g.ln.preds ∧ u.g.en = s.g.en

/-- R255, R258: a handler that does nothing but RETH gives the interrupted program back: from any user state, taking a trap and then
RETH restores every scalar register, queue, program counter, mask, FMT but for its reserved bits, the stack and the SKIP of the other
stream, and user mode. After REMOTE_INDETERMINATE (0x11) RETH executes the atomic again as well, which is another statement's. The model's
choice in it: log 27. -/
def Obligations.TrapThenReturnRestores : Prop :=
  ∀ (s : State) (t : TrapInfo) (l l' : Loc) (s1 s2 : State), HandlerReady s l s1 → QueuesFit s.g → t.num < 256 → t.num ≠ 0x11 →
    hostPageDue s t = false → handlerQuiet (takeTrap s t) = true → handlerDue (takeTrap s t) = false →
    translate (takeTrap s t) (me s).unit s.g.id.part s.tk.ctx (frameVA s s.g) true false true = .ok l' s2 →
    l'.addr = l.addr → s2.mem = (takeTrap s t).mem → s2.g = (takeTrap s t).g →
    frameVA (takeTrap s t) (takeTrap s t).g = frameVA s s.g →
    ∃ u, exec (.reth 0) (takeTrap s t) = .next u ∧
      (∀ r, sreg u r = sreg s r) ∧ u.g.sup = false ∧ u.g.hidden = none ∧ u.g.q = s.g.q ∧
      u.g.skipS = (t.stream == .lane && s.g.skipS) ∧ u.g.skipL = (if t.stream = .scalar then s.g.skipL else none) ∧
      u.g.sc.spc = (if t.next = true ∧ t.stream = .scalar then s.g.sc.spc + 4 else s.g.sc.spc) ∧
      u.g.sc.exited = s.g.sc.exited ∧ u.g.sc.fmtSet = s.g.sc.fmtSet ∧ u.g.sc.fmtPend = s.g.sc.fmtPend ∧
      u.g.ln.lpc = s.g.ln.lpc ∧ u.g.ln.mask = s.g.ln.mask ∧ u.g.ln.fmt = BitVec.ofNat 32 (s.g.ln.fmt.toNat % 2 ^ 24) ∧ u.g.ln.stack = s.g.ln.stack ∧
      u.g.ln.retired = s.g.ln.retired ∧ u.g.ln.v = s.g.ln.v ∧ u.g.ln.preds = s.g.ln.preds ∧ u.g.en = s.g.en

/-- R311, R315 to R317: NOP does nothing, SETFMT holds sa[31:0] pending, GETFMT reads the value most recently set, RDTIME partition
time, YIELD marks the group. The model's choices in it: log 80. -/
def Obligations.SystemInstructions : Prop :=
  ∀ (s : State) (sd sa : BitVec 6),
    let x := sreg s sa
    Becomes .nop s id ∧ Becomes .yield s (fun g => { g with yielded := true }) ∧
    Gives (.getfmt sd) s sd (s.g.sc.fmtSet.zeroExtend 64) ∧ Gives (.rdtime sd) s sd (s.dev.gtc + s.pt.gtcOffset) ∧
    (x.extractLsb' 24 8 ≠ 0 → exec (.setfmt sa) s = trapS s 0x01 0 (opDetail 3 x.toNat 24)) ∧
    (x.extractLsb' 24 8 = 0 → s.g.sc.fmtPend = none → (∀ e ∈ s.g.q.dq, e.2 = none) →
      Becomes (.setfmt sa) s (fun g =>
        { g with sc := { g.sc with fmtPend := some (x.setWidth 32), fmtSet := x.setWidth 32 } })) ∧
    (x.extractLsb' 24 8 = 0 → s.g.sc.fmtPend ≠ none → exec (.setfmt sa) s = .next s)

/-- R82, R98, R252, R260, R324, R386 to R388: SSRR reads each special register of the list; SSRW clears the flags written as 1, only
lowers the tickets (0 counts as 1, bits [63:8] of the value are ignored), writes SR_FAULT, the bound registers and the bound policy, and ignores every read-only register;
any other index is ILLEGAL_OPERAND. -/
def Obligations.SpecialRegisters : Prop :=
  ∀ (s : State) (sd sa : BitVec 6),
    let x := sreg s sa
    let rd := fun (idx : BitVec 14) (v : Word) => Gives (.ssrr sd idx) s sd v
    let n := fun (k : Nat) => BitVec.ofNat 64 k
    rd 0x000 (n s.g.id.group) ∧ rd 0x001 (n s.g.id.team) ∧ rd 0x002 (n s.g.role) ∧ rd 0x003 (n s.g.width) ∧
    rd 0x004 (n s.tm.kernel.groups) ∧ rd 0x005 (n s.g.quad) ∧ rd 0x006 (n s.g.core) ∧ rd 0x007 (launchWord s.tk) ∧
    rd 0x010 (s.g.sc.fmtSet.zeroExtend 64) ∧ rd 0x011 (n s.g.allot) ∧ rd 0x012 (n s.g.bnd) ∧
    rd 0x013 (n (s.g.en.ld + 2 ^ 8 * s.g.en.st + 2 ^ 16 * s.g.en.cp + 2 ^ 24 * s.g.en.tl)) ∧
    rd 0x014 (s.g.fpstat.zeroExtend 64) ∧ rd 0x015 (s.g.tickets.zeroExtend 64) ∧
    rd 0x020 (n (s.tk.rev + 2 ^ 32 * s.tk.revDepth)) ∧ rd 0x021 (s.tm.marker.zeroExtend 64) ∧ rd 0x022 (trigWord s.tk) ∧
    rd 0x023 s.g.srFault ∧ rd 0x030 (s.dev.gtc + s.pt.gtcOffset) ∧ rd 0x031 (thermWord (coreOf s s.g.core)) ∧
    rd 0x040 (n (s.pt.num + 2 ^ 8 * s.pt.link + 2 ^ 12 * s.pt.vf + (if s.g.sup then 2 ^ 16 else 0))) ∧ rd 0x041 (n s.tk.ctx) ∧
    (∀ k, k < 16 → rd (BitVec.ofNat 14 (0x100 + k)) (sget 0x7F800000FF800000 s.tm.bounds k)) ∧ rd 0x110 s.tm.policy ∧
    (∀ idx : BitVec 14, ¬(idx.toNat ≤ 7 ∨ (0x10 ≤ idx.toNat ∧ idx.toNat ≤ 0x15) ∨ (0x20 ≤ idx.toNat ∧ idx.toNat ≤ 0x23) ∨
        idx = 0x30 ∨ idx = 0x31 ∨ idx = 0x40 ∨ idx = 0x41 ∨ (0x100 ≤ idx.toNat ∧ idx.toNat ≤ 0x110)) →
      exec (.ssrr sd idx) s = trapS s 0x01 0 (opDetail 0 idx.toNat 0) ∧
      exec (.ssrw sa idx) s = trapS s 0x01 0 (opDetail 0 idx.toNat 0)) ∧
    Becomes (.ssrw sa 0x014) s (fun g => { g with fpstat := g.fpstat &&& ~~~(x.setWidth 6) }) ∧
    (s.g.tickets ≤ x.setWidth 8 → Becomes (.ssrw sa 0x015) s id) ∧
    (x.setWidth 8 < s.g.tickets →
      Becomes (.ssrw sa 0x015) s (fun g => { g with tickets := if x.setWidth 8 = (0 : BitVec 8) then 1 else x.setWidth 8 })) ∧
    Becomes (.ssrw sa 0x023) s (fun g => { g with srFault := x }) ∧
    exec (.ssrw sa 0x010) s = exec (.setfmt sa) s ∧
    (∀ idx : BitVec 14, idx.toNat ≤ 7 ∨ (0x11 ≤ idx.toNat ∧ idx.toNat ≤ 0x13) ∨ (0x20 ≤ idx.toNat ∧ idx.toNat ≤ 0x22) ∨
      idx = 0x30 ∨ idx = 0x31 ∨ idx = 0x40 ∨ idx = 0x41 → Becomes (.ssrw sa idx) s id) ∧
    (∀ k, k < 16 → ∃ t, exec (.ssrw sa (BitVec.ofNat 14 (0x100 + k))) s = .next t ∧ sget 0x7F800000FF800000 t.tm.bounds k = x ∧
      (∀ j, j ≠ k → sget 0x7F800000FF800000 t.tm.bounds j = sget 0x7F800000FF800000 s.tm.bounds j) ∧
      t = { advS s with tm := { s.tm with bounds := t.tm.bounds } }) ∧
    exec (.ssrw sa 0x110) s = .next { advS s with tm := { s.tm with policy := x } }

/-- R72, R74, R326 to R328: pushes go to the end of their queue, DISPATCH takes the pending FMT along, RQPOP takes the oldest value;
a full or empty queue makes the stream wait with nothing changed; QSTAT gives the counts; QDRAIN waits for the lane stream. Entries that an
outstanding lane access holds count as in their places. The model's choices in it: log 69, log 75, log 80 and log 82. -/
def Obligations.ScalarQueues : Prop :=
  ∀ (s : State) (sd sa sb : BitVec 6),
    let x := sreg s sa
    let y := sreg s sb
    let d := s.g.q.dq.length + s.g.en.acc.foldl (fun n a => max n a.undo.dq.length) 0
    let v := s.g.q.vq.length + s.g.en.acc.foldl (fun n a => max n a.back.vq.length) 0
    (x.extractLsb' 16 48 ≠ 0 → exec (.dispatch sa) s = trapS s 0x01 0 (opDetail 3 x.toNat 16)) ∧
    (x.extractLsb' 16 48 = 0 → d < 8 → quiet s .scalar = true →
      Becomes (.dispatch sa) s (fun g => { g with
        sc := { g.sc with fmtPend := none },
        q := { g.q with dq := g.q.dq ++ [(x.setWidth 16, g.sc.fmtPend)] } })) ∧
    (x.extractLsb' 16 48 = 0 → 8 ≤ d → exec (.dispatch sa) s = .next s) ∧
    (v < 16 → quiet s .scalar = true →
      Becomes (.vqpush sa) s (fun g => { g with q := { g.q with vq := g.q.vq ++ [x] } })) ∧
    (16 ≤ v → exec (.vqpush sa) s = .next s) ∧
    (v < 15 → quiet s .scalar = true →
      Becomes (.vqpush2 sa sb) s (fun g => { g with q := { g.q with vq := g.q.vq ++ [x, y] } })) ∧
    (15 ≤ v → exec (.vqpush2 sa sb) s = .next s) ∧
    (s.g.q.rq = [] → exec (.rqpop sd) s = .next s) ∧
    (∀ z r, s.g.q.rq = z :: r → ∃ t, exec (.rqpop sd) s = .next t ∧
      ScalarResult { s with g := { s.g with q := { s.g.q with rq := r } } } t sd z) ∧
    Gives (.qstat sd) s sd (BitVec.ofNat 64 (s.g.q.dq.length + 2 ^ 4 * s.g.q.vq.length + 2 ^ 9 * s.g.q.rq.length
      + (if s.g.sc.fmtPend.isSome || s.g.q.dq.any (fun e => e.2.isSome) then 2 ^ 16 else 0))) ∧
    (s.g.ln.pos = .pop → s.g.q.dq = [] → s.g.q.vq = [] → quiet s .lane = true → pendingL s = [] → Becomes .qdrain s id) ∧
    (s.g.ln.pos = .inRun → exec .qdrain s = .next s)

namespace Sys2Proof.Claims

/-- An aligned global access of `n` bytes of the group in focus to a page that its TLB (or the control page) maps with the
permission the access needs: a local frame `l` with sound lines, no WATCHED page, no open revision, no tier move, no drop and no
pre-copy in the partition, every earlier access of the stream `st` performed, and the access performed at once. -/
structure Plain (s : State) (st : Stream) (a n : Nat) (write : Bool) (l : Loc) : Prop where
  aligned : a % n = 0
  page : translate s (me s).unit s.g.id.part s.tk.ctx a s.g.sup write (!write) = .ok l s
  bytes : l.scratch = false
  place : l.addr % n = 0
  inRange : l.addr + n ≤ 3 * spaceSize
  sound : poisoned s l.addr n = false
  unwatched : l.watched = false
  part : ∃ p, findPart s s.g.id.part = some p ∧ p.revs = [] ∧ p.drops = [] ∧ p.moves = [] ∧ p.dirtyOn = false
  done : quiet s st = true
  now : s.defer = false

/-- Only the scalar register `sd`, SPC, the L2's lines and (for sc) the sc clocks may differ; the bytes from `lo` to `hi` apart,
memory is the same. -/
structure ScalarAccess (s t : State) (sd : BitVec 6) (lo hi : Nat) : Prop where
  others : ∀ r, r ≠ sd → sreg t r = sreg s r
  group : t.g = { s.g with sc := { s.g.sc with regs := t.g.sc.regs, spc := s.g.sc.spc + 4 } }
  team : t.tm = s.tm
  task : t.tk = s.tk
  part : t.pt = s.pt
  bytes : ∀ b, b < lo ∨ hi ≤ b → mget t.mem b = mget s.mem b
  remote : t.dev.remote = s.dev.remote ∧ t.dev.poison = s.dev.poison ∧ t.dev.gtc = s.dev.gtc

/-- An atomic's new value and whether it is written (R334): old value `x`, operand `y`, expected `c`. -/
def AtomicRule (i : Instr) (s : State) (sd : BitVec 6) (l : Loc) (new : Word → Word) : Prop :=
  let x := BitVec.ofNat 64 (mread s.mem l.addr 8)
  ∃ t, exec i s = .next t ∧ ScalarAccess s t sd l.addr (l.addr + 8) ∧ (sd ≠ 0 → sreg t sd = x) ∧
    mread t.mem l.addr 8 = (new x).toNat ∧ l1Find t s.g.core l.addr = none

/-- A stage barrier's field (R207). -/
def sbField (s : State) (odd : Bool) (a lo len : Nat) : Nat := fld (mread (spOf s.tm odd) a 16) lo len

/-- The scratchpad that address `a` of a group reaches, in its own core's pad (R106). -/
def ownSide (s : State) : Bool := spSide s.tm s.g.core false

/-- A stage barrier of the group's own scratchpad can be named at `a` (R106, R340). -/
def BarrierAt (s : State) (a : Nat) : Prop := a % 16 = 0 ∧ a < 2 ^ 20 ∧ a + 16 ≤ s.tm.kernel.spbytes

/-- The completed phase's result word (R338). -/
def barResult (gen : BitVec 32) (t : Team) : Word := (gen + 1) ++ (if t.killed = 0 then 1 else 3 : BitVec 32)

end Sys2Proof.Claims

/-- R109, R111, R330, R333: SLD writes the bytes at its address, zero- or sign-extended by the size code, and changes no byte; an address
that is not a multiple of the size is MISALIGNED. The bytes are those of the core's own L1 copy where another core's store has passed
it by, but for sc; a load with a hint that allocates leaves its sector there, and an acquire beyond the core leaves no line. The
model's choices in it: log 7 and log 106. -/
def Obligations.ScalarLoad : Prop :=
  ∀ (s : State) (sd sa : BitVec 6) (f : MemFields) (l : Loc),
    let a := (sreg s sa).toNat
    let n := if f.size = 2 then 8 else 4
    let seen := fun (key len : Nat) => if f.ord = 3 then mread s.mem key len else l1Read s s.g.core key len
    (f.size ≠ 3 ∧ f.evict ≠ 7 ∧ f.ord ≠ 2) →
      (a % n ≠ 0 → exec (.sld sd sa f) s = trapS s 0x03 a 0) ∧
      (Plain s .scalar a n false l → s.g.en.ld < 255 →
        ∃ t, exec (.sld sd sa f) s = .next t ∧ ScalarAccess s t sd 0 0 ∧
          (sd ≠ 0 → sreg t sd =
            if f.size = 1 then (BitVec.ofNat 32 (seen l.addr 4)).signExtend 64 else BitVec.ofNat 64 (seen l.addr n)) ∧
          (∀ c, c ≠ s.g.core → coreOf t c = coreOf s c) ∧
          (f.ord = 0 → f.evict ≠ 4 → f.evict ≠ 6 → (l1Find t s.g.core l.addr).isSome = true) ∧
          (f.ord = 1 → wide s f.scope → (coreOf t s.g.core).l1 = []) ∧
          ((∀ e ∈ (coreOf s s.g.core).l1, e.num = l.addr / 32 → e.old = none) → seen l.addr n = mread s.mem l.addr n))

/-- R109, R330, R333: SST stores the low 4 bytes or all 8 of sd at its address and nothing else; acq on SST, evict 111 and size 11 are
ILLEGAL_ENCODING (R114, R278). It updates its own core's L1 copy, and the copies of other cores keep what they held. The model's
choices in it: log 7 and log 106. -/
def Obligations.ScalarStore : Prop :=
  ∀ (s : State) (sd sa : BitVec 6) (f : MemFields) (l : Loc),
    let a := (sreg s sa).toNat
    let n := if f.size = 2 then 8 else 4
    (f.size = 3 ∨ f.evict = 7 ∨ f.ord = 1 → ∃ w, exec (.sst sd sa f) s = trapS s 0x00 0 (BitVec.ofNat 192 w)) ∧
    ((f.size ≠ 3 ∧ f.evict ≠ 7 ∧ f.ord ≠ 1) →
      (a % n ≠ 0 → exec (.sst sd sa f) s = trapS s 0x03 a 0) ∧
      (Plain s .scalar a n true l → s.g.en.st < 255 →
        ∃ t, exec (.sst sd sa f) s = .next t ∧ ScalarAccess s t 0 l.addr (l.addr + n) ∧ (∀ r, sreg t r = sreg s r) ∧
          mread t.mem l.addr n = (sreg s sd).toNat % 2 ^ (8 * n) ∧
          ∀ c, f.ord ≠ 3 → (coreOf t c).l1 = (coreOf s c).l1.map (fun e =>
            if inSector e l.addr n = false then e
            else if c = s.g.core then { e with old := e.old.map (fun v => l1Patch e.num v l.addr n ((sreg s sd).toNat % 2 ^ (8 * n))) }
            else { e with old := some (e.old.getD (mread s.mem (32 * e.num) 32)) })))

/-- R109, R334, R335: a scalar atomic replaces the aligned 64-bit word by its new value, a failed SACAS leaves it, and sd takes the old
value in every case; it is performed at the home slice, and the core's L1 holds no copy after it. The model's choices in it: log 7 and
log 106. -/
def Obligations.ScalarAtomics : Prop :=
  ∀ (s : State) (sd sa sb : BitVec 6) (f : AtomFields) (l : Loc), f.evict ≠ 7 → Plain s .scalar (sreg s sa).toNat 8 true l →
    let y := sreg s sb
    let c := sreg s sd
    AtomicRule (.saadd sd sa sb f) s sd l (fun x => x + y) ∧
    AtomicRule (.samin sd sa sb f) s sd l (fun x => if x.toInt ≤ y.toInt then x else y) ∧
    AtomicRule (.samax sd sa sb f) s sd l (fun x => if y.toInt ≤ x.toInt then x else y) ∧
    AtomicRule (.saand sd sa sb f) s sd l (fun x => x &&& y) ∧ AtomicRule (.saor sd sa sb f) s sd l (fun x => x ||| y) ∧
    AtomicRule (.saxor sd sa sb f) s sd l (fun x => x ^^^ y) ∧ AtomicRule (.saswp sd sa sb f) s sd l (fun _ => y) ∧
    AtomicRule (.sacas sd sa sb f) s sd l (fun x => if x = c then y else x)

/-- R109, R188, R337, R342, R343: FENCE rlx ends at once, acq once the stream's remote atomics have returned, rel and sc once the stream's accesses are performed, and sc takes its
stamp at the slice 64 × die + (core mod 64) of its die (R184); WAITC ends when every constrained counter is at or below its threshold;
WAITS ends with the word once it differs from the value last seen, and takes POISON where its line reads uncorrectable (R265, R330). A fence with acq or sc beyond the core, WAITC with CP or TL and
WAITS are acquires, after which the core's L1 holds no line. The model's choices in it: log 69 and log 106. -/
def Obligations.FencesAndWaits : Prop :=
  ∀ (s : State) (sd sa sb : BitVec 6) (ord : BitVec 2) (scope : BitVec 3) (l : Loc),
    let x := sreg s sa
    let h := 64 * (if s.g.core < 108 then 0 else 1) + s.g.core % 64
    let under := fun (k count : Nat) => (x.extractLsb' (8 * k) 8).toNat = 255 ∨ count ≤ (x.extractLsb' (8 * k) 8).toNat
    let all := under 0 s.g.en.ld ∧ under 1 s.g.en.st ∧ under 2 s.g.en.cp ∧ under 3 s.g.en.tl
    let u := l1Inval s s.g.core
    (u = { s with cores := u.cores } ∧ coreOf u s.g.core = { coreOf s s.g.core with l1 := [] } ∧
      ∀ c, c ≠ s.g.core → coreOf u c = coreOf s c) ∧
    ((ord = 0 ∨ (ord = 1 ∧ ¬wide s scope ∧ remoteDue s .scalar = false) ∨ (ord = 2 ∧ quiet s .scalar = true)) → Becomes (.fence ord scope) s id) ∧
    (wide s scope → remoteDue s .scalar = false → After (.fence 1 scope) s u) ∧
    (remoteDue s .scalar = true → exec (.fence 1 scope) s = .next s) ∧
    (2 ≤ ord.toNat → quiet s .scalar = false → exec (.fence ord scope) s = .next s) ∧
    (quiet s .scalar = true → ∃ t, exec (.fence 3 scope) s = .next t ∧
      let st := serialMax ((coreOf s s.g.core).clock + 1) (sget 0 s.dev.sliceM h + 1)
      t.g = { s.g with sc := { s.g.sc with spc := s.g.sc.spc + 4 } } ∧ t.mem = s.mem ∧ t.tm = s.tm ∧
        sget 0 t.dev.sliceM h = st ∧ (∀ k, k ≠ h → sget 0 t.dev.sliceM k = sget 0 s.dev.sliceM k) ∧
        (coreOf t s.g.core).clock = serialMax (coreOf s s.g.core).clock st ∧ (wide s scope → (coreOf t s.g.core).l1 = [])) ∧
    (x.extractLsb' 32 32 ≠ 0 → exec (.waitc sa) s = trapS s 0x01 0 (opDetail 3 x.toNat 32)) ∧
    (x.extractLsb' 32 32 = 0 → all →
      After (.waitc sa) s (if x.extractLsb' 16 8 = 255 ∧ x.extractLsb' 24 8 = 255 then s else u)) ∧
    (x.extractLsb' 32 32 = 0 → ¬all → exec (.waitc sa) s = .next s) ∧
    (Plain s .scalar x.toNat 8 false l → l.addr < 2 * spaceSize → s.inp.ecc = .uncorrectable → s.inp.va / 64 = l.va / 64 →
      ∃ u, exec (.waits sd sa sb) s = trapS u 0x0F l.va 0 ∧ l.addr / 64 ∈ u.dev.poison) ∧
    (Plain s .scalar x.toNat 8 false l → s.inp.ecc = .clean →
      let v := BitVec.ofNat 64 (mread s.mem l.addr 8)
      (v = sreg s sb → exec (.waits sd sa sb) s = .next s) ∧
      (v ≠ sreg s sb → ∃ t, exec (.waits sd sa sb) s = .next t ∧ ScalarAccess s t sd 0 0 ∧ (sd ≠ 0 → sreg t sd = v) ∧
        (coreOf t s.g.core).l1 = []))

/-- R338, R339: the arrival that completes a phase returns at once with the phase's number, DONE and ABANDONED, the generation
advanced and the arrivals cleared; any other arrival is recorded and waits; a count of 0, above G, or other than the phase's is
ILLEGAL_OPERAND, and so is a barrier number above 15. The return acquires at scope team, with ABANDONED at scope twin (R109, R268). The
model's choices in it: log 69. -/
def Obligations.TeamBarriers : Prop :=
  ∀ (s : State) (sd sa x6 : BitVec 6),
    let b := s.tm.bar
    let n := sreg s sa
    let k := x6.toNat
    let nb := sget noBar s.tm.named k
    let me := s.g.id.group
    let u := if s.tm.twin = true ∨ s.tm.killed ≠ 0 then l1Inval s s.g.core else s
    let live := (teamGroups s s.g.id.part s.g.id.task s.g.id.team).filter (fun g =>
      !g.sc.exited && !(g.hidden.map Hidden.exited).getD false && !g.killed && !g.ended)
    (s.g.sc.barWait = none → quiet s .scalar = true → (∀ g ∈ live, g.id.group ∈ b.arrived ∨ g.id.group = me) →
      ∃ t, exec (.bar sd) s = .next t ∧
        ScalarResult { u with tm := { s.tm with bar := { b with gen := b.gen + 1, n := t.tm.bar.n, arrived := [] } } } t sd
          (barResult b.gen s.tm)) ∧
    (s.g.sc.barWait = none → quiet s .scalar = true → (∃ g ∈ live, g.id.group ∉ b.arrived ∧ g.id.group ≠ me) →
      ∃ t, exec (.bar sd) s = .next t ∧ t.tm.bar.arrived = b.arrived ++ [me] ∧ t.tm.bar.gen = b.gen ∧
        t.g = { s.g with sc := { s.g.sc with barWait := some (none, b.gen.toNat) } } ∧ t.mem = s.mem) ∧
    (s.g.sc.barWait = some (none, b.gen.toNat) → exec (.bar sd) s = .next s) ∧
    (16 ≤ k → exec (.barn sd sa x6) s = trapS s 0x01 0 (opDetail 0 k 8)) ∧
    (k < 16 → s.g.sc.barWait = none → (n.toNat = 0 ∨ s.tm.kernel.groups < n.toNat ∨ (nb.arrived ≠ [] ∧ nb.n ≠ n.toNat)) →
      exec (.barn sd sa x6) s = trapS s 0x01 0 (opDetail 3 n.toNat 0)) ∧
    (k < 16 → s.g.sc.barWait = none → quiet s .scalar = true → n.toNat ≠ 0 → n.toNat ≤ s.tm.kernel.groups →
      (nb.arrived = [] ∨ nb.n = n.toNat) → max 1 (n.toNat - s.tm.killed) ≤ nb.arrived.length + 1 →
      ∃ t, exec (.barn sd sa x6) s = .next t ∧ (sget noBar t.tm.named k).gen = nb.gen + 1 ∧
        (sget noBar t.tm.named k).arrived = [] ∧
        ScalarResult { u with tm := { s.tm with named := t.tm.named } } t sd (barResult nb.gen s.tm)) ∧
    (k < 16 → s.g.sc.barWait = none → quiet s .scalar = true → n.toNat ≠ 0 → n.toNat ≤ s.tm.kernel.groups →
      (nb.arrived = [] ∨ nb.n = n.toNat) → nb.arrived.length + 1 < max 1 (n.toNat - s.tm.killed) →
      ∃ t, exec (.barn sd sa x6) s = .next t ∧ (sget noBar t.tm.named k).arrived = nb.arrived ++ [me] ∧
        t.g.sc.spc = s.g.sc.spc ∧ t.mem = s.mem)

/-- R207, R208, R340, R341: SBINIT sets ARREXP and clears every other field, SBEXP adds to EXPECT with saturation, SBARR adds one to
ARRSEEN and completes the phase with its last arrival, and SBWAIT passes once PHASE differs from P with OVERRUN and ABANDONED in its
word and its core's L1 invalidated (R191). The barrier's 16 bytes apart, nothing of memory changes. The model's choices in it: log 58 and log 83. -/
def Obligations.StageBarriers : Prop :=
  ∀ (s : State) (sd sa sb x6 : BitVec 6),
    let a := (sreg s sa).toNat
    let n := sreg s sb
    let o := ownSide s
    let old := sbField s o a
    let same := fun (t : State) => (∀ b, b < a ∨ a + 16 ≤ b → mget (spOf t.tm o) b = mget (spOf s.tm o) b) ∧
      spOf t.tm (!o) = spOf s.tm (!o) ∧ t.mem = s.mem ∧ t.g = { s.g with sc := { s.g.sc with spc := s.g.sc.spc + 4 } }
    (n.toNat = 0 ∨ 65535 < n.toNat → exec (.sbinit sa sb) s = trapS s 0x01 0 (opDetail 3 n.toNat 0)) ∧
    (BarrierAt s a → quiet s .scalar = true → n.toNat ≠ 0 → n.toNat ≤ 65535 →
      (∀ g ∈ teamGroups s s.g.id.part s.g.id.task s.g.id.team, g.sc.sbWait.map Prod.fst ≠ some (o, a)) →
      ∃ t, exec (.sbinit sa sb) s = .next t ∧ same t ∧ mread (spOf t.tm o) a 16 = 2 ^ 64 * n.toNat) ∧
    (BarrierAt s a → quiet s .scalar = true → n.extractLsb' 32 32 = 0 →
      ∃ t, exec (.sbexp sa sb) s = .next t ∧ same t ∧
        sbField t o a 0 32 = min (old 0 32 + n.toNat) (2 ^ 32 - 1) ∧ sbField t o a 32 96 = old 32 96) ∧
    (BarrierAt s a → quiet s .scalar = true → old 80 16 ≠ old 64 16 → old 64 16 ≠ 0 → s.tm.killed = 0 →
      ∃ t, exec (.sbarr sa) s = .next t ∧ same t ∧
        (old 80 16 + 1 = old 64 16 ∧ old 32 32 = old 0 32 →
          sbField t o a 100 1 = 1 - old 100 1 ∧ sbField t o a 80 16 = 0 ∧ sbField t o a 0 64 = 0 ∧
          sbField t o a 101 1 = if (o, a) ∈ s.tm.excess then 1 else 0) ∧
        (old 80 16 + 1 ≠ old 64 16 ∨ old 32 32 ≠ old 0 32 →
          sbField t o a 80 16 = (old 80 16 + 1) % 2 ^ 16 ∧ sbField t o a 0 80 = old 0 80 ∧
          sbField t o a 96 32 = old 96 32)) ∧
    (2 ≤ x6.toNat → exec (.sbwait sd sa x6) s = trapS s 0x01 0 (opDetail 0 x6.toNat 8)) ∧
    (BarrierAt s a → x6.toNat ≤ 1 → old 100 1 ≠ x6.toNat → (old 101 1 = 0 ∨ s.tm.kernel.ovtrap = false) →
      ∃ t, exec (.sbwait sd sa x6) s = .next t ∧
        ScalarResult { l1Inval s s.g.core with g := { s.g with sc := { s.g.sc with sbWait := none } } } t sd
          (BitVec.ofNat 64 (1 + 2 * old 101 1 + (if s.tm.killed = 0 then 0 else 4)))) ∧
    (BarrierAt s a → x6.toNat ≤ 1 → old 100 1 = x6.toNat → s.tm.killed = 0 →
      exec (.sbwait sd sa x6) s = .next { s with g := { s.g with sc := { s.g.sc with sbWait := some ((o, a), x6.toNat) } } })

namespace Sys2Proof.Claims

/-- Core `n` is as before. -/
def coreKept (s t : State) (n : Nat) : Prop := coreOf t n = coreOf s n

/-- A tile command has issued (R346): TL counts it, it stands last in its core's Wheel queue with what it latched, it belongs to
the open batch; no scalar or lane register, queue, byte or slot has changed yet. -/
structure TileIssued (s t : State) (op : TileOp) (word arg : Word) : Prop where
  pc : t.g.sc.spc = s.g.sc.spc + 4
  regs : ∀ r, sreg t r = sreg s r
  count : t.g.en.tl = s.g.en.tl + 1 ∧ t.g.en.ld = s.g.en.ld ∧ t.g.en.st = s.g.en.st ∧ t.g.en.cp = s.g.en.cp
  queue : ∃ c, (coreOf t s.g.core).wheelQ = (coreOf s s.g.core).wheelQ ++ [c] ∧ c.op = op ∧ c.word = word ∧ c.arg = arg ∧
    c.group = s.g.id ∧ c.batch = s.g.en.openB ∧ c.fmt = s.g.sc.fmtSet ∧ c.sup = s.g.sup
  batch : ∃ b ∈ t.g.en.batches, b.num = s.g.en.openB
  cores : ∀ n, n ≠ s.g.core → coreKept s t n
  team : t.tm = s.tm
  bytes : t.mem = s.mem
  lanes : t.g.ln = s.g.ln ∧ t.g.q = s.g.q ∧ t.g.allot = s.g.allot ∧ t.g.bnd = s.g.bnd

/-- A tile command passes its issue checks `fails` and no stall of R346 holds it. -/
structure TileCan (s : State) (op : TileOp) (word arg : Word) (fails : List Fail) : Prop where
  tiles : s.tm.kernel.legacy = true → tilesOf (mkCmd s op word arg) = []
  checks : fails = []
  room : s.g.en.tl < 255 ∧ (coreOf s s.g.core).wheelQ.length < 64
  done : quiet s .scalar = true
  wait : op = .tlda ∨ op = .tst ∨ op = .tstq → tilesBusy s (tilesOf (mkCmd s op word arg)) = false

/-- The command issues whenever it can. -/
def TileIssues (i : Instr) (s : State) (op : TileOp) (word arg : Word) (fails : List Fail) : Prop :=
  TileCan s op word arg fails → ∃ t, exec i s = .next t ∧ TileIssued s t op word arg

/-- Slot `k` of the team in focus. -/
def slotAt (s : State) (k : Nat) : Slot := sget noSlot s.tm.slots k

/-- Slots other than `k`, the group but for SPC, and memory are as before. -/
def slotOnly (s t : State) (k : Nat) : Prop :=
  (∀ j, j ≠ k → slotAt t j = slotAt s j) ∧ t.g = { s.g with sc := { s.g.sc with spc := s.g.sc.spc + 4 } } ∧ t.mem = s.mem ∧
    t.tm = { s.tm with slots := t.tm.slots }

/-- Free blocks of the group's team on its quad (R88). -/
def blocksFree (s : State) : Nat := sget 0 s.tm.freeBlocks (quadKey s.tm s.g)

/-- Claims that wait on the group's quad (R88). -/
def waiting (s : State) : List Claim := s.tm.claims.filter (fun c => c.quad == quadKey s.tm s.g)

/-- Registers [lo, hi) of every lane. -/
def sameRegs (s t : State) (hi : Nat) : Prop := ∀ r k, r < hi → k < 64 → vget t.g r k = vget s.g r k

/-- The blocks of a met claim (R88): ALLOT rises, F falls, the new registers read zero, the old ones are unchanged. -/
def ClaimMet (s t : State) (n : Nat) : Prop :=
  t.g.allot = s.g.allot + 4 * n ∧ blocksFree t = blocksFree s - n ∧ t.g.bnd = s.g.bnd ∧ sameRegs s t s.g.allot ∧
    (∀ r k, s.g.allot ≤ r → r < s.g.allot + 4 * n → k < 64 → vget t.g r k = 0) ∧ t.mem = s.mem ∧ t.g.q = s.g.q

end Sys2Proof.Claims

/-- R351, R352: OCLAIM makes a FREE slot CLAIMED while the team holds fewer than SLOTQ slots, takes SLOT_QUOTA otherwise, and waits
for a slot that is not FREE; ORELEASE makes a slot that nothing holds FREE, and a FREE slot is ILLEGAL_OPERAND. The model's choices
in it: log 31. -/
def Obligations.OperandSlots : Prop :=
  ∀ (s : State) (k : BitVec 4),
    let held := ((List.range 16).filter (fun j => (slotAt s j).st != .free)).length
    ((slotAt s k.toNat).st = .free → held < s.tm.kernel.slotq → ∃ t, exec (.oclaim k) s = .next t ∧ slotOnly s t k.toNat ∧
      (slotAt t k.toNat).st = .claimed ∧ (slotAt t k.toNat).data = (slotAt s k.toNat).data) ∧
    ((slotAt s k.toNat).st = .free → s.tm.kernel.slotq ≤ held →
      exec (.oclaim k) s = trapS s 0x0E 0 (det [(0, s.tm.kernel.slotq), (1, held)])) ∧
    ((slotAt s k.toNat).st ≠ .free → exec (.oclaim k) s = .next s) ∧
    ((slotAt s k.toNat).st = .free → exec (.orelease k) s = trapS s 0x01 0 (opDetail 4 k.toNat 0)) ∧
    ((slotAt s k.toNat).st ≠ .free →
      (∀ g ∈ teamGroups s s.g.id.part s.g.id.task s.g.id.team, ∀ c ∈ g.en.copies, copySlot c ≠ some k.toNat) →
      slotHeld s s.g.id.part s.g.id.task s.g.id.team k.toNat = false →
      ∃ t, exec (.orelease k) s = .next t ∧ slotOnly s t k.toNat ∧ (slotAt t k.toNat).st = .free)

/-- R213, R265, R353, R433: RLOAD reads two aligned words and, when they are a rule, puts them into rule register k and nothing else; a
misaligned address is MISALIGNED, a bad rule ILLEGAL_OPERAND with the bytes of the failing field, their offset and the image's address, and
a line that reads uncorrectable POISON. The model's choices in it: log 70. -/
def Obligations.RuleLoad : Prop :=
  ∀ (s : State) (sa : BitVec 6) (k : BitVec 3) (l0 l1 : Loc),
    let a := (sreg s sa).toNat
    let v := fun (l : Loc) => l1Read s s.g.core l.addr 8
    let r := v l0 + 2 ^ 64 * v l1
    (a % 16 ≠ 0 → exec (.rload sa k) s = trapS s 0x03 a 0) ∧
    (a % 16 = 0 → Plain s .scalar a 8 false l0 → Plain s .scalar (a + 8) 8 false l1 → l0.addr % 16 = 0 → l1.addr = l0.addr + 8 →
      (s.inp.ecc = .uncorrectable → s.inp.va / 64 = l0.va / 64 → l0.addr < 2 * spaceSize →
        ∃ u, exec (.rload sa k) s = trapS u 0x0F l0.va 0 ∧ l0.addr / 64 ∈ u.dev.poison) ∧
      (s.inp.ecc = .clean → ∀ low w, ruleBad r s.tm.kernel.tbase = some (low, w) →
        exec (.rload sa k) s = trapS s 0x01 0 (structDetail (r / 2 ^ (8 * (low / 8)) % 2 ^ (8 * ((low + w + 7) / 8 - low / 8))) (low / 8) 5 a)) ∧
      (s.inp.ecc = .clean → ruleBad r s.tm.kernel.tbase = none → ∃ t, exec (.rload sa k) s = .next t ∧
        sget 0 t.g.en.rules k.toNat = BitVec.ofNat 128 r ∧
        (∀ j, j ≠ k.toNat → sget 0 t.g.en.rules j = sget 0 s.g.en.rules j) ∧
        t.g = { s.g with sc := { s.g.sc with spc := s.g.sc.spc + 4 }, en := { s.g.en with rules := t.g.en.rules } } ∧
        t.tm = s.tm ∧ t.mem = s.mem))

/-- R196, R197, R348 to R350: TCOPY and TCOPYX issue a copy that counts once in CP, and TCOPYX its follow-on in TL and the open
batch; sd is written only when the copy ends. The record's 16-byte beats may be read one after another before (R205). TPREF changes no register and no byte. The model's choices in it: log 7 and log 69. -/
def Obligations.CopyIssue : Prop :=
  ∀ (s : State) (sd sa sb : BitVec 6) (hint : BitVec 3) (bs : List Byte), quiet s .scalar = true →
    recAt s (sreg s sa) = .ok bs → recFails s bs (sreg s sa).toNat = [] →
    let bar := if sb = 0 then none else some (sreg s sb).toNat
    let same := fun (t : State) => (∀ r, sreg t r = sreg s r) ∧ t.g.sc.spc = s.g.sc.spc + 4 ∧ t.mem = s.mem ∧ t.tm = s.tm ∧
      t.g.ln = s.g.ln ∧ t.g.q = s.g.q
    let copied := fun (t : State) (b : Option Nat) (follow : Bool) =>
      t.g.en.cp = s.g.en.cp + 1 ∧ ∃ c, t.g.en.copies = s.g.en.copies ++ [c] ∧ c.kind = .tensor (recOf bs) ∧ c.dst = sd.toNat ∧
        c.barrier = b ∧ c.follow.isSome = follow ∧ c.started = false ∧ c.sup = s.g.sup
    (s.defer = true → ∃ t, exec (.tcopy sd sa sb) s = .next t ∧ (∀ r, sreg t r = sreg s r) ∧ t.g.sc.spc = s.g.sc.spc ∧ t.mem = s.mem ∧
      t.tm = s.tm ∧ t.g.en = s.g.en) ∧
    (s.defer = false → s.g.en.cp < 255 → (∀ a, bar = some a → barFails s a = []) →
      ∃ t, exec (.tcopy sd sa sb) s = .next t ∧ same t ∧ copied t bar false ∧ t.g.en.tl = s.g.en.tl) ∧
    (s.defer = false → 255 ≤ s.g.en.cp → (∀ a, bar = some a → barFails s a = []) →
      exec (.tcopy sd sa sb) s = .next (endRec s)) ∧
    (s.defer = false → s.g.en.cp < 255 → s.g.en.tl < 255 → (recOf bs).kind = 1 → followFails s (sreg s sb) ((recOf bs).dest % 16) = [] →
      ∃ t, exec (.tcopyx sd sa sb) s = .next t ∧ same t ∧ copied t none true ∧ t.g.en.tl = s.g.en.tl + 1 ∧
        ∃ b ∈ t.g.en.batches, b.num = s.g.en.openB) ∧
    (s.defer = false → hint ≠ 3 → hint ≠ 6 → hint ≠ 7 → ∃ t, exec (.tpref sa hint) s = .next t ∧ same t ∧ t.g.en = s.g.en ∧ t.pt = s.pt)

/-- R346, R354 to R364: each tile command that passes its checks issues with what it latches and writes nothing yet; TZERO of a tile
that does not exist is ILLEGAL_OPERAND. The model's choices in it: log 69, log 70 and log 87. -/
def Obligations.TileCommandsIssue : Prop :=
  ∀ (s : State) (sa sb : BitVec 6) (k : BitVec 4),
    let x := sreg s sa
    let y := sreg s sb
    TileIssues (.tmma sa) s .tmma x 0 (tmmaFails s false x 0 none) ∧
    TileIssues (.tmmaq sa sb) s .tmmaq x y (tmmaFails s true x y.toNat none) ∧
    TileIssues (.trec sa) s .trec x 0 (trecFails s false x none) ∧
    TileIssues (.trecb sa) s .trecb x 0 (trecFails s true x none) ∧
    TileIssues (.tlda sa sb) s .tlda y x (tstFails s .tlda x.toNat y) ∧
    TileIssues (.tst sa sb) s .tst y x (tstFails s .tst x.toNat y) ∧
    TileIssues (.tstq sa sb) s .tstq y x (tstFails s .tstq x.toNat y) ∧
    TileIssues (.tedge sa sb) s .tedge y x (tedgeFails s x.toNat y) ∧
    (s.tm.kernel.legacy = false → quiet s .scalar = true → s.g.en.tl < 255 → (coreOf s s.g.core).wheelQ.length < 64 →
      s.g.bnd + (k.toNat + 1) * (1024 / s.g.width) ≤ s.g.allot →
      ∃ t, exec (.tzero k) s = .next t ∧ TileIssued s t .tzero (k.zeroExtend 64) 0) ∧
    (s.tm.kernel.legacy = false → s.g.allot < s.g.bnd + (k.toNat + 1) * (1024 / s.g.width) →
      exec (.tzero k) s = trapS s 0x01 0 (opDetail 1 k.toNat 8))

/-- R231, R365 to R367: TFENCE gives the number of the batch it closes and opens the next; TWAIT passes once every batch up to k has
retired without a fault, an acquire (R188), waits while one has not, and takes BOUND or ENGINE for the first faulted one; TSTAT reports the numbers.
The model's choices in it: log 89. -/
def Obligations.TileBatches : Prop :=
  ∀ (s : State) (sd sa : BitVec 6),
    let e := s.g.en
    let v := sreg s sa
    let d := (e.openB + 65536 - v.toNat % 65536) % 65536
    let k := e.openB - d
    let closed := (e.batches.filter (fun b => b.closed && !b.retired)).length
    (64 ≤ closed → exec (.tfence sd) s = .next s) ∧
    (closed < 64 → ∃ t, exec (.tfence sd) s = .next t ∧ (sd ≠ 0 → sreg t sd = BitVec.ofNat 64 (e.openB % 65536)) ∧
      (∀ r, r ≠ sd → sreg t r = sreg s r) ∧ t.g.en.openB = e.openB + 1 ∧ t.g.en.tl = e.tl ∧ t.g.en.copies = e.copies ∧
      t.g.sc.spc = s.g.sc.spc + 4 ∧ t.mem = s.mem ∧ t.g.ln = s.g.ln ∧ t.g.q = s.g.q ∧
      (e.batches = [] → t.g.en.batches = [] ∧ t.g.en.lastRet = BitVec.ofNat 16 e.openB)) ∧
    (v.extractLsb' 16 48 ≠ 0 → exec (.twait sa) s = trapS s 0x01 0 (opDetail 3 v.toNat 16)) ∧
    (v.extractLsb' 16 48 = 0 → d = 0 → exec (.twait sa) s = trapS s 0x01 0 (opDetail 3 v.toNat 0)) ∧
    (v.extractLsb' 16 48 = 0 → 1 ≤ d → d ≤ 32768 → d ≤ e.openB →
      (∀ b ∈ e.batches, b.num ≤ k → b.retired = true ∧ b.engine = false ∧ b.boundTrap = false) → After (.twait sa) s (l1Inval s s.g.core)) ∧
    (v.extractLsb' 16 48 = 0 → 1 ≤ d → d ≤ 32768 → d ≤ e.openB → (∃ b ∈ e.batches, b.num ≤ k ∧ b.retired = false) →
      exec (.twait sa) s = .next s) ∧
    (∀ b r, v.extractLsb' 16 48 = 0 → 1 ≤ d → d ≤ 32768 → d ≤ e.openB → (∀ c ∈ e.batches, c.num ≤ k → c.retired = true) →
      e.batches = b :: r → b.num ≤ k → (b.engine = true ∨ b.boundTrap = true) →
      ∃ s1, exec (.twait sa) s = trapS s1 (if b.engine then 0x17 else 0x0B) 0 (det [(0, b.num % 65536)]) ∧
        s1 = { s with g := { s.g with en := { e with batches := e.batches.filter (fun c => !(c.retired && c.num ≤ k)) } } }) ∧
    (∃ w, Gives (.tstat sd) s sd w ∧ (e.tl < 256 → closed < 128 →
      w.extractLsb' 0 16 = BitVec.ofNat 16 e.openB ∧ w.extractLsb' 16 16 = e.lastRet ∧ w.extractLsb' 32 8 = BitVec.ofNat 8 e.tl ∧
      w.extractLsb' 40 7 = BitVec.ofNat 7 closed ∧
      w.getLsbD 47 = e.batches.any (fun b => b.engine || b.boundTrap)))

/-- R88, R382: GIVEBACK returns 4n registers to F, whose contents are lost; CLAIM and CLAIMTRY take 4n zeroed registers from F in
the line's order; CLAIMTRY never waits and says whether it was met; n of 0 has no other effect; the checks are ILLEGAL_OPERAND. The
model's choices in it: log 32. -/
def Obligations.RegisterHandOver : Prop :=
  ∀ (s : State) (sd sa : BitVec 6), s.tm.kernel.legacy = false → s.g.sup = false →
    let x := sreg s sa
    let n := x.toNat
    let mine := fun (c : Claim) => c.group = s.g.id.group
    (256 < n ∨ s.g.allot < 4 * n + max s.g.bnd 4 → exec (.giveback sa) s = trapS s 0x01 0 (opDetail 3 n 0)) ∧
    (1 ≤ n → n ≤ 256 → 4 * n + max s.g.bnd 4 ≤ s.g.allot → inFlight s s.g = [] →
      ∃ t, exec (.giveback sa) s = .next t ∧ t.g.allot = s.g.allot - 4 * n ∧ blocksFree t = blocksFree s + n ∧
        t.g.bnd = s.g.bnd ∧ sameRegs s t (s.g.allot - 4 * n) ∧
        (∀ r k, s.g.allot - 4 * n ≤ r → k < 64 → vget t.g r k = 0) ∧ (∀ r, sreg t r = sreg s r) ∧
        t.g.sc.spc = s.g.sc.spc + 4 ∧ t.mem = s.mem ∧ t.g.q = s.g.q) ∧
    (256 < n ∨ 1024 < s.g.allot + 4 * n → exec (.claim sa) s = trapS s 0x01 0 (opDetail 3 n 0) ∧
      exec (.claimtry sd sa) s = trapS s 0x01 0 (opDetail 3 n 0)) ∧
    (n = 0 → s.g.allot ≤ 1024 → 4 ≤ s.g.allot → s.g.bnd ≤ s.g.allot →
      Becomes (.giveback sa) s id ∧ Becomes (.claim sa) s id ∧ Gives (.claimtry sd sa) s sd 1) ∧
    (1 ≤ n → n ≤ 256 → s.g.allot + 4 * n ≤ 1024 → (waiting s = [] ∨ ∃ c r, waiting s = c :: r ∧ mine c) → n ≤ blocksFree s →
      ∃ t, exec (.claim sa) s = .next t ∧ ClaimMet s t n ∧ (∀ r, sreg t r = sreg s r) ∧ t.g.sc.spc = s.g.sc.spc + 4 ∧
        ∀ c ∈ waiting t, ¬mine c) ∧
    (1 ≤ n → n ≤ 256 → s.g.allot + 4 * n ≤ 1024 → (∀ c ∈ waiting s, ¬mine c) → (waiting s ≠ [] ∨ blocksFree s < n) →
      ∃ t, exec (.claim sa) s = .next t ∧ t.g = s.g ∧ t.mem = s.mem ∧
        waiting t = waiting s ++ [⟨quadKey s.tm s.g, s.g.id.group, n⟩] ∧ blocksFree t = blocksFree s) ∧
    (1 ≤ n → n ≤ 256 → s.g.allot + 4 * n ≤ 1024 → waiting s = [] → n ≤ blocksFree s →
      ∃ t, exec (.claimtry sd sa) s = .next t ∧ ClaimMet s t n ∧ (sd ≠ 0 → sreg t sd = 1) ∧ (∀ r, r ≠ sd → sreg t r = sreg s r) ∧
        t.g.sc.spc = s.g.sc.spc + 4) ∧
    (1 ≤ n → n ≤ 256 → s.g.allot + 4 * n ≤ 1024 → (waiting s ≠ [] ∨ blocksFree s < n) → Gives (.claimtry sd sa) s sd 0)

/-- R87, R99, R383, R385: SETBND sets BND to a multiple of 4 that is at most 496 and ALLOT and changes no register; GETALLOT gives
ALLOT, BND, F and whether a claim waits, BND and F reading 0 in legacy mode; legacy mode refuses GIVEBACK, CLAIM, CLAIMTRY and SETBND
with ILLEGAL_ENCODING. -/
def Obligations.BoundaryAndAllotment : Prop :=
  ∀ (s : State) (sd sa : BitVec 6),
    let x := sreg s sa
    let v := x.toNat
    (s.tm.kernel.legacy = false → s.g.sup = false →
      (v % 4 ≠ 0 ∨ 496 < v ∨ s.g.allot < v → exec (.setbnd sa) s = trapS s 0x01 0 (opDetail 3 v 0)) ∧
      (v % 4 = 0 → v ≤ 496 → v ≤ s.g.allot → (v = s.g.bnd ∨ inFlight s s.g = []) →
        Becomes (.setbnd sa) s (fun g => { g with bnd := v }))) ∧
    (∃ w, Gives (.getallot sd) s sd w ∧ (s.g.allot ≤ 1024 → s.g.bnd ≤ 496 → blocksFree s ≤ 1024 →
      w.extractLsb' 0 11 = BitVec.ofNat 11 s.g.allot ∧
      w.extractLsb' 16 9 = (if s.tm.kernel.legacy then 0 else BitVec.ofNat 9 s.g.bnd) ∧
      w.extractLsb' 32 11 = (if s.tm.kernel.legacy then 0 else BitVec.ofNat 11 (blocksFree s)) ∧
      w.getLsbD 48 = !(waiting s).isEmpty ∧ w.extractLsb' 11 5 = 0 ∧ w.extractLsb' 25 7 = 0 ∧ w.extractLsb' 43 5 = 0 ∧
      w.extractLsb' 49 15 = 0)) ∧
    (s.tm.kernel.legacy = true → ∀ i ∈ [Instr.giveback sa, .claim sa, .claimtry sd sa, .setbnd sa],
      ∃ w, encodeScalar i = some w ∧ exec i s = trapS s 0x00 0 (BitVec.ofNat 192 w))

namespace Sys2Proof.Claims

/-- The group that has the turn is resident with its team, task and partition in focus. -/
structure Focused (s : State) : Prop where
  group : s.g.live = true
  team : s.tm.live = true ∧ s.tm.part = s.g.id.part ∧ s.tm.task = s.g.id.task ∧ s.tm.index = s.g.id.team
  task : s.tk.live = true ∧ s.tk.part = s.g.id.part ∧ s.tk.num = s.g.id.task
  part : s.pt.state ≠ 0 ∧ s.pt.num = s.g.id.part

/-- Scalar register `sd` apart (unless `sd` is s0, where none), the scalar registers are as before, `sd` holds `v`, and SPC is at
the next word. -/
def WritesS (s t : State) (sd : BitVec 6) (v : Word) : Prop :=
  (sd ≠ 0 → sreg t sd = v) ∧ (∀ r, r ≠ sd → sreg t r = sreg s r) ∧ t.g.sc.spc = s.g.sc.spc + 4 ∧ t.g.ln = s.g.ln ∧
    t.g.q = s.g.q ∧ t.g.en = s.g.en ∧ t.g.sup = s.g.sup

/-- ILLEGAL_OPERAND of the scalar word with a detail of R433. -/
def operandTrap (s : State) (d : BitVec 192) : Out := trapS s 0x01 0 d

/-- Nothing of the group but SPC changes. -/
def nextWord (s t : State) : Prop := t.g = { s.g with sc := { s.g.sc with spc := s.g.sc.spc + 4 } }

/-- The pool's top of a partition (R152). -/
def poolTop (s : State) : Nat := ctlRead s s.g.id.part 0x4008 4

/-- The address is in a region of an open child of the issuing task (R375). -/
def inOpenChild (s : State) (va : Nat) : Bool :=
  s.pt.revs.any (fun r => r.parent == s.tk.num && decide (r.state < 4) &&
    r.regions.any (fun g => decide (g.va ≤ va ∧ va < g.va + 4096 * g.granules)))

/-- A JOIN waits: the partition time of its issue is kept, with the handle (R156). -/
def joinWaits (s : State) (r : Revision) : Out :=
  .next { s with g := { s.g with joinWait := some (s.g.joinWait.getD (ptime s s.pt, r.num)) } }

/-- Nothing of the group changes but SPC, and its MARK no longer stands stalled. -/
def markDone (s t : State) : Prop :=
  t.g = { s.g with markStalled := false, sc := { s.g.sc with spc := s.g.sc.spc + 4 } }

/-- An instruction on watch entry sa[8:0] may act on entry `w` (R160, R377). -/
def EntryOf (s : State) (sa : BitVec 6) (w : WatchEntry) : Prop :=
  (sreg s sa).extractLsb' 9 55 = 0 ∧ findWatch s.pt (sreg s sa).toNat = some w ∧
    (∀ x ∈ s.pt.watches, x.idx = (sreg s sa).toNat → x = w) ∧ (s.g.sup = true ∨ w.ctx = s.tk.ctx)

end Sys2Proof.Claims

/-- R142 to R146, R159, R372: FORK checks its descriptor, then creates the open revision with its child task, the parent's tickets
and chain depth, one level deeper, at the end of QF; an empty child has ended at once and enters no queue. The model's choices in
it: log 69, log 70 and log 88. -/
def Obligations.ForkCreatesChild : Prop :=
  ∀ (s : State) (sd sa : BitVec 6) (b : List Byte) (k : Kernel) (s1 s2 : State),
    let a := (sreg s sa).toNat
    let lo := frameFld b 0x08 4
    let hi := frameFld b 0x0C 4
    let x := exec (.fork sd sa) s
    (s.g.sup = true → x = operandTrap s (opDetail 4 0 0)) ∧
    (s.g.sup = false → a % 64 ≠ 0 → x = operandTrap s (opDetail 3 a 0)) ∧
    (s.g.sup = false → a % 64 = 0 → quiet s .scalar = true → getWords s (me s) s.tm 16 a = .ok b s1 →
      getKernel s1 (me s1) s1.tm (frameFld b 0 8) = .ok k s2 →
      (∀ off n, forkBad b = some (off, n) → x = operandTrap s (structDetail (frameFld b off n) off 0 a)) ∧
      (forkBad b = none →
        (8 ≤ s.tk.revDepth → x = operandTrap s (opDetail 4 0x020 32)) ∧
        (s.tk.revDepth < 8 → 4096 ≤ (s2.pt.revs.filter revOpen).length → x = trapS s 0x0D 0 (poolDetail 0 3)) ∧
        (s.tk.revDepth < 8 → (s2.pt.revs.filter revOpen).length < 4096 → Focused s2 →
          ∃ u r, x = .next u ∧ WritesS s2 u sd (BitVec.ofNat 64 r.num) ∧ u.mem = s2.mem ∧ findRev u.pt r.num = some r ∧
            r.num ≠ 0 ∧ (∀ q ∈ s2.pt.revs, revOpen q = true → q.num ≠ r.num) ∧ r.ctx = s2.tk.ctx ∧ r.parent = s2.tk.num ∧
            r.parentRev = s2.tk.rev ∧ r.grans = [] ∧ r.regions = (List.range (frameFld b 0x18 1)).map (regionOf b) ∧
            r.discard = bit (frameFld b 0x19 1) 0 ∧
            (hi ≤ lo → r.state = 2 ∧ u.pt.qf = s2.pt.qf ∧ u.tasks = s2.tasks) ∧
            (lo < hi → r.state = 1 ∧ u.pt.qf = s2.pt.qf ++ [r.child] ∧
              (s2.pt.nextTask ≠ 0 → s2.pt.nextTask < 2 ^ 32 → findTask s2 s2.g.id.part s2.pt.nextTask = none → r.child = s2.pt.nextTask) ∧
              ∃ t, u.tasks = s2.tasks ++ [t] ∧ t.num = r.child ∧ t.part = s2.g.id.part ∧ t.kernel = k ∧ t.lo = lo ∧
                t.hi = hi ∧ t.arg = frameFld b 0x10 8 ∧ t.ctx = s2.tk.ctx ∧ t.tickets = s2.tk.tickets ∧ t.rev = r.num ∧
                t.revDepth = s2.tk.revDepth + 1 ∧ t.chain = s2.tk.chain ∧ t.parent = s2.tk.num ∧ t.tt = none))))

/-- R155, R156, R373: JOIN waits for a running child and JOINTRY returns 0 at once; both wait for a join in progress, give CODE 3 of
a closed child with its publish time (its own word to the group whose own join closed it), close an ended child with CODE 0, or 1
after a kill, and refuse a handle that is no child; a return but for JOINTRY's 0 acquires at scope dev. A waiting JOIN keeps the partition
time of its issue, and an ended child is joined in the order of those times. Shown for an ended child that holds no copies. The model's
choices in it: log 56. -/
def Obligations.JoinsOfChildren : Prop :=
  ∀ (s : State) (sd sa : BitVec 6) (r : Revision), ∀ i ∈ [Instr.join sd sa, .jointry sd sa],
    let h := (sreg s sa).toNat
    let w := 1 + (if r.killed then 2 else 0) + (ptime s s.pt).toNat % 2 ^ 48 * 2 ^ 16
    (s.g.sup = true → exec i s = operandTrap s (opDetail 4 0 0)) ∧
    (s.g.sup = false → h / 2 ^ 32 ≠ 0 → exec i s = operandTrap s (opDetail 3 h 32)) ∧
    (s.g.sup = false → h / 2 ^ 32 = 0 → (h = 0 ∨ ∀ x ∈ s.pt.revs, x.num = h → x.parent ≠ s.tk.num) →
      exec i s = operandTrap s (opDetail 3 h 0)) ∧
    (s.g.sup = false → h / 2 ^ 32 = 0 → h ≠ 0 → r ∈ s.pt.revs → r.num = h → r.parent = s.tk.num →
      (∀ x ∈ s.pt.revs, x.num = h → x = r) →
      (r.state = 1 → exec (.join sd sa) s = joinWaits s r ∧ Gives (.jointry sd sa) s sd 0) ∧
      (r.state = 3 ∨ (r.state = 2 ∧ joinBehind s = true) → exec i s = joinWaits s r) ∧
      (4 ≤ r.state → r.joiner ≠ some s.g.id → ∃ t, exec i s = .next t ∧
        ScalarResult (l1Inval (setJoin s none) s.g.core) t sd (BitVec.ofNat 64 (7 + r.word.toNat / 2 ^ 16 * 2 ^ 16))) ∧
      (4 ≤ r.state → r.joiner = some s.g.id → ∃ t, exec i s = .next t ∧ WritesS s t sd r.word ∧ t.mem = s.mem ∧ (coreOf t s.g.core).l1 = []) ∧
      (r.state = 2 → joinBehind s = false → r.grans = [] → (r.discard = false ∨ r.killed = false) → s.defer = false → Focused s →
        ∃ t, exec i s = .next t ∧ WritesS s t sd (BitVec.ofNat 64 w) ∧ t.g.joinWait = none ∧ (coreOf t s.g.core).l1 = [] ∧
          ∃ r', findRev t.pt h = some r' ∧ r'.state = 4 ∧ r'.joiner = none ∧ r'.word = BitVec.ofNat 64 w))

/-- R374 to R376: RVDECL takes at most n frames off the pool stack into the reservation, RVDROP gives min(n, reservation) back, RVID
describes the region of the task's own revision that covers an address and whether an open child covers it, RVSTAT the reservation
and a child's state and written granules. The model's choices in it: log 48. -/
def Obligations.RevisionReservationAndQueries : Prop :=
  ∀ (s : State) (sd sa : BitVec 6),
    let v := sreg s sa
    let n := v.toNat
    let keep := s.tk.reserve.length - n
    let resv := min s.tk.reserve.length 0xFFFFF * 2 ^ 12
    let child := (if inOpenChild s n then 2 ^ 41 else 0)
    (∀ i ∈ [Instr.rvdecl sd sa, .rvdrop sd sa],
      (s.g.sup = true → exec i s = operandTrap s (opDetail 4 0 0)) ∧
      (s.g.sup = false → 2 ^ 20 < n → exec i s = operandTrap s (opDetail 3 n 0))) ∧
    (s.g.sup = false → n ≤ 2 ^ 20 → ∃ t added, exec (.rvdecl sd sa) s = .next t ∧
      WritesS s t sd (BitVec.ofNat 64 added.length) ∧ t.tk.reserve = s.tk.reserve ++ added ∧ added.length ≤ n ∧
      added.length ≤ poolTop s ∧ poolTop t = poolTop s - added.length ∧
      (∀ f, 1 ≤ n → 1 ≤ poolTop s →
        supRead s s.g.id.part (ctlRead s s.g.id.part 0x4000 8 + 8 * (poolTop s - 1)) 8 = some f → added.head? = some f) ∧
      (∀ a, a < ctlKey s.g.id.part 0x4008 ∨ ctlKey s.g.id.part 0x4008 + 4 ≤ a → mget t.mem a = mget s.mem a)) ∧
    (s.g.sup = false → n ≤ 2 ^ 20 → ∃ t, exec (.rvdrop sd sa) s = .next t ∧ WritesS s t sd (BitVec.ofNat 64 keep) ∧
      t.tk.reserve = s.tk.reserve.take keep ∧ (n = 0 ∨ s.tk.reserve = [] → t.mem = s.mem) ∧
      ∀ l f s1, s.tk.reserve = l ++ [f] → n = 1 →
        supWrite { s with tk := { s.tk with reserve := l } } s.g.id.part
          (ctlRead s s.g.id.part 0x4000 8 + 8 * poolTop s) (natBytes 8 f) = some s1 → s1.g = s.g →
        poolTop t = (poolTop s + 1) % 2 ^ 32) ∧
    (Focused s →
      (∀ r g, s.tk.rev ≠ 0 → findRev s.pt s.tk.rev = some r → r.regions.find? (fun g => regionHas g n) = some g →
        Gives (.rvid sd sa) s sd (BitVec.ofNat 64 (s.tk.rev + g.merge * 2 ^ 32 + g.elem * 2 ^ 36 + 2 ^ 40 + child))) ∧
      ((s.tk.rev = 0 ∨ ∀ r, findRev s.pt s.tk.rev = some r → ∀ g ∈ r.regions, regionHas g n = false) →
        Gives (.rvid sd sa) s sd (BitVec.ofNat 64 child))) ∧
    (n / 2 ^ 32 ≠ 0 → exec (.rvstat sd sa) s = operandTrap s (opDetail 3 n 32)) ∧
    (n / 2 ^ 32 = 0 →
      ((n = 0 ∨ ∀ x ∈ s.pt.revs, x.num = n → x.parent ≠ s.tk.num) → Gives (.rvstat sd sa) s sd (BitVec.ofNat 64 resv)) ∧
      (∀ r, n ≠ 0 → r ∈ s.pt.revs → r.num = n → r.parent = s.tk.num → (∀ x ∈ s.pt.revs, x.num = n → x = r) →
        Gives (.rvstat sd sa) s sd (BitVec.ofNat 64 (r.state + resv
          + min (r.grans.filter (fun g => g.child.isSome)).length (2 ^ 32 - 1) * 2 ^ 32))))

/-- R156, R312: EXIT ends the scalar stream and discards a pending SETFMT value; the task's last group first makes its implicit
joins, waiting for a child that runs and for a join of the partition that has begun; supervisor mode takes ILLEGAL_OPERAND. The model's choices in it: log 88. -/
def Obligations.ExitEndsScalarStream : Prop :=
  ∀ (s : State),
    (s.g.sup = true → exec .exit s = operandTrap s (opDetail 4 0 0)) ∧
    (s.g.sup = false → (lastGroup s = false ∨ openChildren s s.g.id.part s.tk.num = []) →
      ∃ t, exec .exit s = .next t ∧ t.g = { s.g with sc := { s.g.sc with exited := true, fmtPend := none } } ∧ t.mem = s.mem ∧
        t.tk = s.tk ∧ t.pt = s.pt ∧ t.dev = s.dev ∧ canIssueS t = false) ∧
    (∀ r l, s.g.sup = false → lastGroup s = true → openChildren s s.g.id.part s.tk.num = r :: l →
      (r.state ≠ 2 ∨ ∃ q ∈ s.pt.revs, q.state = 3) →
      exec .exit s = .next s)

/-- R160 to R163, R168, R170 to R172, R377, R378: WATCH checks its descriptor and arms a free entry or answers all ones; UNWATCH,
WARM and WSTAT act on an entry of the group's own context. TRIGREC writes a word of the task's trigger record and counts the events
absorbed so far as read, 0 without a record; k from 6 on is ILLEGAL_OPERAND; TRIGACK closes an open trigger once. The model's
choices in it: log 47 and log 92. -/
def Obligations.WatchesAndTriggers : Prop :=
  (∀ (s : State) (sd sa : BitVec 6) (b : List Byte) (k : Kernel) (s1 s2 s3 : State) (w : WatchEntry),
      let v := sreg s sa
      let a := v.toNat
      let x := exec (.watch sd sa) s
      let pages := rangePages s2 s2.g.id.part s2.tk.ctx (frameFld b 0 8) (frameFld b 8 1)
      (a % 64 ≠ 0 → x = operandTrap s (opDetail 3 a 0)) ∧
      (a % 64 = 0 → quiet s .scalar = true → getWords s (me s) s.tm 8 a = .ok b s1 →
        (∀ off n, watchBad b = some (off, n) → x = operandTrap s (structDetail (frameFld b off (min n 8)) off 1 a)) ∧
        (watchBad b = none → getKernel s1 (me s1) s1.tm (frameFld b 0x20 8) = .ok k s2 → s2.g = s.g → s2.tk = s.tk →
          (∀ p ∈ pages, ∀ l, p.2 = some l → bit l.pte 63 = false) → readPages (me s2) s2 pages = .ok none s3 → s3.g = s.g →
          (freeEntry s3.pt = none → ∃ t, x = .next t ∧ WritesS s3 t sd (BitVec.allOnes 64) ∧ t.pt = s3.pt ∧ t.mem = s3.mem) ∧
          (∀ idx, Focused s3 → freeEntry s3.pt = some idx →
            rangeInUse s3 s.g.id.part s.tk.ctx (frameFld b 0 8) (frameFld b 0 8 + 2 ^ frameFld b 8 1) = false →
            ∃ t, x = .next t ∧ WritesS s3 t sd (BitVec.ofNat 64 idx) ∧ idx < 512 ∧ findWatch s3.pt idx = none ∧
              findWatch t.pt idx = some (watchOf b k idx s.tk.ctx) ∧ ∀ j, j ≠ idx → findWatch t.pt j = findWatch s3.pt j))) ∧
      (∀ i ∈ [Instr.unwatch sa, .warm sa, .wstat sd sa],
        (v.extractLsb' 9 55 ≠ 0 → exec i s = operandTrap s (opDetail 3 a 9)) ∧
        (v.extractLsb' 9 55 = 0 → findWatch s.pt a = some w → s.g.sup = false → w.ctx ≠ s.tk.ctx →
          exec i s = operandTrap s (opDetail 4 a 0))) ∧
      (v.extractLsb' 9 55 = 0 → findWatch s.pt a = none → Gives (.wstat sd sa) s sd 0 ∧
        exec (.unwatch sa) s = operandTrap s (opDetail 4 a 0) ∧ exec (.warm sa) s = operandTrap s (opDetail 4 a 0)) ∧
      (EntryOf s sa w → Focused s →
        (rangeInUse s s.g.id.part w.ctx w.va (w.va + 2 ^ w.log2) = false →
          ∃ t, exec (.unwatch sa) s = .next t ∧ nextWord s t ∧ findWatch t.pt a = none ∧
            (∀ j, j ≠ a → findWatch t.pt j = findWatch s.pt j) ∧
            (∀ r, s.tk.trig = some r → r.entry = a → t.tk.trig = some { r with isOpen := false })) ∧
        (w.state = 1 → ∃ t, exec (.warm sa) s = .next t ∧ nextWord s t ∧ t.mem = s.mem ∧
          findWatch t.pt a = some { w with winStart := 0, winCount := 0 }) ∧
        (w.state = 2 → w.held = [] → ∃ t, exec (.warm sa) s = .next t ∧ nextWord s t ∧ t.mem = s.mem ∧
          findWatch t.pt a = some { w with state := 1, reason := 0, winStart := 0, winCount := 0, held := [] }) ∧
        Gives (.wstat sd sa) s sd (BitVec.ofNat 64 (w.state + 4 * w.reason + 2 ^ 16 * (openTrigs s s.g.id.part a).length
          + (if w.held = [] then 0 else 2 ^ 23) + 2 ^ 32 * w.created)))) ∧
  (∀ (s : State) (sd k : BitVec 6) (r : TrigRec),
      let w0 := min r.depth 31 + r.entry * 2 ^ 16 + (if r.merged then 2 ^ 25 else 0) + (if r.rearm then 2 ^ 26 else 0)
        + r.count * 2 ^ 32
      let words := [BitVec.ofNat 64 w0, BitVec.ofNat 64 r.addr, r.first, r.latest, r.stamp1, r.stamp2]
      (6 ≤ k.toNat → exec (.trigrec sd k) s = operandTrap s (opDetail 0 k.toNat 8)) ∧
      (k.toNat < 6 → s.tk.trig = none → Gives (.trigrec sd k) s sd 0) ∧
      (∀ v, words[k.toNat]? = some v → s.tk.trig = some r → ∃ t, exec (.trigrec sd k) s = .next t ∧
        ScalarResult { s with tk := { s.tk with trig := some { r with since := 0 } } } t sd v) ∧
      (Focused s → (s.tk.trig = none ∨ (s.tk.trig = some r ∧ r.isOpen = false)) → Becomes .trigack s id) ∧
      (Focused s → s.tk.trig = some r → r.isOpen = true → r.since = 0 → ∃ t, exec .trigack s = .next t ∧ nextWord s t ∧
        t.tk = { s.tk with trig := some { r with isOpen := false } } ∧ t.pt = s.pt ∧ t.mem = s.mem ∧ t.tm = s.tm))

/-- R132, R135, R139, R379: MARK refuses a value beyond 32 bits or below the marker, does nothing at the marker, and otherwise moves
the marker when every CHECK it crosses is met; a miss takes SCHEDULE_MISS under TRAP with the marker unmoved, counts MISS under LOG,
and waits under STALL with the marker unmoved, while the pages it misses move. A halt in the team keeps a stalled MARK stalled and lets
any other MARK through, its CHECKs skipped; a freeze keeps a stalled one stalled as well (R140). MARK_REEVALUATE is the MARK at which the group stands, once more. The model's choices in it:
log 66 and log 69. -/
def Obligations.MarkerMoves : Prop :=
  ∀ (s : State) (sa : BitVec 6),
    let v := sreg s sa
    let m := s.tm.marker
    let x := exec (.mark sa) s
    let cs := crossedBy s m.toNat v.toNat
    let us := unmet s cs
    let moving := us.any (fun u => inTransit s.pt s.tk.ctx u.2.va)
    let policy := (s.tk.tt.map BoundTT.policy).getD 0
    (s.g.sup = true → x = operandTrap s (opDetail 4 0 0)) ∧
    (s.g.sup = false → v.extractLsb' 32 32 ≠ 0 → x = operandTrap s (opDetail 3 v.toNat 32)) ∧
    (s.g.sup = false → v.extractLsb' 32 32 = 0 → v.toNat < m.toNat → x = operandTrap s (opDetail 3 v.toNat 0)) ∧
    (s.g.sup = false → v.toNat = m.toNat → Becomes (.mark sa) s (fun g => { g with markStalled := false })) ∧
    (s.g.sup = false → v.extractLsb' 32 32 = 0 → m.toNat < v.toNat → quiet s .scalar = true → teamHalted s = true →
      (s.g.markStalled = true → x = .next s) ∧
      (s.g.markStalled = false → ∃ t, x = .next t ∧ nextWord s t ∧ t.tm.marker = v.setWidth 32 ∧ t.mem = s.mem ∧
        t.tm.skips = min 0xFFFF (s.tm.skips + cs.length))) ∧
    (s.g.sup = false → v.extractLsb' 32 32 = 0 → m.toNat < v.toNat → quiet s .scalar = true → teamHalted s = false →
      s.g.markStalled = true → (moving = true ∨ activePart s.pt = false) → x = .next s) ∧
    (s.g.sup = false → v.extractLsb' 32 32 = 0 → m.toNat < v.toNat → quiet s .scalar = true → teamHalted s = false →
      (s.g.markStalled = false ∨ (moving = false ∧ activePart s.pt = true)) →
      (us = [] → ∃ t, x = .next t ∧ markDone s t ∧ t.tm.marker = v.setWidth 32 ∧ t.tm.miss = s.tm.miss ∧ t.mem = s.mem) ∧
      (∀ c g r, us = (c, g) :: r →
        (policy = 1 → ∃ n, x = trapS (markSet (countSkip s n) false) 0x06 (max g.va c.start) (det [(0, c.idx), (4, c.k), (8, c.mark)])) ∧
        (policy = 2 → ∃ t, x = .next t ∧ markDone s t ∧ t.tm.marker = v.setWidth 32 ∧
          t.tm.miss = min 0xFFFF (s.tm.miss + 1) ∧ t.mem = s.mem) ∧
        (policy = 0 → ∃ t, x = .next t ∧ t.g = { s.g with markStalled := true } ∧ t.tm.marker = m ∧ t.mem = s.mem))) ∧
    (∀ s0 f, s0.g.live = true → s0.inp.g = s0.g.id → fetchScalar s0 = f →
      (f = .run (.mark sa) s → exec .markReevaluate s0 = x ∧
        (s.g.sup = false → v.extractLsb' 32 32 = 0 → m.toNat < v.toNat → quiet s .scalar = true → teamHalted s = false →
          (s.g.markStalled = false ∨ (moving = false ∧ activePart s.pt = true)) → us = [] →
          ∃ t, exec .markReevaluate s0 = .next t ∧ markDone s t ∧ t.tm.marker = v.setWidth 32 ∧ t.mem = s.mem)) ∧
      ((∀ ra u, f ≠ .run (.mark ra) u) → exec .markReevaluate s0 = .next s0))

/-- R129, R136, R141, R380, R381: TTBIND binds a checked timetable to a task that has none, repeats the same binding without effect
and refuses any other; TTSTAT reports the team's counters; TTRESUME leaves a SCHEDULE_MISS handler past the MARK, the marker moved
and MISS one higher, and is ILLEGAL_OPERAND elsewhere. The model's choices in it: log 70. -/
def Obligations.TimetableBinding : Prop :=
  ∀ (s : State) (sd sa ra : BitVec 6) (p : BitVec 2) (es : List TTEntry) (s1 : State) (h : Hidden) (l : Loc),
    let v := sreg s sa
    let x := exec (.ttbind sa p) s
    let fr := mbytes s1.mem l.addr 512
    let back := leaveHandler s1 h fr
    let policy := (s.tk.tt.map BoundTT.policy).getD 0
    (s.g.sup = true → x = operandTrap s (opDetail 4 0 0)) ∧
    (s.g.sup = false → p = 3 → x = operandTrap s (opDetail 0 3 8)) ∧
    (s.g.sup = false → p ≠ 3 →
      (∀ b, s.tk.tt = some b → (b.va = v.toNat ∧ b.policy = p.toNat → Becomes (.ttbind sa p) s id) ∧
        (b.va ≠ v.toNat ∨ b.policy ≠ p.toNat → x = operandTrap s (opDetail 4 0 0))) ∧
      (s.tk.tt = none →
        (v.toNat % 16 ≠ 0 → quiet s .scalar = true → x = operandTrap s (opDetail 3 v.toNat 0)) ∧
        (quiet s .scalar = true → readTT s (me s) s.tm v.toNat = .ok es s1 → Focused s1 → s1.g = s.g →
          ∃ t b, x = .next t ∧ nextWord s t ∧ t.mem = s1.mem ∧ t.tm.marker = s1.tm.marker ∧ t.tk.tt = some b ∧
            b.va = v.toNat ∧ b.policy = p.toNat ∧ b.entries = es))) ∧
    Gives (.ttstat sd) s sd (BitVec.ofNat 64 (policy + (if teamTrapped s then 4 else 0) + (if s.tk.tt.isSome then 8 else 0)
      + 2 ^ 16 * s.tm.skips + 2 ^ 32 * s.tm.short + 2 ^ 48 * s.tm.miss)) ∧
    ((s.g.sup = false ∨ s.g.hidden = none ∨ (s.g.hidden = some h ∧ h.trap ≠ 6)) →
      exec .ttresume s = operandTrap s (opDetail 4 0 0)) ∧
    (s.g.sup = true → s.g.hidden = some h → h.trap = 6 →
      translate s (me s).unit s.g.id.part s.tk.ctx (frameVA s s.g) true false true = .ok l s1 →
      (markAt s1 (frameFld fr 0 8) = none → exec .ttresume s = operandTrap s (opDetail 4 0 0)) ∧
      (markAt s1 (frameFld fr 0 8) = some ra → handlerQuiet s = true → handlerDue s = false → quiet s .scalar = true → markBad back (sreg back ra) = none →
        ∃ t, exec .ttresume s = .next t ∧ t.g.sup = false ∧ t.g.hidden = none ∧ t.g.skipS = false ∧
          t.g.sc.spc = BitVec.ofNat 64 (frameFld fr 0 8) + 4 ∧ (∀ r, sreg t r = sreg back r) ∧
          t.tm.marker = (sreg back ra).setWidth 32 ∧ t.tm.miss = min 0xFFFF (s1.tm.miss + 1) ∧ t.mem = s1.mem))

namespace Sys2Proof.Claims

/-- The state with the lane context replaced. -/
def withLane (s : State) (c : LaneCtx) : State := { s with g := { s.g with ln := c } }

/-- The fields that an instruction without operands uses. -/
def noRoles : Roles := ⟨.none, .none, .none, .none⟩

/-- A lane instruction passes the issue checks of R285 and R286: its encoding is legal, J stands at a run start only, the run has
at most 24 instructions, each operand field is one it may be and below BND; its VQ entries are there (or SKIP passes over it); and in
legacy mode its blocks find a place, `c` being the lane context with them. -/
structure LaneReady (s : State) (i : Instr) (f : LaneFields) (r : Roles) (c : LaneCtx) : Prop where
  legal : legal i = true
  first : f.j = true → s.g.ln.runPos = 0
  length : s.g.ln.runPos < 24
  operands : rolesCheck s f r = none
  queue : skipQ s = true ∨ vqFields f r ≤ s.g.q.vq.length
  bank : legAccess s f r = some c

/-- No lane is left in the mask or in a stack entry (R71, R94). -/
def noLanes (mask : BitVec 64) (stack : List StackEntry) : Prop := mask = 0 ∧ ∀ e ∈ stack, e.mask = 0

/-- DQ, FMT and what the outstanding accesses would undo are as before. -/
def dqKept (s t : State) : Prop := t.g.q.dq = s.g.q.dq ∧ t.g.ln.fmt = s.g.ln.fmt ∧ t.g.en.acc = s.g.en.acc

/-- The outstanding lane accesses after entry `e` has left DQ behind them: each would put it back (R420). -/
def behindPop (s : State) (e : BitVec 16 × Option W32) : List Access :=
  s.g.en.acc.map (fun a => if a.stream = .lane then { a with undo := { a.undo with dq := a.undo.dq ++ [e] } } else a)

/-- The instruction completed in the lane stream (R71 to R73, R76, R77): its VQ entries are popped, the stream is at the next instruction
of the run, or at the end of the run with the lane slot given up and the next index taken from DQ if there is one; the scalar stream, the
engines, the mask and the stack are as before. -/
structure LaneDone (s t : State) (f : LaneFields) (pops : Nat) : Prop where
  queues : t.g.q.vq = (if skipQ s then s.g.q.vq else s.g.q.vq.drop pops) ∧ t.g.q.rq = s.g.q.rq
  scalar : t.g.sc = s.g.sc ∧ t.g.en = { s.g.en with acc := t.g.en.acc } ∧ t.g.sup = s.g.sup ∧ t.g.allot = s.g.allot ∧ t.g.bnd = s.g.bnd
  skip : t.g.skipL = none ∧ t.g.skipS = s.g.skipS
  ctx : t.g.ln.mask = s.g.ln.mask ∧ t.g.ln.retired = s.g.ln.retired ∧ t.g.ln.stack = s.g.ln.stack ∧
    t.g.ln.rng = s.g.ln.rng
  next : f.e = false → t.g.ln.lpc = s.g.ln.lpc + 1 ∧ t.g.ln.runPos = s.g.ln.runPos + 1 ∧ t.g.ln.pos = s.g.ln.pos ∧ dqKept s t
  last : f.e = true → t.g.ln.runPos = 0 ∧ (quadOf t s.g.core s.g.quad).owner ≠ some s.g.id
  drains : f.e = true → noLanes s.g.ln.mask s.g.ln.stack → t.g.ln.pos = .drained ∧ t.g.ln.lpc = s.g.ln.lpc ∧ dqKept s t
  merge : f.e = true → s.g.ln.mask = 0 → ¬noLanes s.g.ln.mask s.g.ln.stack →
    t.g.ln.pos = .start ∧ t.g.ln.lpc = s.g.ln.lpc ∧ dqKept s t
  waits : f.e = true → s.g.ln.mask ≠ 0 → s.g.q.dq = [] → t.g.ln.pos = .pop ∧ t.g.ln.lpc = s.g.ln.lpc ∧ dqKept s t
  pops' : f.e = true → s.g.ln.mask ≠ 0 → ∀ k g r, s.g.q.dq = (k, g) :: r →
    t.g.ln.pos = .start ∧ t.g.ln.lpc = k.toNat ∧ t.g.q.dq = r ∧ t.g.ln.fmt = g.getD s.g.ln.fmt ∧
    t.g.en.acc = behindPop s (k, g)

/-- Memory, the team, the task and the partition are as before. -/
def LanePure (s t : State) : Prop := t.mem = s.mem ∧ t.tm = s.tm ∧ t.tk = s.tk ∧ t.pt = s.pt

/-- The lanes of `m` have `val` in the `n` registers from d up, nothing where d is zero; every other register of every lane, and
every predicate, is as before. -/
structure LaneWrites (s t : State) (f : LaneFields) (n : Nat) (m : BitVec 64) (val : Nat → Nat) : Prop where
  wrote : f.d.toNat < 0x1F0 → ∀ k, k < 64 → laneIn m k = true → vgetN t.g f.d.toNat k n = val k % 2 ^ (32 * n)
  kept : ∀ r k, k < 64 → ¬(laneIn m k = true ∧ f.d.toNat < 0x1F0 ∧ f.d.toNat ≤ r ∧ r < f.d.toNat + n) →
    vget t.g r k = vget s.g r k
  preds : t.g.ln.preds = s.g.ln.preds

/-- The lanes of `m` have `val` in predicate d (p7 discards); every other predicate bit and every register is as before. -/
structure PredWrites (s t : State) (f : LaneFields) (m : BitVec 64) (val : Nat → Bool) : Prop where
  wrote : f.d.toNat ≠ 7 → ∀ k, k < 64 → laneIn m k = true → laneIn (predMask t f.d.toNat) k = val k
  kept : ∀ p k, k < 64 → ¬(laneIn m k = true ∧ p = f.d.toNat) → laneIn (predMask t p) k = laneIn (predMask s p) k
  regs : t.g.ln.v = s.g.ln.v

/-- SR_FPSTAT holds what it held and the flags of `fl` (R98). -/
def FlagsRaised (s t : State) (fl : Nat → Prop) : Prop :=
  ∀ b, b < 6 → (t.g.fpstat.getLsbD b = true ↔ s.g.fpstat.getLsbD b = true ∨ fl b)

/-- A lane raises a flag that the kernel traps (R246, R299). -/
def enabled (s : State) (fl : Fl) : Prop := fl &&& s.tm.kernel.fptrap.setWidth 6 ≠ 0

/-- The lane instruction completes with effect `done` when no active lane raises an enabled flag, the flags going to SR_FPSTAT;
otherwise it takes FP_EXCEPTION with the flags set and nothing else done, its lanes those that raise an enabled flag, or under U
every active lane (R246, R392). -/
def LaneEffect (i : Instr) (s : State) (f : LaneFields) (r : Roles) (fl : Nat → Fl) (done : State → Prop) : Prop :=
  let m := laneMask s f
  let raised := fun b => ∃ k, laneIn m k = true ∧ (fl k).getLsbD b = true
  let hit := fun k => laneIn m k = true ∧ enabled s (fl k)
  ∀ c, LaneReady s i f r c →
    ((∀ k, ¬hit k) → ∃ t, exec i s = .next t ∧ LaneDone s t f (vqFields f r) ∧ LanePure s t ∧ done t ∧ FlagsRaised s t raised) ∧
    ((∃ k, hit k) → ∃ (all : Fl) (ls : BitVec 64),
      exec i s = trapL { s with g := { s.g with fpstat := s.g.fpstat ||| all, ln := c } } ls 0x0C 0
        (det [(0, ls.toNat), (8, all.toNat)]) ∧
      (∀ b, b < 6 → (all.getLsbD b = true ↔ raised b)) ∧
      ∀ k, k < 64 → (laneIn ls k = true ↔ if f.u then laneIn m k = true else hit k))

/-- The lanes of the mask receive `val` in d. -/
def LaneGives (i : Instr) (s : State) (f : LaneFields) (r : Roles) (n : Nat) (val : Nat → FR) : Prop :=
  LaneEffect i s f r (fun k => (val k).fl) (fun t => LaneWrites s t f n (laneMask s f) (fun k => (val k).bits))

/-- The lanes of the mask receive `val` in predicate d. -/
def PredGives (i : Instr) (s : State) (f : LaneFields) (r : Roles) (val : Nat → Bool) (fl : Nat → Fl) : Prop :=
  LaneEffect i s f r fl (fun t => PredWrites s t f (laneMask s f) val)

/-- A value without flags. -/
def quietly (v : Nat → Nat) : Nat → FR := fun k => ⟨v k, 0⟩

/-- Registers of an operand: a pair at width 01. -/
def regsOf (f : LaneFields) : Nat := if f.width = 1 then 2 else 1

/-- Bits and count of an integer element at a width (R281). -/
def intElem (f : LaneFields) : Nat × Nat :=
  if f.width = 0 then (32, 1) else if f.width = 1 then (64, 1) else if f.width = 2 then (16, 2) else (8, 4)

/-- Bits and count of a floating-point element at a width, and its format (R281). -/
def fpElemOf (f : LaneFields) : Nat × Nat × Fmt :=
  if f.width = 0 then (32, 1, fF32) else if f.width = 1 then (64, 1, fF64) else if f.width = 2 then (16, 2, fBF16)
  else (16, 2, fF16)

/-- The values of a, b and c that lane `k` reads: its own, or under U those of the lowest active lane (R96, R280, R281). -/
def srcs (s : State) (f : LaneFields) (fl : Bool) (k : Nat) : Nat × Nat × Nat :=
  laneSrcs s f fl (laneMask s f) (vqVals s f) (regsOf f) k

/-- An element-wise integer instruction (R390): element j of d in lane k is `op` of element j of a, b and c, `k'` being the lane
that is read. -/
def ElemGives (i : Instr) (s : State) (f : LaneFields) (b c : Bool) (op : Nat → Nat → Nat → Nat → FR) : Prop :=
  let n := regsOf f
  let e := (intElem f).1
  let role := fun (x : Bool) => if x then Role.src n else Role.none
  let el := fun k j => op (srcLane f (laneMask s f) k) (fld (srcs s f false k).1 (e * j) e)
    (fld (srcs s f false k).2.1 (e * j) e) (fld (srcs s f false k).2.2 (e * j) e)
  let fl := fun k => (List.range (intElem f).2).foldl (fun acc j => acc ||| (el k j).fl) 0
  LaneEffect i s f ⟨.dst n, .src n, role b, role c⟩ fl (fun t =>
    (∃ val, LaneWrites s t f n (laneMask s f) val) ∧
    ∀ k j, f.d.toNat < 0x1F0 → k < 64 → laneIn (laneMask s f) k = true → j < (intElem f).2 →
      fld (vgetN t.g f.d.toNat k n) (e * j) e = (el k j).bits)

/-- A pattern of `e` bits as an integer, unsigned where sub[0] is 1 (R394). -/
def ival (f : LaneFields) (e x : Nat) : Int := if f.sub.getLsbD 0 then (x : Int) else signed e x

/-- An exact result in `e` bits (R394): under saturation a value outside the type's bounds gives the nearer bound with OVERFLOW and
INEXACT; otherwise it wraps. -/
def narrow (sat uns : Bool) (e : Nat) (z : Int) : FR :=
  let lo : Int := if uns then 0 else -(2 : Int) ^ (e - 1)
  let hi : Int := if uns then (2 : Int) ^ e - 1 else (2 : Int) ^ (e - 1) - 1
  if sat = true ∧ z < lo then ⟨(lo % (2 : Int) ^ e).toNat, flOverflow⟩
  else if sat = true ∧ hi < z then ⟨(hi % (2 : Int) ^ e).toNat, flOverflow⟩
  else ⟨(z % (2 : Int) ^ e).toNat, 0⟩

/-- A floating-point instruction (R390, R397): `op` on every element in the format of the width, rounded as `laneEnv` says. -/
def FpGives (i : Instr) (s : State) (f : LaneFields) (b c : Bool) (op : Fmt → Env → Nat → Nat → Nat → FR) : Prop :=
  let n := regsOf f
  let role := fun (x : Bool) => if x then Role.src n else Role.none
  let (e, cnt, fmt) := fpElemOf f
  LaneGives i s f ⟨.dst n, .src n, role b, role c⟩ n (fun k =>
    mapElems e cnt (op fmt (laneEnv s f)) (srcs s f true k).1 (srcs s f true k).2.1 (srcs s f true k).2.2)

/-- A comparison code of R395 on integers. -/
def condInt (c : Nat) (x y : Int) : Bool :=
  if c = 0 then decide (x = y) else if c = 1 then decide (x ≠ y) else if c = 2 then decide (x < y) else if c = 3 then decide (x ≤ y)
  else if c = 4 then decide (y < x) else decide (y ≤ x)

/-- A value of `n` registers that field `code` gives lane `k`, VQ entry `q` being its own. -/
def opnd (s : State) (f : LaneFields) (code : BitVec 9) (n lit q k : Nat) : Nat :=
  operand s.g code n lit q (srcLane f (laneMask s f) k)

/-- A conversion or dot of a lane (R390): `na` and `nb` registers of a and b, one of c. -/
def ConvGives (i : Instr) (s : State) (f : LaneFields) (r : Roles) (nd na nb lit : Nat) (op : Env → Nat → Nat → Nat → FR) : Prop :=
  LaneGives i s f r nd (fun k => op (laneEnv s f) (opnd s f f.a na lit (vqVals s f).1 k)
    (opnd s f f.b nb f.imm.toNat (vqVals s f).2.1 k) (opnd s f f.c 1 f.imm.toNat (vqVals s f).2.2 k))

/-- The lanes active in the segment of lane `k` (R407, R409), in increasing order. -/
def segLanes (s : State) (f : LaneFields) (size k : Nat) : List Nat :=
  (lanesOf (laneMask s f)).filter (fun u => u / size == k / size)

/-- The size of a segment (R407). -/
def segOf (s : State) (f : LaneFields) : Nat :=
  if f.sub.toNat % 8 = 0 then s.g.width else 2 ^ (f.sub.toNat % 8)

/-- The segment code fits the width (R407). -/
def segFits (s : State) (f : LaneFields) : Prop := f.sub.toNat % 8 ≠ 7 ∧ segOf s f ≤ s.g.width

/-- Values combined one after another in order, with the flags of the steps (R409). -/
def combine (op : Nat → Nat → FR) : List Nat → FR
  | [] => ⟨0, 0⟩
  | x :: r => r.foldl (fun acc y => ⟨(op acc.bits y).bits, acc.fl ||| (op acc.bits y).fl⟩) ⟨x, 0⟩

/-- The operator of R409: 0 sum, 1 minimum, 2 maximum, on `e` bits of a kind (0 signed, 1 unsigned, 2 float). -/
def combineOp (s : State) (f : LaneFields) (op kind e : Nat) (x y : Nat) : FR :=
  let fmt := if e = 64 then fF64 else fF32
  let iv := fun (p : Nat) => if kind = 1 then (p : Int) else signed e p
  if kind = 2 then if op = 0 then fAdd fmt { laneEnv s f with ftz := false } x y else fMinMax fmt false (op == 2) x y
  else if op = 0 then narrow (satOn s f) (kind == 1) e (iv x + iv y)
  else if op = 1 then if iv x ≤ iv y then ⟨x, 0⟩ else ⟨y, 0⟩
  else if iv y ≤ iv x then ⟨x, 0⟩ else ⟨y, 0⟩

/-- A reduction or scan (R409): `mode` 0 gives every active lane of a segment the whole, 1 what stands up to the lane, 2 what stands
below it, the identity `zero` at the first. A NaN of the first lane gives the default NaN (R236). -/
def ReduceGives (i : Instr) (s : State) (f : LaneFields) (op mode zero : Nat) : Prop :=
  let n := regsOf f
  let kind := f.sub.toNat / 8 % 4
  let fmt := if n = 2 then fF64 else fF32
  let x := fun k => operand s.g f.a n (literal (kind == 2) f.width.toNat f.imm) (vqVals s f).1 k
  let seg := segLanes s f (segOf s f)
  let o := combineOp s f op kind (32 * n)
  let pick := fun k => if mode = 0 then seg k else if mode = 1 then (seg k).filter (· ≤ k) else (seg k).filter (· < k)
  let head := fun (l : List Nat) => match l with
    | [] => []
    | v :: r => (if kind = 2 ∧ isNan (fdec fmt v) = true then fnan fmt else v) :: r
  let snan := fun k => if kind = 2 ∧ ∃ u ∈ seg k, isSnan (fdec fmt (x u)) = true then flInvalid else 0
  segFits s f → kind ≠ 3 → LaneGives i s f ⟨.dst n, .src n, .none, .none⟩ n (fun k =>
    ⟨if pick k = [] then zero else (combine o (head ((pick k).map x))).bits, (combine o (head ((seg k).map x))).fl ||| snan k⟩)

/-- The identity of a scan (R409). -/
def identityOf (f : LaneFields) (isMax : Bool) : Nat :=
  let e := 32 * regsOf f
  let kind := f.sub.toNat / 8 % 4
  if !isMax then 0 else if kind = 0 then 2 ^ (e - 1) else if kind = 1 then 0
  else if e = 64 then 0xFFF0000000000000 else 0xFF800000

/-- A shuffle (R408): lane `k` receives a of lane `src k i`, i being its b. -/
def ShuffleGives (i : Instr) (s : State) (f : LaneFields) (src : Nat → Nat → Nat) : Prop :=
  let n := regsOf f
  let lit := literal false f.width.toNat f.imm
  LaneGives i s f ⟨.dst n, .src n, .src n, .none⟩ n (quietly (fun k =>
    operand s.g f.a n lit (vqVals s f).1 (src k (operand s.g f.b n lit (vqVals s f).2.1 k))))

/-- `n` rounds of Philox-4x32 with its key schedule (R412). -/
def philoxRounds : Nat → W32 → W32 → W32 × W32 × W32 × W32 → W32 × W32 × W32 × W32
  | 0, _, _, x => x
  | n + 1, k0, k1, (x0, x1, x2, x3) =>
    let p0 := (0xD2511F53 : W32).zeroExtend 64 * x0.zeroExtend 64
    let p1 := (0xCD9E8D57 : W32).zeroExtend 64 * x2.zeroExtend 64
    philoxRounds n (k0 + 0x9E3779B9) (k1 + 0xBB67AE85)
      (p1.extractLsb' 32 32 ^^^ x1 ^^^ k0, p1.extractLsb' 0 32, p0.extractLsb' 32 32 ^^^ x3 ^^^ k1, p0.extractLsb' 0 32)

/-- A lane branch has completed (R77, R90, R92, R93): mask, stack and retired lanes as given, the next run at `next`, or drained when
no lane is left in the mask or an entry; registers, predicates, queues and memory as before. -/
structure BranchDone (s t : State) (mask retired : BitVec 64) (stack : List StackEntry) (next : Nat) : Prop where
  lanes : t.g.ln.mask = mask ∧ t.g.ln.retired = retired ∧ t.g.ln.stack = stack ∧ t.g.ln.runPos = 0
  goes : ¬noLanes mask stack → t.g.ln.pos = .start ∧ t.g.ln.lpc = next
  ends : noLanes mask stack → t.g.ln.pos = .drained
  slot : (quadOf t s.g.core s.g.quad).owner ≠ some s.g.id
  kept : t.g.ln.v = s.g.ln.v ∧ t.g.ln.preds = s.g.ln.preds ∧ t.g.ln.fmt = s.g.ln.fmt ∧ t.g.q = s.g.q ∧ t.g.sc = s.g.sc ∧
    t.g.en = s.g.en
  pure' : LanePure s t

/-- Bytes of the three memories: scratchpad or not, of the even or the odd core, at an address (R103, R106). -/
abbrev Bytes := Bool → Bool → Nat → Byte

/-- The bytes of global memory and of the team's scratchpads. -/
def bytesOf (s : State) : Bytes := fun sc odd a => if sc then mget (spOf s.tm odd) a else mget s.mem a

/-- The memory that a location lies in: scratchpad or not, and which. -/
def sideOf (s : State) (l : Loc) : Bool := spSide s.tm s.g.core l.partner

/-- The little-endian number of `n` bytes at a location. -/
def look (s : State) (m : Bytes) (l : Loc) : Nat → Nat
  | 0 => 0
  | n + 1 => look s m l n + 256 ^ n * (m l.scratch (sideOf s l) (l.addr + n)).toNat

/-- `n` bytes of a number put at a location. -/
def place (s : State) (m : Bytes) (l : Loc) (n v : Nat) : Bytes := fun sc odd a =>
  if sc = l.scratch ∧ (sc = true → odd = sideOf s l) ∧ l.addr ≤ a ∧ a < l.addr + n then BitVec.ofNat 8 (v / 256 ^ (a - l.addr))
  else m sc odd a

/-- The places that the active lanes access, `l k` that of lane k, are `n` aligned bytes of global memory, constant memory or
scratchpad that the group may access (R419), within one 32-byte sector, local and sound, with no open revision, tier move, drop, pre-copy or watch in the way;
every earlier access of the stream is performed and this one is performed at once. -/
structure LanePlain (s : State) (f : LaneFields) (n : Nat) (write : Bool) (l : Nat → Loc) : Prop where
  focused : Focused s
  places : ∀ k, laneIn (laneMask s f) k = true →
    locate s (me s) s.tm (mSpace f) (laneAddr s.g f k) n write (!write) = .ok (l k) s
  sound : ∀ k, laneIn (laneMask s f) k = true → (l k).scratch = true ∨
    ((l k).addr + n ≤ 3 * spaceSize ∧ (l k).addr % 32 + n ≤ 32 ∧ poisoned s (l k).addr n = false ∧ (l k).watched = false)
  whole : mSpace f = 2 → ∀ k, laneIn (laneMask s f) k = true → (s.tm.kernel.cbase + laneAddr s.g f k) % 4096 + n ≤ 4096
  part : s.pt.revs = [] ∧ s.pt.drops = [] ∧ s.pt.moves = [] ∧ s.pt.dirtyOn = false
  done : quiet s .lane = true
  now : s.defer = false

/-- The places of a constant load whose bytes may go on in another sector or page, CBASE being no multiple of their number (R107, R299):
`l k` that of the first byte of lane k, `h k` that of the first byte beyond its page. -/
structure ConstPlain (s : State) (f : LaneFields) (n : Nat) (l h : Nat → Loc) : Prop where
  focused : Focused s
  const : mSpace f = 2
  aligned : ∀ k, laneIn (laneMask s f) k = true → laneAddr s.g f k % n = 0
  lower : ∀ k, laneIn (laneMask s f) k = true → locate s (me s) s.tm 2 (laneAddr s.g f k) n false true = .ok (l k) s
  upper : ∀ k, laneIn (laneMask s f) k = true → ∀ w, w = 4096 - (s.tm.kernel.cbase + laneAddr s.g f k) % 4096 → w < n →
    locate s (me s) s.tm 2 (laneAddr s.g f k + w) 1 false true = .ok (h k) s
  sound : ∀ k, laneIn (laneMask s f) k = true → (l k).addr + n ≤ 3 * spaceSize ∧ (h k).addr + n ≤ 3 * spaceSize ∧
    poisoned s (l k).addr (4096 - (l k).addr % 4096) = false ∧ poisoned s (h k).addr n = false
  part : s.pt.revs = [] ∧ s.pt.drops = [] ∧ s.pt.moves = []
  done : quiet s .lane = true
  now : s.defer = false

/-- Where byte `b` of lane `k` of a constant load stands. -/
def constByte (s : State) (f : LaneFields) (l h : Nat → Loc) (k b : Nat) : Nat :=
  let w := 4096 - (s.tm.kernel.cbase + laneAddr s.g f k) % 4096
  if b < w then (l k).addr + b else (h k).addr + (b - w)

/-- Stores of lanes in an order (R431). -/
def storesIn (s : State) (l : Nat → Loc) (n : Nat) (v : Nat → Nat) (order : List Nat) : Bytes :=
  order.foldl (fun m k => place s m (l k) n (v k)) (bytesOf s)

/-- Atomics of lanes in an order (R428): the bytes, and what each lane read. -/
def atomicsIn (s : State) (l : Nat → Loc) (n : Nat) (op : Nat → Nat → Option Nat) (order : List Nat) : Bytes × List (Nat × Nat) :=
  order.foldl (fun a k =>
    let x := look s a.1 (l k) n
    ((match op k x with
      | some y => place s a.1 (l k) n y
      | none => a.1), a.2 ++ [(k, x)])) (bytesOf s, [])

/-- A lane atomic completes: its lanes are performed one after another in some order, d taking what each read when `result`. -/
def AtomicGives (i : Instr) (s : State) (f : LaneFields) (result hasC : Bool) (op : Nat → Nat → Nat → Option Nat) : Prop :=
  let n := mBytes f
  let k := n / 4
  let r : Roles := ⟨if result then .dst k else .none, .reg 2, .mem k, if hasC then .mem k else .none⟩
  ∀ (c : LaneCtx) (l : Nat → Loc), LaneReady s i f r c → LanePlain (withLane s c) f n true l →
    let y := fun t => operand s.g f.b k 0 (vqVals s f).2.1 t
    let e := fun t => operand s.g f.c k 0 (vqVals s f).2.2 t
    ∃ (t : State) (order : List Nat), exec i s = .next t ∧ LaneDone s t f (vqFields f r) ∧ order.Perm (lanesOf (laneMask s f)) ∧
      let out := atomicsIn s l n (fun j x => op x (y j) (e j)) order
      (∀ sc odd a, bytesOf t sc odd a = out.1 sc odd a) ∧ t.g.fpstat = s.g.fpstat ∧
      (result = true → LaneWrites s t f k (laneMask s f) (fun j => ansOf out.2 j)) ∧
      (result = false → t.g.ln.v = s.g.ln.v ∧ t.g.ln.preds = s.g.ln.preds)

/-- The exponent field of a pattern (R234). -/
def expOf (f : Fmt) (p : Nat) : Nat := p / 2 ^ f.f % 2 ^ f.e

/-- The fraction of a pattern. -/
def fracOf (f : Fmt) (p : Nat) : Nat := p % 2 ^ f.f

/-- The sign of a pattern. -/
def negOf (f : Fmt) (p : Nat) : Bool := decide (p / 2 ^ (f.bits - 1) % 2 = 1)

/-- The sign bit alone. -/
def signOnly (f : Fmt) (neg : Bool) : Nat := if neg then 2 ^ (f.bits - 1) else 0

/-- The rational number of a finite pattern (R234): an exponent field of 0 is that of the subnormals. -/
def ratOf (f : Fmt) (p : Nat) : ℚ :=
  let m : ℚ := if expOf f p = 0 then (fracOf f p : ℚ) else 2 ^ f.f + (fracOf f p : ℚ)
  (if negOf f p then -1 else 1) * m * (2 : ℚ) ^ ((max (expOf f p) 1 : Int) - f.bias - f.f)

/-- The largest finite magnitude of format code `k`, as a pattern (R234). -/
def largestOf (k : Nat) : Nat := [0x7F7FFFFF, 0x7FEFFFFFFFFFFFFF, 0x7F7F, 0x7BFF, 0x7E, 0x7B].getD k 0

/-- The default NaN of format code `k` (R236). -/
def nanOf (k : Nat) : Nat := [0x7FC00000, 0x7FF8000000000000, 0x7FC0, 0x7E00, 0x7F, 0x7E].getD k 0

/-- The magnitude of a pattern: what it holds below the sign. -/
def magOf (k p : Nat) : Nat := p % 2 ^ ((fmtOf k).bits - 1)

/-- A NaN of format code `k`: for E4M3 the one magnitude above the largest, elsewhere all above the infinity (R234). -/
def isNaNOf (k p : Nat) : Bool := decide (largestOf k + (if k = 4 then 0 else 1) < magOf k p)

/-- An infinity; E4M3 has none (R234). -/
def isInfOf (k p : Nat) : Bool := decide (k ≠ 4 ∧ magOf k p = largestOf k + 1)

/-- A signalling NaN: the most significant fraction bit is 0 (R236). -/
def isSigOf (k p : Nat) : Bool := isNaNOf k p && decide (fracOf (fmtOf k) p < 2 ^ ((fmtOf k).f - 1))

/-- n × 2^q stands for |z| under a rounding mode (R242): RNE the nearer multiple, on a tie the even one; RTZ the smaller; RUP and RDN
the one nearer to their infinity. -/
def nearestTo (mode : Nat) (z : ℚ) (q : Int) (n : Nat) : Prop :=
  let d := |z| / (2 : ℚ) ^ q
  if mode = 0 then |d - n| ≤ 1 / 2 ∧ (|d - n| = 1 / 2 → n % 2 = 0)
  else if mode = 1 ∨ (mode = 2 ∧ z < 0) ∨ (mode = 3 ∧ 0 < z) then (n : ℚ) ≤ d ∧ d < n + 1
  else d ≤ n ∧ (n : ℚ) < d + 1

/-- |z| rounded with an unbounded exponent lies below the smallest normal magnitude (R242: tininess is detected after rounding). -/
def isTiny (f : Fmt) (mode : Nat) (z : ℚ) : Prop :=
  ∃ (q : Int) (n : Nat), (2 : ℚ) ^ (q + f.f) ≤ |z| ∧ |z| < (2 : ℚ) ^ (q + f.f + 1) ∧ nearestTo mode z q n ∧
    (n : ℚ) * (2 : ℚ) ^ q < (2 : ℚ) ^ (1 - (f.bias : Int))

/-- The pattern of an overflow in format code `k` (R244). -/
def overflowOf (k mode : Nat) (sat neg : Bool) : Nat :=
  let s := signOnly (fmtOf k) neg
  if sat then s + largestOf k
  else if k = 4 then nanOf 4
  else if mode = 1 ∨ (mode = 2 ∧ neg) ∨ (mode = 3 ∧ ¬neg) then s + largestOf k
  else s + largestOf k + 1

/-- `r` is the exact value `z` rounded once into format code `k`, nothing being flushed (R242 to R244): a zero has the sign `zneg`;
else a multiple n × 2^q of the quantum of |z|, or the overflow pattern where that exceeds the largest finite value. -/
def RoundedOnce (k : Nat) (v : Env) (z : ℚ) (zneg : Bool) (r : FR) : Prop :=
  let f := fmtOf k
  let low : Int := 1 - (f.bias : Int) - f.f
  (z = 0 → r = ⟨signOnly f zneg, 0⟩) ∧
  (z ≠ 0 → ∃ (q : Int) (n : Nat), low ≤ q ∧ |z| < (2 : ℚ) ^ (q + f.f + 1) ∧ (q = low ∨ (2 : ℚ) ^ (q + f.f) ≤ |z|) ∧
    nearestTo v.mode z q n ∧
    let y := (n : ℚ) * (2 : ℚ) ^ q
    (ratOf f (largestOf k) < y → r = ⟨overflowOf k v.mode v.sat (decide (z < 0)), flOverflow⟩) ∧
    (y ≤ ratOf f (largestOf k) → r.bits < 2 ^ f.bits ∧ magOf k r.bits ≤ largestOf k ∧ |ratOf f r.bits| = y ∧
      (negOf f r.bits = true ↔ z < 0) ∧ (y = |z| → r.fl = 0) ∧
      (y ≠ |z| → (isTiny f v.mode z → r.fl = flUnderflow) ∧ (¬isTiny f v.mode z → r.fl = flInexact))))

/-- An operand that FTZ reads: a subnormal as zero of its sign (R245). -/
def flushed (k p : Nat) : Nat := if k < 4 ∧ expOf (fmtOf k) p = 0 then signOnly (fmtOf k) (negOf (fmtOf k) p) else p

/-- A result that FTZ writes: a subnormal as zero of its sign, with UNDERFLOW and INEXACT (R245). -/
def flushedOut (k : Nat) (r : FR) : FR :=
  if k < 4 ∧ expOf (fmtOf k) r.bits = 0 ∧ fracOf (fmtOf k) r.bits ≠ 0 then ⟨flushed k r.bits, r.fl ||| flUnderflow⟩ else r

/-- The environment with nothing flushed. -/
def unflushed (v : Env) : Env := { v with ftz := false }

/-- INVALID where `c` holds. -/
def invalidIf (c : Bool) : Fl := if c then flInvalid else 0

/-- The issue checks of one lane instruction with fields `f` (R285, R286): `opcode` its opcode, `r` what its operand fields may be, `bad` a
failed check of its own. -/
def IssueChecks (s : State) (f : LaneFields) (i : Instr) (opcode : Nat) (r : Roles) (bad : Prop) : Prop :=
  let m := s.g.ln.mask
  ((legal i = false ∨ (f.j = true ∧ s.g.ln.runPos ≠ 0)) →
    exec i s = trapL s m 0x00 0 (det [(0, laneWord0 opcode f), (4, laneWord1 f), (8, f.imm.toNat)])) ∧
  (legal i = true → f.j = false → 24 ≤ s.g.ln.runPos →
    (∀ b, rolesCheck s f r = some b → exec i s = trapL s m 0x01 0 (opDetail b.kind b.value b.pos)) ∧
    (rolesCheck s f r = none → bad → ∃ kind v pos, exec i s = trapL s m 0x01 0 (opDetail kind v pos)) ∧
    (rolesCheck s f r = none → ¬bad → exec i s = trapL s m 0x02 0 (det [(0, s.g.ln.lpc - s.g.ln.runPos)])))

/-- A lane address of a slot access (R425) lies inside the slot, aligned. -/
def slotFits (s : State) (f : LaneFields) (n k : Nat) : Prop := slotOff s.g f k % n = 0 ∧ slotOff s.g f k + n ≤ 16384

end Sys2Proof.Claims

/-- R285, R286, R390: a lane triple with an illegal encoding, or with J inside a run, takes ILLEGAL_ENCODING for every active lane, its
three words the detail; a legal one from run position 24 on takes ILLEGAL_OPERAND where an operand field or the instruction's own check
fails, and RUN_LENGTH with the run's first index where all pass. In no case is anything done. The order of the fields in an
ILLEGAL_OPERAND is the model's choice (log 22). -/
def Obligations.LaneEncodingChecks : Prop :=
  ∀ (s : State) (f : LaneFields),
    let n := regsOf f
    let sb := fun (lo len : Nat) => fld f.sub.toNat lo len
    let k := sb 0 2
    let b := mBytes f
    let v := max 1 (b / 4)
    let ff := if sb 2 3 = 1 then 2 else 1
    let ni := if f.sub.getLsbD 1 then 2 else 1
    let rg := fun (c : Nat) => if c = 1 then 2 else 1
    let nb := if f.sub.getLsbD 0 then 5 else 3
    let up := f.sub.getLsbD 5
    let cond := 6 ≤ sb 0 3
    let seg := sb 0 3 = 7 ∨ s.g.width < segOf s f
    let sum := seg ∨ sb 3 2 = 3
    let free := (slotOf s.tm (f.sub.toNat % 16)).st = .free
    let per := 1024 / s.g.width
    let tile := s.tm.kernel.legacy = true ∨ s.g.allot < s.g.bnd + (f.sub.toNat % 16 + 1) * per ∨ per ≤ f.imm.toNat
    let idx := f.imm.toNat % 2 ^ 14
    let noReg := 2 ^ 14 ≤ f.imm.toNat ∨ idx ≠ 0x010 ∧ idx ≠ 0x011 ∧ idx ≠ 0x012 ∧ specialReg s idx = none
    let e1 : Roles := ⟨.dst n, .src n, .none, .none⟩
    let e2 : Roles := ⟨.dst n, .src n, .src n, .none⟩
    let e3 : Roles := ⟨.dst n, .src n, .src n, .src n⟩
    let p1 : Roles := ⟨.pred, .src n, .none, .none⟩
    let p2 : Roles := ⟨.pred, .src n, .src n, .none⟩
    let pp : Roles := ⟨.pred, .pred, .pred, .none⟩
    let rd : Roles := ⟨.dst n, .none, .none, .none⟩
    let d3 : Roles := ⟨.dst 1, .src 1, .src 1, .src 1⟩
    let at' := fun (d c : Role) => (⟨d, .reg 2, .mem v, c⟩ : Roles)
    let c := fun (i : Instr) (opcode : Nat) (r : Roles) (bad : Prop) => IssueChecks s f i opcode r bad
    c (.vadd f) 0 e2 False ∧ c (.vsub f) 1 e2 False ∧ c (.vmul f) 2 e2 False ∧ c (.vmulh f) 3 e2 False ∧ c (.vmad f) 4 e3 False ∧
    c (.vmin f) 5 e2 False ∧ c (.vmax f) 6 e2 False ∧ c (.vminn f) 7 e2 False ∧ c (.vmaxn f) 8 e2 False ∧ c (.vabs f) 9 e1 False ∧
    c (.vneg f) 10 e1 False ∧ c (.vand f) 11 e2 False ∧ c (.vor f) 12 e2 False ∧ c (.vxor f) 13 e2 False ∧ c (.vnot f) 14 e1 False ∧
    c (.vshl f) 15 e2 False ∧ c (.vshr f) 16 e2 False ∧ c (.vsra f) 17 e2 False ∧ c (.vpopc f) 18 e1 False ∧ c (.vclz f) 19 e1 False ∧
    c (.vbfx f) 20 e2 False ∧ c (.vbfi f) 21 e3 False ∧ c (.vsel f) 22 e2 False ∧ c (.vmov f) 23 e1 False ∧ c (.vsetp f) 64 p2 cond ∧
    c (.fsetp f) 65 p2 cond ∧ c (.pand f) 66 pp False ∧ c (.por f) 67 pp False ∧ c (.pxor f) 68 pp False ∧
    c (.pnot f) 69 ⟨.pred, .pred, .none, .none⟩ False ∧ c (.pmov f) 70 p1 False ∧ c (.prd f) 71 ⟨.dst 1, .none, .none, .none⟩ False ∧
    c (.fadd f) 128 e2 False ∧ c (.fsub f) 129 e2 False ∧ c (.fmul f) 130 e2 False ∧ c (.ffma f) 131 e3 False ∧
    c (.fmin f) 132 e2 False ∧ c (.fmax f) 133 e2 False ∧ c (.fabs f) 134 e1 False ∧ c (.fneg f) 135 e1 False ∧
    c (.fclamp f) 136 e3 False ∧ c (.frnd f) 137 e1 False ∧ c (.frcp f) 192 e1 False ∧ c (.frsq f) 193 e1 False ∧
    c (.fsqrt f) 194 e1 False ∧ c (.fdiv f) 195 e2 False ∧ c (.fex2 f) 196 e1 False ∧ c (.flg2 f) 197 e1 False ∧
    c (.fsin f) 198 e1 False ∧ c (.fcos f) 199 e1 False ∧ c (.ftanh f) 200 e1 False ∧
    c (.cvt f) 256 ⟨.dst (rg (sb 0 3)), .src (rg (sb 3 3)), .none, .none⟩ (6 ≤ sb 0 3 ∨ 6 ≤ sb 3 3) ∧
    c (.cvti f) 257 ⟨.dst (if up then ff else ni), .src (if up then ni else ff), .none, .none⟩ (6 ≤ sb 2 3) ∧
    c (.pack f) 258 ⟨.dst 1, .src 1, .src 1, if k < 2 then .none else .src 1⟩ (k < 2 ∧ sb 2 1 = 1) ∧
    c (.unpack f) 259 ⟨.dst 1, .src 1, .none, .none⟩ (k < 2 ∧ 2 ≤ sb 2 2) ∧
    c (.qscale f) 260 ⟨.dst 1, .src 1, if sb 0 3 = 2 then .none else .src 1, if sb 0 3 = 2 ∨ sb 0 3 = 3 then .none else .src 1⟩ (4 ≤ sb 0 3) ∧
    c (.dotn f) 320 ⟨.dst 1, .reg nb, .reg nb, .src 1⟩ False ∧ c (.dot2 f) 321 d3 False ∧
    c (.dot4 f) 322 d3 (k < 2 ∧ 2 ≤ sb 2 2 ∨ 2 ≤ k ∧ sb 2 2 < 2) ∧ c (.shfl f) 384 e2 seg ∧ c (.shflup f) 385 e2 seg ∧
    c (.shfldn f) 386 e2 seg ∧ c (.shflx f) 387 e2 seg ∧ c (.bcast f) 388 e2 False ∧ c (.redsum f) 389 e1 sum ∧
    c (.redmin f) 390 e1 sum ∧ c (.redmax f) 391 e1 sum ∧ c (.scanadd f) 392 e1 sum ∧ c (.scanmax f) 393 e1 sum ∧
    c (.ballot f) 394 e1 False ∧ c (.voteany f) 395 p1 seg ∧ c (.voteall f) 396 p1 seg ∧
    c (.rng f) 448 ⟨.dst (k + 1), .reg 2, .none, .none⟩ False ∧ c (.lpush f) 449 ⟨.none, .src n, .none, .none⟩ False ∧
    c (.vqpop f) 450 rd False ∧ c (.rdsr f) 451 rd noReg ∧ c (.lnop f) 452 noRoles False ∧ c (.lbr f) 512 noRoles False ∧
    c (.ljmp f) 513 noRoles False ∧ c (.lbreak f) 514 noRoles False ∧ c (.lexit f) 515 noRoles False ∧
    c (.ld f) 576 ⟨.dst v, .reg 2, .none, .none⟩ False ∧ c (.st f) 577 ⟨.none, .reg 2, .regZ v, .none⟩ False ∧
    c (.ost f) 578 ⟨.none, .reg 1, .regZ v, .none⟩ free ∧ c (.old f) 579 ⟨.dst v, .reg 1, .none, .none⟩ free ∧
    c (.pref f) 580 ⟨.none, .reg 2, .none, .none⟩ (mSpace f ≠ 0) ∧ c (.atom f) 640 (at' (.dst v) .none) False ∧
    c (.atomc f) 641 (at' (.dst v) (.mem v)) False ∧ c (.red f) 642 (at' .none .none) False ∧
    c (.lcopy f) 704 ⟨.dst 2, .reg 2, .reg 2, .none⟩ (2 ≤ k) ∧ c (.lcopyo f) 705 ⟨.dst 2, .reg 2, .reg 1, .none⟩ free ∧
    c (.amovr f) 768 ⟨.dst 1, .none, .none, .none⟩ tile ∧ c (.amovw f) 769 ⟨.none, .mem 1, .none, .none⟩ tile

/-- R390, R393, R394: VADD, VSUB, VMUL, VMAD, VABS and VNEG give each element of each active lane the exact result, wrapped or under
saturation clamped with its flags; VMULH gives the high half of the exact product. -/
def Obligations.LaneIntegerArithmetic : Prop :=
  ∀ (s : State) (f : LaneFields),
    let e := (intElem f).1
    let sat := satOn s f
    let uns := f.sub.getLsbD 0
    let v := ival f e
    ElemGives (.vadd f) s f true false (fun _ x y _ => narrow sat uns e (v x + v y)) ∧
    ElemGives (.vsub f) s f true false (fun _ x y _ => narrow sat uns e (v x - v y)) ∧
    ElemGives (.vmul f) s f true false (fun _ x y _ => narrow sat uns e (v x * v y)) ∧
    ElemGives (.vmad f) s f true true (fun _ x y z => narrow sat uns e (v x * v y + v z)) ∧
    ElemGives (.vabs f) s f false false (fun _ x _ _ => narrow sat false e |signed e x|) ∧
    ElemGives (.vneg f) s f false false (fun _ x _ _ => narrow sat false e (-signed e x)) ∧
    ElemGives (.vmulh f) s f true false (fun _ x y _ => ⟨(v x * v y / (2 : Int) ^ e % (2 : Int) ^ e).toNat, 0⟩)

/-- R393, R394: minimum, maximum, logic, shifts, counts, bit fields, select and move, element by element; none raises a flag. -/
def Obligations.LaneIntegerLogic : Prop :=
  ∀ (s : State) (f : LaneFields),
    let e := (intElem f).1
    let sg := signed e
    let q := fun (x : Nat) => (⟨x, 0⟩ : FR)
    let pos := fun (y : Nat) => y % 128
    let len := fun (y : Nat) => y / 256 % 128
    let w := fun (y : Nat) => min (pos y + len y) e - pos y
    let off := fun (y : Nat) => len y = 0 ∨ e ≤ pos y
    ElemGives (.vmin f) s f true false (fun _ x y _ => q (if sg x ≤ sg y then x else y)) ∧
    ElemGives (.vmax f) s f true false (fun _ x y _ => q (if sg y ≤ sg x then x else y)) ∧
    ElemGives (.vminn f) s f true false (fun _ x y _ => q (min x y)) ∧
    ElemGives (.vmaxn f) s f true false (fun _ x y _ => q (max x y)) ∧
    ElemGives (.vand f) s f true false (fun _ x y _ => q (x &&& y)) ∧
    ElemGives (.vor f) s f true false (fun _ x y _ => q (x ||| y)) ∧
    ElemGives (.vxor f) s f true false (fun _ x y _ => q (x ^^^ y)) ∧
    ElemGives (.vnot f) s f false false (fun _ x _ _ => q (2 ^ e - 1 - x)) ∧
    ElemGives (.vshl f) s f true false (fun _ x y _ => q (x <<< (y % e) % 2 ^ e)) ∧
    ElemGives (.vshr f) s f true false (fun _ x y _ => q (x >>> (y % e))) ∧
    ElemGives (.vsra f) s f true false (fun _ x y _ => q ((sg x / (2 : Int) ^ (y % e) % (2 : Int) ^ e).toNat)) ∧
    ElemGives (.vpopc f) s f false false (fun _ x _ _ => q ((List.range e).countP x.testBit)) ∧
    ElemGives (.vclz f) s f false false
      (fun _ x _ _ => q (((List.range e).takeWhile (fun k => !x.testBit (e - 1 - k))).length)) ∧
    ElemGives (.vbfx f) s f true false (fun _ x y _ =>
      q (if off y then 0 else if f.sub.getLsbD 0 then (signed (w y) (x / 2 ^ pos y) % (2 : Int) ^ e).toNat
         else x / 2 ^ pos y % 2 ^ w y)) ∧
    ElemGives (.vbfi f) s f true true (fun _ x y z =>
      q (if off y then z else z - z / 2 ^ pos y % 2 ^ w y * 2 ^ pos y + x % 2 ^ w y * 2 ^ pos y)) ∧
    ElemGives (.vsel f) s f true false (fun k x y _ =>
      q (if laneIn (predMask s (f.sub.toNat % 8)) k = !f.sub.getLsbD 3 then x else y)) ∧
    ElemGives (.vmov f) s f false false (fun _ x _ _ => q x)

/-- R395, R396: the comparisons and predicate logic write predicate d of each active lane, FSETP giving sub[3] for a NaN and INVALID
for a signalling one; PRD packs a lane's predicates; cond 6 and 7 are ILLEGAL_OPERAND. -/
def Obligations.LanePredicates : Prop :=
  ∀ (s : State) (f : LaneFields),
    let n := regsOf f
    let c := f.sub.toNat % 8
    let m := laneMask s f
    let e := 32 * n
    let fmt := (fpElemOf f).2.2
    let r : Roles := ⟨.pred, .src n, .src n, .none⟩
    let iv := fun (x : Nat) => if f.sub.getLsbD 3 then (x : Int) else signed e x
    let fx := fun k => (srcs s f true k).1
    let fy := fun k => (srcs s f true k).2.1
    let nan := fun x => isNan (fdec fmt x)
    let at' := fun (p : BitVec 9) k => laneIn (predMask s p.toNat) (srcLane f m k)
    let none' := fun (_ : Nat) => (0 : Fl)
    (c < 6 → PredGives (.vsetp f) s f r (fun k => condInt c (iv (srcs s f false k).1) (iv (srcs s f false k).2.1)) none') ∧
    (c < 6 → PredGives (.fsetp f) s f r
      (fun k => if nan (fx k) || nan (fy k) then f.sub.getLsbD 3 else condInt c (fvCmp (fdec fmt (fx k)) (fdec fmt (fy k))) 0)
      (fun k => if isSnan (fdec fmt (fx k)) || isSnan (fdec fmt (fy k)) then flInvalid else 0)) ∧
    (6 ≤ c → ∀ i ∈ [Instr.vsetp f, .fsetp f], ∀ l, LaneReady s i f r l →
      exec i s = trapL s s.g.ln.mask 0x01 0 (opDetail 0 f.sub.toNat 0)) ∧
    PredGives (.pand f) s f ⟨.pred, .pred, .pred, .none⟩ (fun k => at' f.a k && at' f.b k) none' ∧
    PredGives (.por f) s f ⟨.pred, .pred, .pred, .none⟩ (fun k => at' f.a k || at' f.b k) none' ∧
    PredGives (.pxor f) s f ⟨.pred, .pred, .pred, .none⟩ (fun k => at' f.a k != at' f.b k) none' ∧
    PredGives (.pnot f) s f ⟨.pred, .pred, .none, .none⟩ (fun k => !at' f.a k) none' ∧
    PredGives (.pmov f) s f ⟨.pred, .src n, .none, .none⟩ (fun k => (srcs s f false k).1 != 0) none' ∧
    LaneGives (.prd f) s f ⟨.dst 1, .none, .none, .none⟩ 1 (quietly (fun k =>
      ((List.range 8).map (fun p => if laneIn (predMask s p) (srcLane f m k) then 2 ^ p else 0)).sum))

/-- R234, R236, R242 to R245, R247, R397: in every format that a lane computes in, FADD, FSUB, FMUL and FFMA deliver the exact sum,
difference, product or product and sum rounded once by the mode, overflowing by mode and saturation, with INEXACT, OVERFLOW and UNDERFLOW
as the rounding decides; a NaN operand, ∞ − ∞ and 0 × ∞ give the default NaN, the last two and a signalling operand with INVALID; an exact
zero is +0 but under RDN where the signs differ. CVT rounds the exact value into its destination. FTZ flushes subnormal operands and
results. The values are rationals, defined apart from the model's own arithmetic. -/
def Obligations.FloatRounding : Prop :=
  (∀ (k : Nat) (v : Env) (a b c : Nat), k < 4 → v.mode < 4 → v.ftz = false →
    a < 2 ^ (fmtOf k).bits → b < 2 ^ (fmtOf k).bits → c < 2 ^ (fmtOf k).bits →
    let f := fmtOf k
    let nan := isNaNOf k
    let inf := isInfOf k
    let sig := isSigOf k
    let neg := negOf f
    let zero := fun p => magOf k p = 0
    let fin := fun p => magOf k p ≤ largestOf k
    let infinity := fun (s : Bool) => (⟨signOnly f s + largestOf k + 1, 0⟩ : FR)
    let pn := neg a != neg b
    let lost := inf a = true ∧ zero b ∨ zero a ∧ inf b = true
    let dflt := fun (i : Bool) => (⟨nanOf k, invalidIf i⟩ : FR)
    (nan a ∨ nan b → fAdd f v a b = dflt (sig a || sig b) ∧ fMul f v a b = dflt (sig a || sig b)) ∧
    (inf a → inf b → fAdd f v a b = if neg a = neg b then infinity (neg a) else dflt true) ∧
    (inf a → fin b → fAdd f v a b = infinity (neg a)) ∧ (fin a → inf b → fAdd f v a b = infinity (neg b)) ∧
    (fin a → fin b → RoundedOnce k v (ratOf f a + ratOf f b) (if neg a = neg b then neg a else decide (v.mode = 3)) (fAdd f v a b)) ∧
    fSub f v a b = fAdd f v a (b ^^^ 2 ^ (f.bits - 1)) ∧
    (¬nan a → ¬nan b → inf a ∨ inf b → fMul f v a b = if zero a ∨ zero b then dflt true else infinity pn) ∧
    (fin a → fin b → RoundedOnce k v (ratOf f a * ratOf f b) pn (fMul f v a b)) ∧
    (nan a ∨ nan b ∨ nan c ∨ lost → (fFma f v a b c).bits = nanOf k ∧
      ((fFma f v a b c).fl = flInvalid ∨ (fFma f v a b c).fl = 0) ∧
      ((fFma f v a b c).fl = flInvalid ↔ sig a ∨ sig b ∨ sig c ∨ lost)) ∧
    (¬nan a → ¬nan b → ¬nan c → ¬lost →
      (inf a ∨ inf b → fFma f v a b c = if inf c = true ∧ neg c ≠ pn then dflt true else infinity pn) ∧
      (fin a → fin b → inf c → fFma f v a b c = infinity (neg c)) ∧
      (fin a → fin b → fin c → RoundedOnce k v (ratOf f a * ratOf f b + ratOf f c)
        (if pn = neg c then pn else decide (v.mode = 3)) (fFma f v a b c)))) ∧
  (∀ (j k : Nat) (v : Env) (a : Nat), j < 6 → k < 6 → v.mode < 4 → v.ftz = false → a < 2 ^ (fmtOf j).bits →
    let r := fConv (fmtOf j) (fmtOf k) v a
    let neg := negOf (fmtOf j) a
    (isNaNOf j a → r = ⟨nanOf k, invalidIf (isSigOf j a)⟩) ∧
    (¬isNaNOf j a → j = k → r = ⟨a, 0⟩) ∧
    (isInfOf j a → j ≠ k → r = if k = 4 then ⟨if v.sat then signOnly fE4M3 neg + largestOf 4 else nanOf 4, flInvalid⟩
      else ⟨signOnly (fmtOf k) neg + largestOf k + 1, 0⟩) ∧
    (magOf j a ≤ largestOf j → j ≠ k → RoundedOnce k v (ratOf (fmtOf j) a) neg r)) ∧
  (∀ (j k : Nat) (v : Env) (a b c : Nat), k < 4 → j < 6 → v.ftz = true →
    a < 2 ^ (fmtOf k).bits → b < 2 ^ (fmtOf k).bits → c < 2 ^ (fmtOf k).bits →
    let f := fmtOf k
    let u := unflushed v
    fAdd f v a b = flushedOut k (fAdd f u (flushed k a) (flushed k b)) ∧
    fMul f v a b = flushedOut k (fMul f u (flushed k a) (flushed k b)) ∧
    fFma f v a b c = flushedOut k (fFma f u (flushed k a) (flushed k b) (flushed k c)) ∧
    fConv f (fmtOf j) v a = flushedOut j (fConv f (fmtOf j) u (flushed k a)))

/-- R242 to R245, R250, R397, R398: the floating-point and special functions compute in the format of their width with the rounding
mode, saturation and FTZ in force, raise the flags of every element, and take FP_EXCEPTION on an enabled one; FloatRounding says what the arithmetic of FADD to FFMA is. The
model's choices in it: log 20 and log 21. -/
def Obligations.LaneFloatingPoint : Prop :=
  ∀ (s : State) (f : LaneFields),
    let v := laneEnv s f
    let one := fun (op : Env → Nat → FR) => fun (_ : Fmt) v x (_ _ : Nat) => op v x
    v = ⟨if f.rnd = 0 then s.g.ln.fmt.toNat / 2 ^ 12 % 4 else f.rnd.toNat, f.sat || s.g.ln.fmt.getLsbD 14, s.g.ln.fmt.getLsbD 15⟩ ∧
    FpGives (.fadd f) s f true false (fun fmt v x y _ => fAdd fmt v x y) ∧
    FpGives (.fsub f) s f true false (fun fmt v x y _ => fSub fmt v x y) ∧
    FpGives (.fmul f) s f true false (fun fmt v x y _ => fMul fmt v x y) ∧
    FpGives (.ffma f) s f true true fFma ∧
    FpGives (.fmin f) s f true false (fun fmt v x y _ => fMinMax fmt v.ftz false x y) ∧
    FpGives (.fmax f) s f true false (fun fmt v x y _ => fMinMax fmt v.ftz true x y) ∧
    FpGives (.fabs f) s f false false (fun fmt v x _ _ => fSignOp fmt v false x) ∧
    FpGives (.fneg f) s f false false (fun fmt v x _ _ => fSignOp fmt v true x) ∧
    FpGives (.fclamp f) s f true true fClamp ∧ FpGives (.frnd f) s f false false (fun fmt v x _ _ => fRnd fmt v x) ∧
    FpGives (.frcp f) s f false false (one sfuRcp) ∧ FpGives (.frsq f) s f false false (one sfuRsq) ∧
    FpGives (.fsqrt f) s f false false (one sfuSqrt) ∧ FpGives (.fdiv f) s f true false (fun _ v x y _ => sfuDiv v x y) ∧
    FpGives (.fex2 f) s f false false (one sfuEx2) ∧ FpGives (.flg2 f) s f false false (one sfuLg2) ∧
    FpGives (.fsin f) s f false false (one sfuSin) ∧ FpGives (.fcos f) s f false false (one sfuCos) ∧
    FpGives (.ftanh f) s f false false (one sfuTanh)

/-- R247, R249, R251, R399 to R406: the conversions between formats and integers, PACK, UNPACK and QSCALE, and the dot products with
their one rounding or integer sum; the reserved sub values are ILLEGAL_OPERAND. The model's choices in it: log 23 and log 25. -/
def Obligations.LaneConversionsAndDots : Prop :=
  ∀ (s : State) (f : LaneFields),
    let sb := fun (lo n : Nat) => fld f.sub.toNat lo n
    let regs := fun (c : Nat) => if c = 1 then 2 else 1
    let cut := fun (c x : Nat) => x % 2 ^ (fmtOf c).bits
    let r2 := fun (d a : Nat) => (⟨.dst d, .src a, .none, .none⟩ : Roles)
    let lit := fun (fl : Bool) (n : Nat) => literal fl (if n = 2 then 1 else 0) f.imm
    let src := sb 3 3
    let dst := sb 0 3
    let fc := sb 2 3
    let ni := if f.sub.getLsbD 1 then 2 else 1
    let up := f.sub.getLsbD 5
    let uns := f.sub.getLsbD 0
    let k := sb 0 2
    let m := sb 0 3
    let ab8 := f.sub.getLsbD 0
    let nb := if ab8 then 5 else 3
    let fa := sb 0 2
    let fb := sb 2 2
    let el16 := fun (x j : Nat) => fld x (16 * j) 16
    let el8 := fun (x j : Nat) => fld x (8 * j) 8
    let iv := fun (u : Bool) (b x : Nat) => if u then (x : Int) else signed b x
    let f2 := if f.width = 2 then fBF16 else fF16
    (dst < 6 → src < 6 → ConvGives (.cvt f) s f (r2 (regs dst) (regs src)) (regs dst) (regs src) 1 (lit true (regs src))
      (fun v x _ _ => fConv (fmtOf src) (fmtOf dst) v (cut src x))) ∧
    (fc < 6 → up = true → ConvGives (.cvti f) s f (r2 (regs fc) ni) (regs fc) ni 1 (lit false ni)
      (fun v x _ _ => ofInt (fmtOf fc) v (iv uns (32 * ni) (x % 2 ^ (32 * ni))))) ∧
    (fc < 6 → up = false → ConvGives (.cvti f) s f (r2 ni (regs fc)) ni (regs fc) 1 (lit true (regs fc)) (fun v x _ _ =>
      let z := toInt (32 * ni) (!uns) v.mode (fdec (fmtOf fc) (ftzIn (fmtOf fc) v.ftz (cut fc x)))
      ⟨(z.1 % (2 : Int) ^ (32 * ni)).toNat, z.2⟩)) ∧
    ((2 ≤ k ∨ f.sub.getLsbD 2 = false) →
      ConvGives (.pack f) s f ⟨.dst 1, .src 1, .src 1, if k < 2 then .none else .src 1⟩ 1 1 1 (lit true 1) (packVal k (sb 2 1))) ∧
    ((2 ≤ k ∨ sb 2 2 < 2) → ConvGives (.unpack f) s f (r2 1 1) 1 1 1 (lit true 1) (fun v x _ _ => unpackVal k (sb 2 2) v x)) ∧
    (m < 4 → ConvGives (.qscale f) s f
      ⟨.dst 1, .src 1, if m = 2 then .none else .src 1, if 2 ≤ m then .none else .src 1⟩ 1 1 1 (lit true 1)
      (scaleVal m (f.sub.getLsbD 3))) ∧
    ConvGives (.dotn f) s f ⟨.dst 1, .reg nb, .reg nb, .src 1⟩ 1 nb nb f.imm.toNat
      (fun v x y c => dotFloat v c ((blockElems ab8 x).zip (blockElems ab8 y))) ∧
    (f.sub.getLsbD 0 = true → ConvGives (.dot2 f) s f ⟨.dst 1, .src 1, .src 1, .src 1⟩ 1 1 1 f.imm.toNat (fun _ x y c =>
      let p := fun j => iv (f.sub.getLsbD 1) 16 (el16 x j) * iv (f.sub.getLsbD 2) 16 (el16 y j)
      narrow (satOn s f) false 32 (signed 32 c + p 0 + p 1))) ∧
    (f.sub.getLsbD 0 = false → ConvGives (.dot2 f) s f ⟨.dst 1, .src 1, .src 1, .src 1⟩ 1 1 1 f.imm.toNat (fun v x y c =>
      dotFloat v c ([0, 1].map (fun j => (fdec f2 (ftzIn f2 v.ftz (el16 x j)), fdec f2 (ftzIn f2 v.ftz (el16 y j))))))) ∧
    (fa < 2 → fb < 2 → ConvGives (.dot4 f) s f ⟨.dst 1, .src 1, .src 1, .src 1⟩ 1 1 1 f.imm.toNat (fun _ x y c =>
      let p := fun j => iv (fa == 1) 8 (el8 x j) * iv (fb == 1) 8 (el8 y j)
      narrow (satOn s f) false 32 (signed 32 c + p 0 + p 1 + p 2 + p 3))) ∧
    (2 ≤ fa → 2 ≤ fb → ConvGives (.dot4 f) s f ⟨.dst 1, .src 1, .src 1, .src 1⟩ 1 1 1 f.imm.toNat (fun v x y c =>
      dotFloat v c ([0, 1, 2, 3].map (fun j =>
        (quietFV (fdec (fmtOf (fa + 2)) (el8 x j)), quietFV (fdec (fmtOf (fb + 2)) (el8 y j))))))) ∧
    (∀ l, (6 ≤ dst ∨ 6 ≤ src) → LaneReady s (.cvt f) f (r2 (regs dst) (regs src)) l →
      exec (.cvt f) s = trapL s s.g.ln.mask 0x01 0 (opDetail 0 f.sub.toNat 0)) ∧
    (∀ l, (fa < 2 ∧ 2 ≤ fb ∨ 2 ≤ fa ∧ fb < 2) → LaneReady s (.dot4 f) f ⟨.dst 1, .src 1, .src 1, .src 1⟩ l →
      exec (.dot4 f) s = trapL s s.g.ln.mask 0x01 0 (opDetail 0 f.sub.toNat 0))

/-- R407 to R410: shuffles move a from a lane of the segment whether it is active or not; reductions and scans combine the active
lanes of a segment in increasing order; BALLOT and the votes test a of the active lanes. A segment code that the width does not
admit is ILLEGAL_OPERAND. The model's choices in it: log 71 and log 72. -/
def Obligations.LaneCrossing : Prop :=
  ∀ (s : State) (f : LaneFields),
    let n := regsOf f
    let z := segOf s f
    let m := laneMask s f
    let lit := literal false f.width.toNat f.imm
    let a := fun k => operand s.g f.a n lit (vqVals s f).1 k
    let base := fun k => k - k % z
    let low := (lowLane m).getD 0
    let ex := f.sub.getLsbD 5
    (segFits s f → ShuffleGives (.shfl f) s f (fun k i => base k + i % z) ∧
      ShuffleGives (.shflup f) s f (fun k i => if base k + i ≤ k then k - i else k) ∧
      ShuffleGives (.shfldn f) s f (fun k i => if k + i < base k + z then k + i else k) ∧
      ShuffleGives (.shflx f) s f (fun k i => base k + ((k - base k) ^^^ (i % z)))) ∧
    ShuffleGives (.bcast f) s f (fun _ _ => operand s.g f.b n lit (vqVals s f).2.1 low % s.g.width) ∧
    ReduceGives (.redsum f) s f 0 0 0 ∧ ReduceGives (.redmin f) s f 1 0 0 ∧ ReduceGives (.redmax f) s f 2 0 0 ∧
    ReduceGives (.scanadd f) s f 0 (if ex then 2 else 1) (identityOf f false) ∧
    ReduceGives (.scanmax f) s f 2 (if ex then 2 else 1) (identityOf f true) ∧
    LaneGives (.ballot f) s f ⟨.dst n, .src n, .none, .none⟩ n (quietly (fun _ =>
      ((List.range 64).map (fun k => if laneIn m k && a k != 0 then 2 ^ k else 0)).sum)) ∧
    (segFits s f →
      PredGives (.voteany f) s f ⟨.pred, .src n, .none, .none⟩ (fun k => (segLanes s f z k).any (fun u => a u != 0)) (fun _ => 0) ∧
      PredGives (.voteall f) s f ⟨.pred, .src n, .none, .none⟩ (fun k => (segLanes s f z k).all (fun u => a u != 0)) (fun _ => 0)) ∧
    (¬segFits s f → ∀ c, ∀ i ∈ [Instr.shfl f, .shflup f, .shfldn f, .shflx f],
      LaneReady s i f ⟨.dst n, .src n, .src n, .none⟩ c → exec i s = trapL s s.g.ln.mask 0x01 0 (opDetail 0 f.sub.toNat 0))

/-- R73, R411 to R414: RNG writes Philox-4x32-10 words and advances the counter once for a mask that is not empty; LPUSH pushes a of
the lowest active lane and waits for room; VQPOP gives every active lane one VQ entry and waits for one; RDSR reads the special
registers, SR_FMT, SR_ALLOT and SR_BND as the run's; LNOP only passes. The model's choices in it: log 50 and log 70. -/
def Obligations.LaneMiscellany : Prop :=
  ∀ (s : State) (f : LaneFields) (c : LaneCtx),
    let n := regsOf f
    let m := laneMask s f
    let ctr := s.g.ln.rng
    let w := f.sub.toNat % 4 + 1
    let draw := fun k =>
      let x := philoxRounds 10 (BitVec.ofNat 32 (vget s.g f.a.toNat k)) (BitVec.ofNat 32 (vget s.g (f.a.toNat + 1) k))
        (BitVec.ofNat 32 k, ctr.extractLsb' 0 32, ctr.extractLsb' 32 32, BitVec.ofNat 32 s.g.id.group)
      x.1.toNat + 2 ^ 32 * x.2.1.toNat + 2 ^ 64 * x.2.2.1.toNat + 2 ^ 96 * x.2.2.2.toNat
    let s' := if m = 0 then s else { s with g := { s.g with ln := { s.g.ln with rng := ctr + 1 } } }
    let rp : Roles := ⟨.none, .src n, .none, .none⟩
    let rv : Roles := ⟨.dst n, .none, .none, .none⟩
    let v := (lowLane m).elim 0 (fun k => operand s.g f.a n 0 (vqVals s f).1 k)
    let idx := f.imm.toNat % 2 ^ 14
    (s.g.id.group < 2 ^ 32 → LaneReady s (.rng f) f ⟨.dst w, .reg 2, .none, .none⟩ c →
      ∃ t, exec (.rng f) s = .next t ∧ LaneDone s' t f 0 ∧ LanePure s t ∧ LaneWrites s t f w m draw ∧ t.g.fpstat = s.g.fpstat) ∧
    (LaneReady s (.lpush f) f rp c → skipQ s = false →
      (s.g.q.rq.length < 8 → quiet s .lane = true → ∃ t, exec (.lpush f) s = .next t ∧ LanePure s t ∧ t.g.ln.v = s.g.ln.v ∧
        t.g.ln.preds = s.g.ln.preds ∧
        LaneDone { s with g := { s.g with q := { s.g.q with rq := s.g.q.rq ++ [BitVec.ofNat 64 v] } } } t f (vqFields f rp)) ∧
      (8 ≤ s.g.q.rq.length ∨ quiet s .lane = false → exec (.lpush f) s = .next s)) ∧
    (LaneReady s (.vqpop f) f rv c → skipQ s = false →
      (s.g.q.vq = [] → exec (.vqpop f) s = .next s) ∧
      (∀ x l, s.g.q.vq = x :: l → ∃ t, exec (.vqpop f) s = .next t ∧ LanePure s t ∧ LaneWrites s t f n m (fun _ => x.toNat) ∧
        LaneDone { s with g := { s.g with q := { s.g.q with vq := l } } } t f 0)) ∧
    (skipQ s = true → (LaneReady s (.lpush f) f rp c → ∃ t, exec (.lpush f) s = .next t ∧ LanePure s t ∧ LaneDone s t f 0) ∧
      (LaneReady s (.vqpop f) f rv c → ∃ t, exec (.vqpop f) s = .next t ∧ LanePure s t ∧ LaneDone s t f 0)) ∧
    (∀ x, f.imm.toNat < 2 ^ 14 → (if idx = 0x010 then some (s.g.ln.fmt.zeroExtend 64) else if idx = 0x011 then some (BitVec.ofNat 64 s.g.ln.runAllot)
        else if idx = 0x012 then some (BitVec.ofNat 64 s.g.ln.runBnd) else specialReg s idx) = some x →
      LaneGives (.rdsr f) s f rv n (quietly (fun _ => x.toNat))) ∧
    LaneGives (.lnop f) s f noRoles 1 (quietly (fun _ => 0))

/-- R77, R90 to R97, R415, R416: LBR goes on in order with no lane taken, jumps with every lane taken, and otherwise parks the lanes
that fall through on the stack, STACK_SPILL at a depth of 256 or where 32 entries are held and the spill fails; LJMP jumps; LBREAK parks its lanes at the reconvergence index; LEXIT
retires its lanes from the mask and every entry. The model's choices in it: log 19 and log 73. -/
def Obligations.LaneBranches : Prop :=
  ∀ (s : State) (f : LaneFields) (c : LaneCtx),
    let x := s.g.ln
    let taken := if skipL s then 0 else x.mask &&& guardMask s f
    let rest := x.mask &&& ~~~taken
    let target := f.imm.toNat / 2 ^ 16
    let rec' := f.imm.setWidth 16
    let next := x.lpc + 1
    let ready := fun (i : Instr) => LaneReady s i f noRoles c
    let room := x.stack.length < 256 ∧ (x.stack.length < 32 ∨ s.inp.ecc ≠ .spill)
    let goes := fun (i : Instr) (m q : BitVec 64) (k : List StackEntry) (dest : Nat) => ∃ t, exec i s = .next t ∧ BranchDone s t m q k dest
    let parked : StackEntry := ⟨rest, false, x.fmt.setWidth 24, BitVec.ofNat 16 next, rec'⟩
    let broke : StackEntry := ⟨taken, true, x.fmt.setWidth 24, 0, rec'⟩
    let spills := fun (i : Instr) => s.tm.kernel.legacy = false → ∃ a, exec i s = trapL { s with free := s.free + 1 } x.mask 0x14 a 0
    (ready (.lbr f) →
      (taken = 0 → goes (.lbr f) x.mask x.retired x.stack next) ∧
      (taken ≠ 0 → taken = x.mask → goes (.lbr f) x.mask x.retired x.stack target) ∧
      (taken ≠ 0 → taken ≠ x.mask → room → goes (.lbr f) taken x.retired (parked :: x.stack) target) ∧
      (taken ≠ 0 → taken ≠ x.mask → ¬room → spills (.lbr f))) ∧
    (ready (.ljmp f) → goes (.ljmp f) x.mask x.retired x.stack (if taken = 0 then next else target)) ∧
    (ready (.lbreak f) →
      (taken = 0 → goes (.lbreak f) x.mask x.retired x.stack next) ∧
      (∀ top more, taken ≠ 0 → x.stack = top :: more → top.phase = true → top.reconv = rec' →
        goes (.lbreak f) rest x.retired ({ top with mask := top.mask ||| taken } :: more) next) ∧
      (taken ≠ 0 → (∀ top more, x.stack = top :: more → top.phase = false ∨ top.reconv ≠ rec') →
        (room → goes (.lbreak f) rest x.retired (broke :: x.stack) next) ∧
        (¬room → spills (.lbreak f)))) ∧
    (ready (.lexit f) → goes (.lexit f) rest (x.retired ||| taken)
      (x.stack.map (fun e => { e with mask := e.mask &&& ~~~taken })) next)

/-- R419 to R426, R431: LD gives each active lane the bytes at its address, ST stores each lane's bytes in some order of the lanes,
OST and OLD access an operand slot that is READY or CLAIMED and wait for one that is filling or in use and for an acquire before them, a
constant load's bytes may lie in two pages, PREF changes no register and
no byte; an empty mask accesses nothing, and a misaligned lane is MISALIGNED. A load may read its core's L1 copy where one stands, and an
acquire beyond the core leaves no line there (R109). The model's choices in it: log 7, log 10, log 22, log 79 and log 106. -/
def Obligations.LaneLoadsAndStores : Prop :=
  ∀ (s : State) (f : LaneFields) (c : LaneCtx) (l : Nat → Loc),
    let n := mBytes f
    let k := max 1 (n / 4)
    let m := laneMask s f
    let ext := f.sub.getLsbD 0
    let slot := f.sub.toNat % 16
    let rd := (⟨.dst k, .reg 2, .none, .none⟩ : Roles)
    let rs := (⟨.none, .reg 2, .regZ k, .none⟩ : Roles)
    let ro := (⟨.none, .reg 1, .regZ k, .none⟩ : Roles)
    let rl := (⟨.dst k, .reg 1, .none, .none⟩ : Roles)
    let val := fun j => operand s.g f.b k 0 0 j % 2 ^ (8 * n)
    let own := fun j v => (l j).scratch = false ∧ ordOf f ≠ 3 ∧ v = l1Read s s.g.core (l j).addr n
    let ld := fun (v : Nat) =>
      if ext = true ∧ n = 1 then ((BitVec.ofNat 8 v).signExtend 32).toNat
      else if ext = true ∧ n = 2 then ((BitVec.ofNat 16 v).signExtend 32).toNat else v
    let same := fun (t : State) => (∀ sc odd a, bytesOf t sc odd a = bytesOf s sc odd a) ∧ t.g.fpstat = s.g.fpstat
    let noRegs := fun (t : State) => t.g.ln.v = s.g.ln.v ∧ t.g.ln.preds = s.g.ln.preds
    (LaneReady s (.ld f) f rd c → LanePlain (withLane s c) f n false l → s.g.en.ld < 255 →
      ∃ (t : State) (v : Nat → Nat), exec (.ld f) s = .next t ∧ LaneDone s t f 0 ∧ LaneWrites s t f k m (fun j => ld (v j)) ∧ same t ∧
        (∀ j, laneIn m j = true → v j = look s (bytesOf s) (l j) n ∨ own j (v j)) ∧
        (m ≠ 0 → ordOf f = 1 → wide s (BitVec.ofNat 3 (mScope f)) → (coreOf t s.g.core).l1 = [])) ∧
    (∀ h, LaneReady s (.ld f) f rd c → ConstPlain (withLane s c) f n l h → s.g.en.ld < 255 →
      ∃ (t : State) (v : Nat → Nat), exec (.ld f) s = .next t ∧ LaneDone s t f 0 ∧ LaneWrites s t f k m (fun j => ld (v j)) ∧ same t ∧
        ∀ j, laneIn m j = true → v j < 256 ^ n ∧ ∀ b, b < n →
          v j / 256 ^ b % 256 = (mget s.mem (constByte s f l h j b)).toNat ∨
          v j / 256 ^ b % 256 = l1Read s s.g.core (constByte s f l h j b) 1) ∧
    (LaneReady s (.st f) f rs c → LanePlain (withLane s c) f n true l → s.g.en.st < 255 →
      ∃ (t : State) (order : List Nat), exec (.st f) s = .next t ∧ LaneDone s t f 0 ∧ noRegs t ∧ order.Perm (lanesOf m) ∧
        ∀ sc odd a, bytesOf t sc odd a = storesIn s l n val order sc odd a) ∧
    (LaneReady s (.ost f) f ro c → (slotOf s.tm slot).st ≠ .free → m ≠ 0 → (∀ j, laneIn m j = true → slotFits s f n j) →
      ((slotOf s.tm slot).st = .filling ∨ (slotOf s.tm slot).st = .inUse ∨ acquireDue s .lane = true → exec (.ost f) s = .next s) ∧
      ((slotOf s.tm slot).st = .claimed ∨ (slotOf s.tm slot).st = .ready → acquireDue s .lane = false →
        ∃ (t : State) (order : List Nat), exec (.ost f) s = .next t ∧ LaneDone s t f 0 ∧ noRegs t ∧ t.mem = s.mem ∧ order.Perm (lanesOf m) ∧
          (slotOf t.tm slot).st = .ready ∧
          (slotOf t.tm slot).data = order.foldl (fun d j => mwrite d (slotOff s.g f j) n (val j)) (slotOf s.tm slot).data ∧
          ∀ j, j ≠ slot → slotOf t.tm j = slotOf s.tm j)) ∧
    (LaneReady s (.old f) f rl c → (slotOf s.tm slot).st ≠ .free → m ≠ 0 → (∀ j, laneIn m j = true → slotFits s f n j) →
      ((slotOf s.tm slot).st = .filling ∨ (slotOf s.tm slot).st = .inUse ∨ acquireDue s .lane = true → exec (.old f) s = .next s) ∧
      ((slotOf s.tm slot).st = .claimed ∨ (slotOf s.tm slot).st = .ready → acquireDue s .lane = false →
        ∃ t, exec (.old f) s = .next t ∧ LaneDone s t f 0 ∧ LanePure s t ∧
          LaneWrites s t f k m (fun j => mread (slotOf s.tm slot).data (slotOff s.g f j) n))) ∧
    (LaneReady s (.pref f) f ⟨.none, .reg 2, .none, .none⟩ c → mSpace f = 0 →
      ∃ t, exec (.pref f) s = .next t ∧ LaneDone s t f 0 ∧ LanePure s t ∧ noRegs t) ∧
    (m = 0 → (LaneReady s (.ld f) f rd c → ∃ t, exec (.ld f) s = .next t ∧ LaneDone s t f 0 ∧ LanePure s t ∧ noRegs t) ∧
      (LaneReady s (.st f) f rs c → ∃ t, exec (.st f) s = .next t ∧ LaneDone s t f 0 ∧ LanePure s t ∧ noRegs t)) ∧
    (s.tm.kernel.legacy = false → (∀ j, laneIn m j = true → laneAddr s.g f j % n ≠ 0) → m ≠ 0 →
      ∀ a, (lowLane m).map (laneAddr s.g f) = some a →
        (LaneReady s (.ld f) f rd c → exec (.ld f) s = trapL s m 0x03 a (det [(0, m.toNat)])) ∧
        (LaneReady s (.st f) f rs c → exec (.st f) s = trapL s m 0x03 a (det [(0, m.toNat)])))

/-- R427, R428: ATOM, ATOMC and RED perform each active lane's read-modify-write in some order of the lanes; ATOM and ATOMC write
the old values to d; a compare that fails stores nothing. The model's choices in it: log 7, log 10 and log 77. -/
def Obligations.LaneAtomics : Prop :=
  ∀ (s : State) (f : LaneFields),
    let n := mBytes f
    let b := 8 * n
    let fmt := if n = 4 then fF32 else fF64
    let sg := signed b
    let ops : List (Nat → Nat → Nat) :=
      [fun x y => (x + y) % 2 ^ b, fun x y => if sg x ≤ sg y then x else y, fun x y => if sg y ≤ sg x then x else y,
       fun x y => min x y, fun x y => max x y, fun x y => x &&& y, fun x y => x ||| y, fun x y => x ^^^ y, fun _ y => y,
       fun x y => rneAdd fmt x y, fun x y => (fMinMax fmt false false x y).bits, fun x y => (fMinMax fmt false true x y).bits]
    (∀ op, ops[f.sub.toNat]? = some op →
      AtomicGives (.atom f) s f true false (fun x y _ => some (op x y)) ∧
      AtomicGives (.red f) s f false false (fun x y _ => some (op x y))) ∧
    AtomicGives (.atomc f) s f true true (fun x y e => if x = e then some y else none)

/-- R196, R197, R200, R429, R430: LCOPY and LCOPYO issue one copy of every active lane's bytes, counted once in CP, and d is written
only when it ends; AMOVR and AMOVW move one word of a tile's registers in each active lane and wait for the tile's commands. The
model's choices in it: log 24 and log 75. -/
def Obligations.LaneCopiesAndTileMoves : Prop :=
  ∀ (s : State) (f : LaneFields) (c : LaneCtx),
    let n := mBytes f
    let m := laneMask s f
    let sp := f.sub.toNat % 4
    let slot := f.sub.toNat % 16
    let per := 1024 / s.g.width
    let reg := s.g.bnd + slot * per + f.imm.toNat
    let rc : Roles := ⟨.dst 2, .reg 2, .reg 2, .none⟩
    let ro : Roles := ⟨.dst 2, .reg 2, .reg 1, .none⟩
    let srcOk := fun j => copyReach n (mSpace f) (withLane s c) (laneAddr s.g f j) = .ok (laneAddr s.g f j) (withLane s c)
    let noRegs := fun (t : State) => t.g.ln.v = s.g.ln.v ∧ t.g.ln.preds = s.g.ln.preds
    let issued := fun (t : State) (kind : CopyKind) => ∃ x : Copy, x.kind = kind ∧ x.dst = f.d.toNat ∧ x.started = false ∧
      x.sup = s.g.sup ∧ LaneDone { s with g := { s.g with en := { s.g.en with cp := s.g.en.cp + 1, copies := s.g.en.copies ++ [x] } } }
        t f 0 ∧ LanePure s t ∧ noRegs t
    (LaneReady s (.lcopy f) f rc c → sp < 2 → m ≠ 0 → quiet s .lane = true →
      (∀ j, laneIn m j = true → srcOk j ∧
        copyReach n sp (withLane s c) (vgetN s.g f.b.toNat j 2) = .ok (vgetN s.g f.b.toNat j 2) (withLane s c)) →
      (s.g.en.cp < 255 → ∃ t, exec (.lcopy f) s = .next t ∧
        issued t (.lanes n sp ((lanesOf m).map (fun j => ⟨j, laneAddr s.g f j, mSpace f, vgetN s.g f.b.toNat j 2⟩)))) ∧
      (255 ≤ s.g.en.cp → exec (.lcopy f) s = .next s)) ∧
    (LaneReady s (.lcopyo f) f ro c → (slotOf s.tm slot).st ≠ .free → m ≠ 0 → quiet s .lane = true →
      (∀ j, laneIn m j = true → srcOk j ∧ vget s.g f.b.toNat j % n = 0 ∧ vget s.g f.b.toNat j + n ≤ 16384) →
      (s.g.en.cp < 255 → ∃ t, exec (.lcopyo f) s = .next t ∧
        issued t (.slot n slot ((lanesOf m).map (fun j => ⟨j, laneAddr s.g f j, mSpace f, vget s.g f.b.toNat j⟩)))) ∧
      (255 ≤ s.g.en.cp → exec (.lcopyo f) s = .next s)) ∧
    (s.tm.kernel.legacy = false → s.g.bnd + (slot + 1) * per ≤ s.g.allot → f.imm.toNat < per →
      (m = 0 ∨ tilesBusy s [slot] = false) →
      LaneGives (.amovr f) s f ⟨.dst 1, .none, .none, .none⟩ 1 (quietly (fun j => vget s.g reg j)) ∧
      (LaneReady s (.amovw f) f ⟨.none, .mem 1, .none, .none⟩ c →
        ∃ t, exec (.amovw f) s = .next t ∧ LaneDone s t f (vqFields f ⟨.none, .mem 1, .none, .none⟩) ∧ LanePure s t ∧
          t.g.ln.preds = s.g.ln.preds ∧
          (∀ j, j < 64 → laneIn m j = true → vget t.g reg j = operand s.g f.a 1 0 (vqVals s f).1 j) ∧
          (∀ r j, j < 64 → (r ≠ reg ∨ laneIn m j = false) → vget t.g r j = vget s.g r j))) ∧
    (s.tm.kernel.legacy = false → m ≠ 0 → tilesBusy s [slot] = true → s.g.bnd + (slot + 1) * per ≤ s.g.allot → f.imm.toNat < per →
      LaneReady s (.amovr f) f ⟨.dst 1, .none, .none, .none⟩ c → exec (.amovr f) s = .next s)

namespace Sys2Proof.Claims

/-- Core `c` becomes `x`, and nothing else of the machine changes. -/
structure CoreBecomes (s t : State) (c : Nat) (x : Core) : Prop where
  it : coreOf t c = x
  others : ∀ n, n ≠ c → coreOf t n = coreOf s n
  rest : t = { s with cores := t.cores }

/-- Partition `n` becomes `p`, and nothing else of the machine changes. -/
structure PartBecomes (s t : State) (n : Nat) (p : Partition) : Prop where
  it : findPart t n = some p
  others : ∀ m, m ≠ n → findPart t m = findPart s m
  rest : t = { s with pt := t.pt, parts := t.parts }

/-- The event completes with partition `n` changed by `f`, and nothing else. -/
def PartGives (i : Instr) (s : State) (n : Nat) (p : Partition) : Prop := ∃ t, exec i s = .next t ∧ PartBecomes s t n p

/-- The event completes with only core `c` changed, to `x`. -/
def CoreGives (i : Instr) (s : State) (c : Nat) (x : Core) : Prop := ∃ t, exec i s = .next t ∧ CoreBecomes s t c x

/-- A core's share may have lost its mark of a core that asked while it was not cool (R58), and nothing else. -/
def coolerShare (a b : Option Share) : Prop := b = a ∨ ∃ h, a = some h ∧ b = some { h with hot := false }

/-- The event completes with core `c` at `x`, but that a share on its twin may have become one that any core could hold, and with the
time since when the core's partition has had no idle cool core (R58); nothing else changes. -/
structure CorePlaced (s t : State) (c : Nat) (x : Core) : Prop where
  it : ∃ sh, coreOf t c = { x with share := sh } ∧ coolerShare x.share sh
  even : c % 2 = 1 → ∃ sh, coreOf t (c - 1) = { coreOf s (c - 1) with share := sh } ∧ coolerShare (coreOf s (c - 1)).share sh
  others : ∀ n, n ≠ c → n ≠ c - c % 2 → coreOf t n = coreOf s n
  owner : ∀ p, ownerOf s c = some p → findPart s p.num = some p → (∀ o ∈ allParts s, o.num = p.num → o = p) →
    findPart t p.num = some (if idleCool t p then { p with hotSince := none, hotMayAsk := false }
      else { p with hotSince := some (p.hotSince.getD s.dev.gtc) })
  parts : ∀ m, (∀ p, ownerOf s c = some p → m ≠ p.num) → findPart t m = findPart s m
  rest : t = { s with cores := t.cores, pt := t.pt, parts := t.parts }

/-- The event completes so. -/
def PlaceGives (i : Instr) (s : State) (c : Nat) (x : Core) : Prop := ∃ t, exec i s = .next t ∧ CorePlaced s t c x

/-- Group `id` belongs to a team that has a group present on core `c`. -/
def teamOn (s : State) (c : Nat) (part task team : Nat) : Prop :=
  ∃ h ∈ allGroups s, h.core = c ∧ h.saved = false ∧ h.id.part = part ∧ h.id.task = task ∧ h.id.team = team

/-- A core's errors of one structure within 2^30 ns, this one included (R269). -/
def ceList (s : State) (c k : Nat) : List (Nat × Nat) :=
  (coreOf s c).ceTimes.filter (fun e => e.1 != k || decide (s.dev.gtc.toNat < e.2 + 2 ^ 30)) ++ [(k, s.dev.gtc.toNat)]

/-- The core's clock lags a slice's M by more than 2^40 in serial order (R184). -/
def lags (l m : BitVec 48) : Prop := 2 ^ 40 < (m - l).toNat ∧ (m - l).toNat < 2 ^ 47

end Sys2Proof.Claims

/-- R22, R25, R26, R57, R184, R269, R270: GTC is set once before the first CREATE, in recovery mode not at all, and slewed by at most 200 ppm; the sensors set a
core's TEMP, HOT, PROC, DROOPS and DROOPY by their thresholds, a trip stops issue everywhere, errors in core structures count and
start self-tests, several at a time if need be, whose pause counts towards no watchdog, a failed test retires the twin once its teams are saved, and lagging sc clocks rise. The model's choices in it: log 52 and log 93. -/
def Obligations.SensorsAndReliability : Prop :=
  ∀ s : State,
    let c := s.inp.core
    let k := s.inp.idx
    let now := s.dev.gtc.toNat
    let x := coreOf s c
    let temp := BitVec.ofNat 16 s.inp.word.toNat
    let droops := x.droopTimes.filter (fun t => now ≤ t + 1000000) ++ [now]
    let errs := ceList s c k
    let more := if k ∈ x.testing then x.testing else k :: x.testing
    let left := x.testing.filter (fun j => j != k)
    let test := if 16 ≤ (errs.filter (fun e => e.1 == k)).length then more else x.testing
    (c < 216 →
      (∃ hot, PlaceGives .tempRefresh s c { x with temp := temp, hot := hot } ∧ (ownerOf s c = none → hot = x.hot) ∧
        ∀ p, ownerOf s c = some p →
          (4 * (p.thot.toNat : Int) ≤ temp.toInt → hot = true) ∧
          (temp.toInt ≤ 4 * ((p.thot.toNat : Int) - 6) → hot = false) ∧
          (4 * ((p.thot.toNat : Int) - 6) < temp.toInt → temp.toInt < 4 * (p.thot.toNat : Int) → hot = x.hot)) ∧
      CoreGives .monitorRefresh s c { x with
        proc := BitVec.ofNat 32 s.inp.word.toNat
        droops := BitVec.ofNat 8 (min 255 (x.droopTimes.filter (fun t => now < t + 1000000)).length) } ∧
      PlaceGives .voltageDroopEvent s c { x with droopTimes := droops, droopy := x.droopy || decide (4 ≤ droops.length) }) ∧
    (x.droopy = true → (∀ t ∈ x.droopTimes, t + 4000000 ≤ now) → PlaceGives .droopyExit s c { x with droopy := false }) ∧
    (x.droopy = false ∨ (∃ t ∈ x.droopTimes, now < t + 4000000) → exec .droopyExit s = .next s) ∧
    (∃ t r, exec .thermalTrip s = .next t ∧ t.dev.tripped = true ∧ canIssue t = false ∧
      t.dev.mgmtOut = s.dev.mgmtOut ++ [r] ∧ r.type = 0x0009 ∧ r.source = c) ∧
    (∃ t, exec .powerThrottle s = .next t ∧ t = { s with dev := { s.dev with throttled := s.inp.flag } }) ∧
    (∃ t, exec .ceCore s = .next t ∧ (coreOf t c).testing = test ∧
      ((ownerOf s c = none ∨ ∃ p, ownerOf s c = some p ∧ findPart s p.num = some p ∧ sevAction p 0x20 c = 0) →
        CoreBecomes s t c { x with ceTimes := errs, testing := test })) ∧
    (∃ t, exec .ueCore s = .next t ∧ (coreOf t c).testing = more ∧
      (ownerOf s c = none → CoreBecomes s t c { x with testing := more }) ∧
      ∀ p, ownerOf s c = some p → findPart s p.num = some p → sevAction p 0x21 c = 3 →
        ∀ id ∈ s.inp.groups, ∀ g, findGroup s id = some g → g.core = c → g.saved = false → g.ended = false →
          ∃ g', findGroup t id = some g' ∧ g'.killed = true) ∧
    (k ∉ x.testing → exec .selfTestComplete s = .next s) ∧
    (k ∈ x.testing → s.inp.flag = false → ∃ t, exec .selfTestComplete s = .next t ∧
      coreOf t c = { x with testing := left, ceTimes := x.ceTimes.filter (fun e => e.1 != k) } ∧
      (∀ n, n ≠ c → coreOf t n = coreOf s n) ∧
      t = { s with cores := t.cores, g := t.g, groups := t.groups, tm := t.tm, teams := t.teams } ∧
      (∀ id g, findGroup s id = some g →
        (teamOn s c id.part id.task id.team → findGroup t id = some { g with
          waits := if g.ended = true then [(.ended, s.dev.gtc)] else [], drainAt := s.dev.gtc }) ∧
        (¬teamOn s c id.part id.task id.team → findGroup t id = some g)) ∧
      ∀ part task team m, findTeam s part task team = some m →
        (teamOn s c part task team → findTeam t part task team = some { m with startGtc := s.dev.gtc }) ∧
        (¬teamOn s c part task team → findTeam t part task team = some m)) ∧
    (k ∈ x.testing → s.inp.flag = true → ∃ t, exec .selfTestComplete s = .next t ∧ c / 2 ∈ t.dev.retired ∧
      (coreOf t c).testing = left ∧
      ((coreOf t (c / 2 * 2)).retiring = true → ∃ m ∈ allTeams t, m.saved = false ∧ (m.core / 2 = c / 2 ∨ m.twin = true)) ∧
      ∀ p, ownerOf s c = some p → (coreOf t (c / 2 * 2)).retiring = false →
        ∀ p', findPart t p.num = some p' → c / 2 ∉ p'.twins) ∧
    (∃ t, exec .scClockRaise s = .next t ∧ t = { s with cores := t.cores } ∧ ∀ n, n < 216 →
      ((∀ e ∈ s.dev.sliceM, e.1 / 64 = n / 108 → ¬ lags (coreOf s n).clock e.2) → coreOf t n = coreOf s n) ∧
      ∀ h m, s.dev.sliceM = [(h, m)] → h / 64 = n / 108 → lags (coreOf s n).clock m →
        coreOf t n = { coreOf s n with clock := m }) ∧
    (∃ t, exec .gtcFirmwareSet s = .next t ∧ t = { s with dev := { s.dev with gtc := t.dev.gtc, gtcSet := t.dev.gtcSet } } ∧
      (s.dev.created = false ∧ s.dev.gtcSet = false ∧ s.dev.recovery = false → t.dev.gtc = s.inp.word ∧ t.dev.gtcSet = true) ∧
      (s.dev.created = true ∨ s.dev.gtcSet = true ∨ s.dev.recovery = true → t = s)) ∧
    (∃ t, exec .gtcSlewCorrection s = .next t ∧ t = { s with dev := { s.dev with gtc := t.dev.gtc } } ∧
      (1000000 * s.inp.corr.natAbs ≤ 200 * s.inp.size →
        t.dev.gtc = s.dev.gtc + BitVec.ofInt 64 ((s.inp.size : Int) + s.inp.corr)) ∧
      (200 * s.inp.size < 1000000 * s.inp.corr.natAbs → t = s))

namespace Sys2Proof.Claims

/-- The partition has no revision, drop, move or pre-copy under way, and no watch entry is armed in it. -/
structure QuietPart (s : State) (n : Nat) (p : Partition) : Prop where
  here : findPart s n = some p
  still : p.revs = [] ∧ p.drops = [] ∧ p.moves = [] ∧ p.dirtyOn = false ∧ p.watches = []

/-- `n` sound bytes on a page of the supervisor context that lies in HBM or the second tier (R28). -/
structure HostPage (s : State) (part va n : Nat) (write : Bool) (l : Loc) : Prop where
  page : translate s partUnit part 0 va true write (!write) = .ok l s
  local' : l.scratch = false
  inRange : l.addr + n ≤ 2 * spaceSize
  sound : poisoned s l.addr n = false

/-- An active queue whose descriptor and tail the Work Distributor accepts, with tail word `x` (R33). -/
structure QueueGood (s : State) (part : Nat) (p : Partition) (q : Queue) (x : Nat) : Prop where
  ready : p.state = 1 ∨ p.state = 2
  on : q.enable = true ∧ q.tickets ≠ 0
  base : q.base.toNat % 128 = 0
  size : 4 ≤ q.log2n.toNat ∧ q.log2n.toNat ≤ 16
  tail : q.tailva.toNat % 4 = 0 ∧ supRead s part q.tailva.toNat 4 = some x

/-- Queue `k` of partition `n` becomes `q`, its other queues stay. -/
def QueueBecomes (s t : State) (n k : Nat) (q : Queue) : Prop :=
  ∃ p p', findPart s n = some p ∧ findPart t n = some p' ∧ queueOf p' k = q ∧ ∀ j, j ≠ k → queueOf p' j = queueOf p j

/-- The ages of a partition's sources, those of empty sources forgotten: they read as 0 (R50). -/
def liveAges (s : State) (p : Partition) : Sparse Nat := p.ages.filter (fun e => ((sourcesOf s p).map Prod.fst).contains e.1)

/-- The event completes with partition `n` at `p`, but for the ages of sources that are empty after it, which are 0 (R50). -/
def SettleGives (i : Instr) (s : State) (n : Nat) (p : Partition) : Prop :=
  ∃ t, exec i s = .next t ∧ PartBecomes s t n { p with ages := liveAges t p }

/-- The commands of MB_CMD (R39). -/
def mailCodes : List (Nat × Instr) :=
  [(0x01, .create), (0x02, .destroy), (0x03, .setquota), (0x04, .reset), (0x10, .freeze), (0x11, .exportPart), (0x12, .importPart),
    (0x13, .thaw), (0x20, .quote)]

/-- The value of eight bytes that a register write brings. -/
def regWord (s : State) : Word := BitVec.ofNat 64 (bytesNat s.inp.data)

end Sys2Proof.Claims

/-- R28 to R30, R32, R36, R39, R50, R118, R263: a write of 8 bytes to each register of a virtual function's BAR0 sets its fields and nothing
else, one of 4 bytes half of a register; the owner of the fabric sets the grant table (R118); read-only registers, and writes of other sizes or misaligned, are ignored; PC_CTL starts and stops launches, and a source that becomes
empty has age 0; a write of MB_CMD starts a command. The model's choices in it: log 39 and log 54. -/
def Obligations.HostRegisterWrites : Prop :=
  ∀ (s : State) (p : Partition),
    let n := s.inp.part
    let off := s.inp.off
    let v := regWord s
    let b := fun (lo len : Nat) => v.toNat / 2 ^ lo % 2 ^ len
    let on := fun (x : Bool) => { p with run := x, state := if p.state = 1 ∨ p.state = 2 then (if x then 2 else 1) else p.state }
    let i := Instr.bar0RegisterWrite
    ((s.inp.data.length ≠ 4 ∧ s.inp.data.length ≠ 8) ∨ off % s.inp.data.length ≠ 0 → exec i s = .next s) ∧
    (findPart s n = some p →
      SettleGives .pcCtlRun s n (on s.inp.flag) ∧ SettleGives .pcCtlDrain s n { p with drain := s.inp.flag } ∧
      PartGives .fabricGrantTableSet s n { p with grants := s.inp.pairs }) ∧
    (findPart s n = some p → s.inp.data.length = 8 → off % 8 = 0 → s.inp.idx = 0 →
      (off = 0x10 → SettleGives i s n { on (v.getLsbD 0) with drain := v.getLsbD 1 }) ∧
      (off = 0x20 → SettleGives i s n { p with winBase := v &&& ~~~(0xFFFFFFFFF : Word) }) ∧
      (off = 0x40 → SettleGives i s n { p with evBase := v }) ∧
      (off = 0x48 → SettleGives i s n
        { p with evLog2 := BitVec.ofNat 5 (b 0 5), evIe := v.getLsbD 8, evVec := BitVec.ofNat 6 (b 16 6) }) ∧
      (off = 0x58 → SettleGives i s n { p with evCons := BitVec.ofNat 32 (b 0 32) }) ∧
      (off = 0x100 → s.inp.flag = true →
        SettleGives i s n { p with thot := BitVec.ofNat 8 (b 0 8), thotLock := v.getLsbD 8 }) ∧
      (off = 0x100 → s.inp.flag = false → p.thotLock = false → SettleGives i s n { p with thot := BitVec.ofNat 8 (b 0 8) }) ∧
      (off = 0x110 → SettleGives i s n { p with stageWd := v }) ∧ (off = 0x118 → SettleGives i s n { p with partWd := v }) ∧
      (off = 0x00 ∨ off = 0x08 ∨ off = 0x18 ∨ off = 0x50 ∨ off = 0x60 → SettleGives i s n p) ∧
      (∀ c, c ≤ 0x17 ∨ (0x20 ≤ c ∧ c ≤ 0x27) → off = 0x200 + 8 * c → ∃ t p', exec i s = .next t ∧ findPart t n = some p' ∧
        (∀ j, j < 6 → fld (sevWord p' c).toNat (4 * j) 3 = if b (4 * j) 3 < 6 then b (4 * j) 3 else fld (sevWord p c).toNat (4 * j) 3) ∧
        ∀ d, d ≠ c → sevWord p' d = sevWord p d) ∧
      (∀ k, k < 64 → ∃ t, exec i s = .next t ∧
        (off = 0x1000 + 32 * k → QueueBecomes s t n k { queueOf p k with base := v }) ∧
        (off = 0x1008 + 32 * k → QueueBecomes s t n k { queueOf p k with
          log2n := BitVec.ofNat 5 (b 0 5), tickets := BitVec.ofNat 8 (b 8 8), preempt := v.getLsbD 16, enable := v.getLsbD 17
          vec := BitVec.ofNat 6 (b 24 6) }) ∧
        (off = 0x1010 + 32 * k → QueueBecomes s t n k { queueOf p k with tailva := v }) ∧
        (off = 0x1018 + 32 * k → QueueBecomes s t n k { queueOf p k with
          qstat := (queueOf p k).qstat &&& ~~~(BitVec.ofNat 3 (b 0 3)), ctx := BitVec.ofNat 8 (b 8 8) }))) ∧
    (findPart s n = some p → s.inp.data.length = 4 → off % 4 = 0 → s.inp.idx = 0 →
      let w := bytesNat s.inp.data
      let half := fun (old : Word) => BitVec.ofNat 64 (if off % 8 = 0 then old.toNat / 2 ^ 32 * 2 ^ 32 + w else old.toNat % 2 ^ 32 + 2 ^ 32 * w)
      (off / 8 = 0x40 / 8 → SettleGives i s n { p with evBase := half p.evBase }) ∧
      (off / 8 = 0x110 / 8 → SettleGives i s n { p with stageWd := half p.stageWd }) ∧
      (off / 8 = 0x118 / 8 → SettleGives i s n { p with partWd := half p.partWd }) ∧
      (off = 0x58 → SettleGives i s n { p with evCons := BitVec.ofNat 32 w }) ∧ (off = 0x5C → SettleGives i s n p)) ∧
    (s.inp.idx = 1 → s.inp.data.length = 8 → off = 0 → ∀ c ∈ mailCodes, v.toNat = c.1 → exec i s = exec c.2 s) ∧
    (s.inp.idx = 1 → s.inp.data.length = 8 → off % 8 = 0 → 0x1000 ≤ off → off < 0x2000 →
      exec i s = .next { s with dev := { s.dev with mbArgs := mputs s.dev.mbArgs (off - 0x1000) s.inp.data } })

/-- R28, R31 to R33, R41: BAR2 reads and writes go through the supervisor context at WIN_BASE, a failed one reads all ones or is
dropped with a record; the Work Distributor takes an active queue's tail, stops an overflowing queue whatever RUN and DRAIN hold and an
invalid one when records may be taken, and new quotas apply at the next frame. The model's choices in it: log 48, log 95 and log 116. -/
def Obligations.HostWindowAndQueues : Prop :=
  ∀ (s : State) (p : Partition) (l : Nat → Loc) (x : Nat),
    let n := s.inp.part
    let va := winAddr p s.inp.off
    let m := s.inp.size
    let k := s.inp.idx
    let q := queueOf p k
    let len := BitVec.ofNat 32 x - q.head
    let cleared := { q with qstat := q.qstat &&& ~~~(BitVec.ofNat 3 (s.inp.word.toNat % 8)) }
    (QuietPart s n p → p.posted = [] → s.inp.flag = false → s.inp.ecc = .clean → s.inp.data.length = 8 →
      s.inp.off % 8 = 0 →
      (HostPage s n va 8 true (l 0) → ∃ t, exec .bar2Write s = .next t ∧
        mbytes t.mem (l 0).addr 8 = s.inp.data ∧ (∀ a, a < (l 0).addr ∨ (l 0).addr + 8 ≤ a → mget t.mem a = mget s.mem a) ∧
        allGroups t = allGroups s ∧ allTeams t = allTeams s ∧ allTasks t = allTasks s) ∧
      (∀ num d, num ≠ 0x0D → translate s partUnit n 0 va true true false = .trap num d →
        exec .bar2Write s = .next (postEvent s p.num
          (noneRec 0x000A (0x3000 + p.link) 0 (BitVec.ofNat 64 va) 0) false))) ∧
    (findPart s n = some p → p.posted ≠ [] → s.inp.flag = false →
      PartGives .bar2Write s n { p with posted := p.posted ++ [(s.inp.off, s.inp.data)] }) ∧
    (QuietPart s n p → p.posted = [] → s.inp.ecc = .clean → 1 ≤ m → va + m ≤ 2 ^ 64 →
      (∀ j, j < m → HostPage s n (va + j) 1 false (l j)) →
      ∃ t v, exec .bar2Read s = .next t ∧ t.dev.readOut = s.dev.readOut ++ [v] ∧ v.length = m ∧
        (∀ j, j < m → v[j]? = some (mget s.mem (l j).addr)) ∧ t.mem = s.mem ∧ allGroups t = allGroups s ∧ allTeams t = allTeams s ∧
        allTasks t = allTasks s) ∧
    (QuietPart s n p → p.posted = [] → s.inp.ecc = .clean → 1 ≤ m → ∀ num d, translate s partUnit n 0 va true false true = .trap num d →
      ∃ t, exec .bar2Read s = .next t ∧ t.dev.readOut = s.dev.readOut ++ [List.replicate m 0xFF]) ∧
    (findPart s n = some p → k < 64 → (q.enable = false ∨ q.tickets = 0) →
      SettleGives .tailWordEvent s n p ∧ ∃ t, exec .queueStopClear s = .next t ∧ QueueBecomes s t n k cleared) ∧
    (findPart s n = some p → k < 64 → (p.run = false ∨ p.drain = true) → q.base.toNat % 128 ≠ 0 →
      SettleGives .tailWordEvent s n p ∧ ∃ t, exec .queueStopClear s = .next t ∧ QueueBecomes s t n k cleared) ∧
    (findPart s n = some p → k < 64 → QueueGood s n p q x → len.toNat ≤ 2 ^ q.log2n.toNat →
      (q.qstat.getLsbD 0 = false → ∃ t, exec .tailWordEvent s = .next t ∧ QueueBecomes s t n k { q with tail := BitVec.ofNat 32 x } ∧
        t.mem = s.mem) ∧
      (cleared.qstat.getLsbD 0 = false → ∃ t, exec .queueStopClear s = .next t ∧
        QueueBecomes s t n k { cleared with tail := BitVec.ofNat 32 x } ∧ t.mem = s.mem)) ∧
    (findPart s n = some p → k < 64 → QueueGood s n p q x → 2 ^ q.log2n.toNat < len.toNat → q.qstat.getLsbD 0 = false →
      ∃ t, exec .tailWordEvent s = .next t ∧
        QueueBecomes s t n k { q with tail := BitVec.ofNat 32 x, qstat := q.qstat ||| 3 }) ∧
    (findPart s n = some p → k < 64 → p.run = true → p.drain = false → (p.state = 1 ∨ p.state = 2) → q.enable = true →
      q.tickets ≠ 0 → q.qstat.getLsbD 0 = false → q.base.toNat % 128 ≠ 0 →
      ∃ t, exec .tailWordEvent s = .next t ∧ QueueBecomes s t n k { q with qstat := q.qstat ||| 5 }) ∧
    (∃ t, exec .hbmFrameBoundary s = .next t ∧ ∀ j r, findPart s j = some r → (∀ o ∈ allParts s, o.num = j → o = r) →
      (∀ share ways cw, r.quotaPend = some (share, ways, cw) →
        findPart t j = some { r with share := share, ways := ways, classWays := cw, quotaPend := none }) ∧
      (r.quotaPend = none → findPart t j = some r))

namespace Sys2Proof.Claims

/-- The mailbox takes commands (R39). -/
def MailFree (s : State) : Prop := s.dev.mbBusy = false ∧ s.dev.recovery = false

/-- The machine with the mailbox busy on command `cmd` that will end with result `r` (R39). -/
def mailAnswer (s : State) (cmd r : Nat) : State :=
  { s with dev := { s.dev with mbBusy := true, mbCmd := BitVec.ofNat 64 cmd, mbNext := BitVec.ofNat 8 r } }

/-- A byte belongs to a partition: its capacity, or its control page. -/
def partByte (p : Partition) (a : Nat) : Prop :=
  (∃ f ∈ p.frames, f.1 ≤ a ∧ a < f.1 + f.2) ∨ (ctlKey p.num 0 ≤ a ∧ a < ctlKey p.num 65536)

/-- Nothing of a partition's work is on the machine. -/
def NoWork (s : State) (n : Nat) : Prop :=
  (∀ g ∈ allGroups s, g.id.part ≠ n) ∧ (∀ t ∈ allTeams s, t.part ≠ n) ∧ ∀ t ∈ allTasks s, t.part ≠ n

/-- The L2 ways of a new partition or quota fit beside the others (R40). -/
def waysFit (s : State) (n : Nat) (twins ways cls : List Nat) : Bool := waysOk (otherParts s n) twins ways cls

/-- The HBM shares of the other partitions and a new one sum to at most 256 (R40). -/
def shareFits (s : State) (n share : Nat) : Prop := ((otherParts s n).map Partition.share).sum + share ≤ 256

/-- Whether a CREATE's arguments are in range (R40). -/
def createRange (a : CreateArgs) : Prop := a.number ≤ 15 ∧ a.link ≤ 1 ∧ a.vf ≤ 15

/-- What a CREATE asks for is free (R40). -/
def createFree (s : State) (a : CreateArgs) : Prop :=
  (∀ t ∈ a.twins, t < 108 ∧ t ∉ s.dev.retired ∧ ∀ p ∈ otherParts s a.number, t ∉ p.twins) ∧
    (∀ p ∈ otherParts s a.number, ¬(p.link = a.link ∧ p.vf = a.vf)) ∧
    waysFit s a.number a.twins a.ways a.classWays = true ∧ shareFits s a.number a.share

end Sys2Proof.Claims

/-- R39 to R46: the mailbox ignores a command while busy and answers result 3 in recovery mode, on an absent partition or in a
forbidden STATE; CREATE, SETQUOTA, DESTROY, RESET, FREEZE, EXPORT, IMPORT, THAW and QUOTE have their effects, and a command's end
shows its result; THAW on a destination puts every sc clock beyond the exported stamps (R195; log 41). The model's choices in it: the
frames of an image (log 40), what its times become (log 60), result 2 for a twin from 108 on (log 61), the one mailbox (log 96), and log 46,
log 62, log 63, log 64, log 118 and log 119. -/
def Obligations.MailboxCommands : Prop :=
  ∀ (s : State) (p : Partition) (i : Image),
    let n := s.inp.part
    let a := s.inp.create
    let cmds : List (Nat × Instr × List Nat) := [(0x02, .destroy, [1, 2, 3, 5]), (0x03, .setquota, [1, 2]), (0x10, .freeze, [1, 2]),
      (0x11, .exportPart, [1, 2, 3]), (0x13, .thaw, [3]), (0x20, .quote, [1, 2, 3, 4, 5])]
    (s.dev.mbBusy = true → ∀ c ∈ mailCodes, exec c.2 s = .next s) ∧
    (s.dev.mbBusy = false → s.dev.recovery = true → ∀ c ∈ mailCodes, exec c.2 s = .next (mailAnswer s c.1 3)) ∧
    (MailFree s → ∀ c ∈ cmds, (findPart s n = none ∨ ∃ q, findPart s n = some q ∧ q.state ∉ c.2.2) →
      exec c.2.1 s = .next (mailAnswer s c.1 3)) ∧
    (MailFree s → mread s.dev.mbArgs 0 8 ≤ 1 → (findPart s n = none ∨ ∃ q, findPart s n = some q ∧ q.state ∉ [1, 2, 3]) →
      exec .reset s = .next (mailAnswer s 0x04 3)) ∧
    (MailFree s → ¬ createRange a → exec .create s = .next (mailAnswer s 0x01 1)) ∧
    (MailFree s → createRange a → findPart s a.number ≠ none → exec .create s = .next (mailAnswer s 0x01 3)) ∧
    (MailFree s → createRange a → findPart s a.number = none → ¬(createFree s a ∧ capacityOk s a.hbm a.t2 = true) →
      exec .create s = .next (mailAnswer s 0x01 2)) ∧
    (MailFree s → createRange a → findPart s a.number = none → createFree s a → capacityOk s a.hbm a.t2 = true →
      ∃ t q, exec .create s = .next t ∧ t.dev.mbBusy = true ∧ t.dev.mbNext = 0 ∧ t.dev.created = true ∧
        findPart t a.number = some q ∧ q.create = a ∧ q.state = 1 ∧ q.run = false ∧ q.drain = false ∧ q.link = a.link ∧ q.vf = a.vf ∧
        q.twins = a.twins ∧ q.ways = a.ways ∧ q.classWays = a.classWays ∧ q.share = a.share ∧ q.thot = 92 ∧ q.evProd = 0 ∧
        q.queues = [] ∧ q.gtcOffset = 0 ∧ q.x = BitVec.ofNat 32 s.dev.gtc.toNat ||| 1 ∧
        (∀ b, partByte q b → mget t.mem b = 0) ∧ (∀ b, ¬ partByte q b → mget t.mem b = mget s.mem b) ∧
        ∀ m, m ≠ a.number → findPart t m = findPart s m) ∧
    (MailFree s → findPart s n = some p → (p.state = 1 ∨ p.state = 2) →
      (waysFit s n p.twins a.ways a.classWays = true → shareFits s n a.share → ∃ t, exec .setquota s = .next t ∧
        findPart t n = some { p with quotaPend := some (a.share, a.ways, a.classWays) } ∧ t.dev.mbWait = some (3, n) ∧
        t.dev.mbBusy = true ∧ t.dev.mbNext = 0) ∧
      (¬(waysFit s n p.twins a.ways a.classWays = true ∧ shareFits s n a.share) → exec .setquota s = .next (mailAnswer s 0x03 2)) ∧
      ∃ t q, exec .freeze s = .next t ∧ findPart t n = some q ∧ q.drain = true ∧ q.keptCtl = some (p.run, p.drain) ∧
        t.dev.mbWait = some (0x10, n) ∧ t.mem = s.mem ∧
        (∀ g ∈ allGroups t, g.id.part = n → (∃ u ∈ allTeams s, u.saved = false ∧ u.part = n ∧ u.task = g.id.task ∧
          u.index = g.id.team) → g.draining = true)) ∧
    (MailFree s → findPart s n = some p → p.state ∈ [1, 2, 3] → ∃ t, exec .destroy s = .next t ∧ findPart t n = none ∧ NoWork t n ∧
      t.dev.mbBusy = true ∧ t.dev.mbNext = 0 ∧ ∀ b, partByte p b → mget t.mem b = 0) ∧
    (MailFree s → findPart s n = some p → p.state = 5 → ∃ t, exec .destroy s = .next t ∧ findPart t n = none ∧ t.mem = s.mem) ∧
    (MailFree s → 1 < mread s.dev.mbArgs 0 8 → exec .reset s = .next (mailAnswer s 0x04 1)) ∧
    (MailFree s → mread s.dev.mbArgs 0 8 ≤ 1 → findPart s n = some p → p.state ∈ [1, 2, 3] →
      ∃ t q, exec .reset s = .next t ∧ findPart t n = some q ∧ q.state = 4 ∧ q.frames = p.frames ∧ q.dataKey = p.dataKey ∧
        q.watches.map WatchEntry.idx = p.watches.map WatchEntry.idx ∧ q.share = p.share ∧ t.dev.mbBusy = true ∧ t.dev.mbNext = 0 ∧
        (mread s.dev.mbArgs 0 8 = 0 → t.dev.mbWait = some (5, n) ∧ ∀ g ∈ allGroups t, g.id.part = n →
          (∀ h ∈ allGroups s, ∀ h' ∈ allGroups s, h.id = g.id → h'.id = g.id → h = h') →
          (∃ k ∈ allTasks s, k.part = n ∧ k.num = g.id.task ∧ k.ended = false) → g.killed = true ∨ g.ended = true) ∧
        (mread s.dev.mbArgs 0 8 = 1 → t.dev.mbWait = some (4, n) ∧ t.mem = s.mem)) ∧
    (MailFree s → findPart s n = some p → p.state = 3 → ∃ t q i, exec .exportPart s = .next t ∧ findPart t n = some q ∧ q.state = 5 ∧
      q.frames = [] ∧ q.create = p.create ∧ q.integ = p.integ ∧ q.retiredF = p.retiredF ∧ NoWork t n ∧
      (∀ e ∈ s.dev.replay, e.part = n → { e with gtc := 0, aged := s.dev.gtc.toNat - e.gtc + e.aged } ∈ i.replay) ∧ t.dev.streams = s.dev.streams ++ [i] ∧ i.final = true ∧ i.srcTime = ptime s p ∧
      i.maxStamp = maxStamp s ∧ (∀ b, partByte p b → mget i.mem b = mget s.mem b ∧ mget t.mem b = 0)) ∧
    (MailFree s → findPart s n = some p → (p.state = 1 ∨ p.state = 2) → ∃ t i, exec .exportPart s = .next t ∧
      t.dev.streams = s.dev.streams ++ [i] ∧ i.final = false ∧ findPart t n = some { p with dirtyOn := true, dirty := [] } ∧
      t.mem = s.mem ∧ t.dev.mbWait = some (0x11, n) ∧
      ∀ b, partByte p b → mget i.mem b = if p.dirtyOn = false ∨ (∃ l ∈ p.dirty, l / 32 = b / 4096) then mget s.mem b else 0) ∧
    (MailFree s → findPart s n = some p → p.state = 3 → ∃ t q, exec .thaw s = .next t ∧ findPart t n = some q ∧
      t.dev.mbWait = some (0x13, n) ∧ q.keptCtl = none ∧
      (∀ run drain, p.keptCtl = some (run, drain) → q.run = run ∧ q.drain = drain ∧ q.state = if run then 2 else 1) ∧
      (p.imported = none → q.gtcOffset = p.gtcOffset ∧ t.cores = s.cores) ∧
      (∀ src top, p.imported = some (src, top) →
        q.gtcOffset = BitVec.ofNat 64 (src.toNat + 1 - s.dev.gtc.toNat) ∧ (∀ c, c < 216 → (coreOf t c).clock = top + 1) ∧
        (∀ h, h < 128 → sget 0 t.dev.sliceM h = top + 1) ∧
        ∀ r ∈ s.dev.remote, r.group.part = n → { r with
          issued := s.dev.gtc.toNat, aged := s.dev.gtc.toNat + (src.toNat + 1 - s.dev.gtc.toNat) - r.issued, sent := s.dev.gtc.toNat }
            ∈ t.dev.remote)) ∧
    (MailFree s → findPart s n = some p → p.state ∈ [1, 2, 3, 4, 5] →
      (s.dev.sigNext = s.dev.sigEnd → s.inp.flag = true → exec .quote s = .next (mailAnswer s 0x20 3)) ∧
      (s.dev.sigNext ≠ s.dev.sigEnd ∨ s.inp.flag = false → ∃ b, exec .quote s = .next (mailAnswer { s with dev := { s.dev with
        sigNext := s.dev.sigNext + 1
        sigEnd := if s.dev.sigNext = s.dev.sigEnd then s.dev.sigNext + 1024 else s.dev.sigEnd
        quoteOut := s.dev.quoteOut ++ [(b, Config.sign s.dev.sigNext b)] } } 0x20 0) ∧
        b.length = 160 ∧ bytesNat ((b.drop 2).take 2) = p.num % 65536 ∧ bytesNat ((b.drop 8).take 8) = (ptime s p).toNat ∧
        bytesNat ((b.drop 16).take 32) = s.inp.nonce.toNat)) ∧
    (s.dev.mbBusy = false → exec .mailboxCommandComplete s = .next s) ∧
    (s.dev.mbBusy = true → s.dev.mbWait = none → exec .mailboxCommandComplete s =
      .next { s with dev := { s.dev with mbBusy := false, mbResult := s.dev.mbNext } }) ∧
    (s.dev.mbBusy = true → s.dev.mbWait = some (3, n) → findPart s n = some p → p.quotaPend ≠ none →
      exec .mailboxCommandComplete s = .next s) ∧
    (s.dev.mbBusy = true → s.dev.mbWait = some (5, n) → findPart s n = some p → p.state ≠ 0 → ∃ t, exec .mailboxCommandComplete s = .next t ∧
      findPart t n = some { p with state := if p.run then 2 else 1 } ∧ t.dev.mbBusy = false ∧ t.dev.mbResult = s.dev.mbNext) ∧
    (MailFree s → createRange a →
      (s.dev.streams[s.inp.idx]? = none → exec .importPart s = .next (mailAnswer s 0x12 1)) ∧
      (s.dev.streams[s.inp.idx]? = some i → (s.inp.flag = true ∨ i.final = false) → exec .importPart s = .next (mailAnswer s 0x12 1)) ∧
      (s.dev.streams[s.inp.idx]? = some i → s.inp.flag = false → i.final = true → findPart s a.number ≠ none →
        exec .importPart s = .next (mailAnswer s 0x12 3)) ∧
      (s.dev.streams[s.inp.idx]? = some i → s.inp.flag = false → i.final = true → findPart s a.number = none → createFree s a →
        capacityOk s i.part.hbm i.part.t2 = true → (∀ f ∈ i.part.frames, ∀ p ∈ allParts s, ∀ h ∈ p.frames,
          f.1 + f.2 ≤ h.1 ∨ h.1 + h.2 ≤ f.1) →
        ∃ t q, exec .importPart s = .next t ∧ t.dev.mbBusy = true ∧ t.dev.mbNext = 0 ∧ findPart t a.number = some q ∧ q.state = 3 ∧
          q.frames = i.part.frames ∧ q.twins = a.twins ∧ q.imported = some (i.srcTime, i.maxStamp) ∧ q.keptCtl = i.part.keptCtl ∧
          (∀ g ∈ i.groups, ∃ h ∈ allGroups t, h = { g with id := { g.id with part := a.number } }) ∧
          (∀ u ∈ i.teams, { u with part := a.number } ∈ allTeams t) ∧ (∀ u ∈ i.tasks, { u with part := a.number } ∈ allTasks t) ∧
          (∀ e ∈ i.replay, { e with part := a.number, gtc := s.dev.gtc.toNat } ∈ t.dev.replay) ∧
          (i.mem.wf = true → s.mem.wf = true → ∀ f ∈ i.part.frames, ∀ b, f.1 ≤ b → b < f.1 + f.2 → b < 3 * spaceSize → mget t.mem b = mget i.mem b)))

namespace Sys2Proof.Claims

/-- The value of a port (R16). -/
def portOf (s : State) (k : Nat) : Port := sget noPort s.dev.ports k

/-- A part's bytes of partition `n` at device-physical `addr` that a fabric request names: HBM, sound, and the partition is quiet. -/
structure FabricPage (s : State) (part addr n : Nat) (p : Partition) : Prop where
  quiet : QuietPart s part p
  inRange : addr + n ≤ Config.hbmBytes
  some' : 0 < n
  sound : poisoned s addr n = false

/-- A result for register `r` comes to a group: into the register, or, where its handler runs and RETH will restore that register, to be
written then (R255). `sup`: the handler itself asked for it. -/
def LandsIn (s t : State) (id : GroupId) (sup : Bool) (r : Nat) (v : Word) : Prop :=
  ∀ g, findGroup s id = some g → g.killed = false → ∃ g', findGroup t id = some g' ∧
    (g.hidden = none → (r ≠ 0 → sregOf g' r = v) ∧ ∀ k, k ≠ r → sregOf g' k = sregOf g k) ∧
    ∀ h, g.hidden = some h → g.sup = true → sup = false → frameReg r = true →
      g'.hidden = some { h with late := h.late ++ [(r, v)] } ∧ ∀ k, sregOf g' k = sregOf g k

/-- Port `k` can bring a request or an answer (R16, R43). -/
def portLive (s : State) (k : Nat) : Prop := k < 12 ∧ (portOf s k).up = true

/-- The stamp that the home slice of a device-physical address gives an access of another package (R184). -/
def homeStamp (s : State) (addr : Nat) (ts : Option (BitVec 48)) : Option (BitVec 48) :=
  ts.map (fun t => serialMax t (sget 0 s.dev.sliceM (homeOf (physKey 0 addr / 128)) + 1))

/-- The request's queue pair serves the named partition over a reliable connection (R21). -/
def pairHeld (s : State) : Prop := s.inp.idx < 65536 ∧ sget none s.dev.pairs s.inp.idx = some ⟨s.inp.part, true⟩

/-- `n` bytes, at least one, at `va` of a partition's supervisor context, each on the page frame `l` gives. -/
structure RdmaBytes (s : State) (part va n : Nat) (write : Bool) (l : Nat → Loc) (p : Partition) : Prop where
  quiet : QuietPart s part p
  low : 0 < n ∧ va + n ≤ 2 ^ 64
  first : ∃ x, HostPage s part va 1 false x
  pages : ∀ j, j < n → HostPage s part (va + j) 1 write (l j)

end Sys2Proof.Claims

/-- R16 to R21, R24, R118, R184, R186, R262: fabric retries, ports and links that fail, a port that is down bringing nothing, requests
older than 1 ms discarded, the others served in issue order on a line or refused by the grant table, with the stamps of sc accesses, remote atomics performed once and replayed
from their entry, BUSY and the same tag sent again, the first response alone taken, REMOTE_INDETERMINATE after 10 ms, and RDMA over a
queue pair of its partition. The model's choices in it: log 13, log 38, log 100, log 113 and log 114. -/
def Obligations.LinksAndRemoteMemory : Prop :=
  ∀ (s : State) (p : Partition) (l : Nat → Loc),
    let k := s.inp.port
    let r := s.inp.fabric
    let q := s.inp.remote
    let now := s.dev.gtc.toNat
    let ent := fun (e : Replay) => e.node = q.node ∧ e.core = q.core ∧ e.tag = q.tag ∧ now + e.aged < e.gtc + 20000000
    let live := s.dev.replay.filter (fun e => decide (now + e.aged < e.gtc + 20000000))
    let ans := fun (t : State) (x : Resp) (st : Option (BitVec 48)) => t.dev.respOut = s.dev.respOut ++ [(x, st)]
    let opens := portLive s k ∧ s.dev.recovery = false ∧ s.dev.fabricQ = []
    let grantsTo := fun (part node req : Nat) => ∃ o, findPart s part = some o ∧ (node, req) ∈ o.grants
    (k < 12 → (portOf s k).up = true → ∃ t, exec .fabricFlitCrcRetry s = .next t ∧
      portOf t k = { portOf s k with retries := if s.inp.flag then (portOf s k).retries + 1 else 0 } ∧
      (∀ j, j ≠ k → portOf t j = portOf s j) ∧ t = { s with dev := { s.dev with ports := t.dev.ports } }) ∧
    (k < 12 → (portOf s k).up = true → 64 ≤ (portOf s k).retries → ∃ t e, exec .fabricPortDown s = .next t ∧ (portOf t k).up = false ∧
      (∀ j, j ≠ k → portOf t j = portOf s j) ∧ t.dev.mgmtOut = s.dev.mgmtOut ++ [e] ∧ e.type = 0x0010 ∧ e.source = 0x3002 + k) ∧
    ((portOf s k).retries < 64 → exec .fabricPortDown s = .next s) ∧
    (k ≤ 1 ∨ (14 ≤ k ∧ k ≤ 22) → k ∉ s.dev.linksDown → ∃ t, exec .linkDown s = .next t ∧ t.dev.linksDown = s.dev.linksDown ++ [k]) ∧
    (∀ e, s.dev.fabricQ[s.inp.idx]? = some e → s.inp.flag = false →
      (e.2 + 1000000 < now → exec .fabricRequestDiscard s =
        .next { s with dev := { s.dev with fabricQ := s.dev.fabricQ.eraseIdx s.inp.idx } }) ∧
      (now ≤ e.2 + 1000000 → exec .fabricRequestDiscard s = .next s)) ∧
    (∀ e, s.dev.fabricQ[s.inp.idx]? = some e → s.inp.flag = true → s.dev.recovery = false → e.2 + 1000000 < now →
      exec .fabricRequestArrival s = .next { s with dev := { s.dev with fabricQ := s.dev.fabricQ.eraseIdx s.inp.idx } }) ∧
    (s.inp.flag = false → (¬ portLive s k ∨ s.dev.recovery = true) →
      exec .fabricRequestArrival s = .next s ∧ exec .remoteAtomicRequest s = .next s) ∧
    (s.inp.flag = false → portLive s k → s.dev.recovery = false →
      ((∃ e ∈ s.dev.fabricQ, sameLine e.1 (.access r) = true) → exec .fabricRequestArrival s =
        .next { s with dev := { s.dev with fabricQ := s.dev.fabricQ ++ [(.access r, now)] } }) ∧
      ((∃ e ∈ s.dev.fabricQ, sameLine e.1 (.atomic q) = true) → exec .remoteAtomicRequest s =
        .next { s with dev := { s.dev with fabricQ := s.dev.fabricQ ++ [(.atomic q, now)] } })) ∧
    (opens → s.inp.flag = false → ¬ grantsTo r.part r.node r.reqPart →
      ∃ t, exec .fabricRequestArrival s = .next t ∧ ans t (.refused r.node r.addr) none ∧ t.mem = s.mem) ∧
    (opens → s.inp.flag = false → (r.node, r.reqPart) ∈ p.grants → s.inp.ecc = .clean →
      (r.data = [] → FabricPage s r.part r.addr r.size p →
        ∃ t, exec .fabricRequestArrival s = .next t ∧ ans t (.data r.node r.addr (mbytes s.mem r.addr r.size)) (homeStamp s r.addr r.ts) ∧
          t.mem = s.mem) ∧
      (r.data ≠ [] → r.publish = false → FabricPage s r.part r.addr r.data.length p →
        ∃ t, exec .fabricRequestArrival s = .next t ∧ ans t (.done r.node r.addr) (homeStamp s r.addr r.ts) ∧
          mbytes t.mem r.addr r.data.length = r.data ∧
          ∀ a, a < r.addr ∨ r.addr + r.data.length ≤ a → mget t.mem a = mget s.mem a)) ∧
    (opens → ¬ grantsTo q.part q.node q.reqPart →
      ∃ t, exec .remoteAtomicRequest s = .next t ∧ ans t (.refused q.node q.addr) none ∧ t.mem = s.mem) ∧
    (opens → grantsTo q.part q.node q.reqPart → ∀ e, live.find? (fun x => x.node == q.node && x.core == q.core && x.tag == q.tag) = some e →
      ∃ t, exec .remoteAtomicRequest s = .next t ∧ ans t (.atomic q.node q.core q.tag e.result true) e.stamp ∧ t.mem = s.mem) ∧
    (opens → grantsTo q.part q.node q.reqPart → (∀ e ∈ s.dev.replay, ¬ ent e) → 65536 ≤ live.length →
      ∃ t, exec .remoteAtomicRequest s = .next t ∧ ans t (.busy q.node q.core q.tag) none ∧ t.mem = s.mem) ∧
    (opens → (q.node, q.reqPart) ∈ p.grants → FabricPage s q.part q.addr q.size p → q.addr % q.size = 0 →
      s.inp.ecc = .clean → (∀ e ∈ s.dev.replay, ¬ ent e) → live.length < 65536 → (q.size = 4 ∨ q.size = 8) →
      let x := mread s.mem q.addr q.size
      let st := homeStamp s q.addr q.ts
      let y := atomNew q.op q.size x (q.y.toNat % 2 ^ (8 * q.size)) (q.c.toNat % 2 ^ (8 * q.size))
      ∃ t e, exec .remoteAtomicRequest s = .next t ∧ ans t (.atomic q.node q.core q.tag (BitVec.ofNat 64 x) false) st ∧
        mread t.mem q.addr q.size = (y.getD x) % 2 ^ (8 * q.size) ∧
        (∀ a, a < q.addr ∨ q.addr + q.size ≤ a → mget t.mem a = mget s.mem a) ∧
        t.dev.replay = live ++ [e] ∧ e.node = q.node ∧ e.core = q.core ∧ e.tag = q.tag ∧ e.result = BitVec.ofNat 64 x ∧ e.gtc = now ∧
        e.aged = 0 ∧ e.stamp = st) ∧
    ((∀ x ∈ s.dev.remote, ¬(x.core = s.inp.core ∧ x.tag = s.inp.idx)) → exec .remoteAtomicResponse s = .next s) ∧
    (∀ x, portLive s k → s.dev.remote.find? (fun y => y.core == s.inp.core && y.tag == s.inp.idx) = some x →
      (s.inp.flag = true → x.performed = none → ∃ t y, exec .remoteAtomicResponse s = .next t ∧
        y = { x with sent := now, port := portFor s x.node x.addr } ∧
        t = { s with dev := { s.dev with fabricOut := s.dev.fabricOut ++ (if y.port.isSome then [y] else []) } }) ∧
      (s.inp.flag = false → x.stream = .scalar → (x.size = 4 ∨ x.size = 8) →
        let key := physKey (4 + x.node) x.addr
        let old := s.inp.word.toNat % 2 ^ (8 * x.size)
        let new := atomNew x.op x.size old (x.y.toNat % 2 ^ (8 * x.size)) (x.c.toNat % 2 ^ (8 * x.size))
        ∃ t, exec .remoteAtomicResponse s = .next t ∧ LandsIn s t x.group x.sup x.dst (x.performed.getD s.inp.word) ∧
          (x.performed ≠ none → t.mem = s.mem) ∧
          (x.performed = none → mread t.mem key x.size = new.getD old % 2 ^ (8 * x.size) ∧
            ∀ a, a < key ∨ key + x.size ≤ a → mget t.mem a = mget s.mem a) ∧
          ((x.ord = 1 ∨ x.ord = 3) → l1Scope (teamOf s x.group) x.scope.toNat = true → (coreOf t x.core).l1 = []) ∧
          ∀ y ∈ t.dev.remote, ¬(y.core = x.core ∧ y.tag = x.tag ∧ y.group = x.group))) ∧
    (∀ x, s.g.live = true → s.g.id = s.inp.g → s.inp.flag = false → s.dev.remote.find? (fun y => y.group == s.g.id && y.tag == s.inp.idx) = some x →
      (now < x.sent + 10000000 → exec .remoteIndeterminate s = .next s) ∧
      (x.sent + 10000000 ≤ now → x.failed = false → s.g.killed = false → s.g.trapPend = none →
        ∃ u, exec .remoteIndeterminate s = .next (takeTrap u
          ⟨0x11, x.addr, det [(0, x.tag), (4, x.pc), (12, 0)], s.g.ln.mask, x.stream, false⟩) ∧
          u = { s with dev := { s.dev with remote := u.dev.remote } } ∧
          ∀ y ∈ u.dev.remote, y.core = x.core → y.tag = x.tag → y.group = x.group → y.failed = true)) ∧
    (s.dev.recovery = true → exec .rdmaSend s = .next s) ∧
    (s.dev.recovery = false → s.inp.idx < 65536 → (∀ x, sget none s.dev.pairs s.inp.idx = some x → x.part = s.inp.part) → ∃ t, exec .rdmaSend s = .next t ∧
      t = { s with dev := { s.dev with pairs := t.dev.pairs, rdmaIn := s.dev.rdmaIn ++ [(k, s.inp.idx, s.inp.data)] } } ∧
      sget none t.dev.pairs s.inp.idx = some ((sget none s.dev.pairs s.inp.idx).getD ⟨s.inp.part, !s.inp.flag⟩) ∧
      ∀ j, j ≠ s.inp.idx → sget none t.dev.pairs j = sget none s.dev.pairs j) ∧
    ((65536 ≤ s.inp.idx ∨ ∃ x, sget none s.dev.pairs s.inp.idx = some x ∧ x.part ≠ s.inp.part) →
      ∀ i ∈ [Instr.rdmaSend, .rdmaRead, .rdmaWrite, .rdmaAtomic], exec i s = .next s) ∧
    (pairHeld s → s.inp.ecc = .clean → RdmaBytes s s.inp.part s.inp.va s.inp.size false l p → ∃ t, exec .rdmaRead s = .next t ∧
      t.dev.rdmaOut = s.dev.rdmaOut ++ [(k, s.inp.idx, (List.range s.inp.size).map (fun j => mget s.mem (l j).addr))] ∧
      t.mem = s.mem) ∧
    (pairHeld s → s.inp.ecc = .clean → RdmaBytes s s.inp.part s.inp.va 8 true l p → s.inp.va % 8 = 0 → poisoned s (l 0).addr 8 = false →
      (l 0).addr + 8 ≤ 2 * spaceSize → s.inp.flag = false →
      let x := mread s.mem (l 0).addr 8
      ∃ t, exec .rdmaAtomic s = .next t ∧ t.dev.rdmaOut = s.dev.rdmaOut ++ [(k, s.inp.idx, natBytes 8 x)] ∧
        mread t.mem (l 0).addr 8 = (x + s.inp.word.toNat) % 2 ^ 64 ∧
        ∀ a, a < (l 0).addr ∨ (l 0).addr + 8 ≤ a → mget t.mem a = mget s.mem a) ∧
    (pairHeld s → s.inp.ecc = .clean → RdmaBytes s s.inp.part s.inp.va s.inp.data.length true l p → s.inp.data.length ≤ 2 ^ 24 →
      (s.inp.flag = true ∨ s.inp.data.length = 2 ^ 24) → sget none s.dev.rdmaOpen (k % 8) = none → s.dev.poison = [] →
      (∀ i j, i < s.inp.data.length → j < s.inp.data.length → (l i).addr = (l j).addr → i = j) →
      ∃ t, exec .rdmaWrite s = .next t ∧
        (∀ j, j < s.inp.data.length → some (mget t.mem (l j).addr) = s.inp.data[j]?) ∧
        (∀ a, (∀ j, j < s.inp.data.length → a ≠ (l j).addr) → mget t.mem a = mget s.mem a) ∧
        t.dev.rdmaOut = s.dev.rdmaOut ++ (if s.inp.flag then [(k, s.inp.idx, [])] else []) ∧
        sget none t.dev.rdmaOpen (k % 8) = if s.inp.flag then none else some (s.inp.idx, s.inp.va + s.inp.data.length))

namespace Sys2Proof.Claims

/-- The groups of one team. -/
def ofTeam (g : Group) (part task idx : Nat) : Prop := g.id.part = part ∧ g.id.task = task ∧ g.id.team = idx

/-- The next state of the Work Distributor's generator (R50). -/
def nextDraw (x : BitVec 32) : BitVec 32 :=
  let a := x ^^^ x <<< 13
  let b := a ^^^ a >>> 17
  b ^^^ b <<< 5

/-- The request of core `c` of partition `p` stands, and is the next of the partition (R49). -/
structure Asks (s : State) (c : Nat) (p : Partition) : Prop where
  owner : ownerOf s c = some p
  here : findPart s p.num = some p
  asked : (coreOf s c).asked ≠ none
  asks : mayAsk s p c = true
  first : isNextAsker s p c = true

/-- The request of core `c` of partition `p` is served, and no queue of the partition holds a descriptor; no winner and no resume entry
waits for a core (R49, R62). -/
structure Asking (s : State) (c : Nat) (p : Partition) : Prop where
  asks : Asks s c p
  plain : p.queues = [] ∧ p.resume = [] ∧ p.waiters = []

/-- The state in which the request of core `c` has been taken. -/
def answered (s : State) (c : Nat) : State := modCore s c (fun x => { x with asked := none })

/-- Source `k` with tickets wins a draw among the sources `e`, in index order, with the advanced generator `x` (R50). -/
def Wins (x : BitVec 32) (age : Nat → Nat) (e : List (Nat × Nat)) (k : Nat) : Prop :=
  let total := fun (l : List (Nat × Nat)) => (l.map Prod.snd).sum
  ∃ l t r, e = l ++ (k, t) :: r ∧
    ((4096 ≤ age k ∧ ∀ y ∈ l, age y.1 < 4096) ∨
      ((∀ y ∈ e, age y.1 < 4096) ∧ total l ≤ x.toNat % total e ∧ x.toNat % total e < total l + t))

/-- A draw of partition `p` for core `c` is won by launch queue `k` (R48 to R51): nothing that waits fits the core, the tails are read,
and the sources of the draw are `e`. -/
structure Draws (s : State) (c : Nat) (p : Partition) (e : List (Nat × Nat)) (k : Nat) : Prop where
  asks : Asks s c p
  none' : p.waiters.find? (fun m => takes s p (kernelFor s p.num m) c) = none ∧ p.resume.find? (resumeFits s p c) = none ∧
    p.pending.find? (fun m => takes s p (kernelFor s p.num m) c) = none
  woken : settleAges ((List.range 64).foldl (fun u j => wakeQueue u p.num j) (answered s c)) p.num = answered s c
  sources : e = if (sourcesOf s p).any (fun y => decide (y.1 < 64) && (queueOf p y.1).preempt)
    then (sourcesOf s p).filter (fun y => decide (y.1 < 64) && (queueOf p y.1).preempt) else sourcesOf s p
  wins : k < 64 ∧ Wins (nextDraw p.x) (sget 0 p.ages) e k

/-- The partition after a draw (R50): the generator has advanced, and the ages `a` follow. -/
def drawn (s : State) (c : Nat) (p : Partition) (a : Sparse Nat) : State :=
  modPart (answered s c) p.num (fun r => { r with x := nextDraw p.x, ages := a })

/-- The record at the head of queue `q` has the bytes `b` and passes its checks; it launches kernel `kn` without instances
(R34, R35); the descriptor's reads leave the L2 slices at `lines`. -/
structure GoodRecord (u : State) (part : Nat) (q : Queue) (b : List Byte) (kn : Kernel) (lines : List L2Line) : Prop where
  bytes : recordBytes u part (recordVA q q.head.toNat) = some b
  fields : recordBad b = none ∧ frameFld b 0x18 8 = 0 ∧ frameFld b 8 4 < frameFld b 0xC 4
  root : rootOf u part q.ctx.toNat ≠ 0
  kernel : getKernel u { outside part distSource with ctx := q.ctx.toNat } noTeam (frameFld b 0 8) =
    .ok kn { u with dev := { u.dev with l2 := lines } }

/-- The task that a launch record makes (R34, R47). -/
structure TaskOf (tk : Task) (q : Queue) (b : List Byte) (kn : Kernel) : Prop where
  kernel : tk.kernel = kn ∧ tk.arg = frameFld b 0x10 8 ∧ tk.tickets = q.tickets.toNat ∧ tk.ctx = q.ctx.toNat
  range : tk.lo = frameFld b 8 4 ∧ tk.hi = frameFld b 0xC 4 ∧ tk.left = tk.hi - tk.lo
  source : tk.source = 0 ∧ tk.record = q.head ∧ tk.complVA = recordVA q q.head.toNat + 0x78

/-- A saved group is the group as it was when it had drained, with its handler frame and image beside it if it has them (R63, R64). -/
def SavedAs (h h' : Group) : Prop :=
  (∃ f i, h' = { h with saved := true, draining := false, markStalled := false, frame := f, image := i }) ∧
    (h.sup = false → h.frame = none → h'.frame = none) ∧ (h.halted = false → h.image = none → h'.image = none)

/-- Core `c`'s base holds the share of `task` from `lo` to `hi`, marked where it asked while it was not cool (R49, R54, R58). -/
def HoldsShare (s t : State) (c part task lo hi : Nat) : Prop :=
  (coreOf t (baseCore (kernelFor s part task) c)).share =
    some ⟨part, task, lo, hi, !coolFor s (kernelFor s part task) c⟩

/-- A group as a team's start makes it (R55, R69, R83, R84). -/
def StartsAs (h : Group) (k : Kernel) (id : GroupId) (base : Nat) : Prop :=
  h.id = id ∧ h.live = true ∧ h.width = k.width ∧ h.core = base + (placeOf k id.group).1 ∧ h.quad = (placeOf k id.group).2 ∧
    h.sc.spc = BitVec.ofNat 64 k.sentry ∧ h.sc.regs = [] ∧ h.ln.mask = fullMask k.width ∧ h.ln.pos = .pop ∧ h.ln.v = [] ∧
    h.q = { dq := [], vq := [], rq := [] } ∧ h.ended = false ∧ h.killed = false ∧ h.sup = false ∧ h.fpstat = 0 ∧
    h.role = roleOf k.roles id.group 0

end Sys2Proof.Claims

/-- R35, R47 to R55, R58, R61 to R65, R71: a team starts with its groups, is saved and restored whole, a group's end frees its
allotment and with the last group its team, a launch's end writes the completion word, and an idle core whose request is the oldest of
its partition gets a waiting winner, a resume entry, a pending task, a task drawn from a launch queue or a list, or the upper half of
another core's share; a drawn task that it cannot take becomes pending, and one of a pre-empting queue for which no core has room
pre-empts a victim. Hot cores may ask once no idle core has been cool for 50 µs, and start what they got. The model's choices in it: log 18,
log 37, log 98, log 99 (a booked share waits for the saves of the pre-empted teams, a share of a core that is not cool still starts its
teams, a range is halved while its task's teams are being saved) and log 117 (a resumed team that was pre-empted again saves again). -/
def Obligations.WorkDistribution : Prop :=
  ∀ (s : State) (p : Partition) (sh : Share) (tm : Team) (g : Group) (tk : Task) (l : Loc),
    let c := s.inp.core
    let d := answered s c
    let part := s.inp.part
    let k := kernelFor s sh.part sh.task
    let compl := 1 + 2 * (if tk.ctxKilled then 2 else if tk.killedAny then 1 else 0) + (ptime s p).toNat % 2 ^ 48 * 2 ^ 16
    (findPart s part = some p → PartGives .hotCoreRequestDelay s part (if idleCool s p then { p with hotSince := none, hotMayAsk := false }
      else { p with hotSince := some (p.hotSince.getD s.dev.gtc)
                    hotMayAsk := (p.hotSince.map (fun t => decide (50000 ≤ (s.dev.gtc - t).toNat))).getD false })) ∧
    ((coreOf s c).share = none → (coreOf s c).booked = some sh →
      (residentOn s c ≠ [] ∨ (twinKernel k = true ∧ residentOn s (c + 1) ≠ []) → exec .teamStart s = .next s) ∧
      (residentOn s c = [] → (twinKernel k = true → residentOn s (c + 1) = []) → exec .teamStart s =
        exec .teamStart (setShare (modCore s c (fun x => { x with share := some sh, booked := none })) k c))) ∧
    ((coreOf s c).share = some sh → findPart s sh.part = some p → (p.state = 1 ∨ p.state = 2) → p.keptCtl = none → p.halts = [] →
      findTask s sh.part sh.task = some tk → tk.tt = none → (coolFor s k c = true ∨ sh.hot = true) → (coreOf s c).testing = [] →
      (twinKernel k = true → (coreOf s (c + 1)).testing = []) →
      (coreOf s c).booked = none → (coreOf s c).retiring = false →
      sh.cur < sh.hi → fitsAt s k c = true → saveRoom s p k = true →
      ∃ t, exec .teamStart s = .next t ∧ t.mem = s.mem ∧
        (coreOf t c).share = (if sh.cur + 1 = sh.hi then none else some { sh with cur := sh.cur + 1 }) ∧
        (∃ u ∈ allTeams t, u.part = sh.part ∧ u.task = sh.task ∧ u.index = sh.cur ∧ u.core = c ∧ u.kernel = k ∧ u.marker = 0 ∧
          u.saved = false ∧ u.startGtc = s.dev.gtc) ∧
        (∀ j, j < k.groups → ∃ h ∈ allGroups t, StartsAs h k ⟨sh.part, sh.task, sh.cur, j⟩ c) ∧
        ∀ h ∈ allGroups s, h ∈ allGroups t) ∧
    ((coreOf s c).share = some sh → (coreOf s c).booked = none → findPart s sh.part = some p →
      ((coolFor s k c = false ∧ sh.hot = false) ∨ sh.hi ≤ sh.cur ∨ fitsAt s k c = false) →
      exec .teamStart s = .next s) ∧
    (findTeam s part s.inp.idx s.inp.off = some tm → findPart s part = some p → tm.saving = true → tm.saved = false → p.state ≠ 4 →
      (coreOf s (2 * (tm.core / 2))).retiring = false →
      ((∃ h ∈ allGroups s, ofTeam h part s.inp.idx s.inp.off ∧ drainedGroup s h = false) → exec .teamSave s = .next s) ∧
      ((∀ h ∈ allGroups s, ofTeam h part s.inp.idx s.inp.off → drainedGroup s h = true) → ∃ t u, exec .teamSave s = .next t ∧
        t.mem = s.mem ∧ findTeam t part s.inp.idx s.inp.off = some u ∧ u.saved = true ∧
        (∀ id : GroupId, id.part = part → id.task = s.inp.idx → id.team = s.inp.off →
          (findGroup s id = none → findGroup t id = none) ∧
          ∀ h, findGroup s id = some h → ∃ h', findGroup t id = some h' ∧ SavedAs h h') ∧
        ∃ p', findPart t part = some p' ∧ p'.resume = p.resume ++ [.team s.inp.idx s.inp.off])) ∧
    (ownerOf s c = some p → ∀ i ∈ [Instr.teamResume, .idleCoreRequest],
      ((coreOf s c).asked = none → mayAsk s p c = false → exec i s = .next s) ∧
      ((coreOf s c).asked = none → mayAsk s p c = true →
        exec i s = .next (modCore s c (fun x => { x with asked := some s.dev.gtc }))) ∧
      ((coreOf s c).asked ≠ none → mayAsk s p c = false → exec i s = .next d) ∧
      ((coreOf s c).asked ≠ none → mayAsk s p c = true → isNextAsker s p c = false → exec i s = .next s)) ∧
    (Asks s c p → ∀ n, p.waiters.find? (fun m => takes s p (kernelFor s p.num m) c) = some n → findTask s p.num n = some tk →
      ∃ t p', exec .teamResume s = .next t ∧ HoldsShare s t c p.num n tk.lo tk.hi ∧ findPart t p.num = some p' ∧ n ∉ p'.waiters ∧
        p'.resume = p.resume) ∧
    (Asks s c p → p.waiters = [] → ∀ task idx,
      p.resume.find? (resumeFits s p c) = some (.team task idx) → findTeam s p.num task idx = some tm →
      (teamGroups s p.num task idx).Pairwise (fun a b => a.id ≠ b.id) →
      (∀ h ∈ teamGroups s p.num task idx, h.sup = false ∧ h.image = none) →
      ∃ t u p', exec .teamResume s = .next t ∧ findTeam t p.num task idx = some u ∧ u.saved = false ∧ (tm.again = true → u.saving = true) ∧
        u.core = baseCore (kernelFor s p.num task) c ∧ u.startGtc = s.dev.gtc ∧ findPart t p.num = some p' ∧
        p'.resume = p.resume.filter (fun r => decide (r ≠ .team task idx)) ∧
        (tm.again = false → ∀ h ∈ teamGroups s p.num task idx, h.halted = false → ∃ h' ∈ allGroups t, h' = { h with
          core := u.core + (placeOf tm.kernel h.id.group).1, quad := (placeOf tm.kernel h.id.group).2, qslot := h'.qslot
          saved := false, yielded := false, markStalled := false, waits := if h.ended then [(.ended, s.dev.gtc)] else []
          frame := none, image := none })) ∧
    (Asks s c p → p.waiters = [] → ∀ task lo hi,
      p.resume.find? (resumeFits s p c) = some (.range task lo hi) →
      (let saving := ∃ u ∈ allTeams s, u.part = p.num ∧ u.task = task ∧ u.saving = true ∧ u.saved = false
       (¬ saving → ∃ t, exec .teamResume s = .next t ∧ HoldsShare s t c p.num task lo hi) ∧
       (saving → ∃ t, exec .teamResume s = .next t ∧ HoldsShare s t c p.num task (lo + (hi - lo) / 2) hi))) ∧
    (findGroup s s.inp.g = some g → (g.ended = true ∨ groupOver s g = false) → exec .groupEnd s = .next s) ∧
    (findGroup s s.inp.g = some g → findTeam s g.id.part g.id.task g.id.team = some tm → g.ended = false → groupOver s g = true →
      ((∃ h ∈ allGroups s, ofTeam h g.id.part g.id.task g.id.team ∧ h.id ≠ g.id ∧ h.ended = false) →
        ∃ t g' u, exec .groupEnd s = .next t ∧ findGroup t g.id = some g' ∧ g'.ended = true ∧
          findTeam t g.id.part g.id.task g.id.team = some u ∧ sget 0 u.freeBlocks (quadKey tm g) =
            sget 0 tm.freeBlocks (quadKey tm g) + (if g.killed then 0 else g.allot / 4)) ∧
      ((∀ h ∈ allGroups s, ofTeam h g.id.part g.id.task g.id.team → h.id = g.id ∨ h.ended = true) →
        ∃ t, exec .groupEnd s = .next t ∧ (∀ h ∈ allGroups t, ¬ ofTeam h g.id.part g.id.task g.id.team) ∧
          ∀ u ∈ allTeams t, ¬(u.part = g.id.part ∧ u.task = g.id.task ∧ u.index = g.id.team))) ∧
    (findTask s part s.inp.idx = some tk → tk.ended = false → exec .launchCompletion s = .next s) ∧
    (findTask s part s.inp.idx = some tk → tk.ended = true →
      (tk.source ≠ 0 → ∃ t, exec .launchCompletion s = .next t ∧ t.mem = s.mem ∧
        ∀ x ∈ allTasks t, ¬(x.part = part ∧ x.num = s.inp.idx)) ∧
      (tk.source = 0 → findPart s part = some p → HostPage s part tk.complVA 8 true l →
        ∃ t, exec .launchCompletion s = .next t ∧ mread t.mem l.addr 8 = compl ∧
          (∀ a, a < l.addr ∨ l.addr + 8 ≤ a → mget t.mem a = mget s.mem a) ∧
          t.dev.msixOut = s.dev.msixOut ++ (if tk.msix then [(p.link, p.vf, tk.vector)] else []) ∧
          ∀ x ∈ allTasks t, ¬(x.part = part ∧ x.num = s.inp.idx))) ∧
    (Asking s c p → ∀ n, p.pending.find? (fun m => takes s p (kernelFor s p.num m) c) = some n → findTask s p.num n = some tk →
      ∃ t p', exec .idleCoreRequest s = .next t ∧ HoldsShare s t c p.num n tk.lo tk.hi ∧ findPart t p.num = some p' ∧ n ∉ p'.pending) ∧
    (Asking s c p → p.pending = [] → ∀ n, p.qf = [n] → p.qt = [] → findTask s p.num n = some tk → tk.tickets ≠ 0 →
      takes s p tk.kernel c = true →
      ∃ t p', exec .idleCoreRequest s = .next t ∧ HoldsShare s t c p.num n tk.lo tk.hi ∧ findPart t p.num = some p' ∧ p'.qf = [] ∧
        p'.x = nextDraw p.x ∧ sget 0 p'.ages 64 = 0) ∧
    (Asking s c p → p.pending = [] → p.qf = [] → p.qt = [] →
      (halveVictim s p c = none → ∃ t, exec .idleCoreRequest s = .next t ∧ t = { s with cores := t.cores, pt := t.pt, parts := t.parts } ∧
        (coreOf t c).asked = none ∧ ∀ d, (coreOf t d).share = (coreOf s d).share) ∧
      ∀ v, halveVictim s p c = some (v, sh) →
        let cool := coolCore s v && (!twinKernel k || coolCore s (v + 1))
        let m := if cool then sh.cur + (sh.hi - sh.cur) / 2 else sh.cur
        ∃ t, exec .idleCoreRequest s = .next t ∧
          (coreOf t (if twinKernel k then c - c % 2 else c)).share = some ⟨sh.part, sh.task, m, sh.hi, !coolFor s k c⟩ ∧
          (coreOf t v).share = if m = sh.cur then none else some { sh with hi := m }) ∧
    (∀ e n b kn lines, Draws s c p e n →
      GoodRecord (drawn s c p (ageStep p.ages (e.map Prod.fst) ((sourcesOf s p).map Prod.fst) n)) p.num (queueOf p n) b kn lines →
      let q := queueOf p n
      let num := freshTask s p
      let lo := frameFld b 8 4
      let hi := frameFld b 0xC 4
      let room := saveRoom s p kn = true ∧ ∃ v ∈ coresOf p, fitsAt s kn v = true
      ∃ t p' tk', exec .idleCoreRequest s = .next t ∧ findPart t p.num = some p' ∧ p'.x = nextDraw p.x ∧
        (queueOf p' n).head = q.head + 1 ∧ findTask t p.num num = some tk' ∧ TaskOf tk' q b kn ∧
        (∀ y ∈ sourcesOf s p, sget 0 p'.ages y.1 = if y.1 = n then 0 else if y ∈ e then sget 0 p.ages y.1 + 1 else sget 0 p.ages y.1) ∧
        (takes s p kn c = true → (coreOf t (baseCore kn c)).share = some ⟨p.num, num, lo, hi, !coolFor s kn c⟩ ∧
          p'.pending = p.pending) ∧
        (takes s p kn c = false → (q.preempt = false ∨ room) → p'.pending = p.pending ++ [num]) ∧
        (takes s p kn c = false → q.preempt = true → ¬ room →
          (preemptVictim s p kn = none → p'.waiters = p.waiters ++ [num] ∧ p'.pending = p.pending) ∧
          ∀ v, preemptVictim s p kn = some v → (coreOf t v).booked = some ⟨p.num, num, lo, hi, true⟩ ∧ (coreOf t v).share = none ∧
            ∀ y ∈ residentOn s v, ∃ y', findTeam t y.part y.task y.index = some y' ∧ y'.saving = true))

namespace Sys2Proof.Claims

/-- A trap of a stream of the group that waits where it stands. -/
def standing (s : State) (st : Stream) (num addr : Nat) (d : BitVec 192) : TrapInfo := ⟨num, addr, d, s.g.ln.mask, st, false⟩

/-- The turn is about the group in focus, whose team is neither saved, draining nor halted. -/
structure Counting (s : State) : Prop where
  focused : Focused s
  named : s.g.id = s.inp.g
  on : countsOff s s.g.id = false
  free : s.g.trapPend = none

/-- The first group whose running sum of tickets exceeds `n` (R81). -/
def lotteryPick : List (Group × Group) → Nat → Option (Group × Group)
  | [], _ => none
  | e :: r, n => if n < e.1.tickets.toNat then some e else lotteryPick r (n - e.1.tickets.toNat)

/-- The winner of a run lottery among groups, each with its next run (R81): an age of 64 first, else by tickets. -/
def lotteryWin (x : BitVec 32) (l : List (Group × Group)) : Option (Group × Group) :=
  let total := (l.map (fun e => e.1.tickets.toNat)).sum
  match l.find? (fun e => decide (64 ≤ e.1.age)) with
  | some e => some e
  | none => if total = 0 then none else lotteryPick l (x.toNat % total)

/-- The group in focus with an index that its lane stream awaits taken from DQ, where it may issue (R72, R77). -/
def polled (s : State) : State := if canIssue s then { s with g := popDQ s.g } else s

/-- The MARK of value `v` in the group in focus cannot go on under STALL (R135, R139): it is a legal value above the marker, and a page of a
range that it crosses is below its tier or in transit. -/
structure MarkStands (s : State) (v : Word) : Prop where
  user : s.g.sup = false
  legal : markBad s v = none
  moves : v.toNat ≠ s.tm.marker.toNat
  policy : ∃ b, s.tk.tt = some b ∧ b.policy = 0
  waits : unmet s (crossedBy s s.tm.marker.toNat v.toNat) ≠ []

/-- A debug command of partition `part` that has not been seen yet (R272). -/
structure DebugCmd (s : State) (part : Nat) (p : Partition) (op w : Nat) : Prop where
  here : findPart s part = some p
  word : ctlRead s part 0x6000 8 = w
  op' : w % 8 = op
  fresh : p.dbgWait = false ∧ w ≠ p.dbgLast.toNat

/-- The group is of the task and the roles of a debug command (R272). -/
def debugNamed (w part : Nat) (g : Group) : Prop :=
  g.id.part = part ∧ g.id.task = w / 2 ^ 32 % 2 ^ 32 ∧ (w / 2 ^ 8 % 2 ^ 4 / 2 ^ g.role % 2 = 1)

end Sys2Proof.Claims

/-- R72, R79 to R81, R255, R272, R273, R317: the lane slot goes to the winner of the quad's lottery, whose run starts; the others of the draw grow older, and
the groups that it leaves out lose their YIELD marks; a held trap enters the handler once no access is outstanding; a debug command halts,
resumes or steps the groups that it names, a halt and a step complete once they have stopped, and DBG_DONE advances then (R272, R273). The
model's choices in it: log 43 and log 76. -/
def Obligations.RunLotteryAndDebug : Prop :=
  ∀ (s : State) (p : Partition) (w : Nat),
    let core := s.inp.core
    let quad := s.inp.idx
    let part := s.inp.part
    let ready := (quadGroups s core quad).filterMap (fun g => (readyRun s g.id).map (fun r => (g, r)))
    let drawn := if ready.all (fun e => e.1.yielded) then ready else ready.filter (fun e => !e.1.yielded)
    let x := nextDraw (quadOf s core quad).x
    let noImage := ctlRead s part 0x6010 8 = 0
    ((quadOf s core quad).owner ≠ none ∨ ready = [] → exec .runArbitration s = .next s) ∧
    (quad < 4 → (quadOf s core quad).owner = none → ∀ g r, lotteryWin x drawn = some (g, r) →
      (s.inp.ecc ≠ .spill ∨ fills g.ln r.ln = false) →
      ∃ t, exec .runArbitration s = .next t ∧ t.mem = s.mem ∧
        quadOf t core quad = { quadOf s core quad with x := x, owner := if r.ln.pos = .inRun then some g.id else none } ∧
        (∀ h, findGroup s g.id = some h → findGroup t g.id = some { h with
          ln := r.ln, q := r.q, en := { h.en with acc := r.en.acc }, age := 0, yielded := false, waits := h.waits.filter (fun y => decide (waitStream y.1 ≠ some .lane)) }) ∧
        (∀ e ∈ drawn, e.1.id ≠ g.id → ∀ h, findGroup s e.1.id = some h →
          findGroup t e.1.id = some { h with age := h.age + 1, yielded := false }) ∧
        ((∃ e ∈ ready, e.1.yielded = false) → ∀ m ∈ quadGroups s core quad, (∀ e ∈ drawn, e.1.id ≠ m.id) →
          ∀ h, findGroup s m.id = some h → findGroup t m.id = some { h with yielded := false })) ∧
    (∀ t, s.g.live = true → s.g.id = s.inp.g → s.g.trapPend = some t →
      (s.g.en.acc = [] → exec .handlerEntry s = .next (takeTrap { s with g := { s.g with trapPend := none } } t)) ∧
      (s.g.en.acc ≠ [] → exec .handlerEntry s = .next s)) ∧
    (DebugCmd s part p 1 w → ∃ t p', exec .debugHalt s = .next t ∧ t.mem = s.mem ∧
      (∀ g ∈ allGroups t, debugNamed w part g → g.halted = true) ∧ findPart t part = some p' ∧ p'.dbgWait = true ∧
      p'.dbgLast = BitVec.ofNat 64 w ∧ p'.halts = p.halts ++ [⟨w / 2 ^ 32 % 2 ^ 32, BitVec.ofNat 4 (w / 2 ^ 8 % 2 ^ 4)⟩]) ∧
    (DebugCmd s part p 2 w → noImage → ∃ t p', exec .debugResume s = .next t ∧
      (∀ g ∈ allGroups t, debugNamed w part g → g.halted = false) ∧ findPart t part = some p' ∧ p'.dbgWait = false ∧
      ctlRead t part 0x6008 8 = (ctlRead s part 0x6008 8 + 1) % 2 ^ 64 ∧
      ∀ a, a < ctlKey part 0x6008 ∨ ctlKey part 0x6010 ≤ a → mget t.mem a = mget s.mem a) ∧
    (DebugCmd s part p 3 w → ∃ t p', exec .debugStep s = .next t ∧ t.mem = s.mem ∧ findPart t part = some p' ∧ p'.dbgWait = true ∧
      ∀ g ∈ allGroups s, debugNamed w part g → g.halted = true → g.ended = false →
        { g with halted := false, stepping := true, waits := [], drainAt := s.dev.gtc } ∈ allGroups t) ∧
    (findPart s part = some p → p.dbgWait = true → p.dbgLast.toNat % 8 = 1 →
      ((∃ g ∈ allGroups s, debugNamed p.dbgLast.toNat part g ∧ g.ended = false ∧ (g.halted = false ∨ g.ln.pos = .inRun)
          ∧ g.saved = false) → exec .debugHalt s = .next s) ∧
      (noImage → (∀ g ∈ allGroups s, debugNamed p.dbgLast.toNat part g → dbgStopped s g = true) →
        ∃ t p', exec .debugHalt s = .next t ∧ findPart t part = some p' ∧ p'.dbgWait = false ∧
          ctlRead t part 0x6008 8 = (ctlRead s part 0x6008 8 + 1) % 2 ^ 64 ∧ allGroups t = allGroups s))

/-- R75, R89, R135, R139, R209, R271: streams stuck on their own queues, a quad stuck in CLAIM, a starved stage barrier, and the
watchdogs of drains, stalled MARKs, accesses and team time take their traps where the group stands, once it has stood there for the
time given, and not for a team whose counts are suspended. The model's choices in it: log
26, log 42, log 45 and log 101. -/
def Obligations.DeadlocksAndWatchdogs : Prop :=
  ∀ (s : State) (cl : Claim) (k : Bool × Nat) (a : Access) (sa : BitVec 6) (tm : Team),
    let id := s.g.id
    let gs := teamGroups s id.part id.task id.team
    let quadMates := gs.filter (fun h => h.core == s.g.core && h.quad == s.g.quad && !h.killed)
    let u := polled s
    let wd := s.pt.partWd.toNat
    let inClaim := fun (h : Group) => s.tm.claims.any (fun c => c.group == h.id.group)
    let code := fun (n : Nat) => standing s .scalar 0x16 0 (det [(0, n)])
    (Counting s → s.g.skipS = false →
      (waited u u.g .queueL 64 = false → exec .queueDeadlock s = .next u) ∧
      (waited u u.g .queueL 64 = true → u.g.sc.exited = false → scalarQueueStall u = true → laneQueueStall u = true →
        waited u u.g .queueS 64 = true →
        exec .queueDeadlock s = .next (takeTrap u (standing u .scalar 0x08 0 (det [(0, u.g.ln.lpc)])))) ∧
      (u.g.sc.exited = false → (scalarQueueStall u = false ∨ laneQueueStall u = false ∨ waited u u.g .queueS 64 = false) →
        exec .queueDeadlock s = .next u) ∧
      (waited u u.g .queueL 64 = true → u.g.sc.exited = true →
        (laneRunStall u = true → exec .queueDeadlock s = .next (takeTrap u (standing u .lane 0x08 0 (det [(0, u.g.sc.spc.toNat)])))) ∧
        ∀ g, laneRunStall u = false → runEndStall u = some g →
          let v := { u with g := { g with ln := { g.ln with pos := .start } } }
          exec .queueDeadlock s = .next (takeTrap v (standing v .lane 0x08 0 (det [(0, v.g.sc.spc.toNat)])))) ∧
      (u.g.sc.exited = true → laneRunStall u = false → runEndStall u = none → exec .queueDeadlock s = .next u)) ∧
    (Counting s → s.g.killed = false → quadMates.filter inClaim = [s.g] → (∀ h ∈ quadMates, waitsOn s h = true) →
      s.tm.claims.find? (fun c => c.group == id.group) = some cl →
      exec .claimDeadlock s = .next (takeTrap s (standing s .scalar 0x07 0 (det [(0, cl.n), (4, blocksFree s)])))) ∧
    (Counting s → ((∃ h ∈ quadMates, waitsOn s h = false) ∨ quadMates.filter inClaim = []) →
      exec .claimDeadlock s = .next s) ∧
    (Counting s → ∀ ph, s.g.sc.sbWait = some (k, ph) → k.1 = ownSide s →
      let v := mread (spOf s.tm k.1) k.2 16
      (fld v 32 32 < fld v 0 32 → fld v 100 1 = ph → waited s s.g .starved s.pt.stageWd.toNat = true → ∃ u, exec .stageStarved s =
          .next (takeTrap u (standing s .scalar 0x09 k.2 (det [(0, fld v 32 32), (4, fld v 0 32)]))) ∧
        u = { s with tm := u.tm } ∧ sbField u k.1 k.2 102 1 = 1 ∧ sbField u k.1 k.2 0 102 = fld v 0 102) ∧
      (fld v 0 32 ≤ fld v 32 32 ∨ fld v 100 1 ≠ ph ∨ waited s s.g .starved s.pt.stageWd.toNat = false → exec .stageStarved s = .next s)) ∧
    (Focused s → s.g.id = s.inp.g → s.g.draining = true → s.g.killed = false → s.g.ended = false → s.g.saved = false →
      s.g.ln.pos = .inRun → s.g.en.acc = [] → s.g.en.copies = [] → (∀ h ∈ gs, (coreOf s h.core).testing = []) → wd ≤ clkSince s s.g.drainAt →
      (∀ h ∈ s.groups, h.id ≠ id) →
      (∀ c ∈ (coreOf s s.g.core).wheelQ ++ (coreOf s s.g.core).wheelRun, c.group ≠ id) →
      ∃ u v, exec .drainWatchdog s = .next { v with
          g := if v.g.killed then { v.g with saved := false, draining := false } else keepFrame v { v.g with saved := true, draining := false } } ∧
        v = takeTrap u (code 1) ∧ (∀ c, coreOf u c = coreOf s c) ∧ u = { s with
          cores := u.cores
          g := { s.g with en := { s.g.en with
            batches := s.g.en.batches.map (fun b => if b.retired then b else { b with engine := true }) } } }) ∧
    (Focused s → s.g.id = s.inp.g → ((s.g.draining = false ∧ s.g.halted = false) ∨ (∃ h ∈ gs, (coreOf s h.core).testing ≠ []) ∨
      clkSince s s.g.drainAt < wd ∨ drainedGroup s s.g = true) → exec .drainWatchdog s = .next s) ∧
    (Counting s → (∃ u, fetchScalar s = .run (.mark sa) u) → quiet s .scalar = true →
      (MarkStands s (sreg s sa) → waited s s.g .mark wd = true → exec .markStallWatchdog s = .next (takeTrap s (code 2))) ∧
      (s.tk.tt = none ∨ waited s s.g .mark wd = false → exec .markStallWatchdog s = .next s)) ∧
    (Counting s → waited s s.g .accessS wd = true → s.inp.flag = false → s.inp.idx = 0 → s.g.en.acc = [a] → a.stream = .scalar → (∃ n x d, a.kind = .load n x d) →
      exec .accessWatchdog s = .next (takeTrap { s with g := { undone s.g a.undo with
        sc := { s.g.sc with spc := BitVec.ofNat 64 a.pc, regs := sputs 0 s.g.sc.regs a.undo.regs }, en := { s.g.en with acc := [], ld := s.g.en.ld - 1 } } } (code 3))) ∧
    (Focused s → s.inp.part = id.part → s.inp.idx = id.task → s.inp.off = id.team → gs = [s.g] → s.tm.saved = false →
      (coreOf s s.g.core).testing = [] → s.g.killed = false → s.g.ended = false → s.g.saved = false → s.g.draining = false →
      s.g.halted = false → s.tm.kernel.teamtime ≠ 0 →
      let restart := fun (u : State) => modTeam u id.part id.task id.team (fun x => { x with startGtc := s.dev.gtc })
      (6 * (s.dev.gtc - s.tm.startGtc).toNat < 5 * s.tm.kernel.teamtime → exec .teamTimeWatchdog s = .next s) ∧
      (5 * s.tm.kernel.teamtime ≤ 6 * (s.dev.gtc - s.tm.startGtc).toNat →
        (s.g.trapPend = none → exec .teamTimeWatchdog s = .next (restart (takeTrap s (code 4)))) ∧
        (s.g.trapPend ≠ none → exec .teamTimeWatchdog s = .next (restart { s with g := { s.g with timeUp := true } })))) ∧
    (findTeam s s.inp.part s.inp.idx s.inp.off = some tm → tm.kernel.teamtime = 0 → exec .teamTimeWatchdog s = .next s)

namespace Sys2Proof.Claims

/-- The turn lets access `idx` of the group in focus, which has one lane left and none answered, answer: the access is `a`, its lane
`x`, on sound bytes of this package's or the host's memory in a quiet partition, with a clean line (R197, R265). -/
structure Answering (s : State) (a : Access) (x : LaneAcc) (n : Nat) (p : Partition) : Prop where
  focused : Focused s
  named : s.g.id = s.inp.g
  acc : s.g.en.acc = [a]
  index : s.inp.idx = 0
  lane : a.lanes = [x] ∧ s.inp.off = x.lane
  first : a.read = [] ∧ a.fails = []
  quiet : QuietPart s s.g.id.part p
  place : x.loc.scratch = false ∧ x.loc.addr + n ≤ 3 * spaceSize
  sound : poisoned s x.loc.addr n = false
  clean : s.inp.ecc = .clean
  whole : upperPart x.loc n = none
  free : s.g.trapPend = none ∧ s.g.killed = false

/-- The bytes below the control pages that a write of `n` bytes at `l` leaves. -/
def bytesKept (s t : State) (lo n : Nat) : Prop := ∀ a, a < lo ∨ lo + n ≤ a → mget t.mem a = mget s.mem a

/-- A page of a context that its tables map: the leaf of a single page, local, in a tier (R115, R116). -/
structure PageAt (s : State) (part ctx va : Nat) (l : Leaf) : Prop where
  walk' : pageOf s part ctx va = some l
  single : ¬(l.level = 0 ∧ bit l.pte 2 = true)
  local' : bit l.pte 63 = false ∧ fld l.pte 5 3 < 4

end Sys2Proof.Claims

/-- R13, R117, R164, R181, R186, R197, R265, R331, R333 to R335: a walk fills the TLB, with one entry for the whole of a 64 KiB page (R118), and sets A and D; an issued load writes its
register, a store its bytes, an atomic both when they perform; a second-tier timeout is POISON to its consumer. The model's choices
in it: log 7, log 34, log 35, log 103 and log 106. -/
def Obligations.AccessesPerform : Prop :=
  ∀ (s : State) (a : Access) (x : LaneAcc) (p : Partition) (l : Leaf),
    let part := s.g.id.part
    let ctx := s.tk.ctx
    let gone := fun (t : State) => t.g.en.acc = [] ∧ t.g.sc.spc = s.g.sc.spc ∧ t.g.ln = s.g.ln ∧ t.g.q = s.g.q
    (Focused s → s.g.id = s.inp.g → (tlbFind s.pt (me s).unit ctx s.inp.va).isSome = true → exec .pageWalk s = .next s) ∧
    (Focused s → s.g.id = s.inp.g → vaCheck s.inp.va s.g.sup = none → s.inp.va < ctlVA →
      tlbFind s.pt (me s).unit ctx s.inp.va = none →
      (∀ n d, walk s part ctx s.inp.va = .trap n d → exec .pageWalk s = .next s) ∧
      (walk s part ctx s.inp.va = .leaf l → s.inp.ecc = .clean → poisoned s l.key 1 = false → permFail l.pte l.level s.g.sup s.inp.flag (!s.inp.flag) = none →
        physOk s.dev.t2Bytes (leafKey l.pte s.inp.va l.size) = true → l.va ≤ s.inp.va → s.inp.va < l.va + l.size → l.pte < 2 ^ 64 →
        let many := l.level = 0 ∧ bit l.pte 2 = true
        let k := if many then l.va / 4096 % 16 else 0
        ∃ t e w, exec .pageWalk s = .next t ∧ tlbFind t.pt (me s).unit ctx s.inp.va = some e ∧ e.va = l.va - 4096 * k ∧
          e.size = (if many then 65536 else l.size) ∧ e.pte = BitVec.ofNat 64 (w - 4096 * k) ∧
          bit w 59 = true ∧ (s.inp.flag = true → bit w 11 = true) ∧
          mread t.mem l.key 8 = (if w = l.pte then mread s.mem l.key 8 else w) ∧
          bytesKept s t l.key 8 ∧ t.g = s.g)) ∧
    (∀ n sext dst, Answering s a x n p → a.kind = .load n sext dst → a.stream = .scalar → a.ord.toNat < 3 → 0 < n → n ≤ 8 →
      x.lane = 0 → dst ≠ 0 →
      let v := l1Read s s.g.core x.loc.addr n
      ∃ t, exec .loadDataReturn s = .next t ∧ gone t ∧ t.mem = s.mem ∧ t.g.en.ld = s.g.en.ld - 1 ∧
        sregOf t.g dst = (if sext then BitVec.ofInt 64 (signed 32 v) else BitVec.ofNat 64 (v % 2 ^ (8 * n))) ∧
        ∀ r, r ≠ dst → sregOf t.g r = sregOf s.g r) ∧
    (∀ n, Answering s a x n p → a.kind = .store n → a.ord.toNat < 3 → 0 < n →
      ∃ t, exec .storePerform s = .next t ∧ gone t ∧ t.g.en.st = s.g.en.st - 1 ∧ (∀ r, sregOf t.g r = sregOf s.g r) ∧
        mread t.mem x.loc.addr n = x.y % 256 ^ n ∧ bytesKept s t x.loc.addr n) ∧
    (∀ n op dst, Answering s a x n p → a.kind = .atomic n op true dst → a.stream = .scalar → a.ord.toNat < 3 → n = 8 → dst ≠ 0 →
      x.lane = 0 →
      let v := mread s.mem x.loc.addr n
      ∃ t, exec .atomicPerform s = .next t ∧ gone t ∧ sregOf t.g dst = BitVec.ofNat 64 v ∧
        (∀ r, r ≠ dst → sregOf t.g r = sregOf s.g r) ∧
        mread t.mem x.loc.addr n = ((atomNew op n v x.y x.c).getD v) % 256 ^ n ∧ bytesKept s t x.loc.addr n) ∧
    (∀ n sext dst, Answering s a x n p → a.kind = .load n sext dst → a.stream = .scalar → spaceSize ≤ x.loc.addr →
      x.loc.addr < 2 * spaceSize → s.inp.port < 4 → sevAction p 0x23 (0x2008 + s.inp.port) = 0 →
      sevAction p 0x26 (0x2008 + s.inp.port) = 0 →
      ∃ u r, exec .secondTierTimeout s = .next (takeTrap u ⟨0x0F, x.loc.va, 0, r, .scalar, false⟩) ∧
        u.g.sc.spc = BitVec.ofNat 64 a.pc ∧ u.g.en.acc = [] ∧ (∀ k, k ≠ 0 → sregOf u.g k = sget 0 (sputs 0 s.g.sc.regs a.undo.regs) k) ∧ r = maskOf [x.lane] ∧
        (∃ p', findPart u part = some p') ∧ u.dev.poison = s.dev.poison)

/-- R120 to R123, R126, R133, R134, R137: shootdowns leave the TLBs and the walk cache at once and complete in order with their word and the
head; the demotion engine of a tier wakes below LOW, stops at HIGH or without a victim, and clears A of the page that its hand comes to
or moves it down a tier; what a partition owes from a freeze goes first, then a released instance begins, or wakes
the demotion engine of the tier and waits for space, and is abandoned once that has found no victim; a completed move rewrites its entry with the bytes carried, a PIN
beyond half the ways is diverted and counted once; and a dropped granule reads zero. The model's choices in it: log 12, log 48 and log
110. -/
def Obligations.ShootdownsAndTierMoves : Prop :=
  ∀ (s : State) (p : Partition) (l : Leaf) (r : Shoot) (rest : List Shoot) (m : Move) (i : Instance) (lc : Loc),
    let part := s.inp.part
    let tail := BitVec.ofNat 32 (ctlRead s part 0x0800 4)
    let rec' := shootOf s part p.shootTail.toNat
    let hit := fun (e : TlbEntry) => decide (e.ctx = rec'.ctx) && inRange rec'.va rec'.log2 e.va e.size
    let pages := (p.tlb.filter (fun e => hit e && decide (e.unit ≤ partUnit))).map (fun e => (e.va, e.size))
    let tier := s.inp.idx
    let high := max (ctlRead s part (0x2000 + 16 * tier) 8) (ctlRead s part (0x2008 + 16 * tier) 8)
    let wakes := p.demoting.contains tier || belowLow s part tier
    let idle := p.holds = [] ∧ p.revs = [] ∧ p.moves = [] ∧ p.owed = [] ∧ (p.state = 1 ∨ p.state = 2) ∧ p.keptCtl = none
    (findPart s part = some p → tail = p.shootTail → exec .shootdownTailEvent s = .next s) ∧
    (findPart s part = some p → tail = p.shootTail + 1 → ∃ t p', exec .shootdownTailEvent s = .next t ∧ t.mem = s.mem ∧
      findPart t part = some p' ∧ p'.shootTail = tail ∧ p'.shoots = p.shoots ++ [{ rec' with ranges := rec'.ranges ++ pages }] ∧
      (∀ e, e ∈ p'.tlb ↔ e ∈ p.tlb ∧ (hit e = false ∨ partUnit < e.unit)) ∧
      ∀ w, w ∈ p'.walks ↔ w ∈ p.walks ∧ ¬(w.ctx = rec'.ctx ∧ inRange rec'.va rec'.log2 w.va w.size = true)) ∧
    (findPart s part = some p → (p.shoots = [] ∨ (p.shoots = r :: rest ∧ shootBusy s p.num r = true)) →
      exec .shootdownComplete s = .next s) ∧
    (findPart s part = some p → p.shoots = r :: rest → shootBusy s p.num r = false → r.compl % 8 = 0 →
      HostPage s part r.compl 8 true lc →
      ∃ t p', exec .shootdownComplete s = .next t ∧ mread t.mem lc.addr 8 = 1 ∧ ctlRead t part 0x0804 4 = (p.shootHead + 1).toNat ∧
        findPart t part = some p' ∧ p'.shoots = rest ∧ p'.shootHead = p.shootHead + 1) ∧
    (findPart s part = some p → (activePart p = false ∨ 4 ≤ tier ∨ wakes = false) → exec .demotionVictimSelect s = .next s) ∧
    (findPart s part = some p → activePart p = true → tier < 4 → wakes = true → (high = 0 ∨ high ≤ (Config.tierFree s.tick part tier).toNat) →
      PartGives .demotionVictimSelect s part { p with demoting := p.demoting.filter (fun x => x != tier) }) ∧
    (findPart s part = some p → activePart p = true → tier < 4 → wakes = true → 0 < high → (Config.tierFree s.tick part tier).toNat < high →
      nextVictim s p tier = none → ∃ t p', exec .demotionVictimSelect s = .next t ∧ t.mem = s.mem ∧ findPart t part = some p' ∧
        tier ∈ p'.noVictim ∧ tier ∉ p'.demoting ∧ p'.moves = p.moves) ∧
    (∀ c ctx g, findPart s part = some p → nextVictim s p tier = some (c, ctx, g, l) → tierOf l = tier ∧ fld l.pte 3 2 = c ∧
      heldPage p ctx g.va g.size = false ∧ inTransit p ctx g.va = false ∧
      (activePart p = true → tier < 4 → wakes = true → 0 < high → (Config.tierFree s.tick part tier).toNat < high →
        (bit l.pte 59 = true → l.pte < 2 ^ 64 → ∃ t, exec .demotionVictimSelect s = .next t ∧ mread t.mem l.key 8 = l.pte - 2 ^ 59 ∧
          bytesKept s t l.key 8) ∧
        (bit l.pte 59 = false → tier = 0 → ∃ t p', exec .demotionVictimSelect s = .next t ∧ findPart t part = some p' ∧
          p'.moves = p.moves ∧ tier ∈ p'.demoting ∧ p'.demoteRing = p.demoteRing) ∧
        (bit l.pte 59 = false → (tier = 1 ∨ tier = 2) → ∃ t p', exec .demotionVictimSelect s = .next t ∧ t.mem = s.mem ∧
          findPart t part = some p' ∧ p'.moves = p.moves ++ [⟨ctx, g.va, g.size, (wholePage l).1, tier + 1, none, 4 + tier⟩]) ∧
        (bit l.pte 59 = false → tier = 3 → ∃ t p', exec .demotionVictimSelect s = .next t ∧ t.mem = s.mem ∧
          findPart t part = some p' ∧ p'.demoteRing = p.demoteRing ++ [g.va] ∧ p'.moves = p.moves))) ∧
    (findPart s part = some p → (p.state = 3 ∨ p.insts = []) → p.holds = [] → exec .tierEngineInstanceBegin s = .next s) ∧
    (findPart s part = some p → idle → p.insts = [i] → i.die = s.inp.idx → i.done = 0 → begunCount p < 4096 →
      ∀ e, instEntry s part i = some e → e.kind = 0 → e.length ≤ 4096 →
      i.start % 4096 = 0 → i.start + e.length ≤ 2 ^ 55 → 0 < e.length → PageAt s part (instCtx s part i) i.start l →
      l.va = i.start → l.size = 4096 → e.tier < fld l.pte 5 3 →
      (i.woke = none → belowLow s part e.tier = false → ∃ t p', exec .tierEngineInstanceBegin s = .next t ∧ t.mem = s.mem ∧
        findPart t part = some p' ∧ p'.insts = [] ∧ p'.moves = [⟨instCtx s part i, l.va, l.size, l.key, e.tier, some i, 0⟩]) ∧
      (i.woke = none → belowLow s part e.tier = true → ∃ t p', exec .tierEngineInstanceBegin s = .next t ∧ t.mem = s.mem ∧
        findPart t part = some p' ∧ p'.insts = [{ i with woke := some e.tier }] ∧ p'.moves = [] ∧ e.tier ∈ p'.demoting ∧
        e.tier ∉ p'.noVictim) ∧
      (i.woke = some e.tier → belowLow s part e.tier = true → e.tier ∈ p.noVictim → ∃ t p', exec .tierEngineInstanceBegin s = .next t ∧
        t.mem = s.mem ∧ findPart t part = some p' ∧ p'.insts = [] ∧ p'.moves = [])) ∧
    (findPart s part = some p → activePart p = true → p.owed ≠ [] →
      PartGives .tierEngineInstanceBegin s part { p with moves := p.moves ++ p.owed, owed := [] }) ∧
    (findPart s part = some p → p.moves[s.inp.idx]? = some m → readInUse s part m.ctx m.va (m.va + m.size) = true →
      exec .tierMoveComplete s = .next s) ∧
    (findPart s part = some p → p.moves[s.inp.idx]? = some m → readInUse s part m.ctx m.va (m.va + m.size) = false →
      pageOf s part m.ctx m.va = none → PartGives .tierMoveComplete s part { p with moves := p.moves.eraseIdx s.inp.idx }) ∧
    (∀ e, findPart s part = some p → p.moves[s.inp.idx]? = some m → readInUse s part m.ctx m.va (m.va + m.size) = false →
      s.inp.ecc = .clean → PageAt s part m.ctx m.va l → m.tier = 0 → fld l.pte 5 3 = 1 → m.inst = some i →
      instEntry s part i = some e → e.kind = 3 → pinsTooMany s p (leafKey l.pte m.va l.size) m.size = true → i ∉ p.shorts →
      ∃ t p', exec .tierMoveComplete s = .next t ∧ t.mem = s.mem ∧ findPart t part = some p' ∧ p'.moves = p.moves.eraseIdx s.inp.idx ∧
        p'.shorts = p.shorts ++ [i] ∧
        ∀ u ∈ allTeams s, u.part = part → u.task = i.task → (i.team = none ∨ i.team = some u.index) →
          { u with skips := min 0xFFFF u.skips, short := min 0xFFFF (u.short + 1) } ∈ allTeams t) ∧
    (findPart s part = some p → p.moves = [m] → s.inp.idx = 0 → s.inp.ecc = .clean → m.inst = none →
      readInUse s part m.ctx m.va (m.va + m.size) = false → PageAt s part m.ctx m.va l → l.pte < 2 ^ 64 → l.va = m.va → l.size = m.size →
      fld l.pte 5 3 = 0 → m.tier = 1 → s.dev.poison = [] →
      pageOf { s with mem := mwrite s.mem l.key 8 (l.pte + 32) } part m.ctx m.va = some { l with pte := l.pte + 32 } →
      ∃ t p', exec .tierMoveComplete s = .next t ∧ findPart t part = some p' ∧ p'.moves = [] ∧
        (mread t.mem l.key 8) / 2 ^ 5 % 2 ^ 3 = 1 ∧ frameOf (mread t.mem l.key 8) = frameOf l.pte ∧ bytesKept s t l.key 8 ∧
        ∀ e ∈ p'.tlb, e.unit ≤ partUnit → ¬(e.ctx = m.ctx ∧ l.va ≤ e.va ∧ e.va < l.va + l.size)) ∧
    (∀ d, findPart s part = some p → p.drops[s.inp.idx]? = some d → d.begun = true → inTransit p d.ctx d.va = false →
      PageAt s part d.ctx d.va l →
      (dropExempt s part d.ctx d.va l = false → ∃ t p', exec .dropGranule s = .next t ∧ findPart t part = some p' ∧
        p'.drops = p.drops.eraseIdx s.inp.idx ∧
        (∀ a, leafKey l.pte d.va l.size ≤ a → a < leafKey l.pte d.va l.size + 4096 → mget t.mem a = 0) ∧
        bytesKept s t (leafKey l.pte d.va l.size) 4096) ∧
      (dropExempt s part d.ctx d.va l = true → ∃ t p', exec .dropGranule s = .next t ∧ findPart t part = some p' ∧
        p'.drops = p.drops.eraseIdx s.inp.idx ∧ t.mem = s.mem)) ∧
    (∀ d, findPart s part = some p → p.drops[s.inp.idx]? = some d → (d.begun = false ∨ inTransit p d.ctx d.va = true) →
      exec .dropGranule s = .next s)

namespace Sys2Proof.Claims

/-- The first copy of group `g`, the only one, with the core and the group's team at work. -/
structure FirstCopy (s : State) (g : Group) (c : Copy) (tm : Team) : Prop where
  here : findGroup s s.inp.g = some g
  team : findTeam s g.id.part g.id.task g.id.team = some tm
  only : g.en.copies = [c] ∧ s.inp.idx = 0
  core : (coreOf s g.core).testing = []

/-- The group's copies after an event. -/
def copiesOf (t : State) (id : GroupId) : Option (List Copy) := (findGroup t id).map (fun g => g.en.copies)

/-- A tensor record of one row of 16 F32 elements, side by side in memory and at a block of a scratchpad (R201, R203). -/
structure RowCopy (r : TensorRec) : Prop where
  kind : r.kind = 0 ∧ r.fmt = 0 ∧ r.rank = 1 ∧ r.swz = 0 ∧ r.trans = false
  dims : r.dims = [⟨16, 16, 1, 0, 0⟩]
  place : r.dest % 64 = 0 ∧ r.dest + 64 ≤ 2 ^ 20 ∧ r.base + 64 ≤ 2 ^ 64

/-- A landed beat of `m` bytes counts at the stage barrier at `a` of a scratchpad, whose team was not killed (R207, R208). -/
def BeatCounted (t v : Team) (odd : Bool) (a m : Nat) : Prop :=
  let f := fun (u : Team) (lo n : Nat) => mread (spOf u odd) a 16 / 2 ^ lo % 2 ^ n
  let room := f t 0 32 - f t 32 32
  let got := f t 32 32 + min m room
  if f t 80 16 = f t 64 16 ∧ got = f t 0 32 then
    f v 100 1 = 1 - f t 100 1 ∧ f v 101 1 = (if room < m ∨ (odd, a) ∈ t.excess then 1 else 0) ∧
      f v 80 16 = 0 ∧ f v 32 32 = 0 ∧ f v 0 32 = 0 ∧ f v 64 16 = f t 64 16
  else f v 32 32 = got ∧ f v 0 32 = f t 0 32 ∧ f v 64 64 = f t 64 64

/-- A TEDGE that writes an edge from an operand slot to the scratchpad is the oldest command of an idle Wheel (R230, R364). -/
structure EdgeWaits (s : State) (core : Nat) (g : Group) (tm : Team) (w : TileCmd) (k : Nat) : Prop where
  wheel : (coreOf s core).wheelQ = [w] ∧ (coreOf s core).wheelRun = [] ∧ (coreOf s core).testing = []
  here : findGroup s w.group = some g ∧ g.id = w.group
  team : findTeam s w.group.part w.group.task w.group.team = some tm
  word : w.op = .tedge ∧ w.word.toNat % 16 = k ∧ w.word.toNat / 2 ^ 16 % 4 = 1 ∧ w.slots = [k]
  place : w.arg.toNat + 256 * (w.word.toNat / 2 ^ 10 % 64 + 1) ≤ 2 ^ 20
  clean : s.inp.ecc = .clean

/-- The child's, the parent's and the ancestor's element merge by a policy of R147 and R148 on integers; `z` is the element's bytes. -/
def mergeRule (merge z : Nat) (uns later : Bool) (p c a : Nat) : Nat :=
  let n := 2 ^ (8 * z)
  let le := fun (x y : Nat) => if uns then decide (x ≤ y) else decide (signed (8 * z) x ≤ signed (8 * z) y)
  if merge = 8 ∨ c = a then p
  else if p = a then c
  else
    match merge with
    | 0 => c
    | 1 => p
    | 2 => ((p : Int) + c - a) % (n : Int) |>.toNat
    | 3 => if le p c then c else p
    | 4 => if le p c then p else c
    | 5 => p ^^^ (c ^^^ a)
    | _ => if later then p else c

end Sys2Proof.Claims

/-- R147 to R149, R153 to R156: the merge keeps the parent's element where the child did not change it, takes the child's where only
it changed, and applies the policy where both did; a join of a revision without copies publishes nothing and closes with its word.
The model's choices in it: log 56 and log 86. -/
def Obligations.MergeAndJoinSteps : Prop :=
  ∀ (s : State) (pt : Partition) (r : Revision) (tk : Task),
    let part := s.inp.part
    let word := fun (code : Nat) => BitVec.ofNat 64 (1 + 2 * code + (ptime s pt).toNat % 2 ^ 48 * 2 ^ 16)
    (∀ merge elem p c a later, merge ≤ 8 → merge ≠ 7 → elem < 8 → p < 2 ^ (8 * mergeSize elem) → c < 2 ^ (8 * mergeSize elem) →
      a < 2 ^ (8 * mergeSize elem) →
      mergeElem merge elem p c a later = mergeRule merge (mergeSize elem) (decide (elem < 4)) later p c a) ∧
    (∀ merge elem p c a later, (c = a → mergeElem merge elem p c a later = p) ∧
      (merge ≠ 8 → p = a → mergeElem merge elem p c a later = c)) ∧
    (findPart s part = some pt → findRev pt s.inp.idx = some r → r.state ≠ 3 →
      exec .joinMerge s = .next s ∧ exec .joinPublish s = .next s) ∧
    (findPart s part = some pt → findRev pt s.inp.idx = some r → r.state = 3 → r.grans = [] →
      exec .joinMerge s = .next s ∧
      ∃ t p' r', exec .joinPublish s = .next t ∧ findPart t part = some p' ∧ findRev p' r.num = some r' ∧ r'.state = 4 ∧
        r'.word = word (if r.killed then 1 else 0)) ∧
    (∀ g c a f l reg, findPart s part = some pt → findRev pt s.inp.idx = some r → r.state = 3 → r.grans = [g] → g.child = some c →
      g.anc = some a → g.merge = some f → g.home = some l → r.regions = [reg] → regionHas reg g.va = true → reg.elem < 8 →
      findRev pt r.parentRev = none → r.parentRev = 0 → s.inp.ecc = .clean →
      let z := mergeSize reg.elem
      ∃ t, exec .joinMerge s = .next t ∧ (∀ j, j < 4096 / z → mread t.mem (physKey 0 f + z * j) z =
          mergeElem reg.merge reg.elem (mread s.mem (l.addr + z * j) z) (mread s.mem (physKey 0 c + z * j) z)
            (mread s.mem (physKey 0 a + z * j) z)
            (decide (stampAt pt (physKey 0 c + z * j) z < stampAt pt (l.addr + z * j) z))) ∧
        ∀ b, b < physKey 0 f ∨ physKey 0 f + 4096 ≤ b → mget t.mem b = mget s.mem b) ∧
    (findTask s part s.inp.idx = some tk → (tk.left ≠ 0 ∨ tk.ended = true) → exec .implicitJoin s = .next s) ∧
    (findTask s part s.inp.idx = some tk → tk.left = 0 → tk.ended = false → findPart s part = some pt →
      (∀ q ∈ pt.revs, ¬(q.parent = tk.num ∧ q.state < 4)) → ∃ t k, exec .implicitJoin s = .next t ∧
        findTask t part s.inp.idx = some k ∧ k.ended = true) ∧
    (findTask s part s.inp.idx = some tk → tk.left = 0 → tk.ended = false → findPart s part = some pt → pt.revs = [r] →
      r.parent = tk.num → r.state < 4 →
      (r.state ≠ 2 → exec .implicitJoin s = .next s) ∧
      (r.state = 2 → r.grans = [] → ∃ t p' r', exec .implicitJoin s = .next t ∧ findPart t part = some p' ∧
        findRev p' r.num = some r' ∧ r'.state = (if r.discard ∧ r.killed then 5 else 4) ∧
        r'.word = word (if r.discard ∧ r.killed then 2 else if r.killed then 1 else 0)))

/-- R135, R196 to R200, R203, R206, R208, R210, R223 to R231: a stalled MARK is evaluated again; a copy starts when its slot allows, a
lane copy transfer by transfer, lands its beats, counts them at its barrier, whose phase completes (R208), and ends with its status word; a
tile command waits for a slot that fills and for one that a copy is still to fill, drops on a claimed slot with nothing pending, starts on
a ready or used one, which is then in use (R230), and retires with its counter, batch and slots. The model's choices in it: log 87, log 90
and log 94. -/
def Obligations.EngineSteps : Prop :=
  ∀ (s : State) (g : Group) (c : Copy) (tm : Team) (r : TensorRec) (w : TileCmd) (sa : BitVec 6) (u : State) (p : Partition)
    (l : Nat → Loc),
    let core := s.inp.core
    (Focused s → s.g.id = s.inp.g → fetchScalar s = .run (.mark sa) u → exec .markReevaluate s = exec (.mark sa) u) ∧
    (FirstCopy s g c tm → c.started = false → copySlot c = none → ∃ t, exec .copyStart s = .next t ∧
      copiesOf t g.id = some [{ c with started := true, begun := c.begun + 1 }] ∧ t.mem = s.mem) ∧
    (FirstCopy s g c tm → c.started = false → ∀ k, copySlot c = some k →
      ((slotOf tm k).st = .filling ∨ (slotOf tm k).st = .inUse ∨ (slotOf tm k).st = .free → exec .copyStart s = .next s) ∧
      ((slotOf tm k).st = .claimed ∨ (slotOf tm k).st = .ready → ∃ t v, exec .copyStart s = .next t ∧
        copiesOf t g.id = some [{ c with started := true, begun := c.begun + 1 }] ∧ findTeam t g.id.part g.id.task g.id.team = some v ∧
        (slotOf v k).st = .filling ∧ ∀ j, j ≠ k → slotOf v j = slotOf tm j)) ∧
    (FirstCopy s g c tm → c.started = true → (moreTransfers tm c = false → exec .copyStart s = .next s) ∧
      (moreTransfers tm c = true → ∃ t, exec .copyStart s = .next t ∧
        copiesOf t g.id = some [{ c with started := true, begun := c.begun + 1 }] ∧ t.mem = s.mem)) ∧
    (FirstCopy s g c tm → s.inp.flag = false → (c.started = false ∨ c.code ≠ 0 ∨
        s.inp.size ∉ ((rowElems r s.inp.off).flatMap (elemBytes r)).map (· / 64)) →
      c.kind = .tensor r → exec .copyBeatLand s = .next s) ∧
    (FirstCopy s g c tm → c.started = true → c.code = 0 → c.kind = .tensor r → c.landed = [] → RowCopy r → c.bound = none →
      s.inp.flag = false → c.visited = 0 → c.got = [] →
      (∀ b, c.barrier = some b → b + 16 ≤ 2 ^ 20 ∧ tm.killed = 0 ∧ (b + 16 ≤ r.dest ∨ r.dest + 64 ≤ b)) → s.inp.off = 0 → s.inp.size = r.dest / 64 → s.inp.ecc = .clean → QuietPart s g.id.part p →
      (∀ a, r.base / 16 * 16 ≤ a → a < (r.base + 79) / 16 * 16 →
        translate s (copyUnit g.core c.id) g.id.part (whoOf s g).ctx a c.sup false true = .ok (l a) s ∧ (l a).scratch = false ∧
        (l a).addr < 3 * spaceSize ∧ poisoned s (l a).addr 1 = false) →
      ∃ t v d, exec .copyBeatLand s = .next t ∧ t.mem = s.mem ∧ copiesOf t g.id = some [d] ∧ d.bytes = c.bytes + 64 ∧
        d.landed = [beatId 0 (r.dest / 64)] ∧ findTeam t g.id.part g.id.task g.id.team = some v ∧
        (c.barrier = none → d.excess = c.excess) ∧
        (∀ b, c.barrier = some b → BeatCounted tm v (spSide tm g.core false) b 64 ∧
          let word := mread (spOf tm (spSide tm g.core false)) b 16
          d.excess = (c.excess || decide (word % 2 ^ 32 - word / 2 ^ 32 % 2 ^ 32 < 64))) ∧
        ∀ j, j < 64 → mget (spOf v (spSide tm g.core false)) (r.dest + j) = mget s.mem (l (r.base + j)).addr) ∧
    (FirstCopy s g c tm → c.started = true → c.kind = .tensor r → c.follow = none → c.code = 0 → c.bytes ≠ copyTotal r →
      exec .copyEnd s = .next s) ∧
    (FirstCopy s g c tm → c.started = true → c.kind = .tensor r → c.follow = none → r.kind = 0 → c.code = 0 → c.bytes = copyTotal r →
      c.dst ≠ 0 → g.hidden = none →
      ∃ t h, exec .copyEnd s = .next t ∧ findGroup t g.id = some h ∧ h.en.copies = [] ∧ h.en.cp = g.en.cp - 1 ∧
        sregOf h c.dst = BitVec.ofNat 64 (1 + 2 * (if c.excess then 4 else 0) + c.bytes * 2 ^ 16) ∧
        (∀ k, k ≠ c.dst → sregOf h k = sregOf g k) ∧ t.mem = s.mem) ∧
    (FirstCopy s g c tm → c.started = true → c.follow = none → ∀ n sp ls, c.kind = .lanes n sp ls →
      (c.lanesDone.length < ls.length → exec .copyEnd s = .next s) ∧
      (ls.length ≤ c.lanesDone.length → ∃ t h, exec .copyEnd s = .next t ∧ findGroup t g.id = some h ∧ h.en.copies = [] ∧
        h.en.cp = g.en.cp - 1 ∧ t.mem = s.mem)) ∧
    ((coreOf s core).wheelQ = [] → exec .tileCommandStart s = .next s) ∧
    ((coreOf s core).wheelRun = [] ∨ (coreOf s core).testing ≠ [] → exec .tileCommandRetire s = .next s) ∧
    (∀ q, (coreOf s core).wheelQ = w :: q → findGroup s w.group = some g → g.id = w.group →
      findTeam s w.group.part w.group.task w.group.team = some tm →
      let sl := cmdSlots tm.kernel.tbase w.op w.word.toNat w.rule.toNat w.fmt.toNat
      let due := fun (k : Nat) => ∃ h ∈ allGroups s, ofTeam h g.id.part g.id.task g.id.team ∧
        ∃ y ∈ h.en.copies, y.started = false ∧ copySlot y = some k
      ((coreOf s core).testing ≠ [] ∨ (∃ k ∈ sl.1 ++ sl.2, (slotOf tm k).st = .filling) ∨
        (∃ k ∈ sl.1, (slotOf tm k).st = .claimed ∧ due k) → exec .tileCommandStart s = .next s) ∧
      ((coreOf s core).testing = [] → (∀ k ∈ sl.1 ++ sl.2, (slotOf tm k).st ≠ .filling) → (∀ k ∈ sl.1, ¬ due k) →
        (∃ k ∈ sl.1, (slotOf tm k).st = .claimed) → cmdNeed w = 0 →
        ∃ t h, exec .tileCommandStart s = .next t ∧ (coreOf t core).wheelQ = q ∧ (coreOf t core).wheelRun = (coreOf s core).wheelRun ∧
          findGroup t w.group = some h ∧ h.en.tl = g.en.tl - 1 ∧ t.mem = s.mem)) ∧
    (∀ k, EdgeWaits s core g tm w k → ((slotOf tm k).st = .ready ∨ (slotOf tm k).st = .inUse) →
      ∃ t v w', exec .tileCommandStart s = .next t ∧ (coreOf t core).wheelQ = [] ∧ (coreOf t core).wheelRun = [w'] ∧
        w'.group = w.group ∧ w'.batch = w.batch ∧ w'.slots = [k] ∧ t.mem = s.mem ∧ findTeam t w.group.part w.group.task w.group.team = some v ∧
        (slotOf v k).st = .inUse ∧ (slotOf v k).data = (slotOf tm k).data ∧ (∀ j, j ≠ k → slotOf v j = slotOf tm j) ∧
        ∀ j, j < 256 * (w.word.toNat / 2 ^ 10 % 64 + 1) →
          mget (spOf v (spSide tm g.core false)) (w.arg.toNat + j) = mget (slotOf tm k).data (256 * (w.word.toNat / 2 ^ 4 % 64) + j)) ∧
    ((coreOf s core).wheelQ = [w] → (coreOf s core).testing = [] → (coreOf s core).wheelRun = [] → findGroup s w.group = some g →
      w.op = .tzero → w.slots = [] →
      ∃ t h w', exec .tileCommandStart s = .next t ∧ (coreOf t core).wheelQ = [] ∧ (coreOf t core).wheelRun = [w'] ∧
        w'.group = w.group ∧ w'.batch = w.batch ∧ w'.boundFail = false ∧ findGroup t w.group = some h ∧ h.en = g.en ∧ t.mem = s.mem ∧
        ∀ i j, i < 32 → j < 32 → tileGet h (w.word.toNat % 16) i j = 0) ∧
    ((coreOf s core).wheelRun = [w] → (coreOf s core).testing = [] → s.inp.idx = 0 → findGroup s w.group = some g → ∀ b, g.en.batches = [b] → b.num = w.batch →
      b.live = 1 → b.retired = false →
      ∃ t h, exec .tileCommandRetire s = .next t ∧ (coreOf t core).wheelRun = [] ∧ findGroup t w.group = some h ∧
        h.en.tl = g.en.tl - 1 ∧ h.fpstat = (if w.boundFail then g.fpstat ||| (0x20 : BitVec 6) else g.fpstat) ∧ t.mem = s.mem ∧
        (b.closed = false → h.en.lastRet = g.en.lastRet ∧ ∃ b', h.en.batches = [b'] ∧ b'.num = b.num ∧ b'.live = 0) ∧
        (b.closed = true → h.en.lastRet = BitVec.ofNat 16 b.num ∧
          (b.engine = false → b.boundTrap = false → w.boundTrap = false → h.en.batches = []) ∧
          (w.boundTrap = true → ∃ b', h.en.batches = [b'] ∧ b'.boundTrap = true ∧ b'.retired = true ∧ b'.slots = [])))

namespace Sys2Proof.Claims

/-- What a step adds to what its turn left: the note of the turn (R70, R75), the stage barriers that are waited for (R209), and the
passing of time (R22). -/
def noted (s v : State) : State := tickOn (noteStages (noteTurn s v (takeTurn s).1))

/-- The step of `s` that runs instruction `i` in the state `u`: its outcome, and after a next state what a step adds. -/
def stepOf (s : State) (i : Instr) (u : State) : Out :=
  match exec i u with
  | .next v => .next (noted s v)
  | .fault f => .fault f
  | .refused r => .refused r

/-- The state in which a stream of the group `id` issues when the turn is its own: the group in focus, the turn off the agenda. -/
def atTurn (s : State) (id : GroupId) (d : Bool) (ecc : Ecc) (va : Nat) : State :=
  { focusOn (takeTurn s).2 id with defer := d, inp := { noInputs with ecc := ecc, va := va } }

/-- The fields of a lane triple at their defaults (R279). -/
def laneDefault : LaneFields :=
  { u := false, e := false, j := false, guard := 7, neg := false, d := 0x1F3, sub := 0, a := 0x1F3, b := 0x1F3, c := 0x1F3,
    rnd := 0, sat := false, width := 0, imm := 0 }

end Sys2Proof.Claims

/-- R12, R22, R24, R26, R43, R44, R81: device reset leaves no partition, task, team or group, the GTC at 0, and each core and each quad lottery at its
reset value; state that reset finds as an event loses its partitions the same way, and the bytes of host memory and of the fabric
nodes stay. R12, R43: a second-tier port without a device loses its capacity, and firmware below the fused minimum, or whose check
fails, comes up in recovery mode; the signing index resumes at the end of the block that was reserved (R44). The model's choices in it: memory lists nothing at
reset (log 3), the reset values that the spec does not give are 0 (log 4), a lottery's generator starts at 1, since R81 fixes no seed
(log 5), the bytes of host memory and of the fabric nodes are kept (log 13), and what a reset of a running device leaves of the units that
R22 does not name (log 57). -/
def Obligations.ResetState : Prop :=
  (let r := State.reset;
    MemOk r ∧ allParts r = [] ∧ allTasks r = [] ∧ allTeams r = [] ∧ allGroups r = [] ∧ r.dev.gtc = 0 ∧
    (∀ c, coreOf r c = noCore c ∧ (coreOf r c).clock = 0) ∧ (∀ c q, (quadOf r c q).x = 1 ∧ (quadOf r c q).owner = none) ∧
    (∀ a, mget r.mem a = 0) ∧ r.agenda = []) ∧
  (∀ s : State,
    (∃ t, exec .deviceReset s = .next t ∧ allParts t = [] ∧ allTasks t = [] ∧ allTeams t = [] ∧ allGroups t = [] ∧
      (∀ c, coreOf t c = noCore c) ∧ (∀ c q, quadOf t c q = noQuad) ∧ t.dev.sliceM = [] ∧ t.dev.gtc = 0 ∧ t.dev.tripped = false ∧
      t.dev.retired = s.dev.retired ∧ t.dev.sigNext = s.dev.sigEnd ∧ t.dev.recovery = (s.inp.flag || decide (Config.securityVersion.toNat < s.dev.minVersion)) ∧
      t.dev.t2Ports = portsFound s.dev.t2Ports s.inp.nats ∧ t.dev.minVersion = s.dev.minVersion ∧ t.dev.replay = [] ∧
      ∀ a, 2 * spaceSize ≤ a → (a < 3 * spaceSize ∨ 4 * spaceSize ≤ a) → mget t.mem a = mget s.mem a))

/-- R275 to R285: an instruction that has an encoding decodes from it, with every operand it holds, and every word or triple that
decodes is the encoding of the instruction it decodes to, which is well-formed. -/
def Obligations.EncodeDecodeAgree : Prop :=
  (∀ i : Instr, i.wf = true → encode i ≠ [] → decodeWords (encode i) = .ok i) ∧
  (∀ (ws : List W32) (i : Instr), decodeWords ws = .ok i → encode i = ws ∧ i.wf = true)

/-- Every step keeps the canonical form of memory (log 3): addresses strictly rising, no listed byte equal to what an unlisted address
reads as. -/
def Obligations.MemoryFormKept : Prop :=
  ∀ s t : State, MemOk s → step s = .next t → MemOk t

/-- R69, R275, R279: the word at SPC, or the triple at LPC, that decodes to an instruction is the instruction that the step runs; a
word that decodes to none runs the meaning of such words (R278, R285); an agent's turn runs that agent's step, on L1s that
have lost their lines but for the steps that perform accesses (log 106). R70: a scalar stream issues when no other group of its quad comes
first. R331, R420: behind accesses whose checks are outstanding only light instructions issue. R265: the line of the fetch has met no error. R271: WATCHDOG code 4 that is due comes first. After each the turn and the stage
barriers waited for are noted and the time passes (R22). Whose turn it is stands on the agenda (log 1). -/
def Obligations.StepRunsDecodedInstruction : Prop :=
  (∀ (s : State) (t : Turn) (rest : List Turn), s.agenda = t :: rest → takeTurn s = (some t, { s with agenda := rest })) ∧
  (∀ (s : State) (i : Instr) (inp : Inputs), (takeTurn s).1 = some (.event i inp) →
    let u := (takeTurn s).2
    step s = stepOf s i { u with inp := inp, cores := if keepsL1 i then u.cores else u.cores.map (fun c => { c with l1 := [] }) }) ∧
  (∀ (s u0 u1 : State) (id : GroupId) (d : Bool) (ecc : Ecc) (va w : Nat),
    let u := atTurn s id d ecc va
    (takeTurn s).1 = some (.issue id .scalar d ecc va) → u.g.timeUp = false → u.g.live = true → u.g.id = id → othersFirst u = false →
    canIssueS u = true → u.g.skipS = false → fetchLine u u.g.sc.spc.toNat = (u0, 0) →
    fetchWord u0 u.g.sc.spc.toNat = .ok w u1 → (∀ r ∈ scalarRegs w, r ≠ 0 → r ∉ pendingS u1) →
    (∀ i, decodeScalar (BitVec.ofNat 32 w) = .ok i →
      step s = if mayFollow u1 .scalar (lightS i) then stepOf s i u1 else .next (noted s u1)) ∧
    (∀ e, decodeScalar (BitVec.ofNat 32 w) = .error e → incomplete u1 .scalar = [] →
      step s = stepOf s (.scalarWordNotInstruction (BitVec.ofNat 32 w)) u1)) ∧
  (∀ (s u0 u1 : State) (id : GroupId) (d : Bool) (ecc : Ecc) (va w0 w1 w2 : Nat),
    let u := atTurn s id d ecc va
    let b := BitVec.ofNat 32
    (takeTurn s).1 = some (.issue id .lane d ecc va) → u.g.timeUp = false → u.g.live = true → u.g.id = id → canIssueL u = true →
    u.g.ln.lpc < (laneCode u).2 → fetchLine u (lineWord u ((laneCode u).1 + 12 * u.g.ln.lpc)) = (u0, 0) →
    fetchTriple u0 u0.g.ln.lpc = .ok (some (w0, w1, w2)) u1 → (∀ r ∈ laneRegs (laneFieldsOf w0 w1 w2), r ∉ pendingL u1) →
    (∀ i, decodeLane (b w0) (b w1) (b w2) = .ok i →
      step s = if mayFollow u1 .lane (lightL w0 (laneFieldsOf w0 w1 w2)) then stepOf s i u1
        else .next (noted s u1)) ∧
    (∀ e, decodeLane (b w0) (b w1) (b w2) = .error e → incomplete u1 .lane = [] →
      step s = stepOf s (.laneWordNotInstruction (b w0) (b w1) (b w2) false) u1)) ∧
  (∀ (s : State) (id : GroupId) (st : Stream) (d : Bool) (ecc : Ecc) (va : Nat),
    let u := atTurn s id d ecc va
    (takeTurn s).1 = some (.issue id st d ecc va) → u.g.timeUp = true → canIssue u = true → u.g.id = id →
    (st = .scalar → othersFirst u = false) →
    step s = .next (noted s (takeTrap { u with g := { u.g with timeUp := false } } ⟨0x16, 0, det [(0, 4)], u.g.ln.mask, .scalar, false⟩))) ∧
  (∀ (s : State) (va : Nat), s.inp.ecc = .clean → fetchLine s va = (s, 0)) ∧
  (∀ (u : State) (va : Nat) (l : Loc) (u1 : State), va % 4 = 0 →
    translate u (me u).unit u.g.id.part u.tk.ctx va u.g.sup false true = .ok l u1 → poisoned u1 (readKey u1 (me u1) l) 4 = false →
    fetchWord u va = .ok (mread u1.mem (readKey u1 (me u1) l) 4) u1)

/-- R275 to R284: words written out bit by bit from the encodings of the spec decode to the instructions they stand for, with their
operands. -/
def Obligations.DecodedWords : Prop :=
  decodeWords [0x04720905] = .ok (.sdiv 7 8 9) ∧
  decodeWords [0x0471C80E] = .ok (.sshr 7 7 8) ∧ decodeWords [0x04C08311] = .ok (.smax 12 2 3) ∧
  decodeWords [0x2B000005] = .ok (.sbr 6 0 5) ∧ decodeWords [0x00000103] = .ok (.reth 1) ∧
  decodeWords [0x64008000] = .ok (.dispatch 2) ∧ decodeWords [0x69700001] = .ok (.bar 23) ∧
  decodeWords [0x6982C006] = .ok (.sbwait 24 11 0) ∧ decodeWords [0x6E14DC01] = .ok (.tcopyx 33 19 28) ∧
  decodeWords [0x6C00C008] = .ok (.trec 3) ∧ decodeWords [0x6C00420E] = .ok (.tedge 1 2) ∧
  decodeWords [0x6D40000F] = .ok (.tfence 20) ∧ decodeWords [0x70B04000] = .ok (.fork 11 1) ∧
  decodeWords [0x74200103] = .ok (.trigrec 2 1) ∧ decodeWords [0x78050000] = .ok (.mark 20) ∧
  decodeWords [0x7A500002] = .ok (.ttstat 37) ∧ decodeWords [0x7C058001] = .ok (.claim 22) ∧
  decodeWords [0x40206A20] = .ok (.sst 2 1 ⟨2, 5, 0, 2⟩) ∧ decodeWords [0x4C014728] = .ok (.samax 0 5 7 ⟨0, 5, 0⟩) ∧
  decodeWords [0x040F0200, 0x01817E60, 0] = .ok (.vshr { laneDefault with j := true, d := 8, a := 3, b := 5 }) ∧
  decodeWords [0x2067_0900, 0xF807_BE60, 0x3F80_0000] =
    .ok (.fsub { laneDefault with u := true, d := 36, a := 0x1F0, b := 30, imm := 0x3F800000 }) ∧
  decodeWords [0x4107_0E81, 0x170D_C180, 0] = .ok (.qscale { laneDefault with d := 58, a := 46, b := 55, c := 12, sub := 1 }) ∧
  decodeWords [0x1007_0085, 0xF97C_7E60, 0] = .ok (.vsetp { laneDefault with d := 2, a := 0x1F2, b := 0x1F1, sub := 5 }) ∧
  decodeWords [0x8011_7CC0, 0xF9FC_FE60, 0x0014_000A] =
    .ok (.lbr { laneDefault with e := true, guard := 1, imm := 0x0014000A }) ∧
  decodeWords [0xA007_0200, 0x0503_3E60, 0x1050_0000] =
    .ok (.atom { laneDefault with d := 8, a := 10, b := 12, imm := 0x10500000 }) ∧
  decodeWords [0x9047_7CC0, 0x0603_BE60, 0x9058_0048] =
    .ok (.st { laneDefault with a := 12, b := 14, imm := 0x90580048 }) ∧
  decodeWords [0x61C1_01D0, 0x037C_FE60, 0] = .ok (.redmax { laneDefault with guard := 1, d := 7, a := 6, sub := 0x10 }) ∧
  (∃ e, decodeWords [0x80000000] = .error e) ∧ (∃ e, decodeWords [0x00000009] = .error e) ∧
  (∃ e, decodeWords [0xD0070000, 0xF9FCFE60, 0] = .error e)
end

