-- ==== Sys2Proof/Laws/Sparse.lean ====
section
/-! SUPPORT. Read after write of sparse tables and byte memories, and that every memory operation keeps the canonical form
(log 3). -/
namespace Sys2Proof.Machine

theorem sget_nil {α : Type} (d : α) (a : Nat) : sget d [] a = d := rfl

theorem sget_sdel {α : Type} (d : α) (m : Sparse α) (a b : Nat) :
    sget d (sdel m a) b = if b = a then d else sget d m b := by
  induction m with
  | nil => simp [sdel, sget]
  | cons x r ih =>
    obtain ⟨k, w⟩ := x
    simp only [sdel]
    split
    · next h =>
      subst h
      rw [ih]
      simp only [sget]
      by_cases hb : b = k
      · simp [hb]
      · simp [hb, Ne.symm hb]
    · next h =>
      simp only [sget, ih]
      split
      · next h1 => subst h1; simp [h]
      · rfl

theorem sget_sins {α : Type} (d : α) (m : Sparse α) (a b : Nat) (v : α) :
    sget d (sins m a v) b = if b = a then v else sget d m b := by
  induction m with
  | nil =>
    by_cases hb : b = a
    · simp [sins, sget, hb]
    · simp [sins, sget, hb, Ne.symm hb]
  | cons x r ih =>
    obtain ⟨k, w⟩ := x
    simp only [sins]
    split
    · by_cases hb : b = a
      · simp [sget, hb]
      · simp [sget, hb, Ne.symm hb]
    · split
      · next h1 h =>
        subst h
        by_cases hb : b = a
        · simp [sget, hb]
        · simp [sget, hb, Ne.symm hb]
      · next h1 h =>
        simp only [sget, ih]
        split
        · next h2 => subst h2; simp [Ne.symm h]
        · rfl

/-- A read after a write of a sparse table: the value at the key written, the old value elsewhere. -/
@[simp] theorem sget_sput {α : Type} [DecidableEq α] (d : α) (m : Sparse α) (a b : Nat) (v : α) :
    sget d (sput d m a v) b = if b = a then v else sget d m b := by
  unfold sput
  split
  · next h => rw [sget_sdel, h]
  · exact sget_sins d m a b v

theorem swfAbove_mono {α : Type} [DecidableEq α] (d : α) (m : Sparse α) (lo lo' : Nat) (h : lo' ≤ lo)
    (hm : swfAbove d lo m = true) : swfAbove d lo' m = true := by
  cases m with
  | nil => rfl
  | cons x r =>
    simp only [swfAbove, Bool.and_eq_true, decide_eq_true_eq] at *
    exact ⟨⟨by omega, hm.1.2⟩, hm.2⟩

theorem swfAbove_sdel {α : Type} [DecidableEq α] (d : α) (m : Sparse α) (a lo : Nat)
    (hm : swfAbove d lo m = true) : swfAbove d lo (sdel m a) = true := by
  induction m generalizing lo with
  | nil => rfl
  | cons x r ih =>
    obtain ⟨k, w⟩ := x
    simp only [swfAbove, Bool.and_eq_true, decide_eq_true_eq] at hm
    simp only [sdel]
    split
    · exact ih lo (swfAbove_mono d r (k + 1) lo (by omega) hm.2)
    · simp only [swfAbove, Bool.and_eq_true, decide_eq_true_eq]
      exact ⟨hm.1, ih (k + 1) hm.2⟩

theorem swfAbove_sins {α : Type} [DecidableEq α] (d : α) (m : Sparse α) (a lo : Nat) (v : α) (hv : v ≠ d) (ha : lo ≤ a)
    (hm : swfAbove d lo m = true) : swfAbove d lo (sins m a v) = true := by
  induction m generalizing lo with
  | nil => simp [sins, swfAbove, ha, hv]
  | cons x r ih =>
    obtain ⟨k, w⟩ := x
    simp only [swfAbove, Bool.and_eq_true, decide_eq_true_eq] at hm
    simp only [sins]
    split
    · simp only [swfAbove, Bool.and_eq_true, decide_eq_true_eq]
      exact ⟨⟨ha, hv⟩, ⟨by omega, hm.1.2⟩, hm.2⟩
    · split
      · next h => subst h; simp only [swfAbove, Bool.and_eq_true, decide_eq_true_eq]; exact ⟨⟨ha, hv⟩, hm.2⟩
      · simp only [swfAbove, Bool.and_eq_true, decide_eq_true_eq]
        exact ⟨hm.1, ih (k + 1) (by omega) hm.2⟩

/-- A write keeps the canonical form of a sparse table. -/
theorem swf_sput {α : Type} [DecidableEq α] (d : α) (m : Sparse α) (a : Nat) (v : α) (hm : swf d m = true) :
    swf d (sput d m a v) = true := by
  unfold sput swf at *
  split
  · exact swfAbove_sdel d m a 0 hm
  · next h => exact swfAbove_sins d m a 0 v h (Nat.zero_le a) hm

theorem sget_below {α : Type} [DecidableEq α] (d : α) (m : Sparse α) (lo a : Nat) (hm : swfAbove d lo m = true)
    (h : a < lo) : sget d m a = d := by
  induction m generalizing lo with
  | nil => rfl
  | cons x r ih =>
    obtain ⟨k, w⟩ := x
    simp only [swfAbove, Bool.and_eq_true, decide_eq_true_eq] at hm
    simp only [sget]
    rw [if_neg (by omega)]
    exact ih (k + 1) hm.2 (by omega)

/-- One byte read after one byte written. -/
@[simp] theorem mget_mput (m : Memory) (a b : Nat) (v : Byte) : mget (mput m a v) b = if b = a then v else mget m b :=
  sget_sput emptyByte m a b v

theorem wf_mput (m : Memory) (a : Nat) (v : Byte) (h : m.wf = true) : Memory.wf (mput m a v) = true :=
  swf_sput emptyByte m a v h

/-- A write of several bytes leaves every other byte alone. -/
theorem mget_mwrite_other (m : Memory) (a n v b : Nat) (h : b < a ∨ a + n ≤ b) : mget (mwrite m a n v) b = mget m b := by
  induction n generalizing m a v with
  | zero => rfl
  | succ n ih =>
    simp only [mwrite]
    rw [ih _ _ _ (by omega), mget_mput, if_neg (by omega)]

theorem wf_mwrite (m : Memory) (a n v : Nat) (h : m.wf = true) : Memory.wf (mwrite m a n v) = true := by
  induction n generalizing m a v with
  | zero => exact h
  | succ n ih => exact ih _ _ _ (wf_mput m a _ h)

theorem mget_mputs_other (m : Memory) (a : Nat) (bs : List Byte) (b : Nat) (h : b < a ∨ a + bs.length ≤ b) :
    mget (mputs m a bs) b = mget m b := by
  induction bs generalizing m a with
  | nil => rfl
  | cons x r ih =>
    simp only [mputs]
    simp only [List.length_cons] at h
    rw [ih _ _ (by omega), mget_mput, if_neg (by omega)]

theorem wf_mputs (m : Memory) (a : Nat) (bs : List Byte) (h : m.wf = true) : Memory.wf (mputs m a bs) = true := by
  induction bs generalizing m a with
  | nil => exact h
  | cons x r ih => exact ih _ _ (wf_mput m a x h)

theorem wf_physPut (m : Memory) (key : Nat) (b : Byte) (h : m.wf = true) : Memory.wf (physPut m key b) = true := by
  unfold physPut
  split
  · exact h
  · exact wf_mput m key b h

theorem wf_physWrite (m : Memory) (key n v : Nat) (h : m.wf = true) : Memory.wf (physWrite m key n v) = true := by
  induction n generalizing m key v with
  | zero => exact h
  | succ n ih => exact ih _ _ _ (wf_physPut m key _ h)

theorem mget_physWrite_other (m : Memory) (key n v b : Nat) (h : b < key ∨ key + n ≤ b) :
    mget (physWrite m key n v) b = mget m b := by
  induction n generalizing m key v with
  | zero => rfl
  | succ n ih =>
    simp only [physWrite]
    rw [ih _ _ _ (by omega)]
    unfold physPut
    split
    · rfl
    · rw [mget_mput, if_neg (by omega)]

/-- The little-endian number of the bytes just written is what was written, cut to their width (R4). -/
theorem mread_mwrite (m : Memory) (a n v : Nat) : mread (mwrite m a n v) a n = v % 256 ^ n := by
  induction n generalizing m a v with
  | zero => simp [mread, Nat.mod_one]
  | succ n ih =>
    simp only [mread, mwrite]
    rw [ih, mget_mwrite_other _ _ _ _ _ (by omega), mget_mput, if_pos rfl]
    simp only [BitVec.toNat_ofNat]
    rw [show (2 : Nat) ^ 8 = 256 from rfl, show 256 ^ (n + 1) = 256 * 256 ^ n by ring, Nat.mod_mul]

end Sys2Proof.Machine
end

