-- ==== Sys2Proof/Laws/Focus.lean ====
section
/-! SUPPORT. Reads after writes of the lists of cores, quads, partitions, tasks, teams and groups, the frames of the operations on
them, and of the L1s. -/
namespace Sys2Proof.Machine

/-- A lookup after `putBy` under the key of the element put. -/
theorem find_putBy_same {α : Type} (p : α → Bool) (x : α) (hx : p x = true) (l : List α) : (putBy p x l).find? p = some x := by
  induction l with
  | nil => simp [putBy, hx]
  | cons y r ih =>
    unfold putBy
    split
    · simp [hx]
    · next h => simp [h, ih]

/-- A lookup after `putBy` under a key that neither the element put nor the one replaced has. -/
theorem find_putBy_other {α : Type} (p q : α → Bool) (x : α) (hx : q x = false) (hpq : ∀ y, p y = true → q y = false) (l : List α) :
    (putBy p x l).find? q = l.find? q := by
  induction l with
  | nil => simp [putBy, hx]
  | cons y r ih =>
    unfold putBy
    split
    · next h => simp [hx, hpq y h]
    · next h => simp only [List.find?_cons, ih]

/-- A lookup after `modBy`, for changes that keep the key looked up. -/
theorem find_modBy {α : Type} (p q : α → Bool) (f : α → α) (hf : ∀ y, q (f y) = q y) (l : List α) :
    (modBy p f l).find? q = (l.find? q).map (fun y => if p y then f y else y) := by
  induction l with
  | nil => rfl
  | cons y r ih =>
    have hy : q (if p y then f y else y) = q y := by split <;> simp [hf]
    have ih' : (List.map (fun y => if p y then f y else y) r).find? q = (r.find? q).map (fun y => if p y then f y else y) := ih
    simp only [modBy, List.map_cons, List.find?_cons, hy]
    cases q y
    · exact ih'
    · rfl

theorem coreOf_num (s : State) (n : Nat) : (coreOf s n).num = n := by
  unfold coreOf
  cases h : s.cores.find? (fun c => c.num == n) with
  | none => rfl
  | some c => simpa using List.find?_some h

/-- A core after a change of one core that keeps its number. -/
theorem coreOf_modCore (s : State) (n m : Nat) (f : Core → Core) (hf : ∀ c, (f c).num = c.num) :
    coreOf (modCore s n f) m = if m = n then f (coreOf s n) else coreOf s m := by
  have hn : (f (coreOf s n)).num = n := by rw [hf, coreOf_num]
  split
  · next h =>
    subst h
    have := find_putBy_same (fun c : Core => c.num == m) (f (coreOf s m)) (by simp [hn]) s.cores
    simp [coreOf, modCore] at *
    rw [this]; rfl
  · next h =>
    have := find_putBy_other (fun c : Core => c.num == n) (fun c => c.num == m) (f (coreOf s n))
      (by simp [hn, Ne.symm h]) (by intro y hy; simp at hy; simp [hy, Ne.symm h]) s.cores
    simp only [coreOf, modCore] at *
    rw [this]

@[simp] theorem modCore_g (s : State) (n : Nat) (f : Core → Core) : (modCore s n f).g = s.g := rfl
@[simp] theorem modCore_tm (s : State) (n : Nat) (f : Core → Core) : (modCore s n f).tm = s.tm := rfl
@[simp] theorem modCore_tk (s : State) (n : Nat) (f : Core → Core) : (modCore s n f).tk = s.tk := rfl
@[simp] theorem modCore_pt (s : State) (n : Nat) (f : Core → Core) : (modCore s n f).pt = s.pt := rfl
@[simp] theorem modCore_parts (s : State) (n : Nat) (f : Core → Core) : (modCore s n f).parts = s.parts := rfl
@[simp] theorem modCore_dev (s : State) (n : Nat) (f : Core → Core) : (modCore s n f).dev = s.dev := rfl
@[simp] theorem modCore_mem (s : State) (n : Nat) (f : Core → Core) : (modCore s n f).mem = s.mem := rfl
@[simp] theorem modCore_tick (s : State) (n : Nat) (f : Core → Core) : (modCore s n f).tick = s.tick := rfl

/-- Everything that invalidating an L1 does. -/
theorem l1Inval_spec (s : State) (n : Nat) :
    l1Inval s n = { s with cores := (l1Inval s n).cores } ∧ coreOf (l1Inval s n) n = { coreOf s n with l1 := [] } ∧
      ∀ m, m ≠ n → coreOf (l1Inval s n) m = coreOf s m := by
  unfold l1Inval
  split
  · next h =>
    refine ⟨rfl, ?_, fun _ _ => rfl⟩
    have : (coreOf s n).l1 = [] := by simpa using h
    rw [← this]
  · refine ⟨rfl, ?_, fun m hm => ?_⟩
    · exact (coreOf_modCore s n n (fun c => { c with l1 := [] }) (fun _ => rfl)).trans (if_pos rfl)
    · exact (coreOf_modCore s n m (fun c => { c with l1 := [] }) (fun _ => rfl)).trans (if_neg hm)

@[simp] theorem l1Inval_g (s : State) (n : Nat) : (l1Inval s n).g = s.g := by unfold l1Inval; split <;> rfl
@[simp] theorem l1Inval_tm (s : State) (n : Nat) : (l1Inval s n).tm = s.tm := by unfold l1Inval; split <;> rfl
@[simp] theorem l1Inval_mem (s : State) (n : Nat) : (l1Inval s n).mem = s.mem := by unfold l1Inval; split <;> rfl
@[simp] theorem l1Inval_dev (s : State) (n : Nat) : (l1Inval s n).dev = s.dev := by unfold l1Inval; split <;> rfl

/-- A quad after a change of one quad. -/
theorem quadOf_putQuad (s : State) (c q c' q' : Nat) (hq : q < 4) (hq' : q' < 4) (v : Quad) :
    quadOf (putQuad s c q v) c' q' = if c' = c ∧ q' = q then v else quadOf s c' q' := by
  have h : (4 * c' + q' = 4 * c + q) ↔ (c' = c ∧ q' = q) := by omega
  simp only [quadOf, putQuad, sget_sput, h]

/-- A lookup over an element in focus and a list after a change of the elements with key `k`, which keeps what is looked up. -/
theorem find_focus {α : Type} (live k q : α → Bool) (f : α → α) (hl : ∀ y, live (f y) = live y) (hq : ∀ y, q (f y) = q y) (x : α)
    (l : List α) :
    (if live (if live x && k x then f x else x) then (if live x && k x then f x else x) :: modBy k f l else modBy k f l).find? q =
      ((if live x then x :: l else l).find? q).map (fun y => if k y then f y else y) := by
  have hm := find_modBy k q f hq l
  cases hx : live x
  · simpa [hx] using hm
  · cases hk : k x
    · simp only [Bool.and_false, Bool.false_eq_true, if_false, hx, if_true, List.find?_cons]
      cases q x
      · exact hm
      · simp [hk]
    · simp only [Bool.and_self, if_true, hl, hx, List.find?_cons, hq]
      cases q x
      · exact hm
      · simp [hk]

/-- What is found under a key after a change of the elements with a key. -/
theorem map_found {α β : Type} [DecidableEq β] (key : α → β) (f : α → α) (a b : β) (o u : Option α) (ho : ∀ y, o = some y → key y = b)
    (hu : b = a → o = u) : o.map (fun y => if key y == a then f y else y) = if b = a then u.map f else o := by
  split
  · next h =>
    rw [← hu h]
    cases o with
    | none => rfl
    | some y => simp [ho y rfl, h]
  · next h =>
    cases o with
    | none => rfl
    | some y => simp [ho y rfl, h]

/-- A partition after a change of one partition that keeps its number and whether it exists. -/
theorem findPart_modPart (s : State) (n m : Nat) (f : Partition → Partition) (hn : ∀ p, (f p).num = p.num)
    (hs : ∀ p, ((f p).state != 0) = (p.state != 0)) :
    findPart (modPart s n f) m = if m = n then (findPart s n).map f else findPart s m := by
  have h := find_focus (fun p : Partition => p.state != 0) (fun p => p.num == n) (fun p => p.num == m) f hs
    (fun y => by simp only [hn]) s.pt s.parts
  have key : ∀ y, findPart s m = some y → y.num = m := fun y hy => by
    have := List.find?_some (p := fun p : Partition => p.num == m) hy
    simpa using this
  exact h.trans (map_found Partition.num f n m (findPart s m) (findPart s n) key (fun e => by rw [e]))

@[simp] theorem modPart_g (s : State) (n : Nat) (f : Partition → Partition) : (modPart s n f).g = s.g := rfl
@[simp] theorem modPart_tm (s : State) (n : Nat) (f : Partition → Partition) : (modPart s n f).tm = s.tm := rfl
@[simp] theorem modPart_tk (s : State) (n : Nat) (f : Partition → Partition) : (modPart s n f).tk = s.tk := rfl
@[simp] theorem modPart_cores (s : State) (n : Nat) (f : Partition → Partition) : (modPart s n f).cores = s.cores := rfl
@[simp] theorem modPart_dev (s : State) (n : Nat) (f : Partition → Partition) : (modPart s n f).dev = s.dev := rfl
@[simp] theorem modPart_mem (s : State) (n : Nat) (f : Partition → Partition) : (modPart s n f).mem = s.mem := rfl

/-- A group after a change of one group that keeps its name and whether it is resident. -/
theorem findGroup_modGroup (s : State) (a b : GroupId) (f : Group → Group) (hid : ∀ g, (f g).id = g.id)
    (hl : ∀ g, (f g).live = g.live) :
    findGroup (modGroup s a f) b = if b = a then (findGroup s a).map f else findGroup s b := by
  have h := find_focus (fun g : Group => g.live) (fun g => g.id == a) (fun g => g.id == b) f hl
    (fun y => by simp only [hid]) s.g s.groups
  have key : ∀ y, findGroup s b = some y → y.id = b := fun y hy => by
    have := List.find?_some (p := fun g : Group => g.id == b) hy
    simpa using this
  exact h.trans (map_found Group.id f a b (findGroup s b) (findGroup s a) key (fun e => by rw [e]))

/-- Freeing the lane slot writes no byte (R80). -/
@[simp] theorem freeSlotOwner_mem (s : State) (g : Group) : (freeSlotOwner s g).mem = s.mem := by
  unfold freeSlotOwner
  dsimp only
  split <;> rfl

/-- The focus does not move to the group that has it. -/
theorem focusOn_self (s : State) (h : s.g.live = true) : focusOn s s.g.id = s := by simp [focusOn, h]

/-- A trap of a group with an access outstanding is held. -/
theorem takeTrap_held (s : State) (t : TrapInfo) (h : s.g.en.acc ≠ []) :
    takeTrap s t = { s with g := { s.g with trapPend := some t } } := by simp [takeTrap, h]

/-- A trap of a group with no access outstanding is taken at once. -/
theorem takeTrap_now (s : State) (t : TrapInfo) (h : s.g.en.acc = []) : takeTrap s t = enterTrap s t := by simp [takeTrap, h]

/-- Without a handler, or inside one, the trap goes to the severity matrix (R259). -/
theorem enterTrap_escalates (s : State) (t : TrapInfo) (h : ctlRead s s.g.id.part 0x5000 8 = 0 ∨ s.g.sup = true) :
    enterTrap s t = escalate { s with g := { s.g with trapPend := none } } t.num t.addr t.detail := by
  unfold enterTrap
  rw [if_pos]
  rcases h with h | h <;> simp [h]

@[simp] theorem partPuts_mem (s : State) (part key : Nat) (bs : List Byte) : (partPuts s part key bs).mem = mputs s.mem key bs := rfl

@[simp] theorem l1Drop_mem (s : State) (key n : Nat) : (l1Drop s key n).mem = s.mem := rfl

theorem me_unit_trapPend (s : State) (o : Option TrapInfo) : (me { s with g := { s.g with trapPend := o } }).unit = (me s).unit := rfl

theorem hostPageDue_trapPend (s : State) (o : Option TrapInfo) (t : TrapInfo) :
    hostPageDue { s with g := { s.g with trapPend := o } } t = hostPageDue s t := rfl

/-- With a handler, a frame that can be written and no HOST_PAGE record due, the group is inside the handler with the frame in memory (R255). -/
theorem enterTrap_enters (s s1 : State) (t : TrapInfo) (l : Loc) (h0 : ctlRead s s.g.id.part 0x5000 8 ≠ 0) (h1 : s.g.sup = false)
    (h2 : translate { s with g := { s.g with trapPend := none } } (me s).unit s.g.id.part s.tk.ctx
      (frameVA s { s.g with trapPend := none }) true true false = .ok l s1)
    (h3 : hostPageDue s t = false) :
    (enterTrap s t).g = inHandler { s.g with trapPend := none } t (frameVA s { s.g with trapPend := none })
        (ctlRead s s.g.id.part 0x5000 8) ∧
      (enterTrap s t).mem = mputs s1.mem l.addr (frameBytes { s.g with trapPend := none }
        (if t.next && t.stream == .scalar then s.g.sc.spc + 4 else s.g.sc.spc) (t.stream == .lane) t.num t.addr t.detail) := by
  have hc : ¬ (decide (ctlRead s s.g.id.part 0x5000 8 = 0) || s.g.sup) = true := by simp [h0, h1]
  unfold enterTrap
  dsimp only
  rw [if_neg hc, me_unit_trapPend, h2]
  dsimp only
  rw [hostPageDue_trapPend, if_neg (by simp [h3])]
  exact ⟨rfl, by simp only [freeSlotOwner_mem, l1Drop_mem, partPuts_mem]⟩

end Sys2Proof.Machine
end

