-- ==== Sys2Proof/Laws/Access.lean ====
section
/-! SUPPORT. What the parts of an access change, what an L1 reads, and that the filters on memory keep its form (log 3). -/
namespace Sys2Proof.Machine

theorem swfAbove_filter {α : Type} [DecidableEq α] (d : α) (m : Sparse α) (p : Nat × α → Bool) (lo : Nat)
    (h : swfAbove d lo m = true) : swfAbove d lo (m.filter p) = true := by
  induction m generalizing lo with
  | nil => exact h
  | cons x r ih =>
    obtain ⟨k, v⟩ := x
    simp only [swfAbove, Bool.and_eq_true, decide_eq_true_eq] at h
    have hr := ih (k + 1) h.2
    cases hp : p (k, v)
    · simpa [hp] using swfAbove_mono d _ (k + 1) lo (by omega) hr
    · simp [hp, swfAbove, h.1.1, h.1.2, hr]

/-- Dropping bytes from memory keeps its form (R42, R266). -/
theorem wf_filter (m : Memory) (p : Nat × Byte → Bool) (h : m.wf = true) : Memory.wf (m.filter p) = true :=
  swfAbove_filter emptyByte m p 0 h

theorem wf_outsideMem (m : Memory) (h : m.wf = true) : Memory.wf (outsideMem m) = true := wf_filter m _ h

/-- An access's effect on the L2 is within the device's units. -/
theorem l2Fill_frame (s : State) (part line : Nat) (bits dirty : BitVec 4) (cls level : Nat) (pinned : Bool) :
    l2Fill s part line bits dirty cls level pinned =
      { s with dev := { s.dev with l2 := (l2Fill s part line bits dirty cls level pinned).dev.l2 } } := by
  simp only [l2Fill]
  split
  · rfl
  · split <;> rfl

theorem l2Touch_frame (s : State) (part key n cls evict : Nat) (pinned write : Bool) :
    l2Touch s part key n cls evict pinned write =
      { s with dev := { s.dev with l2 := (l2Touch s part key n cls evict pinned write).dev.l2 } } := by
  simp only [l2Touch]
  split
  · rfl
  · split
    · rfl
    · split
      · rfl
      · exact l2Fill_frame s part _ _ _ cls _ pinned

/-- An instruction whose turn brings no outcome finds its lines sound (R265). -/
@[simp] theorem dataLine_clean (s : State) (w : Who) (l : Loc) (h : s.inp.ecc = .clean) : dataLine s w l = (s, 0) := by
  simp [dataLine, h]

/-- An access within a sector is one load (R107). -/
theorem loadAt_one (s : State) (w : Who) (l : Loc) (n evict : Nat) (home : Bool) (h : upperPart l n = none) :
    loadAt s w l n evict home = loadOne s w l n evict home := by
  simp [loadAt, h]

theorem ite_modCore_frame (b : Prop) [Decidable b] (s : State) (n : Nat) (f : Core → Core) :
    (if b then s else modCore s n f) = { s with cores := (if b then s else modCore s n f).cores } := by split <;> rfl

/-- A load's effect on the L1 is within the cores. -/
theorem l1Load_frame (s : State) (core key evict : Nat) (home : Bool) :
    l1Load s core key evict home = { s with cores := (l1Load s core key evict home).cores } := by
  unfold l1Load
  exact ite_modCore_frame _ s core _

/-- Room taken for a sector leaves every sector that stays as it was (R108). -/
theorem l1Fit_subset (s : State) (core keep : Nat) (l : List L1Sector) : ∀ e ∈ l1Fit s core keep l, e ∈ l := by
  intro e h
  simp only [l1Fit] at h
  split at h
  · exact h
  · split at h
    · exact h
    · exact List.mem_of_mem_filter h

/-- A store's effect on the L1s is within the cores. -/
theorem l1Store_frame (s : State) (b : Memory) (own : Option Nat) (key n x : Nat) :
    l1Store s b own key n x = { s with cores := (l1Store s b own key n x).cores } := rfl

/-- A core whose L1 holds no copy that differs reads memory (R109). -/
theorem l1Read_home (s : State) (core key n : Nat) (h : ∀ e ∈ (coreOf s core).l1, e.num = key / 32 → e.old = none) :
    l1Read s core key n = mread s.mem key n := by
  unfold l1Read l1Find
  cases hf : (coreOf s core).l1.find? (fun e => e.num == key / 32) with
  | none => rfl
  | some e =>
    have h1 := List.mem_of_find?_eq_some hf
    have h2 : (e.num == key / 32) = true := List.find?_some (p := fun e : L1Sector => e.num == key / 32) hf
    simp [h e h1 (by simpa using h2)]

/-- After an acquire that reaches beyond the core its L1 holds nothing (R109). -/
theorem acquireAt_wide (s : State) (ord : BitVec 2) (scope : Nat) (ho : ord = 1 ∨ ord = 3) (h : l1Scope s.tm scope = true) :
    acquireAt s ord scope = l1Inval s s.g.core := by
  unfold acquireAt
  rw [if_pos]
  rcases ho with rfl | rfl <;> simp [h]

/-- An access without ord acq or sc acquires nothing. -/
theorem acquireAt_none (s : State) (ord : BitVec 2) (scope : Nat) (h1 : ord ≠ 1) (h3 : ord ≠ 3) : acquireAt s ord scope = s := by
  unfold acquireAt
  rw [if_neg]
  intro h
  simp only [Bool.and_eq_true, Bool.or_eq_true, beq_iff_eq] at h
  exact h.1.elim h1 h3

end Sys2Proof.Machine
end

