-- ==== Sys2Proof/Laws/State.lean ====
section
/-! SUPPORT. What the shared operations on registers and the two streams leave and change, one lemma per field. -/
namespace Sys2Proof.Machine

theorem sreg_zero (s : State) : sreg s 0 = 0 := rfl

/-- A scalar register after a write: s0 keeps reading zero (R276). -/
theorem sreg_setS (s : State) (d r : BitVec 6) (v : Word) :
    sreg (setS s d v) r = if r = d ∧ r ≠ 0 then v else sreg s r := by
  have h0 : ∀ x : BitVec 6, x.toNat = 0 ↔ x = 0 := fun x => by
    constructor
    · intro h; exact BitVec.eq_of_toNat_eq (by simpa using h)
    · rintro rfl; rfl
  simp only [sreg, sregOf, setS, putSreg]
  by_cases hr : r.toNat = 0
  · simp [hr, (h0 r).mp hr]
  · have hr' : r ≠ 0 := fun h => hr ((h0 r).mpr h)
    by_cases hd : d.toNat = 0
    · have : r ≠ d := fun h => hr (h ▸ hd)
      simp [hd, hr, this]
    · simp only [hd, hr, if_false, sget_sput]
      by_cases he : r.toNat = d.toNat
      · have hrd : r = d := BitVec.eq_of_toNat_eq he
        rw [if_pos he, if_pos ⟨hrd, hr'⟩]
      · have : r ≠ d := fun h => he (by rw [h])
        simp [he, this]

@[simp] theorem sreg_advS (s : State) (r : BitVec 6) : sreg (advS s) r = sreg s r := rfl
@[simp] theorem sreg_jumpS (s : State) (a : Word) (r : BitVec 6) : sreg (jumpS s a) r = sreg s r := rfl
@[simp] theorem advS_spc (s : State) : (advS s).g.sc.spc = s.g.sc.spc + 4 := rfl
@[simp] theorem jumpS_spc (s : State) (a : Word) : (jumpS s a).g.sc.spc = a := rfl
@[simp] theorem advS_mem (s : State) : (advS s).mem = s.mem := rfl
@[simp] theorem jumpS_mem (s : State) (a : Word) : (jumpS s a).mem = s.mem := rfl
@[simp] theorem setS_mem (s : State) (r : BitVec 6) (v : Word) : (setS s r v).mem = s.mem := rfl
@[simp] theorem advS_tm (s : State) : (advS s).tm = s.tm := rfl
@[simp] theorem jumpS_tm (s : State) (a : Word) : (jumpS s a).tm = s.tm := rfl
@[simp] theorem setS_tm (s : State) (r : BitVec 6) (v : Word) : (setS s r v).tm = s.tm := rfl
@[simp] theorem advS_tk (s : State) : (advS s).tk = s.tk := rfl
@[simp] theorem setS_tk (s : State) (r : BitVec 6) (v : Word) : (setS s r v).tk = s.tk := rfl
@[simp] theorem advS_pt (s : State) : (advS s).pt = s.pt := rfl
@[simp] theorem setS_pt (s : State) (r : BitVec 6) (v : Word) : (setS s r v).pt = s.pt := rfl
@[simp] theorem advS_dev (s : State) : (advS s).dev = s.dev := rfl
@[simp] theorem setS_dev (s : State) (r : BitVec 6) (v : Word) : (setS s r v).dev = s.dev := rfl
@[simp] theorem advS_cores (s : State) : (advS s).cores = s.cores := rfl
@[simp] theorem setS_cores (s : State) (r : BitVec 6) (v : Word) : (setS s r v).cores = s.cores := rfl

theorem putSreg_ln (g : Group) (r : Nat) (v : Word) : (putSreg g r v).ln = g.ln := by
  unfold putSreg; split <;> rfl

theorem putSreg_eq (g : Group) (r : Nat) (v : Word) :
    putSreg g r v = { g with sc := { g.sc with regs := (putSreg g r v).sc.regs } } := by
  unfold putSreg; split <;> rfl

@[simp] theorem putSreg_spc (g : Group) (r : Nat) (v : Word) : (putSreg g r v).sc.spc = g.sc.spc := by
  unfold putSreg; split <;> rfl

/-- A result and the next word change one register's entry and SPC, nothing else. -/
theorem finS_eq (s : State) (d : BitVec 6) (v : Word) :
    finS s d v = { s with g := { s.g with sc := { s.g.sc with
      regs := (finS s d v).g.sc.regs, spc := s.g.sc.spc + 4 } } } := by
  simp only [finS, advS, setS, putSreg]
  split <;> rfl

theorem sreg_finS (s : State) (d r : BitVec 6) (v : Word) :
    sreg (finS s d v) r = if r = d ∧ r ≠ 0 then v else sreg s r := by
  rw [finS, sreg_advS, sreg_setS]

@[simp] theorem finS_spc (s : State) (d : BitVec 6) (v : Word) : (finS s d v).g.sc.spc = s.g.sc.spc + 4 := by
  simp [finS, setS]

@[simp] theorem finS_mem (s : State) (d : BitVec 6) (v : Word) : (finS s d v).mem = s.mem := rfl

/-- The issue checks, VQ readiness and legacy blocks are the only ways a lane instruction does not reach its meaning. -/
theorem laneRun_ready (s : State) (i : Instr) (f : LaneFields) (op : Nat) (r : Roles) (x : Option BadOp) (c : LaneCtx)
    (k : State → BitVec 64 → Nat × Nat × Nat → Out) (h1 : laneCheck s i f op r x = none)
    (h2 : skipQ s = true ∨ vqFields f r ≤ s.g.q.vq.length) (h3 : legAccess s f r = some c) :
    laneRun s i f op r x k = k { s with g := { s.g with ln := c } } (laneMask s f) (vqVals s f) := by
  unfold laneRun
  rw [h1, h3]
  have : (!skipQ s && decide (s.g.q.vq.length < vqFields f r)) = false := by
    rcases h2 with h | h
    · simp [h]
    · simp; omega
  simp [this]

/-- Outside legacy register mode no register access changes the lane context (R99). -/
theorem legAccess_modern (s : State) (f : LaneFields) (r : Roles) (h : s.tm.kernel.legacy = false) :
    legAccess s f r = some s.g.ln := by
  simp [legAccess, h]

theorem withFlags_quiet (s : State) (f : LaneFields) (m : BitVec 64) (fl : Nat → Fl) (k : State → Out)
    (h : trapLanes s f m fl = 0) : withFlags s f m fl k = k (raiseFl s (unionFl m fl)) := by
  simp [withFlags, h]

end Sys2Proof.Machine
end

