-- ==== Sys2Proof/Laws/Turns.lean ====
section
/-! SUPPORT. What a turn adds to its instruction's own effect (R22, R70), and what leaves DQ at a run end (R77). -/
namespace Sys2Proof.Machine

/-- What issues behind incomplete accesses changes nothing but what those accesses hold to undo. -/
theorem noteBehind_frame (st : Stream) (old g : Group) :
    noteBehind st old g = { g with en := { g.en with acc := (noteBehind st old g).en.acc } } := by
  unfold noteBehind
  cases st <;> dsimp only <;> split <;> rfl

/-- Noting a turn changes the waits and the accesses of the group in focus and the quads alone. -/
theorem noteTurn_frame (b s : State) (t : Option Turn) :
    noteTurn b s t = { s with g := { s.g with waits := (noteTurn b s t).g.waits,
                                              en := { s.g.en with acc := (noteTurn b s t).g.en.acc } },
                              dev := { s.dev with quads := (noteTurn b s t).dev.quads } } := by
  unfold noteTurn
  split
  · split
    · rfl
    · split
      · rfl
      · dsimp only
        have h := noteBehind_frame ‹Stream› ‹Group› s.g
        generalize noteBehind _ _ s.g = g at h ⊢
        generalize g.en.acc = a at h
        subst h
        split <;> rfl
  · rfl

/-- Timing an SBWAIT changes a group's waits alone. -/
theorem noteStarved_frame (s : State) (g : Group) : noteStarved s g = { g with waits := (noteStarved s g).waits } := by
  unfold noteStarved
  dsimp only
  split <;> rfl

/-- Timing the stage barriers changes the waits of groups alone. -/
theorem noteStages_frame (s : State) :
    noteStages s = { s with g := { s.g with waits := (noteStages s).g.waits }, groups := (noteStages s).groups } := by
  have h : (noteStages s).g = { s.g with waits := (noteStages s).g.waits } := by
    show (if _ then noteStarved s s.g else s.g) = _
    unfold noteStages modGroups
    dsimp only
    split
    · exact noteStarved_frame s s.g
    · rfl
  rw [← h]
  rfl

/-- A turn that issues no instruction notes nothing. -/
theorem noteTurn_none (b s : State) : noteTurn b s none = s := rfl

@[simp] theorem tickOn_mem (s : State) : (tickOn s).mem = s.mem := rfl
@[simp] theorem tickOn_g (s : State) : (tickOn s).g = s.g := rfl
@[simp] theorem tickOn_tm (s : State) : (tickOn s).tm = s.tm := rfl
@[simp] theorem tickOn_tk (s : State) : (tickOn s).tk = s.tk := rfl
@[simp] theorem tickOn_pt (s : State) : (tickOn s).pt = s.pt := rfl
@[simp] theorem tickOn_cores (s : State) : (tickOn s).cores = s.cores := rfl

/-- Nothing leaves DQ while a run goes on, or while it is empty. -/
theorem popDQ_inRun (g : Group) (h : g.ln.pos ≠ .pop) : popDQ g = g := by
  unfold popDQ
  split
  · rename_i hp _; exact absurd hp h
  · rfl

theorem popDQ_empty (g : Group) (h : g.q.dq = []) : popDQ g = g := by
  unfold popDQ
  rw [h]
  split
  · rename_i e; cases e
  · rfl

/-- The head of DQ is the next run's index, with its FMT (R74, R77). -/
theorem popDQ_head (g : Group) (k : BitVec 16) (fmt : Option W32) (rest : List (BitVec 16 × Option W32))
    (h : g.ln.pos = .pop) (hq : g.q.dq = (k, fmt) :: rest) :
    (popDQ g).q.dq = rest ∧ (popDQ g).ln.lpc = k.toNat ∧ (popDQ g).ln.pos = .start ∧
      (popDQ g).ln.fmt = fmt.getD g.ln.fmt ∧ (popDQ g).ln.v = g.ln.v := by
  unfold popDQ
  rw [h, hq]
  exact ⟨rfl, rfl, rfl, rfl, rfl⟩

/-- Nothing but DQ, the lane stream's position and what outstanding accesses undo changes. -/
theorem popDQ_frame (g : Group) :
    popDQ g = { g with q := { g.q with dq := (popDQ g).q.dq }, ln := (popDQ g).ln,
                       en := { g.en with acc := (popDQ g).en.acc } } := by
  unfold popDQ
  split <;> rfl

end Sys2Proof.Machine
end

