-- ==== Sys2Proof/Tests/Slice0.lean ====
section
/-! SUPPORT. Tests: ill-formed terms, words written out from the spec's encodings, single steps whose results the spec gives, and for
each statement with hypotheses a witness that meets them. -/
namespace Sys2Proof.Tests

set_option Elab.async false

open Sys2Proof Sys2Proof.Machine Sys2Proof.Claims

/-- A TLB entry for one page that user mode may read and write, accessed and dirty, in tier T1. -/
def page (ctx va frame : Nat) : TlbEntry :=
  { unit := quadUnit 0 0, ctx := ctx, va := va, size := 4096, pte := BitVec.ofNat 64 (2 ^ 62 + 2 ^ 61 + 2 ^ 60 + 2 ^ 59 + frame + 2 ^ 11 + 0x20 + 3), level := 0 }

/-- The location that `page` gives an address. -/
def loc (va key : Nat) : Loc :=
  { scratch := false, partner := false, addr := key, va := va, watched := false, revcap := false, cls := 0, t0 := false }

/-- A kernel of one group of width 16. -/
def kern : Kernel :=
  { noKernel with groups := 1, slotq := 4, spbytes := 0x1000, share := 1, lbase := 0x10000, lcount := 100
                  roles := [⟨1, 1, 64, 32⟩] }

/-- The one group's name. -/
def gid : GroupId := ⟨1, 1, 0, 0⟩

/-- One group on quad 0 of core 0 inside a run, with code, data at 0x20000 and 0x21000, and a page of context 0. -/
def demo : State :=
  { State.reset with
    mem := [(ctlKey 1 0x3001, 1)]
    g := { noGroup with
      live := true, id := gid, allot := 64, bnd := 32
      sc := { noGroup.sc with spc := 0x10000 }, ln := { noGroup.ln with pos := .inRun } }
    tm := { noTeam with live := true, part := 1, task := 1, kernel := kern }
    tk := { noTask with live := true, part := 1, num := 1, ctx := 1, kernel := kern, hi := 1, left := 1, started := true }
    pt := { noPartition with
      num := 1, state := 2, run := true, twins := [0], ways := [16, 16], classWays := [16, 16, 16, 16], frames := [(0, 2 ^ 30)]
      tlb := [page 1 0x10000 0x10000, page 1 0x20000 0x20000, page 1 0x21000 0x21000, page 0 0x30000 0x30000, page 0 0x20000 0x20000] }
    dev := { resetDevice with quads := [(0, { x := 1, owner := some gid, last := 15 })] } }

/-- `demo` with scalar registers. -/
def withS (l : List (Nat × Word)) : State :=
  { demo with g := { demo.g with sc := { demo.g.sc with regs := l } } }

/-- `s` with bytes in memory, and a root in context 0. -/
def withMem (s : State) (m : Memory) : State := { s with mem := mput m (ctlKey 1 0x3001) 1 }

/-- The scalar registers of the state after an instruction, if there is one. -/
def regAfter (i : Instr) (s : State) (r : BitVec 6) : Option Word :=
  match exec i s with
  | .next t => some (sreg t r)
  | _ => none

/-- Lane `k` of vector register `r` after an instruction. -/
def laneAfter (i : Instr) (s : State) (r k : Nat) : Option Nat :=
  match exec i s with
  | .next t => some (vget t.g r k)
  | _ => none

/-- `demo` with vector registers. -/
def withV (l : List (Nat × W32)) : State := { demo with g := { demo.g with ln := { demo.g.ln with v := l } } }

/-- Lane 0 of register `r`, as an entry of the register table. -/
def v0 (r : Nat) (x : W32) : Nat × W32 := (64 * r, x)

theorem test_plain : Plain (withS [(1, 0x20000)]) .scalar 0x20000 8 false (loc 0x20000 0x20000) :=
  { aligned := by decide, page := rfl, bytes := rfl, place := rfl, inRange := by decide +kernel, sound := by decide +kernel
    unwatched := rfl, part := ⟨_, rfl, rfl, rfl, rfl, rfl⟩, done := by decide +kernel, now := rfl }

theorem test_sdiv_minimum_by_minus_one :
    regAfter (.sdiv 3 1 2) (withS [(1, 0x8000000000000000), (2, 0xFFFFFFFFFFFFFFFF)]) 3 = some 0x8000000000000000 := by decide +kernel


/-- `demo` with a handler at 0x10000, its frames from 0x20000 on. -/
def handled : State := withMem demo [(ctlKey 1 0x5002, 1), (ctlKey 1 0x501A, 2)]

/-- What a handler's group hides after the trap `n`. -/
def hid (n : Nat) : Hidden :=
  { trap := n, stack := [], retired := 0, fmtPend := none, fmtSet := 0, dqFmt := [], barWait := none, pos := .pop, skipS := false, skipL := none, late := [],
    exited := false, page := none, run := (0, 0) }

/-- `s` in the handler of the trap `n`, its lane stream at a pop. -/
def inside (s : State) (n : Nat) : State :=
  { s with g := { s.g with sup := true, hidden := some (hid n), ln := { s.g.ln with pos := .pop } } }

/-- `s` with the group changed. -/
def onG (s : State) (f : Group → Group) : State := { s with g := f s.g }

/-- An outstanding access of a stream. -/
def someAcc (st : Stream) (k : AccKind) : Access :=
  { stream := st, kind := k, ord := 0, scope := 2, lanes := [⟨0, loc 0x20000 0x20000, 7, 0⟩], read := [], fails := [], evict := 0, pc := 0x10000, runPos := 0, undo := noUndo
    fields := none, back := ⟨0, [], 0, 0, []⟩ }

theorem plain_page (l : List (Nat × Word)) (n : Nat) (w : Bool) (h : n = 4 ∨ n = 8) :
    Plain (withS l) .scalar 0x20000 n w (loc 0x20000 0x20000) := by
  rcases h with rfl | rfl <;> cases w <;>
  exact { aligned := by decide, page := rfl, bytes := rfl, place := rfl, inRange := by decide +kernel, sound := rfl
          unwatched := rfl, part := ⟨_, rfl, rfl, rfl, rfl, rfl⟩, done := rfl, now := rfl }

theorem handler_ready : HandlerReady handled (loc 0x20000 0x20000) handled :=
  { user := rfl, idle := rfl, free := rfl, installed := by decide +kernel, frame := rfl }

theorem test_witness_ScalarUnaryAndImmediateForms :
    (((0x1005 : BitVec 14).extractLsb' 12 2).toNat ≠ 3 ∧ (0x1005 : BitVec 14).extractLsb' 6 6 = 0) ∧
    ((0x3000 : BitVec 14).extractLsb' 12 2).toNat = 3 ∧ (0x40 : BitVec 14).extractLsb' 6 6 ≠ 0 := by decide

theorem test_witness_ScalarBranchesAndCalls :
    ((0 : BitVec 3) ≠ 7 ∧ ((0 : BitVec 3) = 6 → (1 : BitVec 6) = 0) ∧ condTest 0 (sreg (withS []) 1).toInt ∧
      ¬condTest 0 (sreg (withS [(1, 1)]) 1).toInt) ∧
    ((6 : BitVec 3) = 6 ∧ (1 : BitVec 6) ≠ 0) ∧ (sreg (withS [(1, 8)]) 1 + (0x3FFC : BitVec 14).signExtend 64).extractLsb' 0 2 = 0 ∧
    (sreg (withS [(1, 8)]) 1 + (1 : BitVec 14).signExtend 64).extractLsb' 0 2 ≠ 0 := by
  refine ⟨⟨by decide, by decide, ?_, ?_⟩, by decide +kernel⟩ <;> unfold condTest <;> decide +kernel

theorem test_witness_TrapsEnterHandler :
    HandlerReady handled (loc 0x20000 0x20000) handled ∧
    hostPageDue handled ⟨0x12, 0, 5, 0xFFFF, .scalar, true⟩ = false ∧
    hostPageDue handled ⟨0x04, 0, 0x20, 0xFFFF, .scalar, false⟩ = true := ⟨handler_ready, by decide +kernel⟩

theorem test_witness_EscalatedTrapsAndReturnChecks :
    (demo.g.en.acc = [] ∧ demo.g.trapPend = none ∧ demo.g.live = true ∧ demo.g.killed = false ∧ demo.g.ended = false ∧
      ctlRead demo demo.g.id.part 0x5000 8 = 0 ∧ killsOnly demo 1) ∧
    ((inside handled 3).g.sup = true ∧ killsOnly (inside handled 3) 0x17) ∧ (2 : BitVec 6).toNat ≥ 2 ∧ handled.g.sup = false ∧
    ((inside handled 3).g.hidden = some (hid 3) ∧ (hid 3).trap ≠ 0x11 ∧
      translate (inside handled 3) (me handled).unit 1 1 (frameVA (inside handled 3) (inside handled 3).g) true false true =
        .ok (loc 0x20000 0x20000) (inside handled 3)) :=
  ⟨⟨rfl, rfl, rfl, rfl, rfl, by decide +kernel, _, rfl, by decide +kernel⟩, ⟨rfl, _, rfl, by decide +kernel⟩, by decide, rfl, rfl,
    by decide, rfl⟩

theorem test_witness_ReturnRestoresFrame :
    (inside handled 3).g.sup = true ∧ (inside handled 3).g.hidden = some (hid 3) ∧ (hid 3).trap ≠ 0x11 ∧
    handlerQuiet (inside handled 3) = true ∧ handlerDue (inside handled 3) = false ∧
    translate (inside handled 3) (me handled).unit 1 1 (frameVA (inside handled 3) (inside handled 3).g) true false true =
      .ok (loc 0x20000 0x20000) (inside handled 3) := ⟨rfl, rfl, by decide, by decide +kernel, by decide +kernel, rfl⟩

theorem test_witness_TrapThenReturnRestores :
    let t : TrapInfo := ⟨0x12, 0, 5, 0xFFFF, .scalar, true⟩
    let u := takeTrap handled t
    HandlerReady handled (loc 0x20000 0x20000) handled ∧ QueuesFit handled.g ∧ t.num < 256 ∧ t.num ≠ 0x11 ∧
    hostPageDue handled t = false ∧ handlerQuiet u = true ∧ handlerDue u = false ∧
    translate u (me handled).unit 1 1 (frameVA handled handled.g) true false true = .ok (loc 0x20000 0x20000) u ∧
    frameVA u u.g = frameVA handled handled.g :=
  ⟨handler_ready, by unfold QueuesFit; decide +kernel, by decide, by decide, by decide +kernel, by decide +kernel, by decide +kernel, rfl,
    by decide +kernel⟩

theorem test_witness_SystemInstructions :
    (sreg (withS [(1, 0x1000000)]) 1).extractLsb' 24 8 ≠ 0 ∧
    ((sreg (withS [(1, 0xFFFFFF)]) 1).extractLsb' 24 8 = 0 ∧ (withS [(1, 0xFFFFFF)]).g.sc.fmtPend = none ∧
      ∀ e ∈ (withS [(1, 0xFFFFFF)]).g.q.dq, e.2 = none) ∧
    (onG (withS [(1, 1)]) (fun g => { g with sc := { g.sc with fmtPend := some 0 } })).g.sc.fmtPend ≠ none := by
  refine ⟨by decide +kernel, ⟨by decide +kernel, by decide +kernel, ?_⟩, by decide +kernel⟩
  intro e h
  cases h

theorem test_witness_SpecialRegisters :
    ¬((0x016 : BitVec 14).toNat ≤ 7 ∨ (0x10 ≤ (0x016 : BitVec 14).toNat ∧ (0x016 : BitVec 14).toNat ≤ 0x15) ∨
      (0x20 ≤ (0x016 : BitVec 14).toNat ∧ (0x016 : BitVec 14).toNat ≤ 0x23) ∨ (0x016 : BitVec 14) = 0x30 ∨
      (0x016 : BitVec 14) = 0x31 ∨ (0x016 : BitVec 14) = 0x40 ∨ (0x016 : BitVec 14) = 0x41 ∨
      (0x100 ≤ (0x016 : BitVec 14).toNat ∧ (0x016 : BitVec 14).toNat ≤ 0x110)) ∧
    demo.g.tickets ≤ (sreg (withS [(1, 0x101)]) 1).setWidth 8 ∧ (sreg (withS [(1, 0x100)]) 1).setWidth 8 < demo.g.tickets := by
  decide +kernel

/-- `demo` with a register and queues of given lengths. -/
def queued (x : Word) (dq vq rq : Nat) : State :=
  onG (withS [(1, x)]) (fun g => { g with q := ⟨List.replicate dq (0, none), List.replicate vq 0, List.replicate rq 9⟩ })

theorem test_witness_ScalarQueues :
    (sreg (queued 0x10000 0 0 0) 1).extractLsb' 16 48 ≠ 0 ∧
    ((sreg (queued 5 7 0 0) 1).extractLsb' 16 48 = 0 ∧ (queued 5 7 0 0).g.q.dq.length < 8 ∧ quiet (queued 5 7 0 0) .scalar = true) ∧
    8 ≤ (queued 5 8 0 0).g.q.dq.length ∧ (queued 5 0 15 0).g.q.vq.length < 16 ∧ 16 ≤ (queued 5 0 16 0).g.q.vq.length ∧
    (queued 5 0 14 0).g.q.vq.length < 15 ∧ 15 ≤ (queued 5 0 15 0).g.q.vq.length ∧ (queued 5 0 0 0).g.q.rq = [] ∧
    (queued 5 0 0 1).g.q.rq = 9 :: [] ∧
    ((inside demo 1).g.ln.pos = .pop ∧ (inside demo 1).g.q.dq = [] ∧ (inside demo 1).g.q.vq = [] ∧ quiet (inside demo 1) .lane = true ∧
      pendingL (inside demo 1) = []) ∧ demo.g.ln.pos = .inRun := by decide +kernel

theorem test_witness_ScalarLoad :
    (∃ f : MemFields, f.size ≠ 3 ∧ f.evict ≠ 7 ∧ f.ord ≠ 2 ∧ f.size = 2 ∧ (sreg (withS [(1, 0x20004)]) 1).toNat % 8 ≠ 0) ∧
    Plain (withS [(1, 0x20000)]) .scalar (sreg (withS [(1, 0x20000)]) 1).toNat 8 false (loc 0x20000 0x20000) ∧
    Plain (withS [(1, 0x20000)]) .scalar (sreg (withS [(1, 0x20000)]) 1).toNat 4 false (loc 0x20000 0x20000) ∧
    (withS [(1, 0x20000)]).g.en.ld < 255 :=
  ⟨⟨⟨0, 2, 0, 2⟩, by decide +kernel⟩, plain_page _ 8 _ (.inr rfl), plain_page _ 4 _ (.inl rfl), by decide +kernel⟩

theorem test_witness_ScalarStore :
    ((3 : BitVec 2) = 3 ∨ (7 : BitVec 3) = 7 ∨ (1 : BitVec 2) = 1) ∧ ((1 : BitVec 2) ≠ 3 ∧ (6 : BitVec 3) ≠ 7 ∧ (2 : BitVec 2) ≠ 1) ∧
    (sreg (withS [(1, 0x20004)]) 1).toNat % 8 ≠ 0 ∧
    Plain (withS [(1, 0x20000)]) .scalar (sreg (withS [(1, 0x20000)]) 1).toNat 8 true (loc 0x20000 0x20000) ∧
    Plain (withS [(1, 0x20000)]) .scalar (sreg (withS [(1, 0x20000)]) 1).toNat 4 true (loc 0x20000 0x20000) ∧
    (withS [(1, 0x20000)]).g.en.st < 255 :=
  ⟨by decide, by decide, by decide +kernel, plain_page _ 8 _ (.inr rfl), plain_page _ 4 _ (.inl rfl), by decide +kernel⟩

theorem test_witness_ScalarAtomics :
    (0 : BitVec 3) ≠ 7 ∧ Plain (withS [(1, 0x20000)]) .scalar (sreg (withS [(1, 0x20000)]) 1).toNat 8 true (loc 0x20000 0x20000) :=
  ⟨by decide, plain_page _ 8 _ (.inr rfl)⟩

/-- A remote atomic of the scalar stream that has not returned. -/
def aRemote : RemoteReq :=
  { core := 0, tag := 9, group := gid, stream := .scalar, lane := 0, dst := 7, size := 8, result := true, node := 5, addr := 0x20000
    va := 0x20000, op := 0, y := 1, c := 0, issued := 0, sent := 0, pc := 0x10000, failed := false, port := some 0, sup := false
    ord := 1, scope := 3, ts := none, performed := none, aged := 0 }

/-- `demo` with a store of the scalar stream outstanding. -/
def storing : State := onG demo (fun g => { g with en := { g.en with acc := [someAcc .scalar (.store 8)], st := 1 } })

theorem test_witness_FencesAndWaits :
    ((1 : BitVec 2).toNat < 2 ∧ quiet demo .scalar = true) ∧ (2 ≤ (2 : BitVec 2).toNat ∧ quiet storing .scalar = false) ∧
    (sreg (withS [(1, 0x100000000)]) 1).extractLsb' 32 32 ≠ 0 ∧
    (sreg (withS [(1, 0)]) 1).extractLsb' 32 32 = 0 ∧ (withS [(1, 0)]).g.en.ld ≤ ((sreg (withS [(1, 0)]) 1).extractLsb' 0 8).toNat ∧
    ¬(storing.g.en.st ≤ ((sreg storing 1).extractLsb' 8 8).toNat) ∧
    Plain (withS [(1, 0x20000)]) .scalar (sreg (withS [(1, 0x20000)]) 1).toNat 8 false (loc 0x20000 0x20000) ∧
    BitVec.ofNat 64 (mread (withS [(1, 0x20000)]).mem 0x20000 8) = sreg (withS [(1, 0x20000)]) 2 ∧
    BitVec.ofNat 64 (mread (withS [(1, 0x20000), (2, 1)]).mem 0x20000 8) ≠ sreg (withS [(1, 0x20000), (2, 1)]) 2 ∧
    (wide demo 3 ∧ remoteDue demo .scalar = false) ∧ remoteDue { demo with dev := { demo.dev with remote := [aRemote] } } .scalar = true :=
  ⟨by decide +kernel, by decide +kernel, by decide +kernel, by decide +kernel, by decide +kernel, by decide +kernel,
    plain_page _ 8 _ (.inr rfl), by decide +kernel, by decide +kernel,
    ⟨.inl (by decide), rfl⟩, rfl⟩

/-- A second group of the team, waiting nowhere. -/
def mate : Group := { demo.g with id := ⟨1, 1, 0, 1⟩, qslot := 1 }

/-- `demo` with two groups in the team and the count register at `n`. -/
def pair (n : Word) : State :=
  { withS [(1, n)] with groups := [mate], tm := { demo.tm with kernel := { kern with groups := 2 } } }

/-- The team's groups that can still arrive. -/
def arrivers (s : State) : List Group :=
  (teamGroups s s.g.id.part s.g.id.task s.g.id.team).filter (fun g => !g.sc.exited && !g.killed && !g.ended)

theorem test_witness_TeamBarriers :
    (demo.g.sc.barWait = none ∧ quiet demo .scalar = true ∧
      ∀ g ∈ arrivers demo, g.id.group ∈ demo.tm.bar.arrived ∨ g.id.group = demo.g.id.group) ∧
    (∃ g ∈ arrivers (pair 2), g.id.group ∉ (pair 2).tm.bar.arrived ∧ g.id.group ≠ (pair 2).g.id.group) ∧
    (onG demo (fun g => { g with sc := { g.sc with barWait := some (none, 0) } })).g.sc.barWait = some (none, demo.tm.bar.gen.toNat) ∧
    16 ≤ (16 : BitVec 6).toNat ∧ ((sreg (pair 0) 1).toNat = 0 ∧ (pair 3).tm.kernel.groups < (sreg (pair 3) 1).toNat) ∧
    ((sreg (pair 1) 1).toNat ≠ 0 ∧ (sreg (pair 1) 1).toNat ≤ (pair 1).tm.kernel.groups ∧
      (sget noBar (pair 1).tm.named 15).arrived = [] ∧ max 1 ((sreg (pair 1) 1).toNat - (pair 1).tm.killed) ≤ 0 + 1) ∧
    0 + 1 < max 1 ((sreg (pair 2) 1).toNat - (pair 2).tm.killed) := by decide +kernel

/-- `demo` with a stage barrier word at scratchpad address 0 and registers 1 (its address 0) and 2. -/
def staged (v : Nat) (n : Word) : State := { withS [(2, n)] with tm := { demo.tm with sp0 := mwrite [] 0 16 v } }

theorem test_witness_StageBarriers :
    ((sreg (staged 0 0) 2).toNat = 0 ∧ 65535 < (sreg (staged 0 65536) 2).toNat) ∧
    (BarrierAt (staged 0 65535) (sreg (staged 0 65535) 1).toNat ∧ quiet (staged 0 65535) .scalar = true ∧
      (sreg (staged 0 65535) 2).toNat ≤ 65535 ∧
      ∀ g ∈ teamGroups (staged 0 1) 1 1 0, g.sc.sbWait.map Prod.fst ≠ some (ownSide (staged 0 1), 0)) ∧
    (sreg (staged 0 5) 2).extractLsb' 32 32 = 0 ∧
    (let s := staged (2 ^ 64 * 1 + 32 + 2 ^ 32 * 32) 0
     sbField s (ownSide s) 0 80 16 ≠ sbField s (ownSide s) 0 64 16 ∧ sbField s (ownSide s) 0 64 16 ≠ 0 ∧ s.tm.killed = 0 ∧
      sbField s (ownSide s) 0 80 16 + 1 = sbField s (ownSide s) 0 64 16 ∧ sbField s (ownSide s) 0 32 32 = sbField s (ownSide s) 0 0 32) ∧
    (let s := staged (2 ^ 64 * 2) 0
     sbField s (ownSide s) 0 80 16 + 1 ≠ sbField s (ownSide s) 0 64 16) ∧
    2 ≤ (2 : BitVec 6).toNat ∧
    (let s := staged (2 ^ 100) 0
     sbField s (ownSide s) 0 100 1 ≠ (0 : BitVec 6).toNat ∧ sbField s (ownSide s) 0 101 1 = 0 ∧
      sbField s (ownSide s) 0 100 1 = (1 : BitVec 6).toNat) := by
  refine ⟨by decide +kernel, ⟨by unfold BarrierAt; decide +kernel, by decide +kernel, by decide +kernel, by decide +kernel⟩, ?_⟩
  decide +kernel

/-- Memory with values poked in: address, size, value. -/
def poke (l : List (Nat × Nat × Nat)) : Memory := l.foldl (fun m e => mwrite m e.1 e.2.1 e.2.2) []

/-- `s` with slots in a state. -/
def slots (s : State) (l : List (Nat × SlotState)) : State :=
  { s with tm := { s.tm with slots := l.map (fun e => (e.1, { st := e.2, data := [] })) } }

/-- `demo` with room for a tile, slots 0 to 5 claimed, FMT `fmt`, rule register 0 and registers. -/
def tiled (fmt : W32) (rule : BitVec 128) (l : List (Nat × Word)) : State :=
  onG (slots (withS l) ((List.range 6).map (fun k => (k, SlotState.claimed))))
    (fun g => { g with allot := 128, sc := { g.sc with fmtSet := fmt }, en := { g.en with rules := [(0, rule)] } })

/-- The bytes of a tensor record of 16 F32 elements from 0x20000, by its CTL, at address 0 of the scratchpad. -/
def recorded (ctl dest : Nat) (l : List (Nat × Word)) : State :=
  let s := slots (withS l) ((List.range 3).map (fun k => (k, SlotState.claimed)))
  let m := poke [(0, 8, 0x20000), (8, 4, ctl), (0xC, 4, dest), (0x10, 4, 64), (0x20, 4, 16), (0x24, 4, 16), (0x28, 8, 1)]
  onG { s with tm := { s.tm with sp0 := m } } (fun g => { g with allot := 128 })

/-- The rule of the worked example on edit distance: OPLUS MIN, OTIMES ADD, SUBST EQ, I16, linear, TRACE; P0, P1 and P3 are 1. -/
def edRule : Nat := 0x00010000000100010000000000014040

theorem test_witness_OperandSlots :
    ((slotAt demo 15).st = .free ∧ ((List.range 16).filter (fun j => (slotAt demo j).st != .free)).length < demo.tm.kernel.slotq) ∧
    (let s := slots demo [(0, .claimed), (1, .ready), (2, .filling), (3, .inUse)]
     (slotAt s 15).st = .free ∧ s.tm.kernel.slotq ≤ ((List.range 16).filter (fun j => (slotAt s j).st != .free)).length ∧
      (slotAt s 0).st ≠ .free ∧
      (∀ g ∈ teamGroups s s.g.id.part s.g.id.task s.g.id.team, ∀ c ∈ g.en.copies, copySlot c ≠ some 0) ∧
      slotHeld s s.g.id.part s.g.id.task s.g.id.team 0 = false) := by
  refine ⟨by decide +kernel, by decide +kernel, by decide +kernel, by decide +kernel, ?_, by decide +kernel⟩
  intro g hg c hc
  have : g.en.copies = [] := by
    rcases List.mem_filter.mp hg with ⟨h, -⟩
    simp only [allGroups, slots, demo, if_true, List.mem_cons, List.not_mem_nil, or_false, State.reset] at h
    rw [h]; rfl
  simp [this] at hc

theorem test_witness_RuleLoad :
    (sreg (withS [(1, 0x20008)]) 1).toNat % 16 ≠ 0 ∧
    (∀ v, v = 0 ∨ v = edRule →
      Plain (withMem (withS [(1, 0x20000)]) (mwrite [] 0x20000 16 v)) .scalar 0x20000 8 false (loc 0x20000 0x20000) ∧
      Plain (withMem (withS [(1, 0x20000)]) (mwrite [] 0x20000 16 v)) .scalar (0x20000 + 8) 8 false (loc 0x20008 0x20008)) ∧
    ruleOk 0 none = false ∧ ruleOk edRule none = true := by
  refine ⟨by decide +kernel, ?_, by decide +kernel, by decide +kernel⟩
  rintro v (rfl | rfl) <;> exact
    ⟨{ aligned := by decide, page := rfl, bytes := rfl, place := rfl, inRange := by decide +kernel, sound := rfl, unwatched := rfl
       part := ⟨_, rfl, rfl, rfl, rfl, rfl⟩, done := rfl, now := rfl },
     { aligned := by decide, page := rfl, bytes := rfl, place := rfl, inRange := by decide +kernel, sound := rfl, unwatched := rfl
       part := ⟨_, rfl, rfl, rfl, rfl, rfl⟩, done := rfl, now := rfl }⟩

/-- The record at the address in scalar register 1 passes its checks. -/
def recGood (s : State) : Bool :=
  match recAt s (sreg s 1) with
  | .ok bs => (recFails s bs (sreg s 1).toNat).isEmpty && quiet s .scalar
  | .error _ => false

theorem test_witness_CopyIssue :
    (let s := recorded 0xF000 0x400 [(3, 0x300)]
     recGood s = true ∧ s.g.en.cp < 255 ∧ barFails s (sreg s 3).toNat = []) ∧
    (let s := onG (recorded 0xF000 0x400 []) (fun g => { g with en := { g.en with cp := 255 } })
     recGood s = true ∧ 255 ≤ s.g.en.cp) ∧
    (let s := recorded 0x1F000 2 [(2, 0x120)]
     recGood s = true ∧ (recOf (spBytes s.tm s.g.core 0 320)).kind = 1 ∧ followFails s (sreg s 2) 2 = [] ∧ s.g.en.tl < 255) ∧
    ((0 : BitVec 3) ≠ 3 ∧ (0 : BitVec 3) ≠ 6 ∧ (0 : BitVec 3) ≠ 7) := by decide +kernel

/-- The conditions under which a tile command issues, as one test. -/
def tileGoes (s : State) (op : TileOp) (word arg : Word) (fails : List Fail) : Bool :=
  fails.isEmpty && decide (s.g.en.tl < 255) && decide ((coreOf s s.g.core).wheelQ.length < 64) && quiet s .scalar
  && !tilesBusy s (tilesOf (mkCmd s op word arg)) && !s.tm.kernel.legacy

theorem tileGoes_can (s : State) (op : TileOp) (word arg : Word) (fails : List Fail) (h : tileGoes s op word arg fails = true) :
    TileCan s op word arg fails := by
  simp only [tileGoes, Bool.and_eq_true, List.isEmpty_iff, decide_eq_true_eq, Bool.not_eq_true'] at h
  obtain ⟨⟨⟨⟨⟨h1, h2⟩, h3⟩, h4⟩, h5⟩, h6⟩ := h
  exact ⟨fun hl => absurd hl (by simp [h6]), h1, ⟨h2, h3⟩, h4, fun _ => h5⟩

theorem test_witness_TileCommandsIssue :
    (let s := tiled 0 0 [(1, 0x100)]
     TileCan s .tmma (sreg s 1) 0 (tmmaFails s false (sreg s 1) 0 none)) ∧
    (let s := tiled 0x082 0 [(1, 0x100)]
     TileCan s .tmmaq (sreg s 1) (sreg s 2) (tmmaFails s true (sreg s 1) (sreg s 2).toNat none)) ∧
    (let s := tiled 0 (BitVec.ofNat 128 edRule) [(1, 0x00F0005F05014320)]
     TileCan s .trec (sreg s 1) 0 (trecFails s false (sreg s 1) none)) ∧
    (let s := tiled 0 0x4803 [(1, 0x00F03F5005040000)]
     TileCan s .trecb (sreg s 1) 0 (trecFails s true (sreg s 1) none)) ∧
    (let s := tiled 0 0 [(1, 0x20000), (2, 0xF10)]
     TileCan s .tlda (sreg s 2) (sreg s 1) (tstFails s .tlda (sreg s 1).toNat (sreg s 2)) ∧
     TileCan s .tst (sreg s 2) (sreg s 1) (tstFails s .tst (sreg s 1).toNat (sreg s 2))) ∧
    (let s := tiled 0x600 0 [(1, 0x20000), (2, 0x4000F10)]
     TileCan s .tstq (sreg s 2) (sreg s 1) (tstFails s .tstq (sreg s 1).toNat (sreg s 2))) ∧
    (let s := tiled 0 0 [(1, 0x20000), (2, 0x20000)]
     TileCan s .tedge (sreg s 2) (sreg s 1) (tedgeFails s (sreg s 1).toNat (sreg s 2))) ∧
    (let s := tiled 0 0 []
     s.g.bnd + ((0 : BitVec 4).toNat + 1) * (1024 / s.g.width) ≤ s.g.allot ∧
      s.g.allot < s.g.bnd + ((1 : BitVec 4).toNat + 1) * (1024 / s.g.width)) := by
  refine ⟨tileGoes_can _ _ _ _ _ ?_, tileGoes_can _ _ _ _ _ ?_, tileGoes_can _ _ _ _ _ ?_, tileGoes_can _ _ _ _ _ ?_,
    ⟨tileGoes_can _ _ _ _ _ ?_, tileGoes_can _ _ _ _ _ ?_⟩, tileGoes_can _ _ _ _ _ ?_, tileGoes_can _ _ _ _ _ ?_, ?_⟩ <;>
  decide +kernel

/-- A closed batch. -/
def bat (num : Nat) (retired engine bound : Bool) : Batch :=
  { num := num, live := 1, slots := [], closed := true, retired := retired, boundTrap := bound, engine := engine }

/-- `demo` with batches, the open number 5, and the number to wait for. -/
def batched (v : Word) (l : List Batch) : State :=
  onG (withS [(1, v)]) (fun g => { g with en := { g.en with openB := 5, batches := l } })

theorem test_witness_TileBatches :
    (let s := batched 0 (List.replicate 64 (bat 4 false false false))
     64 ≤ (s.g.en.batches.filter (fun b => b.closed && !b.retired)).length ∧ ∃ b ∈ s.g.en.batches, b.num ≤ 4 ∧ b.retired = false) ∧
    (let s := batched 4 []
     (s.g.en.batches.filter (fun b => b.closed && !b.retired)).length < 64 ∧ s.g.en.batches = [] ∧
      (s.g.en.openB + 65536 - (sreg s 1).toNat % 65536) % 65536 = 1 ∧ (sreg s 1).extractLsb' 16 48 = 0) ∧
    (sreg (batched 0x10000 []) 1).extractLsb' 16 48 ≠ 0 ∧ (5 + 65536 - (sreg (batched 5 []) 1).toNat % 65536) % 65536 = 0 ∧
    (let s := batched 4 [bat 3 true true false]
     (∀ c ∈ s.g.en.batches, c.num ≤ 4 → c.retired = true) ∧ s.g.en.batches = bat 3 true true false :: [] ∧
      (bat 3 true true false).num ≤ 4 ∧ (bat 3 true true false).engine = true) := by decide +kernel

/-- `demo` with `f` free blocks, waiting claims and the count register. -/
def handing (n : Word) (f : Nat) (l : List Claim) : State :=
  let s := withS [(1, n)]
  { s with tm := { s.tm with freeBlocks := if f = 0 then [] else [(0, f)], claims := l } }

theorem test_witness_RegisterHandOver :
    (demo.tm.kernel.legacy = false ∧ demo.g.sup = false) ∧ 256 < (sreg (handing 257 0 []) 1).toNat ∧
    (1 ≤ (sreg (handing 8 0 []) 1).toNat ∧ 4 * (sreg (handing 8 0 []) 1).toNat + max demo.g.bnd 4 ≤ demo.g.allot ∧ inFlight demo demo.g = []) ∧
    ((sreg (handing 0 0 []) 1).toNat = 0 ∧ demo.g.allot ≤ 1024 ∧ 4 ≤ demo.g.allot ∧ demo.g.bnd ≤ demo.g.allot) ∧
    ((sreg (handing 240 240 []) 1).toNat = 240 ∧ demo.g.allot + 4 * 240 ≤ 1024 ∧ waiting (handing 240 240 []) = [] ∧
      240 ≤ blocksFree (handing 240 240 [])) ∧
    waiting (handing 1 1 [⟨0, 0, 1⟩]) = [⟨0, 0, 1⟩] ∧ blocksFree (handing 1 0 []) < 1 ∧ waiting (handing 1 1 [⟨0, 3, 1⟩]) ≠ [] := by
  decide +kernel

theorem test_witness_BoundaryAndAllotment :
    (sreg (withS [(1, 2)]) 1).toNat % 4 ≠ 0 ∧ demo.g.allot < (sreg (withS [(1, 68)]) 1).toNat ∧
    ((sreg (withS [(1, 64)]) 1).toNat % 4 = 0 ∧ (sreg (withS [(1, 64)]) 1).toNat ≤ demo.g.allot ∧ inFlight demo demo.g = []) ∧
    (demo.g.allot ≤ 1024 ∧ demo.g.bnd ≤ 496 ∧ blocksFree demo ≤ 1024) ∧ ({ kern with legacy := true } : Kernel).legacy = true := by
  decide +kernel

/-- Everything of the group in focus is in focus. -/
def isFoc (s : State) : Bool :=
  s.g.live && s.tm.live && s.tm.part == s.g.id.part && s.tm.task == s.g.id.task && s.tm.index == s.g.id.team && s.tk.live
  && s.tk.part == s.g.id.part && s.tk.num == s.g.id.task && s.pt.state != 0 && s.pt.num == s.g.id.part

theorem isFoc_focused (s : State) (h : isFoc s = true) : Focused s := by
  simp only [isFoc, Bool.and_eq_true, beq_iff_eq, bne_iff_ne, ne_eq] at h
  obtain ⟨⟨⟨⟨⟨⟨⟨⟨⟨h1, h2⟩, h3⟩, h4⟩, h5⟩, h6⟩, h7⟩, h8⟩, h9⟩, h10⟩ := h
  exact ⟨h1, ⟨h2, h3, h4, h5⟩, ⟨h6, h7, h8⟩, ⟨h9, h10⟩⟩

/-- `demo` with memory, the lines from 0x20000 to 0x20400 in the L2, and 0x20000 in register 1. -/
def fed (m : Memory) : State :=
  let s := withMem (withS [(1, 0x20000)]) m
  { s with dev := { s.dev with l2 := (List.range 8).map (fun k => ⟨1024 + k, 15, 0, 1, 0, 1, false⟩) } }

/-- A kernel descriptor's fields at an address (R299, R300). -/
def kdesc (a : Nat) : List (Nat × Nat × Nat) :=
  [(a, 2, 1), (a + 4, 1, 16), (a + 5, 1, 1), (a + 6, 1, 1), (a + 8, 1, 255), (a + 0x10, 8, 0x10000), (a + 0x18, 8, 0x10000),
   (a + 0x20, 4, 1), (a + 0x40, 1, 1), (a + 0x41, 1, 1), (a + 0x42, 2, 4)]

/-- A fork descriptor at 0x20000 for tasks [0, hi) with `n` regions that its bytes do not describe. -/
def forkDesc (hi n : Nat) : Memory := poke ([(0x20000, 8, 0x20080), (0x2000C, 4, hi), (0x20018, 1, n)] ++ kdesc 0x20080)

/-- FORK reads its descriptor and its kernel, and `p` holds of the bytes and of the state. -/
def forkReads (s : State) (p : List Byte → State → Bool) : Bool :=
  match getWords s (me s) s.tm 16 (sreg s 1).toNat with
  | .ok b s1 =>
    match getKernel s1 (me s1) s1.tm (frameFld b 0 8) with
    | .ok _ s2 => !s.g.sup && (sreg s 1).toNat % 64 == 0 && quiet s .scalar && p b s2
    | _ => false
  | _ => false

/-- A revision of task 1. -/
def rev (num state : Nat) : Revision :=
  { num := num, ctx := 1, child := 2, parent := 1, parentRev := 0, regions := [⟨0x20000, 1, 0, 5⟩], grans := [], state := state
    discard := false, killed := false, word := 0x50001, joiner := none, waiting := false }

/-- `s` with the partition changed. -/
def onP (s : State) (f : Partition → Partition) : State := { s with pt := f s.pt }

/-- `s` with the task changed. -/
def onT (s : State) (f : Task → Task) : State := { s with tk := f s.tk }

/-- `demo` with open revision 3 in a state and registers. -/
def revised (state : Nat) (l : List (Nat × Word)) : State := onP (withS l) (fun p => { p with revs := [rev 3 state] })

theorem test_witness_ForkCreatesChild :
    (inside demo 1).g.sup = true ∧ (sreg (withS [(1, 0x20020)]) 1).toNat % 64 ≠ 0 ∧
    forkReads (fed (forkDesc 1 7)) (fun b _ => (forkBad b).isSome) = true ∧
    forkReads (onT (fed (forkDesc 1 0)) (fun t => { t with revDepth := 8 })) (fun b _ => (forkBad b).isNone) = true ∧
    forkReads (fed (forkDesc 1 0)) (fun b s2 =>
      (forkBad b).isNone && decide (s2.tk.revDepth < 8) && decide ((s2.pt.revs.filter revOpen).length < 4096) && isFoc s2) = true ∧
    forkReads (fed (forkDesc 0 0)) (fun b s2 => (forkBad b).isNone && isFoc s2 && decide (frameFld b 0x0C 4 ≤ frameFld b 0x08 4)) = true := by
  decide +kernel

theorem test_witness_ForkWithoutRevisionLeft :
    forkReads (onP (fed (forkDesc 1 0)) (fun p => { p with revs := List.replicate 4096 (rev 3 1) }))
      (fun b s2 => (forkBad b).isNone && decide (4096 ≤ (s2.pt.revs.filter revOpen).length)) = true := by decide +kernel

theorem test_witness_JoinsOfChildren :
    (sreg (withS [(1, 0x100000000)]) 1).toNat / 2 ^ 32 ≠ 0 ∧ (sreg (withS [(1, 0)]) 1).toNat = 0 ∧
    (∀ n ∈ [1, 2, 3, 4],
      let s := revised n [(1, 3)]
      s.g.sup = false ∧ (sreg s 1).toNat / 2 ^ 32 = 0 ∧ (sreg s 1).toNat ≠ 0 ∧ rev 3 n ∈ s.pt.revs ∧ (rev 3 n).num = (sreg s 1).toNat ∧
        (rev 3 n).parent = s.tk.num ∧ (∀ x ∈ s.pt.revs, x.num = (sreg s 1).toNat → x = rev 3 n) ∧ (rev 3 n).grans = [] ∧
        (rev 3 n).discard = false ∧ s.defer = false ∧ isFoc s = true ∧ (rev 3 n).joiner ≠ some s.g.id) ∧
    ({ rev 3 4 with joiner := some gid }).joiner = some demo.g.id ∧ joinBehind (revised 2 [(1, 3)]) = false ∧
    joinBehind { revised 2 [(1, 3)] with groups := [{ demo.g with id := ⟨1, 1, 0, 1⟩, joinWait := some (0, 3) }],
                                         dev := { demo.dev with gtc := 9 } } = true := by decide +kernel

/-- `demo` with a pool stack of `n` frames whose words start at 0x30000, and the count register. -/
def pooled (n : Nat) (v : Word) : State :=
  onP (withMem (withS [(1, v)]) (poke [(ctlKey 1 0x4000, 8, 0x30000), (ctlKey 1 0x4008, 4, n)]))
    (fun p => { p with tlb := { page 0 0x30000 0x30000 with unit := partUnit } :: p.tlb })

theorem test_witness_RevisionReservationAndQueries :
    2 ^ 20 < (sreg (pooled 0 0x100001) 1).toNat ∧
    ((sreg (pooled 1 1) 1).toNat = 1 ∧ poolTop (pooled 1 1) = 1 ∧ supRead (pooled 1 1) 1 (0x30000 + 8 * 0) 8 = some 0) ∧
    (match supWrite (pooled 0 1) 1 (0x30000 + 8 * poolTop (pooled 0 1)) (natBytes 8 5) with
     | some t => decide (t.g = (pooled 0 1).g)
     | none => false) = true ∧
    (let s := onT (revised 1 [(1, 0x20000)]) (fun t => { t with rev := 3 })
     isFoc s = true ∧ s.tk.rev ≠ 0 ∧ findRev s.pt s.tk.rev = some (rev 3 1) ∧
      (rev 3 1).regions.find? (fun g => regionHas g 0x20000) = some ⟨0x20000, 1, 0, 5⟩ ∧ regionHas ⟨0x20000, 1, 0, 5⟩ 0x21000 = false) ∧
    (sreg (withS [(1, 0x100000000)]) 1).toNat / 2 ^ 32 ≠ 0 ∧ (demo.pt.revs = [] ∧ demo.tk.rev = 0) := by decide +kernel

theorem test_witness_ExitEndsScalarStream :
    (inside demo 1).g.sup = true ∧ (demo.g.sup = false ∧ openChildren demo demo.g.id.part demo.tk.num = []) ∧
    lastGroup (pair 2) = false ∧
    (lastGroup (revised 1 []) = true ∧ openChildren (revised 1 []) 1 1 = rev 3 1 :: [] ∧ (rev 3 1).state ≠ 2) := by decide +kernel

/-- A watch descriptor at 0x20000 for 64 bytes at 0x21000 (R161), MODE `m`. -/
def watchDesc (m : Nat) : Memory :=
  poke ([(0x20000, 8, 0x21000), (0x20008, 1, 6), (0x20009, 1, m), (0x2000A, 1, 8), (0x2000B, 1, 2), (0x2000C, 1, 2), (0x20010, 8, 1),
    (0x20020, 8, 0x20080), (0x20030, 4, 1), (0x20034, 1, 1)] ++ kdesc 0x20080)

/-- WATCH reads its descriptor, its kernel and its pages, and `p` holds of the bytes and of the state. -/
def watchReads (s : State) (p : List Byte → State → Bool) : Bool :=
  match getWords s (me s) s.tm 8 (sreg s 1).toNat with
  | .ok b s1 =>
    match getKernel s1 (me s1) s1.tm (frameFld b 0x20 8) with
    | .ok _ s2 =>
      let pages := rangePages s2 s2.g.id.part s2.tk.ctx (frameFld b 0 8) (frameFld b 8 1)
      match readPages (me s2) s2 pages with
      | .ok none s3 => pages.all (fun q => (q.2.map (fun l => !bit l.pte 63)).getD true) && decide (s2.g = s.g) && decide (s2.tk = s.tk)
          && decide (s3.g = s.g) && p b s3
      | _ => false
    | _ => false
  | _ => false

/-- An armed or disarmed watch entry 5 of context 1. -/
def entry (state : Nat) : WatchEntry :=
  { idx := 5, state := state, reason := 0, ctx := 1, va := 0x21000, log2 := 6, mode := 1, elem := 8, coalesce := 2, chain := 2
    rateExp := 0, rateCount := 0, value := 1, mask := 0, kernel := kern, arg := 0, teams := 1, tickets := 1, created := 0
    winStart := 0, winCount := 0, held := [] }

/-- `demo` with watch entry 5 and register 1. -/
def watched (state : Nat) (v : Word) : State := onP (withS [(1, v)]) (fun p => { p with watches := [entry state] })

/-- A trigger record of entry 5. -/
def trig (o : Bool) : TrigRec :=
  { entry := 5, key := 0, isOpen := o, count := 1, merged := false, rearm := false, depth := 1, addr := 0x21000, first := 1, latest := 1
    stamp1 := 9, stamp2 := 9, since := 0, sinceAddr := 0, sinceFirst := 0, sinceStamp := 0 }

theorem test_witness_WatchesAndTriggers :
    (sreg (withS [(1, 0x20020)]) 1).toNat % 64 ≠ 0 ∧
    watchReads (fed (watchDesc 4)) (fun b _ => (watchBad b).isSome) = true ∧ quiet (fed (watchDesc 4)) .scalar = true ∧
    quiet (fed (watchDesc 1)) .scalar = true ∧
    watchReads (fed (watchDesc 1)) (fun b s => (watchBad b).isNone && isFoc s && freeEntry s.pt == some 0
      && !rangeInUse s 1 1 (frameFld b 0 8) (frameFld b 0 8 + 2 ^ frameFld b 8 1)) = true ∧
    (sreg (withS [(1, 512)]) 1).extractLsb' 9 55 ≠ 0 ∧
    (let s := onT (watched 1 5) (fun t => { t with ctx := 2 })
     findWatch s.pt 5 = some (entry 1) ∧ s.g.sup = false ∧ (entry 1).ctx ≠ s.tk.ctx) ∧
    ((sreg (withS [(1, 511)]) 1).extractLsb' 9 55 = 0 ∧ findWatch demo.pt 511 = none) ∧
    (∀ n ∈ [1, 2],
      let s := watched n 5
      ((sreg s 1).extractLsb' 9 55 = 0 ∧ findWatch s.pt (sreg s 1).toNat = some (entry n) ∧
        (∀ x ∈ s.pt.watches, x.idx = (sreg s 1).toNat → x = entry n) ∧ (entry n).ctx = s.tk.ctx) ∧ isFoc s = true ∧
        rangeInUse s 1 1 0x21000 (0x21000 + 2 ^ 6) = false ∧ (entry n).state = n ∧ (entry n).held = []) ∧
    6 ≤ (6 : BitVec 6).toNat ∧ (5 : BitVec 6).toNat < 6 ∧ demo.tk.trig = none ∧ isFoc demo = true ∧
    ((trig false).isOpen = false ∧ (trig true).isOpen = true ∧ (trig true).since = 0 ∧
      isFoc (onT demo (fun t => { t with trig := some (trig true) })) = true) := by decide +kernel

theorem test_witness_WatchWithoutFreeEntry :
    watchReads (onP (fed (watchDesc 1)) (fun p => { p with watches := (List.range 512).map (fun k => { entry 1 with idx := k }) }))
      (fun b s => (watchBad b).isNone && (freeEntry s.pt).isNone) = true := by decide +kernel

/-- A timetable whose one CHECK at marker 2 asks for tier 0 of the 64 bytes at slot 0 (R128). -/
def checkTT (policy : Nat) : BoundTT :=
  { va := 0x20000, policy := policy
    entries := [{ marker := 2, period := 0, kind := 5, tier := 0, scope := 0, lead := 0, slot := 0, offset := 0, length := 64, tstride := 0
                  pstride := 0 }], slotWords := [] }

/-- Page tables of context `ctx` that map the page at 0x20000 to itself with the leaf `pte`. -/
def tables (ctx pte : Nat) : List (Nat × Nat × Nat) :=
  [(ctlKey 1 (0x3000 + 16 * ctx), 8, 0x100000), (0x100000, 8, 0x101001), (0x101000, 8, 0x102001), (0x102000, 8, 0x103001),
   (0x103000, 8, 0x104001), (0x104000 + 8 * 0x20, 8, pte)]

/-- A leaf at 0x20000 that all may read and write, in a tier; `a` sets A and D. -/
def leafPte (tier a : Nat) : Nat := 2 ^ 62 + 2 ^ 61 + 2 ^ 60 + (2 ^ 59 + 2 ^ 11) * a + 0x20000 + 0x20 * tier + 3

/-- `demo` at marker 1 with that timetable, the page in T1, and the marker value to go to. -/
def timed (policy : Nat) (v : Word) : State :=
  let s := withMem (withS [(1, v)]) (poke (tables 1 (leafPte 1 1)))
  { s with tm := { s.tm with marker := 1, slotWords := [(0, some 0x20000)] }, tk := { s.tk with tt := some (checkTT policy) } }

theorem test_witness_MarkerMoves :
    (inside demo 1).g.sup = true ∧ (sreg (timed 0 0x100000000) 1).extractLsb' 32 32 ≠ 0 ∧
    (sreg (timed 0 0) 1).toNat < (timed 0 0).tm.marker.toNat ∧ (sreg (timed 0 1) 1).toNat = (timed 0 1).tm.marker.toNat ∧
    (∀ n ∈ [0, 1, 2],
      let s := timed n 2
      (s.g.sup = false ∧ (sreg s 1).extractLsb' 32 32 = 0 ∧ s.tm.marker.toNat < (sreg s 1).toNat ∧ quiet s .scalar = true ∧
        teamHalted s = false) ∧ (unmet s (crossedBy s s.tm.marker.toNat (sreg s 1).toNat)).length = 1 ∧
        (s.tk.tt.map BoundTT.policy).getD 0 = n) ∧
    (let s := withS [(1, 0xFFFFFFFF)]
     unmet s (crossedBy s s.tm.marker.toNat (sreg s 1).toNat) = [] ∧ s.tm.marker.toNat < (sreg s 1).toNat ∧ teamHalted s = false) ∧
    (∀ b ∈ [false, true], teamHalted (onG (timed 0 2) (fun g => { g with halted := true, markStalled := b, ln := { g.ln with pos := .pop } })) = true) ∧
    (let s := onG (onP (timed 0 2) (fun p => { p with moves := [⟨1, 0x20000, 4096, 0, 0, none, 0⟩] })) (fun g => { g with markStalled := true })
     teamHalted s = false ∧ (unmet s (crossedBy s 1 2)).any (fun u => inTransit s.pt s.tk.ctx u.2.va) = true) := by
  decide +kernel

/-- The group in focus is about to issue MARK of register 1, and `p` holds of the state that the fetch leaves. -/
def atMark (s : State) (p : State → Bool) : Bool :=
  match fetchScalar { s with inp := inpG s.g.id 0 0 0 } with
  | .run (.mark r) u => s.g.live && r == 1 && p u
  | _ => false

theorem test_witness_MarkerMoves_reevaluate :
    atMark (withMem (withS [(1, 5)]) (poke [(0x10000, 4, 0x78004000)])) (fun u =>
      !u.g.sup && quiet u .scalar && !teamHalted u && !u.g.markStalled && u.tm.marker == 0 && sreg u 1 == 5
        && (unmet u (crossedBy u 0 5)).isEmpty) = true ∧
    atMark (withMem (withS [(1, 5)]) (poke [(0x10000, 4, 0x78000000)])) (fun _ => true) = false := by decide +kernel

/-- A timetable at 0x20000 with one entry of kind 2 (R127, R128). -/
def ttDesc : Memory :=
  poke [(0x20000, 4, 1), (0x20004, 2, 1), (0x20010, 4, 2), (0x20018, 1, 2), (0x20028, 8, 64)]

/-- TTBIND reads its timetable, and `p` holds of the entries and of the state. -/
def ttReads (s : State) (p : List TTEntry → State → Bool) : Bool :=
  match readTT s (me s) s.tm (sreg s 1).toNat with
  | .ok es s1 => p es s1
  | _ => false

/-- `handled` in the handler of SCHEDULE_MISS, whose frame's SPC is 0x10000, where the word `w` stands. -/
def missed (w : Nat) : State :=
  inside (withMem demo (poke [(ctlKey 1 0x5000, 8, 0x10000), (ctlKey 1 0x5018, 8, 0x20000), (0x20000, 8, 0x10000), (0x10000, 4, w)])) 6

theorem test_witness_TimetableBinding :
    (inside demo 1).g.sup = true ∧ (demo.g.sup = false ∧ (2 : BitVec 2) ≠ 3) ∧
    ((timed 1 0x20000).tk.tt = some (checkTT 1) ∧ (checkTT 1).va = (sreg (timed 1 0x20000) 1).toNat ∧
      (checkTT 1).policy = (1 : BitVec 2).toNat ∧ (checkTT 1).policy ≠ (2 : BitVec 2).toNat) ∧
    (demo.tk.tt = none ∧ quiet (withS [(1, 0x20008)]) .scalar = true ∧ (sreg (withS [(1, 0x20008)]) 1).toNat % 16 ≠ 0) ∧
    (demo.g.hidden = none ∧ (inside demo 1).g.hidden = some (hid 1) ∧ (hid 1).trap ≠ 6) ∧
    (let s := missed 0
     (s.g.sup = true ∧ s.g.hidden = some (hid 6) ∧ (hid 6).trap = 6) ∧ frameVA s s.g = 0x20000 ∧
      markAt s (frameFld (mbytes s.mem 0x20000 512) 0 8) = none) ∧
    (let s := missed 0x78050000
     markAt s (frameFld (mbytes s.mem 0x20000 512) 0 8) = some 20 ∧ handlerQuiet s = true ∧ handlerDue s = false ∧ quiet s .scalar = true ∧
      markBad (leaveHandler s (hid 6) (mbytes s.mem 0x20000 512)) (sreg (leaveHandler s (hid 6) (mbytes s.mem 0x20000 512)) 20) = none) := by
  decide +kernel

theorem test_witness_TimetableRead :
    quiet (fed ttDesc) .scalar = true ∧ ttReads (fed ttDesc) (fun es s => es.length == 1 && isFoc s && decide (s.g = (fed ttDesc).g)) = true ∧
    translate (missed 0) (me (missed 0)).unit 1 1 0x20000 true false true = .ok (loc 0x20000 0x20000) (missed 0) := ⟨by decide +kernel, by decide +kernel, rfl⟩

/-- The issue checks of a lane instruction as one test, outside legacy register mode. -/
def ready (s : State) (x : Instr × LaneFields × Roles) : Bool :=
  legal x.1 && (!x.2.1.j || s.g.ln.runPos == 0) && decide (s.g.ln.runPos < 24) && (rolesCheck s x.2.1 x.2.2).isNone
  && (skipQ s || decide (vqFields x.2.1 x.2.2 ≤ s.g.q.vq.length)) && !s.tm.kernel.legacy

theorem ready_laneReady (s : State) (x : Instr × LaneFields × Roles) (h : ready s x = true) : LaneReady s x.1 x.2.1 x.2.2 s.g.ln := by
  simp only [ready, Bool.and_eq_true, Bool.or_eq_true, Bool.not_eq_true', decide_eq_true_eq, beq_iff_eq, Option.isNone_iff_eq_none] at h
  obtain ⟨⟨⟨⟨⟨h1, h2⟩, h3⟩, h4⟩, h5⟩, h6⟩ := h
  exact ⟨h1, fun hj => h2.resolve_left (by simp [hj]), h3, h4, h5, legAccess_modern s _ _ h6⟩

/-- Fields with d, and with d, a, with b, with c. -/
def fD : LaneFields := { laneDefault with d := 4 }
/-- d and a. -/
def fA : LaneFields := { fD with a := 8 }
/-- d, a and b. -/
def fB : LaneFields := { fA with b := 12 }
/-- d, a, b and c. -/
def fC : LaneFields := { fB with c := 16 }

/-- The roles of a destination and one, two or three sources of `n` registers. -/
def r1 (n : Nat) : Roles := ⟨.dst n, .src n, .none, .none⟩
/-- Two sources. -/
def r2 (n : Nat) : Roles := ⟨.dst n, .src n, .src n, .none⟩
/-- Three sources. -/
def r3 (n : Nat) : Roles := ⟨.dst n, .src n, .src n, .src n⟩

/-- `demo` with one active lane, `f` bytes of data at 0x20000, whose address stands in v8:v9 and v12:v13. -/
def laned : State :=
  onG (withV [v0 8 0x20000, v0 12 0x20100, v0 16 0x80]) (fun g => { g with ln := { g.ln with mask := 1 } })

theorem lane_zero (k : Nat) (h : laneIn 1 k = true) : k = 0 := by
  rcases k with _ | k
  · rfl
  · simp [laneIn] at h

theorem test_witness_LaneEncodingChecks :
    legal (.vadd { fB with sub := 2 }) = false ∧ (onG demo (fun g => { g with ln := { g.ln with runPos := 1 } })).g.ln.runPos ≠ 0 ∧
    (legal (.vadd fB) = true ∧ fB.j = false ∧ 24 ≤ (onG demo (fun g => { g with ln := { g.ln with runPos := 24 } })).g.ln.runPos) := by
  decide +kernel

theorem test_witness_LaneIntegerArithmetic :
    (∀ x ∈ [(Instr.vadd fB, fB, r2 1), (.vsub fB, fB, r2 1), (.vmul fB, fB, r2 1), (.vmulh fB, fB, r2 1), (.vmad fC, fC, r3 1),
        (.vabs fA, fA, r1 1), (.vneg fA, fA, r1 1), (.vadd { fB with width := 1 }, { fB with width := 1 }, r2 2)],
      LaneReady laned x.1 x.2.1 x.2.2 laned.g.ln) ∧ ¬enabled laned 0 :=
  ⟨fun x h => ready_laneReady _ _ ((by decide +kernel : ∀ x ∈ [(Instr.vadd fB, fB, r2 1), (.vsub fB, fB, r2 1), (.vmul fB, fB, r2 1),
      (.vmulh fB, fB, r2 1), (.vmad fC, fC, r3 1), (.vabs fA, fA, r1 1), (.vneg fA, fA, r1 1),
      (.vadd { fB with width := 1 }, { fB with width := 1 }, r2 2)], ready laned x = true) x h), by unfold enabled; decide +kernel⟩

/-- `demo` with a kernel that traps every flag. -/
def trapping : State := { laned with tm := { laned.tm with kernel := { kern with fptrap := 0x1F } } }

theorem test_witness_EnabledFlags : enabled trapping flOverflow ∧ laneIn (laneMask trapping fB) 0 = true ∧
    (narrow true false 32 (2 ^ 31)).fl = flOverflow := by unfold enabled; decide +kernel

theorem test_witness_LaneIntegerLogic :
    ∀ x ∈ [Instr.vmin fB, .vmax fB, .vminn fB, .vmaxn fB, .vand fB, .vor fB, .vxor fB, .vshl fB, .vshr fB, .vsra fB, .vbfx fB,
        .vsel fB].map (fun i => (i, fB, r2 1)) ++ [Instr.vnot fA, .vpopc fA, .vclz fA, .vmov fA].map (fun i => (i, fA, r1 1))
        ++ [(Instr.vbfi fC, fC, r3 1)], ready laned x = true := by decide +kernel

/-- Fields that name predicates. -/
def fP : LaneFields := { laneDefault with d := 1, a := 2, b := 3 }

theorem test_witness_LanePredicates :
    (∀ x ∈ [(Instr.vsetp { fB with d := 1, sub := 5 }, ({ fB with d := 1, sub := 5 } : LaneFields), (⟨.pred, .src 1, .src 1, .none⟩ : Roles)),
        (.fsetp { fB with d := 7, sub := 13 }, { fB with d := 7, sub := 13 }, ⟨.pred, .src 1, .src 1, .none⟩),
        (.vsetp { fB with d := 1, sub := 6 }, { fB with d := 1, sub := 6 }, ⟨.pred, .src 1, .src 1, .none⟩),
        (.pand fP, fP, ⟨.pred, .pred, .pred, .none⟩), (.por fP, fP, ⟨.pred, .pred, .pred, .none⟩),
        (.pxor fP, fP, ⟨.pred, .pred, .pred, .none⟩),
        (.pnot { fP with b := 0x1F3 }, { fP with b := 0x1F3 }, ⟨.pred, .pred, .none, .none⟩),
        (.pmov { fA with d := 1 }, { fA with d := 1 }, ⟨.pred, .src 1, .none, .none⟩),
        (.prd fD, fD, ⟨.dst 1, .none, .none, .none⟩)], ready laned x = true) ∧
    (5 : BitVec 6).toNat % 8 < 6 ∧ 6 ≤ (6 : BitVec 6).toNat % 8 := by decide +kernel

theorem test_witness_LaneFloatingPoint :
    (∀ x ∈ [Instr.fadd fB, .fsub fB, .fmul fB, .fmin fB, .fmax fB, .fdiv fB].map (fun i => (i, fB, r2 1))
        ++ [Instr.fabs fA, .fneg fA, .frnd fA, .frcp fA, .frsq fA, .fsqrt fA, .fex2 fA, .flg2 fA, .fsin fA, .fcos fA, .ftanh fA].map
          (fun i => (i, fA, r1 1)) ++ [(Instr.ffma fC, fC, r3 1), (.fclamp fC, fC, r3 1)], ready laned x = true) ∧
    (sfuDiv (laneEnv trapping fB) 0x3F800000 0).fl &&& trapping.tm.kernel.fptrap.setWidth 6 ≠ 0 := by decide +kernel

theorem test_witness_LaneConversionsAndDots :
    (∀ x ∈ [(Instr.cvt { fA with sub := 2 }, ({ fA with sub := 2 } : LaneFields), r1 1), (.cvt { fA with sub := 6 }, { fA with sub := 6 }, r1 1),
        (.cvti { fA with sub := 0x20 }, { fA with sub := 0x20 }, r1 1), (.cvti fA, fA, r1 1),
        (.pack fB, fB, r2 1), (.pack { fC with sub := 2 }, { fC with sub := 2 }, r3 1), (.unpack fA, fA, r1 1),
        (.qscale fC, fC, r3 1), (.qscale { fA with sub := 2 }, { fA with sub := 2 }, r1 1), (.qscale { fB with sub := 3 }, { fB with sub := 3 }, r2 1),
        (.dotn fC, fC, ⟨.dst 1, .reg 3, .reg 3, .src 1⟩),
        (.dot2 { fC with sub := 1, width := 2 }, { fC with sub := 1, width := 2 }, r3 1), (.dot2 { fC with width := 3 }, { fC with width := 3 }, r3 1),
        (.dot4 { fC with width := 3 }, { fC with width := 3 }, r3 1), (.dot4 { fC with width := 3, sub := 10 }, { fC with width := 3, sub := 10 }, r3 1),
        (.dot4 { fC with width := 3, sub := 2 }, { fC with width := 3, sub := 2 }, r3 1)], ready laned x = true) := by decide +kernel

theorem test_witness_LaneCrossing :
    (∀ x ∈ [Instr.shfl fB, .shflup fB, .shfldn fB, .shflx fB, .bcast fB].map (fun i => (i, fB, r2 1))
        ++ [Instr.redsum fA, .redmin fA, .redmax fA, .scanadd fA, .scanmax fA, .ballot fA].map (fun i => (i, fA, r1 1))
        ++ [Instr.voteany { fA with d := 1 }, .voteall { fA with d := 1 }].map (fun i => (i, { fA with d := 1 }, ⟨.pred, .src 1, .none, .none⟩))
        ++ [(.shfl { fB with sub := 7 }, { fB with sub := 7 }, r2 1)], ready laned x = true) ∧
    (fB.sub.toNat % 8 ≠ 7 ∧ segOf laned fB ≤ laned.g.width) ∧ ({ fB with sub := 7 } : LaneFields).sub.toNat % 8 = 7 ∧
    laned.g.width < segOf laned { fB with sub := 5 } ∧ segOf laned { fB with sub := 4 } ≤ laned.g.width := by decide +kernel

/-- `laned` with queue entries, and under SKIP of a queue operation when `k`. -/
def laneQ (vq rq : Nat) (k : Bool) : State :=
  onG laned (fun g => { g with q := ⟨[], List.replicate vq 5, List.replicate rq 6⟩, skipL := if k then some true else none })

/-- An operand field a alone. -/
def fa : LaneFields := { laneDefault with a := 8 }

theorem test_witness_LaneMiscellany :
    (ready laned (.rng { fA with sub := 3 }, { fA with sub := 3 }, ⟨.dst 4, .reg 2, .none, .none⟩) = true ∧ laned.g.id.group < 2 ^ 32) ∧
    (ready (laneQ 0 7 false) (.lpush fa, fa, ⟨.none, .src 1, .none, .none⟩) = true ∧ skipQ (laneQ 0 7 false) = false ∧
      (laneQ 0 7 false).g.q.rq.length < 8 ∧ quiet (laneQ 0 7 false) .lane = true ∧ 8 ≤ (laneQ 0 8 false).g.q.rq.length) ∧
    (ready (laneQ 0 0 false) (.vqpop fD, fD, ⟨.dst 1, .none, .none, .none⟩) = true ∧ (laneQ 0 0 false).g.q.vq = [] ∧
      (laneQ 1 0 false).g.q.vq = 5 :: []) ∧
    (skipQ (laneQ 0 0 true) = true ∧ ready (laneQ 0 0 true) (.vqpop fD, fD, ⟨.dst 1, .none, .none, .none⟩) = true ∧
      ready (laneQ 0 0 true) (.lpush fa, fa, ⟨.none, .src 1, .none, .none⟩) = true) ∧
    (specialReg laned 0 = some 0 ∧ ready laned (.rdsr fD, fD, ⟨.dst 1, .none, .none, .none⟩) = true) ∧
    ready laned (.lnop laneDefault, laneDefault, noRoles) = true := by decide +kernel

/-- A branch of the lanes with predicate 1, target 20, reconvergence 10. -/
def fBr : LaneFields := { laneDefault with e := true, guard := 1, imm := 0x0014000A }

/-- An entry that LBREAK makes, reconverging at 10. -/
def parkedAt (phase : Bool) : StackEntry := { mask := 2, phase := phase, fmt := 0, target := 0, reconv := 10 }

/-- `demo` with two active lanes, predicate 1 and a stack. -/
def branching (p1 : BitVec 64) (st : List StackEntry) : State :=
  onG demo (fun g => { g with ln := { g.ln with mask := 3, stack := st, preds := if p1 = 0 then [] else [(1, p1)] } })

theorem test_witness_LaneBranches :
    (∀ x ∈ [(Instr.lbr fBr, fBr, noRoles), (.ljmp { fBr with guard := 7, imm := 0x140000 }, { fBr with guard := 7, imm := 0x140000 }, noRoles),
        (.lbreak { fBr with imm := 10 }, { fBr with imm := 10 }, noRoles), (.lexit { fBr with imm := 0 }, { fBr with imm := 0 }, noRoles)],
      ready (branching 1 []) x = true) ∧
    (branching 0 []).g.ln.mask &&& guardMask (branching 0 []) fBr = 0 ∧
    ((branching 3 []).g.ln.mask &&& guardMask (branching 3 []) fBr = (branching 3 []).g.ln.mask) ∧
    (let s := branching 1 (List.replicate 255 (parkedAt false))
     s.g.ln.mask &&& guardMask s fBr ≠ 0 ∧ s.g.ln.mask &&& guardMask s fBr ≠ s.g.ln.mask ∧ s.g.ln.stack.length < 256) ∧
    256 ≤ (branching 1 (List.replicate 256 (parkedAt false))).g.ln.stack.length ∧
    ((branching 1 [parkedAt true]).g.ln.stack = parkedAt true :: [] ∧ (parkedAt true).phase = true ∧
      (parkedAt true).reconv = (10 : BitVec 32).setWidth 16 ∧ (parkedAt false).phase = false) := by decide +kernel

/-- A word of memory at the address of a, size 4, scope team. -/
def fMem : LaneFields := { laneDefault with a := 8, imm := 0x10100000 }

theorem lane_plain (w : Bool) : LanePlain (withLane laned laned.g.ln) fMem 4 w (fun _ => loc 0x20000 0x20000) := by
  have e : ∀ k, laneIn (laneMask (withLane laned laned.g.ln) fMem) k = true → k = 0 := fun k h => lane_zero k h
  cases w <;>
  exact
    { focused := isFoc_focused _ (by decide +kernel), places := fun k h => by rw [e k h]; rfl
      sound := fun k _ => .inr ⟨by decide +kernel, by decide +kernel, rfl, rfl⟩, whole := fun h => absurd h (by decide)
      part := ⟨rfl, rfl, rfl, rfl⟩, done := rfl, now := rfl }

/-- `laned` with operand slot 0 in a state, and d, a or b of OST and OLD at offset 0. -/
def slotted (st : SlotState) : State := slots (onG laned (fun g => { g with ln := { g.ln with v := [] } })) [(0, st)]

theorem test_witness_LaneLoadsAndStores :
    (LaneReady laned (.ld { fMem with d := 4 }) { fMem with d := 4 } ⟨.dst 1, .reg 2, .none, .none⟩ laned.g.ln ∧
      LanePlain (withLane laned laned.g.ln) fMem 4 false (fun _ => loc 0x20000 0x20000) ∧ laned.g.en.ld < 255) ∧
    (LaneReady laned (.st { fMem with b := 12 }) { fMem with b := 12 } ⟨.none, .reg 2, .regZ 1, .none⟩ laned.g.ln ∧
      LanePlain (withLane laned laned.g.ln) fMem 4 true (fun _ => loc 0x20000 0x20000) ∧ laned.g.en.st < 255) ∧
    (∀ n ∈ [SlotState.claimed, .ready, .filling, .inUse],
      ready (slotted n) (.ost { fMem with b := 12 }, { fMem with b := 12 }, ⟨.none, .reg 1, .regZ 1, .none⟩) = true ∧
      ready (slotted n) (.old { fMem with d := 4 }, { fMem with d := 4 }, ⟨.dst 1, .reg 1, .none, .none⟩) = true ∧
      (slotOf (slotted n).tm 0).st = n ∧ laneMask (slotted n) fMem ≠ 0 ∧ slotOff (slotted n).g fMem 0 % 4 = 0 ∧
      slotOff (slotted n).g fMem 0 + 4 ≤ 16384) ∧
    ready laned (.pref fMem, fMem, ⟨.none, .reg 2, .none, .none⟩) = true ∧ mSpace fMem = 0 ∧
    (laneMask (onG laned (fun g => { g with ln := { g.ln with mask := 0 } })) fMem = 0 ∧
      ready (onG laned (fun g => { g with ln := { g.ln with mask := 0 } })) (.st { fMem with b := 12 }, { fMem with b := 12 },
        ⟨.none, .reg 2, .regZ 1, .none⟩) = true) ∧
    (laneAddr laned.g { fMem with imm := 0x10100001 } 0 % 4 ≠ 0 ∧
      ready laned (.ld { fMem with d := 4, imm := 0x10100001 }, { fMem with d := 4, imm := 0x10100001 }, ⟨.dst 1, .reg 2, .none, .none⟩) = true ∧
      (lowLane (laneMask laned fMem)).isSome = true) := by
  refine ⟨⟨ready_laneReady laned (.ld { fMem with d := 4 }, { fMem with d := 4 }, ⟨.dst 1, .reg 2, .none, .none⟩) ?_, lane_plain false, ?_⟩,
    ⟨ready_laneReady laned (.st { fMem with b := 12 }, { fMem with b := 12 }, ⟨.none, .reg 2, .regZ 1, .none⟩) ?_, lane_plain true, ?_⟩,
    ?_⟩ <;> decide +kernel

theorem test_witness_LaneAtomics :
    (∀ x ∈ [(Instr.atom { fMem with d := 4, b := 12, sub := 11 }, ({ fMem with d := 4, b := 12, sub := 11 } : LaneFields),
          (⟨.dst 1, .reg 2, .mem 1, .none⟩ : Roles)),
        (.atomc { fMem with d := 4, b := 12, c := 16 }, { fMem with d := 4, b := 12, c := 16 }, ⟨.dst 1, .reg 2, .mem 1, .mem 1⟩),
        (.red { fMem with b := 12 }, { fMem with b := 12 }, ⟨.none, .reg 2, .mem 1, .none⟩)], ready laned x = true) ∧
    LanePlain (withLane laned laned.g.ln) fMem 4 true (fun _ => loc 0x20000 0x20000) := ⟨by decide +kernel, lane_plain true⟩

/-- A copy's fields: d, a, b and size 4. -/
def fCp : LaneFields := { fMem with d := 4, b := 12 }

theorem test_witness_LaneCopiesAndTileMoves :
    (LaneReady laned (.lcopy fCp) fCp ⟨.dst 2, .reg 2, .reg 2, .none⟩ laned.g.ln ∧ fCp.sub.toNat % 4 < 2 ∧ laneMask laned fCp ≠ 0 ∧
      quiet laned .lane = true ∧ laned.g.en.cp < 255) ∧
    (copyReach 4 0 (withLane laned laned.g.ln) (laneAddr laned.g fCp 0) = .ok (laneAddr laned.g fCp 0) (withLane laned laned.g.ln) ∧
      copyReach 4 0 (withLane laned laned.g.ln) (vgetN laned.g 12 0 2) = .ok (vgetN laned.g 12 0 2) (withLane laned laned.g.ln)) ∧
    (let s := slots laned [(0, .claimed)]
     ready s (.lcopyo { fCp with b := 16 }, { fCp with b := 16 }, ⟨.dst 2, .reg 2, .reg 1, .none⟩) = true ∧ (slotOf s.tm 0).st ≠ .free ∧
      vget s.g 16 0 % 4 = 0 ∧ vget s.g 16 0 + 4 ≤ 16384) ∧
    (let s := onG laned (fun g => { g with allot := 128 })
     s.tm.kernel.legacy = false ∧ s.g.bnd + (0 + 1) * (1024 / s.g.width) ≤ s.g.allot ∧ tilesBusy s [0] = false ∧
      ready s (.amovr { fD with imm := 63 }, { fD with imm := 63 }, ⟨.dst 1, .none, .none, .none⟩) = true ∧
      ready s (.amovw { fa with imm := 63 }, { fa with imm := 63 }, ⟨.none, .mem 1, .none, .none⟩) = true) ∧
    (let s := onG laned (fun g => { g with allot := 128 })
     let b := modCore s 0 (fun c => { c with wheelQ := [mkCmd s .tzero 0 0] })
     tilesBusy b [0] = true ∧ laneMask b fD ≠ 0) := by
  refine ⟨⟨ready_laneReady laned (.lcopy fCp, fCp, ⟨.dst 2, .reg 2, .reg 2, .none⟩) ?_, ?_⟩, ⟨rfl, rfl⟩, ?_⟩ <;> decide +kernel

/-- `s` with its inputs changed. -/
def onI (s : State) (f : Inputs → Inputs) : State := { s with inp := f s.inp }

/-- `s` with its device changed. -/
def onD (s : State) (f : Device → Device) : State := { s with dev := f s.dev }

/-- `s` with core 0 changed. -/
def onC (s : State) (f : Core → Core) : State := { s with cores := [f (noCore 0)] }

/-- `demo` with a word and a flag as the turn's inputs. -/
def given (w : Word) (b : Bool) : State := onI demo (fun x => { x with word := w, flag := b })

theorem test_witness_SensorsAndReliability :
    (∃ p, ownerOf demo 0 = some p ∧ findPart demo p.num = some p ∧ sevAction p 0x20 0 = 0 ∧
      4 * (p.thot.toNat : Int) ≤ ((BitVec.ofNat 16 400).toInt) ∧ (BitVec.ofNat 16 300).toInt ≤ 4 * ((p.thot.toNat : Int) - 6) ∧
      4 * ((p.thot.toNat : Int) - 6) < (BitVec.ofNat 16 350).toInt ∧ (BitVec.ofNat 16 350).toInt < 4 * (p.thot.toNat : Int)) ∧
    ownerOf demo 100 = none ∧
    (let s := onD (onC demo (fun c => { c with droopy := true, droopTimes := [0] })) (fun d => { d with gtc := 4000000 })
     (coreOf s 0).droopy = true ∧ (∀ t ∈ (coreOf s 0).droopTimes, t + 4000000 ≤ s.dev.gtc.toNat)) ∧
    ((coreOf demo 0).droopy = false ∧ (coreOf demo 0).testing = []) := by
  refine ⟨⟨demo.pt, ?_⟩, ?_, ?_, ?_⟩ <;> decide +kernel

/-- `demo` with action 3 for every class of error. -/
def severe : State := onI (onP demo (fun p => { p with sev := [(0x21, 0x333333)] })) (fun x => { x with groups := [gid] })

theorem test_witness_CoreFailures :
    (ownerOf severe 0 = some severe.pt ∧ findPart severe 1 = some severe.pt ∧ sevAction severe.pt 0x21 0 = 3 ∧
      (findGroup severe gid).map (fun g => (g.core, g.saved, g.ended)) = some (0, false, false)) ∧
    (coreOf (onC demo (fun c => { c with testing := [3] })) 0).testing = [3] ∧
    (let s := onD demo (fun d => { d with sliceM := [(5, 2 ^ 41)] })
     s.dev.sliceM = [(5, 2 ^ 41)] ∧ 5 / 64 = 0 / 108 ∧ lags (coreOf s 0).clock (2 ^ 41) ∧ ¬ lags 0 (2 ^ 40)) ∧
    ((demo.dev.created = false ∧ demo.dev.gtcSet = false) ∧ 1000000 * (-200 : Int).natAbs ≤ 200 * 1000000 ∧
      200 * 1000000 < 1000000 * (201 : Int).natAbs) := by
  refine ⟨by decide +kernel, by decide +kernel, ⟨rfl, rfl, ?_, ?_⟩, by decide +kernel⟩ <;> simp only [lags] <;> decide +kernel

/-- `demo` with a write to a register of BAR0: the offset and eight bytes. -/
def regWrite (off : Nat) (d : List Byte) : State := onI demo (fun x => { x with part := 1, off := off, data := d })

theorem test_witness_HostRegisterWrites :
    ((regWrite 0x10 [1, 0]).inp.data.length ≠ 4 ∧ (regWrite 0x10 [1, 0]).inp.data.length ≠ 8) ∧
    (let s := regWrite 0x14 (natBytes 8 1); s.inp.off % s.inp.data.length ≠ 0) ∧
    (∀ off ∈ [0x00, 0x08, 0x10, 0x18, 0x20, 0x40, 0x48, 0x50, 0x58, 0x60, 0x100, 0x110, 0x118, 0x200, 0x338, 0x1000, 0x17F8],
      let s := regWrite off (natBytes 8 3)
      findPart s s.inp.part = some demo.pt ∧ s.inp.data.length = 8 ∧ off % 8 = 0 ∧ s.inp.idx = 0 ∧ demo.pt.thotLock = false) ∧
    (onI (regWrite 0x1FF8 (natBytes 8 3)) (fun x => { x with idx := 1 })).inp.idx = 1 := by decide +kernel

/-- `demo` with a host access at offset `off`: context 0 maps the pages at 0x30000 and 0x20000. -/
def host (off : Nat) (d : List Byte) (n : Nat) : State :=
  onI (onP demo (fun p => { p with
    tlb := [{ page 0 0x30000 0x30000 with unit := partUnit }, { page 0 0x20000 0x20000 with unit := partUnit }] })) (fun x => { x with part := 1, off := off, data := d, size := n })

/-- The queue at 0x20000 of 16 entries whose tail word is at 0x30000. -/
def queueAt (en : Bool) (base : Word) (st : BitVec 3) : Queue :=
  { base := base, log2n := 4, tickets := 1, preempt := false, enable := en, vec := 0, head := 0, tailva := 0x30000, qstat := st
    ctx := 1, tail := 0 }

/-- `demo` with queue 0 and its tail word. -/
def posted (q : Queue) (tail : Nat) : State :=
  onP (withMem (host 0 [] 8) (poke [(0x30000, 4, tail)])) (fun p => { p with queues := [(0, q)] })

theorem test_witness_HostWindow :
    QuietPart (host 0x30000 (natBytes 8 7) 8) 1 (host 0x30000 (natBytes 8 7) 8).pt ∧ (host 0 [] 8).pt.posted = [] ∧
    HostPage (host 0x30000 (natBytes 8 7) 8) 1 0x30000 8 true (loc 0x30000 0x30000) ∧
    (∀ j, j < 8 → HostPage (host 0x30000 [] 8) 1 (0x30000 + j) 1 false (loc (0x30000 + j) (0x30000 + j))) ∧
    (∃ n d, n ≠ 0x0D ∧ translate (host 0x40000 (natBytes 8 7) 8) partUnit 1 0 0x40000 true true false = .trap n d) ∧
    (∃ n d, translate (host 0x40000 [] 8) partUnit 1 0 0x40000 true false true = .trap n d) ∧
    ((posted (queueAt true 0x20000 0) 1).inp.ecc = .clean ∧ winAddr demo.pt 0x30000 = 0x30000) := by
  refine ⟨⟨by decide +kernel, by decide +kernel⟩, rfl, ⟨rfl, rfl, by decide +kernel, by decide +kernel⟩, ?_, ⟨_, _, ?_, rfl⟩,
    ⟨_, _, rfl⟩, by decide +kernel⟩
  · intro j hj
    have : j = 0 ∨ j = 1 ∨ j = 2 ∨ j = 3 ∨ j = 4 ∨ j = 5 ∨ j = 6 ∨ j = 7 := by omega
    rcases this with h | h | h | h | h | h | h | h <;> subst h <;> exact ⟨rfl, rfl, by decide +kernel, by decide +kernel⟩
  · decide +kernel

theorem test_witness_HostQueues :
    QueueGood (posted (queueAt true 0x20000 0) 16) 1 (posted (queueAt true 0x20000 0) 16).pt (queueAt true 0x20000 0) 16 ∧
    QueueGood (posted (queueAt true 0x20000 0) 17) 1 (posted (queueAt true 0x20000 0) 17).pt (queueAt true 0x20000 0) 17 ∧
    (∀ n ∈ [16, 17], let s := posted (queueAt true 0x20000 0) n; findPart s s.inp.part = some s.pt ∧ queueOf s.pt 0 = queueAt true 0x20000 0) ∧
    (BitVec.ofNat 32 16 - (queueAt true 0x20000 0).head).toNat ≤ 2 ^ (queueAt true 0x20000 0).log2n.toNat ∧
    (∀ r d, (r, d) ∈ [(false, false), (true, true)] →
      let s := onP (posted (queueAt true 0x20000 0) 17) (fun p => { p with run := r, drain := d })
      QueueGood s 1 s.pt (queueAt true 0x20000 0) 17 ∧ findPart s 1 = some s.pt) ∧
    (queueAt true 0x20000 0).qstat.getLsbD 0 = false ∧ 2 ^ (queueAt true 0x20000 0).log2n.toNat < (BitVec.ofNat 32 17 - (queueAt true 0x20000 0).head).toNat ∧
    (queueAt false 0x20000 0).enable = false ∧ (queueAt true 0x20040 0).base.toNat % 128 ≠ 0 ∧ (queueAt true 0x20000 0).tickets ≠ 0 ∧
    (onP demo (fun p => { p with quotaPend := some (1, [1, 1], [1, 1, 1, 1]) })).pt.quotaPend = some (1, [1, 1], [1, 1, 1, 1]) := by
  refine ⟨⟨?_, ?_, ?_, ?_, ?_⟩, ⟨?_, ?_, ?_, ?_, ?_⟩, ?_, ?_, ?_, ?_⟩
  case refine_13 =>
    intro r d h
    simp only [List.mem_cons, Prod.mk.injEq, List.not_mem_nil, or_false] at h
    rcases h with ⟨rfl, rfl⟩ | ⟨rfl, rfl⟩ <;> refine ⟨⟨?_, ?_, ?_, ?_, ?_⟩, ?_⟩ <;> decide +kernel
  all_goals decide +kernel

/-- What a CREATE of partition `n` on twin `t` asks for. -/
def asked (n t : Nat) : CreateArgs := ⟨n, 0, 3, [t], [8, 8], [8, 8, 8, 8], 4096, 0, 4⟩

/-- `demo` with a mailbox command about partition 1 in STATE `st` and arguments. -/
def mailed (st : Nat) (a : CreateArgs) : State :=
  onI (onP demo (fun p => { p with state := st })) (fun x => { x with part := 1, create := a })

/-- `s` with the first argument word of the mailbox. -/
def arg (s : State) (w : Nat) : State := onD s (fun d => { d with mbArgs := poke [(0, 8, w)] })

theorem test_witness_MailboxCommands :
    (onD demo (fun d => { d with mbBusy := true })).dev.mbBusy = true ∧
    ((onD demo (fun d => { d with recovery := true })).dev.mbBusy = false ∧ (onD demo (fun d => { d with recovery := true })).dev.recovery = true) ∧
    (∀ n ∈ [1, 2, 3, 4, 5], let s := mailed n (asked 2 1)
      s.dev.mbBusy = false ∧ s.dev.recovery = false ∧ findPart s 1 = some s.pt ∧ s.pt.state = n) ∧
    findPart (onI demo (fun x => { x with part := 3 })) 3 = none ∧
    (let s := mailed 2 (asked 2 1)
     waysFit s 1 s.pt.twins [8, 8] [8, 8, 8, 8] = true ∧ waysFit s 1 s.pt.twins [33, 8] [8, 8, 8, 8] = false) ∧
    (1 < mread (arg demo 2).dev.mbArgs 0 8 ∧ mread (arg demo 1).dev.mbArgs 0 8 = 1 ∧ mread demo.dev.mbArgs 0 8 = 0) ∧
    (let s := onP demo (fun p => { p with keptCtl := some (true, false), imported := some (7, 9) })
     s.pt.keptCtl = some (true, false) ∧ s.pt.imported = some (7, 9) ∧ demo.pt.imported = none) := by decide +kernel

theorem test_witness_CreateArguments :
    ¬ createRange (asked 16 1) ∧ createRange (asked 2 1) ∧ createRange (asked 1 1) ∧ findPart (mailed 2 (asked 1 1)) 1 ≠ none ∧
    findPart (mailed 2 (asked 2 1)) 2 = none ∧ ¬ createFree (mailed 2 (asked 2 0)) (asked 2 0) ∧
    createFree (mailed 2 (asked 2 1)) (asked 2 1) ∧ capacityOk (mailed 2 (asked 2 1)) 4096 0 = true ∧
    shareFits (mailed 2 (asked 2 1)) 1 4 ∧ ¬ shareFits (mailed 2 (asked 2 1)) 1 257 := by
  refine ⟨?_, ?_, ?_, by decide +kernel, by decide +kernel, ?_, ⟨?_, ?_, ?_, ?_⟩, by decide +kernel, ?_, ?_⟩
  · simp only [createRange]; decide
  · simp only [createRange]; decide
  · simp only [createRange]; decide
  · intro h
    exact absurd (h.1 0 (by decide)).2.2 (by decide +kernel)
  · decide +kernel
  · decide +kernel
  · decide +kernel
  · simp only [shareFits]; decide +kernel
  · simp only [shareFits]; decide +kernel
  · simp only [shareFits]; decide +kernel

/-- A stream that EXPORT made, the last or not. -/
def stream (f : Bool) : Image :=
  { part := { noPartition with num := 3, frames := [(2 ^ 31, 4096)] }, tasks := [], teams := [], groups := [], mem := [], poison := []
    replay := [], remote := [], srcTime := 0, maxStamp := 0, pinned := [], final := f }

theorem test_witness_MailboxEnds :
    (demo.dev.sigNext = demo.dev.sigEnd ∧ (onD demo (fun d => { d with sigEnd := 5 })).dev.sigNext ≠ 5) ∧
    (let s := onD demo (fun d => { d with mbBusy := true }); s.dev.mbBusy = true ∧ s.dev.mbWait = none) ∧
    (let s := onD (onP demo (fun p => { p with quotaPend := some (0, [], []) })) (fun d => { d with mbBusy := true, mbWait := some (3, 1) })
     s.dev.mbBusy = true ∧ s.dev.mbWait = some (3, 1) ∧ findPart s 1 = some s.pt ∧ s.pt.quotaPend ≠ none) ∧
    (let s := onD demo (fun d => { d with mbBusy := true, mbWait := some (5, 1) })
     s.dev.mbBusy = true ∧ s.dev.mbWait = some (5, 1) ∧ findPart s 1 = some s.pt ∧ s.pt.state ≠ 0) ∧
    demo.dev.streams[demo.inp.idx]? = none ∧
    (let s := onD (mailed 2 (asked 1 1)) (fun d => { d with streams := [stream true] })
     s.dev.streams[s.inp.idx]? = some (stream true) ∧ s.inp.flag = false ∧ (stream true).final = true ∧ (stream false).final = false ∧
      findPart s 1 ≠ none) ∧
    (let s := onD (mailed 2 (asked 2 1)) (fun d => { d with streams := [stream true] })
     findPart s 2 = none ∧ capacityOk s (stream true).part.hbm (stream true).part.t2 = true ∧
      ∀ f ∈ (stream true).part.frames, ∀ p ∈ allParts s, ∀ h ∈ p.frames, f.1 + f.2 ≤ h.1 ∨ h.1 + h.2 ≤ f.1) := by decide +kernel

/-- A request of node 5, partition 2, for bytes of partition 1 at 0x20000. -/
def asks (d : List Byte) (granted : Bool) : State :=
  onI (onP demo (fun p => { p with grants := if granted then [(5, 2)] else [] })) (fun x => { x with
    fabric := ⟨5, 7, 2, 1, 0x20000, 8, false, d, none⟩, remote := ⟨5, 7, 9, 2, 1, 0x20000, 8, 0, 1, 0, some 4⟩ })

/-- A replay entry of node 5, core 7, tag 9. -/
def replayed : Replay := ⟨1, 5, 7, 9, 0x55, none, 0, 0⟩

/-- A remote atomic of the demo group's scalar stream on core 0 with tag 9. -/
def outstanding : RemoteReq := { aRemote with dst := 3 }

/-- `demo` with that atomic outstanding at time `now`. -/
def waiting (now : Word) : State :=
  onI (onD demo (fun d => { d with remote := [outstanding], gtc := now })) (fun x => { x with g := gid, idx := 9, word := 3 })

theorem test_witness_Links :
    ((portOf demo 3).up = true ∧ (portOf demo 3).retries < 64 ∧ (portOf (onD demo (fun d => { d with ports := [(3, ⟨true, 64⟩)] })) 3).up = true ∧
      64 ≤ (portOf (onD demo (fun d => { d with ports := [(3, ⟨true, 64⟩)] })) 3).retries) ∧
    (14 : Nat) ∉ demo.dev.linksDown ∧
    (let s := onD (asks [] true) (fun d => { d with fabricQ := [(.access (asks [] true).inp.fabric, 0)], gtc := 1000001 })
     s.dev.fabricQ[s.inp.idx]? = some (.access s.inp.fabric, 0) ∧ s.inp.flag = false ∧ 0 + 1000000 < s.dev.gtc.toNat) ∧
    (let s := onD (asks [] true) (fun d => { d with fabricQ := [(.access (asks [] true).inp.fabric, 0)], gtc := 1000000 })
     s.dev.fabricQ[s.inp.idx]? = some (.access s.inp.fabric, 0) ∧ s.dev.gtc.toNat ≤ 0 + 1000000 ∧ portLive s s.inp.port ∧
       (∃ e ∈ s.dev.fabricQ, sameLine e.1 (.access s.inp.fabric) = true) ∧ ∃ e ∈ s.dev.fabricQ, sameLine e.1 (.atomic s.inp.remote) = true) ∧
    ¬ portLive (onI demo (fun x => { x with port := 12 })) 12 ∧
    (∀ d ∈ [[], natBytes 8 3], let s := asks d true
      portLive s s.inp.port ∧ s.dev.recovery = false ∧ s.dev.fabricQ = [] ∧ s.inp.flag = false ∧ (s.inp.fabric.node, s.inp.fabric.reqPart) ∈ s.pt.grants ∧ s.inp.ecc = .clean ∧
        findPart s s.inp.fabric.part = some s.pt ∧ s.inp.fabric.publish = false) ∧
    (let s := onD (asks [] true) (fun d => { d with replay := [replayed], gtc := 19999999 })
     (s.dev.replay.filter (fun e => decide (s.dev.gtc.toNat + e.aged < e.gtc + 20000000))).find?
       (fun x => x.node == 5 && x.core == 7 && x.tag == 9) = some replayed) ∧
    (demo.dev.remote = [] ∧ (waiting 0).dev.remote.find? (fun y => y.core == 0 && y.tag == 9) = some outstanding ∧
      outstanding.performed = none ∧ l1Scope (teamOf (waiting 0) gid) outstanding.scope.toNat = true ∧ (waiting 0).g.hidden = none) ∧
    (onG (waiting 0) (fun g => { g with sup := true, hidden := some (hid 3) })).g.hidden = some (hid 3) ∧ frameReg 3 = true := by
  simp only [portLive]
  decide +kernel

theorem test_witness_RemoteRequests :
    (∀ o, findPart (asks [] false) 1 = some o → (5, 2) ∉ o.grants) ∧
    (∃ o, findPart (asks [] true) 1 = some o ∧ (5, 2) ∈ o.grants) ∧
    FabricPage (asks [] true) 1 0x20000 8 (asks [] true).pt ∧ FabricPage (asks (natBytes 8 3) true) 1 0x20000 8 (asks [] true).pt ∧
    (let s := onD (asks [] true) (fun d => { d with replay := List.replicate 65536 { replayed with tag := 8 } })
     65536 ≤ (s.dev.replay.filter (fun e => decide (s.dev.gtc.toNat + e.aged < e.gtc + 20000000))).length) ∧
    ((waiting 9999999).g.live = true ∧ (waiting 0).g.id = (waiting 0).inp.g ∧ (waiting 9999999).dev.gtc.toNat < outstanding.sent + 10000000 ∧
      outstanding.sent + 10000000 ≤ (waiting 10000000).dev.gtc.toNat ∧ outstanding.failed = false ∧ (waiting 0).g.killed = false ∧
      (waiting 0).g.trapPend = none) := by
  refine ⟨?_, ⟨_, rfl, by decide⟩, ⟨⟨?_, ?_⟩, ?_, ?_, ?_⟩, ⟨⟨?_, ?_⟩, ?_, ?_, ?_⟩, ?_, ?_⟩
  · intro o ho
    have : o = (asks [] false).pt := by
      have h : findPart (asks [] false) 1 = some (asks [] false).pt := by rfl
      exact (Option.some.inj (h.symm.trans ho)).symm
    subst this; decide
  all_goals decide +kernel

/-- `demo` with an RDMA operation on the supervisor context. -/
def rdma (va n : Nat) (d : List Byte) : State :=
  onD (onI (host 0 [] 0) (fun x => { x with part := 1, va := va, size := n, data := d, word := 5, flag := !d.isEmpty }))
    (fun y => { y with pairs := [(0, some ⟨1, true⟩)] })

theorem rdma_bytes (va n : Nat) (d : List Byte) (w : Bool) (h : (va, n, d) ∈ [(0x30000, 1, []), (0x30000, 1, [7]), (0x30000, 8, [])]) :
    RdmaBytes (rdma va n d) 1 va n w (fun j => loc (0x30000 + j) (0x30000 + j)) (rdma va n d).pt := by
  have hp : ∀ (d : List Byte) (j : Nat) (v : Bool), d = [] ∨ d = [7] → j < 8 →
      HostPage (rdma 0x30000 1 d) 1 (0x30000 + j) 1 v (loc (0x30000 + j) (0x30000 + j)) ∧
      HostPage (rdma 0x30000 8 d) 1 (0x30000 + j) 1 v (loc (0x30000 + j) (0x30000 + j)) := by
    intro d j v hd hj
    have : j = 0 ∨ j = 1 ∨ j = 2 ∨ j = 3 ∨ j = 4 ∨ j = 5 ∨ j = 6 ∨ j = 7 := by omega
    rcases hd with rfl | rfl <;> cases v <;> rcases this with h | h | h | h | h | h | h | h <;> subst h <;>
      exact ⟨⟨rfl, rfl, by decide +kernel, by decide +kernel⟩, ⟨rfl, rfl, by decide +kernel, by decide +kernel⟩⟩
  simp only [List.mem_cons, Prod.mk.injEq, List.not_mem_nil, or_false] at h
  rcases h with ⟨rfl, rfl, rfl⟩ | ⟨rfl, rfl, rfl⟩ | ⟨rfl, rfl, rfl⟩
  · exact ⟨⟨rfl, by decide +kernel⟩, by decide, ⟨_, (hp [] 0 false (.inl rfl) (by decide)).1⟩, fun j hj => (hp [] j w (.inl rfl) (by omega)).1⟩
  · exact ⟨⟨rfl, by decide +kernel⟩, by decide, ⟨_, (hp [7] 0 false (.inr rfl) (by decide)).1⟩, fun j hj => (hp [7] j w (.inr rfl) (by omega)).1⟩
  · exact ⟨⟨rfl, by decide +kernel⟩, by decide, ⟨_, (hp [] 0 false (.inl rfl) (by decide)).2⟩, fun j hj => (hp [] j w (.inl rfl) (by omega)).2⟩

theorem test_witness_Rdma :
    RdmaBytes (rdma 0x30000 1 []) 1 0x30000 1 false (fun j => loc (0x30000 + j) (0x30000 + j)) (rdma 0x30000 1 []).pt ∧
    RdmaBytes (rdma 0x30000 1 [7]) 1 0x30000 1 true (fun j => loc (0x30000 + j) (0x30000 + j)) (rdma 0x30000 1 [7]).pt ∧
    RdmaBytes (rdma 0x30000 8 []) 1 0x30000 8 true (fun j => loc (0x30000 + j) (0x30000 + j)) (rdma 0x30000 8 []).pt ∧
    pairHeld (rdma 0x30000 1 []) ∧ pairHeld (rdma 0x30000 1 [7]) ∧ pairHeld (rdma 0x30000 8 []) ∧
    ((rdma 0x30000 8 []).dev.poison = [] ∧ poisoned (rdma 0x30000 8 []) 0x30000 8 = false ∧ (rdma 0x30000 8 []).inp.flag = false ∧
      (rdma 0x30000 1 [7]).inp.flag = true ∧ (rdma 0x30000 1 [7]).dev.rdmaOpen = []) ∧
    65536 ≤ (onI demo (fun x => { x with idx := 65536 })).inp.idx :=
  ⟨rdma_bytes _ _ _ _ (by decide), rdma_bytes _ _ _ _ (by decide), rdma_bytes _ _ _ _ (by decide), ⟨by decide, rfl⟩, ⟨by decide, rfl⟩,
    ⟨by decide, rfl⟩, by decide +kernel, by decide⟩


/-- `s` with core `n` changed. -/
def onCore (s : State) (n : Nat) (f : Core → Core) : State := { s with cores := [f (noCore n)] }

/-- `demo` as core 1 sees it, holding teams [cur, hi) of task 1. -/
def sharing (cur hi : Nat) : State :=
  onI (onCore demo 1 (fun c => { c with share := some ⟨1, 1, cur, hi, false⟩ })) (fun x => { x with core := 1, part := 1, idx := 1, g := gid })

/-- `demo` as core 1 sees it, with work in its partition. -/
def offered (f : Partition → Partition) : State := onI (onP demo f) (fun x => { x with core := 1, part := 1, idx := 1, g := gid })

/-- `demo` whose team goes to the save pool. -/
def leaving (p : LanePos) : State :=
  let s := onG (offered id) (fun g => { g with ln := { g.ln with pos := p } })
  { s with tm := { s.tm with saving := true } }

/-- `demo` whose team lies in the save pool, with its resume entry or one of a range. -/
def stored (r : Resume) : State :=
  let s := onG (offered (fun p => { p with resume := [r] })) (fun g => { g with saved := true })
  { s with tm := { s.tm with saved := true }, cores := [{ noCore 1 with asked := some 0 }] }

theorem test_witness_TeamStarts :
    (let s := sharing 0 1
     (coreOf s 1).share = some ⟨1, 1, 0, 1, false⟩ ∧ (coreOf s 1).booked = none ∧ (coreOf s 1).retiring = false ∧ findPart s 1 = some s.pt ∧ s.pt.keptCtl = none ∧ s.pt.halts = [] ∧ findTask s 1 1 = some s.tk ∧
      s.tk.tt = none ∧ coolFor s (kernelFor s 1 1) 1 = true ∧ (coreOf s 1).testing = [] ∧
      fitsAt s (kernelFor s 1 1) 1 = true ∧ saveRoom s s.pt (kernelFor s 1 1) = true) ∧
    ((coreOf (sharing 1 1) 1).share = some ⟨1, 1, 1, 1, false⟩ ∧ findPart (sharing 1 1) 1 = some (sharing 1 1).pt) ∧
    (let s := onI (onC demo (fun c => { c with booked := some ⟨1, 1, 0, 1, false⟩ })) (fun x => { x with core := 0 })
     (coreOf s 0).share = none ∧ (coreOf s 0).booked = some ⟨1, 1, 0, 1, false⟩ ∧ residentOn s 0 ≠ [] ∧ twinKernel (kernelFor s 1 1) = false) ∧
    (let s := onCore (sharing 0 1) 1 (fun c => { c with hot := true, share := some ⟨1, 1, 0, 1, true⟩ })
     coolCore s 1 = false ∧ coolFor s (kernelFor s 1 1) 1 = false) := by decide +kernel

theorem test_witness_TeamsSavedAndResumed :
    (∀ p ∈ [LanePos.inRun, .pop], let s := leaving p
      findTeam s 1 1 0 = some s.tm ∧ s.tm.saving = true ∧ s.tm.saved = false ∧ (allGroups s).length = 1 ∧
        ∀ h ∈ allGroups s, (h.id.part = 1 ∧ h.id.task = 1 ∧ h.id.team = 0) ∧ drainedGroup s h = (p == .pop)) ∧
    (ownerOf (sharing 0 1) 1 = some demo.pt ∧ mayAsk (sharing 0 1) demo.pt 1 = false) ∧
    (let s := stored (.team 1 0)
     ownerOf s 1 = some s.pt ∧ findPart s 1 = some s.pt ∧ mayAsk s s.pt 1 = true ∧ isNextAsker s s.pt 1 = true ∧ (coreOf s 1).asked ≠ none ∧ s.pt.waiters = [] ∧
      s.tm.again = false ∧ s.g.sup = false ∧ s.g.image = none ∧ s.pt.resume.find? (resumeFits s s.pt 1) = some (.team 1 0) ∧
      findTeam s 1 1 0 = some s.tm ∧ (teamGroups s 1 1 0).length = 1) ∧
    (let s := stored (.range 1 0 1)
     s.pt.resume.find? (resumeFits s s.pt 1) = some (.range 1 0 1) ∧ mayAsk s s.pt 1 = true ∧ isNextAsker s s.pt 1 = true ∧
       ¬∃ u ∈ allTeams s, u.part = 1 ∧ u.task = 1 ∧ u.saving = true ∧ u.saved = false) ∧
    (let s := { stored (.range 1 0 1) with cores := [{ noCore 0 with asked := some 0 }, { noCore 1 with asked := some 1 }] }
     mayAsk s s.pt 1 = true ∧ isNextAsker s s.pt 1 = false) := by decide +kernel

/-- The groups of `pair` or `demo`, with the first one killed. -/
def slain (s : State) : State := onI (onG s (fun g => { g with killed := true })) (fun x => { x with g := gid })

theorem test_witness_GroupsEnd :
    (findGroup (offered id) gid = some demo.g ∧ groupOver (offered id) demo.g = false) ∧
    (let s := slain demo
     findGroup s gid = some s.g ∧ findTeam s 1 1 0 = some s.tm ∧ s.g.ended = false ∧ groupOver s s.g = true ∧
      ∀ h ∈ allGroups s, h.id = s.g.id ∨ h.ended = true) ∧
    (let s := slain (pair 2)
     findGroup s gid = some s.g ∧ findTeam s 1 1 0 = some s.tm ∧ groupOver s s.g = true ∧
      (allGroups s).any (fun h => h.id != s.g.id && h.id.part == 1 && h.id.task == 1 && h.id.team == 0 && !h.ended) = true) := by
  decide +kernel

/-- `demo` whose task has ended, its completion word at 0x30000. -/
def closed (source : Nat) : State := onT (offered (fun p => { p with tlb := (host 0 [] 0).pt.tlb })) (fun t => { t with ended := true, source := source, complVA := 0x30000 })

theorem test_witness_LaunchesEnd :
    (findTask (offered id) 1 1 = some demo.tk ∧ demo.tk.ended = false) ∧
    (∀ n ∈ [0, 1], findTask (closed n) 1 1 = some (closed n).tk ∧ (closed n).tk.ended = true ∧ (closed n).tk.source = n ∧
      findPart (closed n) 1 = some (closed n).pt) ∧
    HostPage (closed 0) 1 0x30000 8 true (loc 0x30000 0x30000) := by
  refine ⟨by decide +kernel, by decide +kernel, rfl, rfl, by decide +kernel, by decide +kernel⟩

/-- Core 1 asks in `s`. -/
def isAsking (s : State) : Bool :=
  decide (ownerOf s 1 = some s.pt) && decide (findPart s 1 = some s.pt) && decide ((coreOf s 1).asked ≠ none) && s.pt.num == 1 && mayAsk s s.pt 1 && isNextAsker s s.pt 1 &&
    decide (s.pt.queues = [] ∧ s.pt.resume = [] ∧ s.pt.waiters = [])

theorem isAsking_asking (s : State) (h : isAsking s = true) : Asking s 1 s.pt := by
  simp only [isAsking, Bool.and_eq_true, decide_eq_true_eq, beq_iff_eq] at h
  obtain ⟨⟨⟨⟨⟨⟨h1, h2⟩, h3⟩, h4⟩, h5⟩, h6⟩, h7⟩ := h
  exact ⟨⟨h1, h4 ▸ h2, h3, h5, h6⟩, h7⟩

/-- `s` with the request of core 1 standing. -/
def requests (s : State) : State := { s with cores := s.cores ++ [{ noCore 1 with asked := some 0 }] }

theorem test_witness_IdleCores :
    (let s := requests (offered (fun p => { p with pending := [1] }))
     isAsking s = true ∧ s.pt.pending.find? (fun m => takes s s.pt (kernelFor s 1 m) 1) = some 1 ∧ findTask s 1 1 = some s.tk) ∧
    (let s := requests (offered (fun p => { p with waiters := [1] }))
     s.pt.waiters.find? (fun m => takes s s.pt (kernelFor s 1 m) 1) = some 1) ∧
    (let s := onT (requests (offered (fun p => { p with qf := [1] }))) (fun t => { t with tickets := 1 })
     isAsking s = true ∧ s.pt.pending = [] ∧ s.pt.qf = [1] ∧ s.pt.qt = [] ∧ findTask s 1 1 = some s.tk ∧ s.tk.tickets ≠ 0 ∧
      takes s s.pt s.tk.kernel 1 = true) ∧
    (let s := requests (offered id)
     isAsking s = true ∧ s.pt.pending = [] ∧ s.pt.qf = [] ∧ halveVictim s s.pt 1 = none ∧ mayAsk (offered id) s.pt 1 = true ∧
      (coreOf (offered id) 1).asked = none) ∧
    (let s := requests (onI (onC demo (fun c => { c with share := some ⟨1, 1, 0, 4, false⟩ })) (fun x => { x with core := 1 }))
     isAsking s = true ∧ halveVictim s s.pt 1 = some (0, ⟨1, 1, 0, 4, false⟩) ∧ twinKernel (kernelFor s 1 1) = false) := by decide +kernel

/-- `demo` whose queue 0 holds one record, for teams 0 to 2 of a kernel of context 1, while core 1's request stands. -/
def drawing : State :=
  onD (requests (onP (withMem (offered id) (poke ([(0x20000, 8, 0x21000), (0x2000C, 4, 3), (0x30000, 4, 1), (ctlKey 1 0x3010, 8, 0x1000)] ++ kdesc 0x21000)))
    (fun p => { p with
      queues := [(0, { queueAt true 0x20000 0 with tail := 1 })]
      tlb := [(0, 0x30000), (0, 0x20000), (1, 0x21000)].map (fun e => { page e.1 e.2 e.2 with unit := partUnit }) })))
    (fun d => { d with l2 := [1056, 1024].map (fun k => ⟨k, 15, 0, 1, 0, 1, false⟩) })

/-- `drawing` after the draw. -/
def drew : State := drawn drawing 1 drawing.pt []

/-- The record's bytes, and its kernel. -/
def drewBytes : List Byte := (recordBytes drew 1 0x20000).getD []

def drewKernel : Kernel := kernelOf (mbytes drew.mem 0x21000 128)

theorem drewKernel_got : getKernel drew { outside 1 distSource with ctx := 1 } noTeam (frameFld drewBytes 0 8) = .ok drewKernel drew := by
  have h : (match getKernel drew { outside 1 distSource with ctx := 1 } noTeam (frameFld drewBytes 0 8) with
    | .ok k u => decide (k = drewKernel) && decide (u = drew)
    | _ => false) = true := by decide +kernel
  revert h
  generalize getKernel drew { outside 1 distSource with ctx := 1 } noTeam (frameFld drewBytes 0 8) = r
  intro h
  split at h
  · simp only [Bool.and_eq_true, decide_eq_true_eq] at h
    rw [h.1, h.2]
  · exact absurd h (by decide)

theorem test_witness_Draws :
    Draws drawing 1 drawing.pt [(0, 1)] 0 ∧ GoodRecord drew 1 (queueOf drawing.pt 0) drewBytes drewKernel drew.dev.l2 ∧
    ageStep drawing.pt.ages [0] ((sourcesOf drawing drawing.pt).map Prod.fst) 0 = [] ∧ takes drawing drawing.pt drewKernel 1 = true := by
  refine ⟨⟨⟨by decide +kernel, by decide +kernel, by decide +kernel, by decide +kernel, by decide +kernel⟩, by decide +kernel, by decide +kernel,
    by decide +kernel, by decide, [], 1, [], rfl, .inr ?_⟩, ⟨by decide +kernel, by decide +kernel, by decide +kernel, drewKernel_got⟩,
    by decide +kernel, by decide +kernel⟩
  decide +kernel

/-- `demo` with words of code at 0x10000, in the L2. -/
def coded (l : List Nat) : State :=
  onD (withMem demo (poke (l.zipIdx.map (fun e => (0x10000 + 4 * e.2, 4, e.1))))) (fun d => { d with l2 := [⟨512, 15, 0, 1, 0, 1, false⟩] })

/-- The words of an instruction. -/
def wordsOf (i : Instr) : List Nat := (encode i).map (fun w => w.toNat)

/-- `coded` with the group at the end of a run, run 0 waiting in its DQ and no group on its quad. -/
def runnable : State :=
  let s := onG (coded (wordsOf (.vadd { laneDefault with d := 3, a := 4, b := 5 }))) (fun g => { g with tickets := 1, q := { g.q with dq := [(0, none)] }, ln := { g.ln with pos := .pop } })
  onI (onD s (fun d => { d with quads := [] })) (fun x => { x with g := gid })

theorem test_witness_RunLottery :
    (quadOf demo 0 0).owner ≠ none := by decide +kernel

theorem test_witness_RunDrawn :
    let ready := (quadGroups runnable 0 0).filterMap (fun g => (readyRun runnable g.id).map (fun r => (g, r)))
    (quadOf runnable 0 0).owner = none ∧ ready ≠ [] ∧
      (lotteryWin (nextDraw (quadOf runnable 0 0).x) ready).map (fun e => e.1.id) = some gid := by decide +kernel

theorem test_witness_HeldTraps :
    let t : TrapInfo := ⟨1, 0, 0, 0, .scalar, false⟩
    let s := onG (offered id) (fun g => { g with trapPend := some t })
    (s.g.live = true ∧ s.g.id = s.inp.g ∧ s.g.trapPend = some t ∧ s.g.en.acc = []) ∧
      (onG s (fun g => { g with en := { g.en with acc := [someAcc .scalar (.store 8)] } })).g.en.acc ≠ [] := by decide +kernel

/-- `demo` with a debug command word for task 1. -/
def bugged (op : Nat) : State := withMem (offered id) (poke [(ctlKey 1 0x6000, 8, 2 ^ 32 + 0xF00 + op)])

/-- `demo` with a halt under way, its group halted or not. -/
def halting (h : Bool) : State :=
  onG (offered (fun p => { p with dbgWait := true, dbgLast := 0x100000F01 }))
    (fun g => { g with halted := h, ln := { g.ln with pos := if h then .pop else .inRun } })

theorem test_witness_Debug :
    DebugCmd (bugged 1) 1 demo.pt 1 0x100000F01 ∧ DebugCmd (bugged 2) 1 demo.pt 2 0x100000F02 ∧ DebugCmd (bugged 3) 1 demo.pt 3 0x100000F03 ∧
    ctlRead (bugged 2) 1 0x6010 8 = 0 ∧
    (∀ h ∈ [false, true], let s := halting h
      findPart s 1 = some s.pt ∧ s.pt.dbgWait = true ∧ s.pt.dbgLast.toNat % 8 = 1 ∧ ctlRead s 1 0x6010 8 = 0 ∧ (allGroups s).length = 1 ∧
        ∀ g ∈ allGroups s, g.id = gid ∧ g.ended = false ∧ g.saved = false ∧ g.halted = h ∧ (g.ln.pos == .inRun) = !h ∧ dbgStopped s g = h) ∧
    debugNamed 0x100000F01 1 demo.g := by
  refine ⟨⟨rfl, ?_, ?_, ?_⟩, ⟨rfl, ?_, ?_, ?_⟩, ⟨rfl, ?_, ?_, ?_⟩, ?_, ?_, ?_⟩
  all_goals first | decide +kernel | (unfold debugNamed; decide +kernel)

/-- The turn counts about the group in focus. -/
def isCounting (s : State) : Bool :=
  isFoc s && decide (s.g.id = s.inp.g) && !countsOff s s.g.id && s.g.trapPend.isNone

theorem isCounting_counting (s : State) (h : isCounting s = true) : Counting s := by
  simp only [isCounting, Bool.and_eq_true, decide_eq_true_eq, Bool.not_eq_true', Option.isNone_iff_eq_none] at h
  obtain ⟨⟨⟨h1, h2⟩, h3⟩, h4⟩ := h
  exact ⟨isFoc_focused s h1, h2, h3, h4⟩

/-- `s` with the turn about its group. -/
def about (s : State) : State := onI s (fun x => { x with g := gid, part := 1, idx := 1 })

/-- The scalar stream at an instruction and the lane stream somewhere, both for 100 ns. -/
def stuck (i : Instr) (p : LanePos) (ex : Bool) : State :=
  onG (onD (about (coded (wordsOf i))) (fun d => { d with gtc := 100 })) (fun g => { g with
    waits := [(.queueS, 0), (.queueL, 0)], sc := { g.sc with exited := ex }, ln := { g.ln with pos := p }, q := { g.q with rq := if ex then List.replicate 8 0 else [] } })

theorem test_witness_QueueDeadlocks :
    (let s := stuck (.rqpop 1) .pop false
     isCounting s = true ∧ s.g.skipS = false ∧ waited (polled s) (polled s).g .queueL 64 = true ∧ waited (polled s) (polled s).g .queueS 64 = true ∧ s.g.halted = false ∧ s.g.draining = false ∧ s.g.sc.exited = false ∧ scalarQueueStall s = true ∧
      laneQueueStall s = true) ∧
    (let s := stuck (.rqpop 1) .inRun false; isCounting s = true ∧ laneQueueStall s = false) ∧
    (let s := stuck (.lpush { laneDefault with a := 5 }) .inRun true; isCounting s = true ∧ s.g.sc.exited = true ∧ laneRunStall s = true) ∧
    (let s := stuck (.lpush { laneDefault with a := 5 }) .pop true
     isCounting s = true ∧ s.g.sc.exited = true ∧ laneRunStall s = false ∧ runEndStall s = none) := by decide +kernel

/-- `s` at 300 ns, its group waiting at its instruction since 0, with watchdogs of 100 clk. -/
def since0 (s : State) : State :=
  onG (onP (onD s (fun d => { d with gtc := 300 })) (fun p => { p with stageWd := 100, partWd := 100 }))
    (fun g => { g with waits := [(.accessS, 0), (.barrier, 0), (.starved, 0), (.mark, 0)] })

/-- `demo` whose group waits: in CLAIM, or on the stage barrier at 0x40 with counts EXPECT 5 and ARRIVED 1 or as many. -/
def halted (cl : Bool) (sb : Option Nat) (n : Nat) : State :=
  let s := onG (since0 (about (coded (wordsOf (if cl then .claim 1 else .sbwait 3 1 0)))))
    (fun g => { g with sc := { g.sc with regs := [(1, 2)], sbWait := sb.map (fun a => ((ownSide demo, a), 0)) } })
  { s with tm := { s.tm with claims := if cl then [⟨0, 0, 2⟩] else [], sp0 := poke [(0x40, 4, 5), (0x44, 4, n)] } }

theorem test_witness_WaitingGroups :
    (let s := halted true none 0
     isCounting s = true ∧ s.g.killed = false ∧ waitsOn s s.g = true ∧
      ((teamGroups s 1 1 0).filter (fun h => h.core == s.g.core && h.quad == s.g.quad && !h.killed)).filter
        (fun h => s.tm.claims.any (fun c => c.group == h.id.group)) = [s.g] ∧
      s.tm.claims.find? (fun c => c.group == gid.group) = some ⟨0, 0, 2⟩) ∧
    (isCounting (halted false none 0) = true ∧ waitsOn demo demo.g = false) ∧
    (let s := halted false (some 0x40) 1
     isCounting s = true ∧ s.g.sc.sbWait = some ((ownSide s, 0x40), 0) ∧ waited s s.g .starved s.pt.stageWd.toNat = true ∧
      fld (mread (spOf s.tm (ownSide s)) 0x40 16) 100 1 = 0 ∧ fld (mread (spOf s.tm (ownSide s)) 0x40 16) 32 32 < fld (mread (spOf s.tm (ownSide s)) 0x40 16) 0 32) ∧
    (let s := halted false (some 0x40) 5
     isCounting s = true ∧ s.g.sc.sbWait = some ((ownSide s, 0x40), 0) ∧
      fld (mread (spOf s.tm (ownSide s)) 0x40 16) 0 32 ≤ fld (mread (spOf s.tm (ownSide s)) 0x40 16) 32 32) := by decide +kernel

/-- `timed` at a MARK of register 1. -/
def marked (v : Word) (tt : Bool) : State :=
  let s := about (timed 0 v)
  onD (onT { s with mem := mwrite s.mem 0x10000 4 (encode (.mark 1)).head!.toNat } (fun t => { t with tt := if tt then t.tt else none }))
    (fun d => { d with l2 := [⟨512, 15, 0, 1, 0, 1, false⟩] })

/-- The scalar stream of `s` is at a MARK of register 1, which stands under STALL. -/
def standsAtMark (s : State) : Bool :=
  (match fetchScalar s with
  | .run i _ => decide (i = .mark 1)
  | _ => false)
  && quiet s .scalar && !s.g.sup && (markBad s (sreg s 1)).isNone && (sreg s 1).toNat != s.tm.marker.toNat
  && (s.tk.tt.map BoundTT.policy) == some 0 && !(unmet s (crossedBy s s.tm.marker.toNat (sreg s 1).toNat)).isEmpty

/-- `demo` with a team time in ns and a time. -/
def timeUp (n : Nat) (now : Word) : State :=
  let s := onD (about demo) (fun d => { d with gtc := now })
  { s with tm := { s.tm with kernel := { s.tm.kernel with teamtime := n } } }

theorem test_witness_Watchdogs :
    (let s := onG (since0 (about demo)) (fun g => { g with draining := true })
     isFoc s = true ∧ s.g.id = s.inp.g ∧ s.g.draining = true ∧ s.g.killed = false ∧ s.g.ended = false ∧ s.g.saved = false ∧ s.g.ln.pos = .inRun ∧
      s.g.en.acc = [] ∧ s.g.en.copies = [] ∧ (coreOf s 0).testing = [] ∧ s.pt.partWd.toNat ≤ clkSince s s.g.drainAt ∧ s.groups = [] ∧
      (coreOf s 0).wheelQ ++ (coreOf s 0).wheelRun = []) ∧
    (clkSince (about demo) 0 < 100 ∧ (about demo).g.draining = false ∧ (about demo).g.halted = false) ∧
    (let s := since0 (marked 2 true)
     isCounting s = true ∧ standsAtMark s = true ∧ waited s s.g .mark s.pt.partWd.toNat = true) ∧
    (let s := marked 2 false; isCounting s = true ∧ s.tk.tt = none ∧ quiet s .scalar = true ∧
      (match fetchScalar s with
       | .run i _ => decide (i = .mark 1)
       | _ => false) = true) ∧
    (let s := onI (onG (since0 (about demo)) (fun g => { g with en := { g.en with acc := [someAcc .scalar (.load 8 false 3)] } })) (fun x => { x with idx := 0 })
     isCounting s = true ∧ waited s s.g .accessS s.pt.partWd.toNat = true ∧ s.inp.flag = false ∧ s.g.en.acc = [someAcc .scalar (.load 8 false 3)]) ∧
    (∀ n ∈ [99, 100],
      let s := timeUp 120 (BitVec.ofNat 64 n)
      isFoc s = true ∧ teamGroups s 1 1 0 = [s.g] ∧ s.tm.saved = false ∧ (coreOf s 0).testing = [] ∧ s.g.trapPend = none ∧
        s.tm.kernel.teamtime ≠ 0 ∧ decide (6 * (s.dev.gtc - s.tm.startGtc).toNat < 5 * s.tm.kernel.teamtime) = (n == 99)) ∧
    (findTeam (about demo) 1 1 0 = some demo.tm ∧ demo.tm.kernel.teamtime = 0) := by decide +kernel

/-- `demo` whose tables map the page at 0x20000 but whose TLB is empty. -/
def cold (pte : Nat) : State :=
  let s := onI (onP (withMem demo (poke (tables 1 pte))) (fun p => { p with tlb := [] }))
    (fun x => { x with g := gid, part := 1, idx := 1, va := 0x20000, flag := true })
  s

/-- The leaf of that page. -/
def coldLeaf (pte : Nat) : Leaf := ⟨pte, 0x104100, 0, 0x20000, 4096⟩

/-- `walk` finds this leaf. -/
def finds (s : State) (l : Leaf) : Bool :=
  match walk s 1 1 0x20000 with
  | .leaf x => decide (x = l)
  | _ => false

/-- The outstanding access `k` of the demo group at a location, its turn to answer. -/
def answering (k : AccKind) (st : Stream) (key : Nat) : State :=
  onI (onG demo (fun g => { g with en := { g.en with acc := [{ someAcc st k with lanes := [⟨0, loc 0x20000 key, 7, 0⟩] }] } }))
    (fun x => { x with g := gid })

theorem test_witness_PageWalks :
    ((tlbFind (about demo).pt (me demo).unit 1 0x20000).isSome = true ∧ isFoc (about demo) = true) ∧
    (let s := cold (leafPte 1 0)
     isFoc s = true ∧ s.g.id = s.inp.g ∧ vaCheck 0x20000 s.g.sup = none ∧ 0x20000 < ctlVA ∧ tlbFind s.pt (me s).unit 1 0x20000 = none ∧ s.inp.ecc = .clean ∧ poisoned s (coldLeaf (leafPte 1 0)).key 1 = false ∧
      finds s (coldLeaf (leafPte 1 0)) = true ∧ permFail (leafPte 1 0) 0 false true false = none ∧ physOk s.dev.t2Bytes (leafKey (leafPte 1 0) 0x20000 4096) = true) ∧
    (let s := cold 0
     (match walk s 1 1 0x20000 with
     | .trap _ _ => true
     | _ => false) = true) := by decide +kernel

theorem answering_all (k : AccKind) (st : Stream) (n key : Nat) (h : key + n ≤ 3 * spaceSize)
    (hp : poisoned (answering k st key) key n = false) (w : upperPart (loc 0x20000 key) n = none) :
    Answering (answering k st key) { someAcc st k with lanes := [⟨0, loc 0x20000 key, 7, 0⟩] } ⟨0, loc 0x20000 key, 7, 0⟩ n demo.pt :=
  { focused := isFoc_focused _ rfl, named := rfl, acc := rfl, index := rfl, lane := ⟨rfl, rfl⟩, first := ⟨rfl, rfl⟩
    quiet := ⟨rfl, ⟨rfl, rfl, rfl, rfl, rfl⟩⟩, place := ⟨rfl, h⟩, sound := hp, clean := rfl, whole := w, free := ⟨rfl, rfl⟩ }

theorem test_witness_AccessesPerform :
    (∀ k ∈ [AccKind.load 8 false 3, .store 8, .atomic 8 0 true 3], Answering (answering k .scalar 0x20000)
      { someAcc .scalar k with lanes := [⟨0, loc 0x20000 0x20000, 7, 0⟩] } ⟨0, loc 0x20000 0x20000, 7, 0⟩ 8 demo.pt) ∧
    Answering (answering (.load 8 false 3) .scalar spaceSize) { someAcc .scalar (.load 8 false 3) with lanes := [⟨0, loc 0x20000 spaceSize, 7, 0⟩] }
      ⟨0, loc 0x20000 spaceSize, 7, 0⟩ 8 demo.pt ∧ (someAcc .scalar (.store 8)).ord.toNat < 3 ∧
    (let s := onP demo (fun p => { p with sev := [(0x23, 0)] }); sevAction s.pt 0x23 0x2008 = 0) := by
  refine ⟨fun k _ => answering_all k .scalar 8 0x20000 (by decide) rfl rfl, answering_all _ _ _ _ (by decide) rfl rfl, by decide, by decide +kernel⟩

/-- A shootdown of the page at 0x20000 of context 1 whose word lies at 0x30000. -/
def shot : Shoot := ⟨1, 0x20000, 12, 0x30000, true, [(0x20000, 4096)]⟩

/-- An instance of entry 0 of task 1's timetable, due for the page at 0x20000. -/
def due : Instance := ⟨0, 0, 1, none, 0, 0, 0, 0x20000, none⟩

/-- `cold` with the partition changed, words in the control page, and a timetable of one entry of a kind to tier 0. -/
def tiers (kind pte : Nat) (ctl : List (Nat × Nat)) (f : Partition → Partition) : State :=
  let s := onI (onT (onP (cold pte) f) (fun t => { t with tt := some { checkTT 1 with
    entries := [{ marker := 1, period := 0, kind := kind, tier := 0, scope := 0, lead := 0, slot := 0, offset := 0, length := 64, tstride := 0, pstride := 0 }] } }))
    (fun x => { x with idx := 0, flag := false })
  { s with mem := ctl.foldl (fun m e => mwrite m (ctlKey 1 e.1) 8 e.2) s.mem }

/-- A move of the page at 0x20000 to a tier. -/
def moving (tier : Nat) (i : Option Instance) : Move := ⟨1, 0x20000, 4096, 0x104100, tier, i, 0⟩

theorem free_below (n part tier high : Nat) (h : 2 ^ 43 ≤ high) : (Config.tierFree n part tier).toNat < high := by
  have := (Config.tierFree n part tier).isLt
  omega

theorem test_witness_Shootdowns :
    (BitVec.ofNat 32 (ctlRead (about demo) 1 0x800 4) = demo.pt.shootTail ∧ findPart (about demo) 1 = some demo.pt ∧ demo.pt.shoots = []) ∧
    (let s := withMem (about demo) (poke [(ctlKey 1 0x800, 4, 1)]); BitVec.ofNat 32 (ctlRead s 1 0x800 4) = s.pt.shootTail + 1) ∧
    (let s := onG (onP (about demo) (fun p => { p with shoots := [shot] })) (fun g => { g with en := { g.en with acc := [someAcc .scalar (.store 8)] } })
     findPart s 1 = some s.pt ∧ s.pt.shoots = shot :: [] ∧ shootBusy s 1 shot = true) ∧
    (let s := onP (about (host 0 [] 0)) (fun p => { p with shoots := [shot] })
     findPart s 1 = some s.pt ∧ s.pt.shoots = shot :: [] ∧ shootBusy s 1 shot = false ∧ shot.compl % 8 = 0) ∧
    HostPage (onP (about (host 0 [] 0)) (fun p => { p with shoots := [shot] })) 1 0x30000 8 true (loc 0x30000 0x30000) := by
  refine ⟨by decide +kernel, by decide +kernel, by decide +kernel, by decide +kernel, rfl, rfl, by decide +kernel, by decide +kernel⟩

/-- The demotion engine of a tier has the turn in the state. -/
def demotes (tier pte : Nat) (ctl : List (Nat × Nat)) : State :=
  onI (tiers 0 pte ctl (fun p => { p with demoting := [tier] })) (fun x => { x with idx := tier })

theorem test_witness_Demotion :
    (let s := tiers 0 (leafPte 1 0) [] id; findPart s 1 = some s.pt ∧ s.pt.demoting = [] ∧ belowLow s 1 0 = false) ∧
    (let s := demotes 1 (leafPte 1 0) []; activePart s.pt = true ∧ s.pt.demoting.contains 1 = true ∧ ctlRead s 1 0x2018 8 = 0) ∧
    (nextVictim (demotes 1 (leafPte 0 0) [(0x2018, 2 ^ 60)]) (demotes 1 (leafPte 0 0) [(0x2018, 2 ^ 60)]).pt 1 = none) ∧
    (∀ x ∈ [(1, 1), (0, 0), (1, 0), (3, 0)],
      let s := demotes x.1 (leafPte x.1 x.2) [(0x2008 + 16 * x.1, 2 ^ 60)]
      findPart s 1 = some s.pt ∧ ctlRead s 1 (0x2008 + 16 * x.1) 8 = 2 ^ 60 ∧ bit (leafPte x.1 x.2) 59 = (x.2 == 1) ∧
        (nextVictim s s.pt x.1).map (fun v => (v.1, v.2.1, v.2.2.1.va, v.2.2.2)) = some (0, 1, 0x20000, coldLeaf (leafPte x.1 x.2))) := by
  decide +kernel

theorem test_witness_Demotion_awake :
    belowLow (tiers 0 (leafPte 1 0) [(0x2000, 2 ^ 60)] id) 1 0 = true ∧
    (Config.tierFree (demotes 1 (leafPte 1 0) [(0x2018, 2 ^ 60)]).tick 1 1).toNat < 2 ^ 60 := by
  refine ⟨?_, free_below _ _ _ _ (by decide)⟩
  have h : ctlRead (tiers 0 (leafPte 1 0) [(0x2000, 2 ^ 60)] id) 1 (0x2000 + 16 * 0) 8 = 2 ^ 60 := by decide +kernel
  unfold belowLow
  simp only [h, bne_iff_ne, ne_eq, Bool.and_eq_true, decide_eq_true_eq]
  exact ⟨by decide, free_below _ _ _ _ (by decide)⟩

theorem no_ways_pins (s : State) (p : Partition) (key : Nat) (h : p.ways = []) : pinsTooMany s p key 4096 = true := by
  have m : key / 128 + 0 ∈ pageLines key 4096 := List.mem_map.mpr ⟨0, by decide, rfl⟩
  refine List.any_eq_true.mpr ⟨_, m, decide_eq_true ?_⟩
  have q : ∀ d, wayQuota p d = 0 := fun d => by simp [wayQuota, h]
  have f : 0 < ((pageLines key 4096).filter (fun x => lineSet x == lineSet (key / 128 + 0))).length :=
    List.length_pos_of_mem (List.mem_filter.mpr ⟨m, by simp⟩)
  rw [q]
  omega

theorem test_witness_TierMoves :
    (∀ l ∈ [0, 2 ^ 60],
      let s := tiers 0 (leafPte 1 0) [(0x2000, l)] (fun p => { p with insts := [due] })
      findPart s 1 = some s.pt ∧ s.pt.holds = [] ∧ s.pt.revs = [] ∧ s.pt.moves = [] ∧ s.pt.state = 2 ∧ s.pt.keptCtl = none ∧
        s.pt.insts = [due] ∧ due.die = s.inp.idx ∧ begunCount s.pt < 4096 ∧
        (instEntry s 1 due).map (fun e => (e.kind, e.length, e.tier)) = some (0, 64, 0) ∧ instCtx s 1 due = 1 ∧
        pageOf s 1 1 0x20000 = some (coldLeaf (leafPte 1 0)) ∧ bit (leafPte 1 0) 2 = false ∧ bit (leafPte 1 0) 63 = false ∧
        (0 : Nat) < fld (leafPte 1 0) 5 3 ∧ 0 ∉ s.pt.noVictim) ∧
    (let s := tiers 0 0 [] (fun p => { p with moves := [moving 1 none] })
     findPart s 1 = some s.pt ∧ s.pt.moves[s.inp.idx]? = some (moving 1 none) ∧ pageOf s 1 1 0x20000 = none) ∧
    (let s := onG (tiers 0 (leafPte 0 0) [] (fun p => { p with moves := [moving 1 none] }))
       (fun g => { g with en := { g.en with acc := [someAcc .scalar (.load 8 false 3)] } })
     readInUse s 1 1 0x20000 (0x20000 + 4096) = true) ∧
    (let s := tiers 3 (leafPte 1 0) [] (fun p => { p with moves := [moving 0 (some due)], ways := [] })
     s.pt.moves[s.inp.idx]? = some (moving 0 (some due)) ∧ (instEntry s 1 due).map TTEntry.kind = some 3 ∧
      s.pt.ways = [] ∧ due ∉ s.pt.shorts ∧
      readInUse s 1 1 0x20000 (0x20000 + 4096) = false) ∧
    (let s := tiers 0 (leafPte 0 0) [] (fun p => { p with moves := [moving 1 none] })
     s.pt.moves = [moving 1 none] ∧ s.inp.ecc = .clean ∧ readInUse s 1 1 0x20000 (0x20000 + 4096) = false ∧
      fld (leafPte 0 0) 5 3 = 0 ∧ s.dev.poison = [] ∧ pageOf s 1 1 0x20000 = some (coldLeaf (leafPte 0 0)) ∧
      pageOf { s with mem := mwrite s.mem 0x104100 8 (leafPte 0 0 + 32) } 1 1 0x20000 =
        some { coldLeaf (leafPte 0 0) with pte := leafPte 0 0 + 32 }) ∧
    (let s := tiers 0 (leafPte 1 0) [] (fun p => { p with drops := [⟨due, 1, 0x20000, none, true⟩] })
     s.pt.drops[s.inp.idx]? = some ⟨due, 1, 0x20000, none, true⟩ ∧ inTransit s.pt 1 0x20000 = false ∧
      dropExempt s 1 1 0x20000 (coldLeaf (leafPte 1 0)) = false ∧
      pageOf (tiers 0 (leafPte 1 0 + 512) [] id) 1 1 0x20000 = some (coldLeaf (leafPte 1 0 + 512)) ∧
      dropExempt s 1 1 0x20000 (coldLeaf (leafPte 1 0 + 512)) = true) ∧
    (let s := tiers 0 (leafPte 1 0) [] (fun p => { p with drops := [⟨due, 1, 0x20000, none, false⟩], moves := [moving 1 none] })
     s.pt.drops[s.inp.idx]? = some ⟨due, 1, 0x20000, none, false⟩ ∧ inTransit s.pt 1 0x20000 = true) := by decide +kernel

/-- `demo` with one revision of task 1. -/
def joined (r : Revision) (f : Task → Task) : State :=
  onI (onT (onP demo (fun p => { p with revs := [r] })) f) (fun x => { x with part := 1, idx := r.num })

/-- The granule at 0x20000 with its copies. -/
def gran : Gran :=
  { va := 0x20000, anc := some 0x40000, child := some 0x41000, dirtyC := 1, dirtyP := 0, merge := some 0x42000, home := some (loc 0x20000 0x20000) }

theorem test_witness_MergeAndJoinSteps :
    (let s := joined (rev 3 1) id; findPart s 1 = some s.pt ∧ findRev s.pt 3 = some (rev 3 1) ∧ (rev 3 1).state ≠ 3) ∧
    (let s := joined (rev 3 3) id; findRev s.pt 3 = some (rev 3 3) ∧ (rev 3 3).grans = []) ∧
    (let r := { rev 3 3 with grans := [gran] }
     let s := joined r id
     findPart s 1 = some s.pt ∧ findRev s.pt 3 = some r ∧ r.regions = [⟨0x20000, 1, 0, 5⟩] ∧ regionHas ⟨0x20000, 1, 0, 5⟩ gran.va = true ∧
      findRev s.pt r.parentRev = none ∧ r.parentRev = 0) ∧
    (let s := joined (rev 1 1) id; findTask s 1 1 = some s.tk ∧ s.tk.left ≠ 0) ∧
    (let s := joined (rev 1 4) (fun t => { t with left := 0 })
     findTask s 1 1 = some s.tk ∧ s.tk.left = 0 ∧ s.tk.ended = false ∧ ∀ q ∈ s.pt.revs, ¬(q.parent = s.tk.num ∧ q.state < 4)) ∧
    (∀ n ∈ [1, 2], let s := joined (rev 1 n) (fun t => { t with left := 0 })
      findTask s 1 1 = some s.tk ∧ s.pt.revs = [rev 1 n] ∧ (rev 1 n).parent = s.tk.num ∧ (rev 1 n).state = n ∧ (rev 1 n).grans = []) := by
  decide +kernel

/-- A tensor record of one row of 16 F32 elements at 0x20000. -/
def rowRec (kind dest : Nat) : TensorRec :=
  { base := 0x20000, fmt := 0, rank := 1, pad := 0, bnd := 0, kind := kind, swz := 0, trans := false, dest := dest, pitch := 0
    dims := [⟨16, 16, 1, 0, 0⟩] }

/-- A copy command. -/
def aCopy (k : CopyKind) (started : Bool) (bytes : Nat) : Copy :=
  { id := 0, begun := 0, visited := 0, got := [], kind := k, dst := 3, evict := 0, sup := false, barrier := none, follow := none, bound := none, started := started, landed := []
    lanesDone := [], shadow := [], excess := false, code := 0, fault := 0, bytes := bytes }

/-- `demo` with that copy, its turn, and slot 2 of the team in a state. -/
def copying (c : Copy) (st : SlotState) : State :=
  let s := onG (about demo) (fun g => { g with en := { g.en with copies := [c], cp := 1 } })
  let u := onI (onP s (fun p => { p with tlb := { page 1 0x20000 0x20000 with unit := copyUnit 0 0 } :: p.tlb })) (fun x => { x with idx := 0, size := 4 })
  { u with tm := { u.tm with slots := [(2, ⟨st, []⟩)] } }

theorem copying_first (c : Copy) (st : SlotState) : FirstCopy (copying c st) (copying c st).g c (copying c st).tm :=
  ⟨rfl, rfl, ⟨rfl, rfl⟩, rfl⟩

theorem test_witness_EngineSteps :
    (let s := marked 2 false; isFoc s = true ∧ s.g.id = s.inp.g ∧ (match fetchScalar s with
      | .run i _ => decide (i = .mark 1)
      | _ => false) = true) ∧
    (copySlot (aCopy (.tensor (rowRec 0 256)) false 0) = none ∧ copySlot (aCopy (.tensor (rowRec 1 2)) false 0) = some 2) ∧
    (∀ st ∈ [SlotState.filling, .inUse, .free, .claimed, .ready], (slotOf (copying (aCopy (.tensor (rowRec 1 2)) false 0) st).tm 2).st = st) ∧
    (let s := copying (aCopy (.tensor (rowRec 0 256)) true 0) .free
     s.inp.off = 0 ∧ s.inp.flag = false ∧ s.inp.size = 256 / 64 ∧ s.inp.ecc = .clean ∧ copyTotal (rowRec 0 256) = 64) ∧
    ((coreOf (about demo) 0).wheelQ = [] ∧ (coreOf (about demo) 0).wheelRun = []) := by decide +kernel

theorem test_witness_RowCopies :
    RowCopy (rowRec 0 256) ∧ QuietPart (copying (aCopy (.tensor (rowRec 0 256)) true 0) .free) 1 (copying (aCopy (.tensor (rowRec 0 256)) true 0) .free).pt ∧
    (∀ j, j < 64 → translate (copying (aCopy (.tensor (rowRec 0 256)) true 0) .free) (copyUnit 0 0) 1 1 (0x20000 + j) false false true =
      .ok (loc (0x20000 + j) (0x20000 + j)) (copying (aCopy (.tensor (rowRec 0 256)) true 0) .free)) ∧
    (aCopy (.lanes 4 0 [⟨0, 0x20000, 0, 0x21000⟩]) true 0).lanesDone.length < 1 ∧
    (aCopy (.lanes 4 0 []) true 0).lanesDone.length = 0 ∧
    moreTransfers demo.tm (aCopy (.tensor (rowRec 0 256)) true 0) = false ∧
    moreTransfers demo.tm { aCopy (.lanes 4 0 [⟨0, 0x20000, 0, 0x21000⟩, ⟨1, 0x20100, 0, 0x21100⟩]) true 0 with begun := 1 } = true := by
  refine ⟨⟨by decide, rfl, by decide⟩, ⟨by decide +kernel, by decide +kernel⟩, ?_, by decide, rfl, by decide +kernel, by decide +kernel⟩
  intro j hj
  have h : ∀ k : Fin 64, (match translate (copying (aCopy (.tensor (rowRec 0 256)) true 0) .free) (copyUnit 0 0) 1 1 (0x20000 + k.val) false false true with
      | .ok l u => decide (l = loc (0x20000 + k.val) (0x20000 + k.val)) && decide (u = copying (aCopy (.tensor (rowRec 0 256)) true 0) .free)
      | _ => false) = true := by decide +kernel
  have g := h ⟨j, hj⟩
  simp only at g
  revert g
  generalize translate (copying (aCopy (.tensor (rowRec 0 256)) true 0) .free) (copyUnit 0 0) 1 1 (0x20000 + j) false false true = r
  intro g
  split at g
  · simp only [Bool.and_eq_true, decide_eq_true_eq] at g
    rw [g.1, g.2]
  · exact absurd g (by decide)

/-- A TZERO of tile 2 in the only batch of the demo group. -/
def zeroing : TileCmd :=
  { op := .tzero, word := 2, arg := 0, rule := 0, bound := none, fmt := 0, sup := false, group := gid, batch := 1, slots := [], seq := 0
    boundFail := false, boundTrap := false }

/-- `demo` with it waiting or running in the Wheel; its batch closed or not. -/
def wheeled (run closed : Bool) : State :=
  let s := onC (about demo) (fun c => if run then { c with wheelRun := [zeroing] } else { c with wheelQ := [zeroing] })
  onI (onG s (fun g => { g with en := { g.en with tl := 1, batches := [⟨1, 1, [], closed, false, false, false⟩] } })) (fun x => { x with idx := 0 })

theorem test_witness_WheelSteps :
    (let s := wheeled false false
     (coreOf s 0).wheelQ = [zeroing] ∧ (coreOf s 0).testing = [] ∧ (coreOf s 0).wheelRun = [] ∧ findGroup s zeroing.group = some s.g) ∧
    (∀ c ∈ [false, true], let s := wheeled true c
      (coreOf s 0).wheelRun = [zeroing] ∧ s.inp.idx = 0 ∧ findGroup s zeroing.group = some s.g ∧ s.g.en.batches = [⟨1, 1, [], c, false, false, false⟩]) := by
  decide +kernel

theorem test_witness_MemoryFormKept : MemOk State.reset ∧ ∃ t, step State.reset = .next t :=
  ⟨by unfold MemOk; decide +kernel, _, rfl⟩

theorem test_witness_EncodeDecodeAgree :
    (Instr.sadd 1 2 3).wf = true ∧ encode (.sadd 1 2 3) ≠ [] ∧ decodeWords [0x04720905] = .ok (.sdiv 7 8 9) := by decide +kernel

/-- The first instruction of a stream is on the agenda: the scalar stream's word, or the lane stream's triple, at 0x10000. -/
def turnOf (st : Stream) (l : List Nat) : State := { coded l with agenda := [.issue gid st false .clean 0] }

theorem test_witness_StepRunsDecodedInstruction :
    (let s := turnOf .scalar [0x04720905]
     let u := atTurn s gid false .clean 0
     (takeTurn s).1 = some (.issue gid .scalar false .clean 0) ∧ u.g.timeUp = false ∧ u.g.live = true ∧ u.g.id = gid ∧ canIssueS u = true ∧ u.g.skipS = false ∧
      othersFirst u = false ∧ u.inp.ecc = .clean ∧
      (match fetchWord u u.g.sc.spc.toNat with
       | .ok w u1 => w == 0x04720905 && (scalarRegs w).all (fun r => r == 0 || !(pendingS u1).contains r) && (incomplete u1 .scalar).isEmpty
       | _ => false) = true) ∧
    ({ demo with agenda := [.event .groupEnd noInputs] }.agenda = .event .groupEnd noInputs :: [] ∧
      (takeTurn { demo with agenda := [.event .groupEnd noInputs] }).1 = some (.event .groupEnd noInputs)) ∧
    (match decodeScalar 9 with
     | .error _ => true
     | .ok _ => false) = true ∧
    (let s := turnOf .lane (wordsOf (.vadd { laneDefault with d := 3, a := 4, b := 5 }))
     let u := atTurn s gid false .clean 0
     (takeTurn s).1 = some (.issue gid .lane false .clean 0) ∧ u.g.timeUp = false ∧ u.g.live = true ∧ u.g.id = gid ∧ canIssueL u = true ∧
      u.g.ln.lpc < (laneCode u).2 ∧ u.inp.ecc = .clean ∧
      (match fetchTriple u u.g.ln.lpc with
       | .ok (some (w0, w1, w2)) u1 => (laneRegs (laneFieldsOf w0 w1 w2)).all (fun r => !(pendingL u1).contains r) && (incomplete u1 .lane).isEmpty
       | _ => false) = true) := by decide +kernel

/-- `lane` fields with operand codes. -/
def lf (d a b c : BitVec 9) : LaneFields := { laneDefault with d := d, a := a, b := b, c := c }

/-- Word 2 of the memory form: ord, scope, evict, space, size, offset (R282). -/
def m2 (ord scope evict space size off : Nat) : W32 :=
  BitVec.ofNat 32 (ord * 2 ^ 30 + scope * 2 ^ 27 + evict * 2 ^ 24 + space * 2 ^ 22 + size * 2 ^ 19 + off)

theorem test_illformed_scalar :
    (Instr.sbr 7 0 1).wf = false ∧ (Instr.sbr 6 1 1).wf = false ∧ (Instr.sshi 1 2 0x3001).wf = false ∧ (Instr.sshi 1 2 0x0041).wf = false ∧
    (Instr.sld 1 2 ⟨0, 2, 0, 3⟩).wf = false ∧ (Instr.sld 1 2 ⟨0, 2, 7, 0⟩).wf = false ∧ (Instr.sld 1 2 ⟨2, 2, 0, 0⟩).wf = false ∧
    (Instr.sst 1 2 ⟨1, 2, 0, 0⟩).wf = false ∧ (∀ i ∈ [Instr.saadd 1 2 3 ⟨0, 2, 7⟩, .samin 1 2 3 ⟨0, 2, 7⟩, .samax 1 2 3 ⟨0, 2, 7⟩,
      .saand 1 2 3 ⟨0, 2, 7⟩, .saor 1 2 3 ⟨0, 2, 7⟩, .saxor 1 2 3 ⟨0, 2, 7⟩, .saswp 1 2 3 ⟨0, 2, 7⟩, .sacas 1 2 3 ⟨0, 2, 7⟩], i.wf = false) ∧
    (Instr.tpref 1 7).wf = false := by decide +kernel

theorem test_illformed_lane_fields :
    (Instr.shfl { lf 3 4 5 0x1F3 with u := true }).wf = false ∧ (Instr.vadd { lf 3 4 5 0x1F3 with neg := true }).wf = false ∧
    (Instr.lpush (lf 3 4 0x1F3 0x1F3)).wf = false ∧ (Instr.vqpop (lf 3 4 0x1F3 0x1F3)).wf = false ∧ (Instr.vabs (lf 3 4 5 0x1F3)).wf = false ∧
    (Instr.vadd (lf 3 4 5 6)).wf = false ∧ (Instr.pand { lf 3 4 5 0x1F3 with width := 1 }).wf = false ∧
    (Instr.vand { lf 3 4 5 0x1F3 with sub := 1 }).wf = false ∧ (Instr.vadd { lf 3 4 5 0x1F3 with rnd := 1 }).wf = false ∧
    (Instr.vmin { lf 3 4 5 0x1F3 with sat := true }).wf = false ∧ (Instr.vadd { lf 3 4 5 0x1F3 with imm := 1 }).wf = false ∧
    (Instr.dot2 { lf 3 4 5 6 with width := 2, sub := 2 }).wf = false := by decide +kernel

theorem test_illformed_lane_word2 :
    (Instr.ld { lf 3 4 0x1F3 0x1F3 with imm := m2 0 2 0 3 2 0 }).wf = false ∧ (Instr.ld { lf 3 4 0x1F3 0x1F3 with imm := m2 0 2 0 0 5 0 }).wf = false ∧
    (Instr.ld { lf 3 4 0x1F3 0x1F3 with imm := m2 0 2 7 0 2 0 }).wf = false ∧ (Instr.ld { lf 3 4 0x1F3 0x1F3 with imm := m2 0 4 0 1 2 0 }).wf = false ∧
    (Instr.ld { lf 3 4 0x1F3 0x1F3 with imm := m2 2 2 0 0 2 0 }).wf = false ∧ (Instr.ld { lf 3 4 0x1F3 0x1F3 with sub := 1, imm := m2 0 2 0 0 2 0 }).wf = false ∧
    (Instr.st { lf 0x1F3 4 5 0x1F3 with imm := m2 1 2 0 0 2 0 }).wf = false ∧ (Instr.old { lf 3 4 0x1F3 0x1F3 with imm := m2 1 2 0 0 2 0 }).wf = false ∧
    (Instr.pref { lf 0x1F3 4 0x1F3 0x1F3 with imm := m2 0 2 0 0 3 0 }).wf = false ∧ (Instr.atom { lf 3 4 5 0x1F3 with imm := m2 0 2 0 0 1 0 }).wf = false ∧
    (Instr.atom { lf 3 4 5 0x1F3 with sub := 12, imm := m2 0 2 0 0 2 0 }).wf = false ∧ (Instr.red { lf 0x1F3 4 5 0x1F3 with sub := 8, imm := m2 0 2 0 0 2 0 }).wf = false ∧
    (Instr.lcopy { lf 3 4 5 0x1F3 with imm := m2 0 2 0 0 1 0 }).wf = false ∧ (Instr.lbr { lf 0x1F3 0x1F3 0x1F3 0x1F3 with e := false }).wf = false ∧
    (Instr.ljmp { lf 0x1F3 0x1F3 0x1F3 0x1F3 with e := true, guard := 1 }).wf = false ∧ (Instr.ljmp { lf 0x1F3 0x1F3 0x1F3 0x1F3 with e := true, imm := 1 }).wf = false ∧
    (Instr.lbreak { lf 0x1F3 0x1F3 0x1F3 0x1F3 with e := true, imm := 0x10000 }).wf = false ∧
    (Instr.lexit { lf 0x1F3 0x1F3 0x1F3 0x1F3 with e := true, imm := 1 }).wf = false ∧ (Instr.amovr { lf 3 0x1F3 0x1F3 0x1F3 with imm := 64 }).wf = false ∧
    (Instr.lnop { lf 0x1F3 0x1F3 0x1F3 0x1F3 with imm := 1 }).wf = false := by decide +kernel

theorem test_wellformed_forms :
    (Instr.sbr 6 0 5).wf = true ∧ (Instr.sst 2 1 ⟨2, 5, 0, 2⟩).wf = true ∧ (Instr.ld { lf 3 4 0x1F3 0x1F3 with imm := m2 1 2 0 1 4 0x7FFFF }).wf = true ∧
    (Instr.lbr { lf 0x1F3 0x1F3 0x1F3 0x1F3 with e := true, guard := 1, imm := 0x0014000A }).wf = true ∧
    (Instr.vadd { lf 3 0x1F0 5 0x1F3 with imm := 7 }).wf = true := by decide +kernel


/-- Words written from R275 to R277, each decodes to its instruction (part 1). -/
theorem test_decoded_scalar_words_1 :
    ([(0x00000000, .nop), (0x00000001, .exit), (0x00001D02, .trap 29), (0x00001D03, .reth 29), (0x00000004, .bkpt),
      (0x0004C005, .setfmt 19), (0x02300006, .getfmt 35), (0x02300007, .rdtime 35), (0x00000008, .yield),
      (0x0634EC00, .sadd 35 19 44), (0x0634EC01, .ssub 35 19 44), (0x0634EC02, .smul 35 19 44), (0x0634EC03, .smulh 35 19 44),
      (0x0634EC04, .smulhn 35 19 44), (0x0634EC05, .sdiv 35 19 44), (0x0634EC06, .sdivn 35 19 44), (0x0634EC07, .srem 35 19 44),
      (0x0634EC08, .sremn 35 19 44), (0x0634EC09, .sand 35 19 44), (0x0634EC0A, .sor 35 19 44), (0x0634EC0B, .sxor 35 19 44),
      (0x0634EC0C, .sandn 35 19 44), (0x0634EC0D, .sshl 35 19 44), (0x0634EC0E, .sshr 35 19 44), (0x0634EC0F, .ssra 35 19 44),
      (0x0634EC10, .smin 35 19 44), (0x0634EC11, .smax 35 19 44), (0x0634EC12, .sminn 35 19 44), (0x0634EC13, .smaxn 35 19 44),
      (0x0634EC14, .sslt 35 19 44), (0x0634EC15, .ssltn 35 19 44), (0x0634EC16, .sseq 35 19 44), (0x0634C017, .sclz 35 19),
      (0x0634C018, .sctz 35 19), (0x0634C019, .spopc 35 19), (0x0634C01A, .ssextw 35 19), (0x0634C01B, .szextw 35 19),
      (0x0A34D234, .saddi 35 19 0x1234), (0x0E34D234, .sandi 35 19 0x1234), (0x1234D234, .sori 35 19 0x1234),
      (0x1634D234, .sxori 35 19 0x1234), (0x1A34D234, .sslti 35 19 0x1234), (0x1E34D027, .sshi 35 19 0x1027),
      (0x223ABCDE, .slui 35 0xabcde)] : List (W32 × Instr)).all (fun p => decide (decodeWords [p.1] = .ok p.2)) = true := by decide +kernel

/-- Words written from R275 to R277, each decodes to its instruction (part 2). -/
theorem test_decoded_scalar_words_2 :
    ([(0x263ABCDE, .spcadd 35 0xabcde), (0x28A7F00D, .sbr 1 19 0x1f00d), (0x2E3ABCDE, .sjal 35 0xabcde),
      (0x3234D234, .sjalr 35 19 0x1234), (0x36302A5B, .ssrr 35 0x2a5b), (0x3804EA5B, .ssrw 19 0x2a5b),
      (0x3E34DAE0, .sld 35 19 ⟨1, 5, 3, 2⟩), (0x4234EAE0, .sst 35 19 ⟨2, 5, 3, 2⟩), (0x4634ECE6, .saadd 35 19 44 ⟨3, 4, 6⟩),
      (0x4A34ECE6, .samin 35 19 44 ⟨3, 4, 6⟩), (0x4E34ECE6, .samax 35 19 44 ⟨3, 4, 6⟩), (0x5234ECE6, .saand 35 19 44 ⟨3, 4, 6⟩),
      (0x5634ECE6, .saor 35 19 44 ⟨3, 4, 6⟩), (0x5A34ECE6, .saxor 35 19 44 ⟨3, 4, 6⟩), (0x5E34ECE6, .saswp 35 19 44 ⟨3, 4, 6⟩),
      (0x6234ECE6, .sacas 35 19 44 ⟨3, 4, 6⟩), (0x6404C000, .dispatch 19), (0x6404C001, .vqpush 19), (0x6404EC02, .vqpush2 19 44),
      (0x66300003, .rqpop 35), (0x66300004, .qstat 35), (0x64000005, .qdrain), (0x68002300, .fence 2 3), (0x6A300001, .bar 35),
      (0x6A34DD02, .barn 35 19 29), (0x6804EC03, .sbinit 19 44), (0x6804EC04, .sbexp 19 44), (0x6804C005, .sbarr 19),
      (0x6A34DD06, .sbwait 35 19 29), (0x6804C007, .waitc 19), (0x6A34EC08, .waits 35 19 44), (0x6E34EC00, .tcopy 35 19 44),
      (0x6E34EC01, .tcopyx 35 19 44), (0x6C04C502, .tpref 19 5), (0x6C000903, .oclaim 9), (0x6C000904, .orelease 9),
      (0x6C04C605, .rload 19 6), (0x6C04C006, .tmma 19), (0x6C04EC07, .tmmaq 19 44), (0x6C04C008, .trec 19),
      (0x6C04C009, .trecb 19), (0x6C000B0A, .tzero 11), (0x6C04EC0B, .tlda 19 44), (0x6C04EC0C, .tst 19 44)] : List (W32 × Instr)).all (fun p => decide (decodeWords [p.1] = .ok p.2)) = true := by decide +kernel

/-- Words written from R275 to R277, each decodes to its instruction (part 3). -/
theorem test_decoded_scalar_words_3 :
    ([(0x6C04EC0D, .tstq 19 44), (0x6C04EC0E, .tedge 19 44), (0x6E30000F, .tfence 35), (0x6C04C010, .twait 19),
      (0x6E300011, .tstat 35), (0x7234C000, .fork 35 19), (0x7234C001, .join 35 19), (0x7234C002, .jointry 35 19),
      (0x7234C003, .rvdecl 35 19), (0x7234C004, .rvdrop 35 19), (0x7234C005, .rvid 35 19), (0x7234C006, .rvstat 35 19),
      (0x7634C000, .watch 35 19), (0x7404C001, .unwatch 19), (0x7404C002, .warm 19), (0x76300603, .trigrec 35 6),
      (0x74000004, .trigack), (0x7634C005, .wstat 35 19), (0x7804C000, .mark 19), (0x7804C201, .ttbind 19 2),
      (0x7A300002, .ttstat 35), (0x78000003, .ttresume), (0x7C04C000, .giveback 19), (0x7C04C001, .claim 19),
      (0x7E34C002, .claimtry 35 19), (0x7C04C003, .setbnd 19), (0x7E300004, .getallot 35)] : List (W32 × Instr)).all (fun p => decide (decodeWords [p.1] = .ok p.2)) = true := by decide +kernel

/-- Triples written from R279 to R284, each decodes to its instruction (part 1). -/
theorem test_decoded_lane_words_1 :
    ([([0x00259EC0, 0x82B5BE64, 0x00000000], .vadd { laneDefault with u := true, guard := 5, neg := true, d := 0x7B, a := 0x105, b := 0xD6, sat := true }),
      ([0x00659EC0, 0x82B5BE64, 0x00000000], .vsub { laneDefault with u := true, guard := 5, neg := true, d := 0x7B, a := 0x105, b := 0xD6, sat := true }),
      ([0x00A59EC0, 0x82B5BE64, 0x00000000], .vmul { laneDefault with u := true, guard := 5, neg := true, d := 0x7B, a := 0x105, b := 0xD6, sat := true }),
      ([0x00E59EC0, 0x82B5BE60, 0x00000000], .vmulh { laneDefault with u := true, guard := 5, neg := true, d := 0x7B, a := 0x105, b := 0xD6 }),
      ([0x01259EC0, 0x82B5B184, 0x00000000], .vmad { laneDefault with u := true, guard := 5, neg := true, d := 0x7B, a := 0x105, b := 0xD6, c := 0x18C, sat := true }),
      ([0x01659EC0, 0x82B5BE60, 0x00000000], .vmin { laneDefault with u := true, guard := 5, neg := true, d := 0x7B, a := 0x105, b := 0xD6 }),
      ([0x01A59EC0, 0x82B5BE60, 0x00000000], .vmax { laneDefault with u := true, guard := 5, neg := true, d := 0x7B, a := 0x105, b := 0xD6 }),
      ([0x01E59EC0, 0x82B5BE60, 0x00000000], .vminn { laneDefault with u := true, guard := 5, neg := true, d := 0x7B, a := 0x105, b := 0xD6 }),
      ([0x02259EC0, 0x82B5BE60, 0x00000000], .vmaxn { laneDefault with u := true, guard := 5, neg := true, d := 0x7B, a := 0x105, b := 0xD6 }),
      ([0x02659EC0, 0x82FCFE64, 0x00000000], .vabs { laneDefault with u := true, guard := 5, neg := true, d := 0x7B, a := 0x105, sat := true }),
      ([0x02A59EC0, 0x82FCFE64, 0x00000000], .vneg { laneDefault with u := true, guard := 5, neg := true, d := 0x7B, a := 0x105, sat := true }),
      ([0x02E59EC0, 0x82B5BE60, 0x00000000], .vand { laneDefault with u := true, guard := 5, neg := true, d := 0x7B, a := 0x105, b := 0xD6 }),
      ([0x03259EC0, 0x82B5BE60, 0x00000000], .vor { laneDefault with u := true, guard := 5, neg := true, d := 0x7B, a := 0x105, b := 0xD6 }),
      ([0x03659EC0, 0x82B5BE60, 0x00000000], .vxor { laneDefault with u := true, guard := 5, neg := true, d := 0x7B, a := 0x105, b := 0xD6 }),
      ([0x03A59EC0, 0x82FCFE60, 0x00000000], .vnot { laneDefault with u := true, guard := 5, neg := true, d := 0x7B, a := 0x105 }),
      ([0x03E59EC0, 0x82B5BE60, 0x00000000], .vshl { laneDefault with u := true, guard := 5, neg := true, d := 0x7B, a := 0x105, b := 0xD6 }),
      ([0x04259EC0, 0x82B5BE60, 0x00000000], .vshr { laneDefault with u := true, guard := 5, neg := true, d := 0x7B, a := 0x105, b := 0xD6 }),
      ([0x04659EC0, 0x82B5BE60, 0x00000000], .vsra { laneDefault with u := true, guard := 5, neg := true, d := 0x7B, a := 0x105, b := 0xD6 }),
      ([0x04A59EC0, 0x82FCFE60, 0x00000000], .vpopc { laneDefault with u := true, guard := 5, neg := true, d := 0x7B, a := 0x105 }),
      ([0x04E59EC0, 0x82FCFE60, 0x00000000], .vclz { laneDefault with u := true, guard := 5, neg := true, d := 0x7B, a := 0x105 }),
      ([0x05259EC0, 0x82B5BE60, 0x00000000], .vbfx { laneDefault with u := true, guard := 5, neg := true, d := 0x7B, a := 0x105, b := 0xD6 }),
      ([0x05659EC0, 0x82B5B180, 0x00000000], .vbfi { laneDefault with u := true, guard := 5, neg := true, d := 0x7B, a := 0x105, b := 0xD6, c := 0x18C }),
      ([0x05A59EC0, 0x82B5BE60, 0x00000000], .vsel { laneDefault with u := true, guard := 5, neg := true, d := 0x7B, a := 0x105, b := 0xD6 }),
      ([0x05E59EC0, 0x82FCFE60, 0x00000000], .vmov { laneDefault with u := true, guard := 5, neg := true, d := 0x7B, a := 0x105 }),
      ([0x10259EC0, 0x82B5BE60, 0x00000000], .vsetp { laneDefault with u := true, guard := 5, neg := true, d := 0x7B, a := 0x105, b := 0xD6 }),
      ([0x10659EC0, 0x82B5BE60, 0x00000000], .fsetp { laneDefault with u := true, guard := 5, neg := true, d := 0x7B, a := 0x105, b := 0xD6 }),
      ([0x10A59EC0, 0x82B5BE60, 0x00000000], .pand { laneDefault with u := true, guard := 5, neg := true, d := 0x7B, a := 0x105, b := 0xD6 }),
      ([0x10E59EC0, 0x82B5BE60, 0x00000000], .por { laneDefault with u := true, guard := 5, neg := true, d := 0x7B, a := 0x105, b := 0xD6 })] : List (List W32 × Instr)).all (fun p => decide (decodeWords p.1 = .ok p.2)) = true := by decide +kernel

/-- Triples written from R279 to R284, each decodes to its instruction (part 2). -/
theorem test_decoded_lane_words_2 :
    ([([0x11259EC0, 0x82B5BE60, 0x00000000], .pxor { laneDefault with u := true, guard := 5, neg := true, d := 0x7B, a := 0x105, b := 0xD6 }),
      ([0x11659EC0, 0x82FCFE60, 0x00000000], .pnot { laneDefault with u := true, guard := 5, neg := true, d := 0x7B, a := 0x105 }),
      ([0x11A59EC0, 0x82FCFE60, 0x00000000], .pmov { laneDefault with u := true, guard := 5, neg := true, d := 0x7B, a := 0x105 }),
      ([0x11E59EC0, 0xF9FCFE60, 0x00000000], .prd { laneDefault with u := true, guard := 5, neg := true, d := 0x7B }),
      ([0x20259EC0, 0x82B5BE74, 0x00000000], .fadd { laneDefault with u := true, guard := 5, neg := true, d := 0x7B, a := 0x105, b := 0xD6, rnd := 2, sat := true }),
      ([0x20659EC0, 0x82B5BE74, 0x00000000], .fsub { laneDefault with u := true, guard := 5, neg := true, d := 0x7B, a := 0x105, b := 0xD6, rnd := 2, sat := true }),
      ([0x20A59EC0, 0x82B5BE74, 0x00000000], .fmul { laneDefault with u := true, guard := 5, neg := true, d := 0x7B, a := 0x105, b := 0xD6, rnd := 2, sat := true }),
      ([0x20E59EC0, 0x82B5B194, 0x00000000], .ffma { laneDefault with u := true, guard := 5, neg := true, d := 0x7B, a := 0x105, b := 0xD6, c := 0x18C, rnd := 2, sat := true }),
      ([0x21259EC0, 0x82B5BE60, 0x00000000], .fmin { laneDefault with u := true, guard := 5, neg := true, d := 0x7B, a := 0x105, b := 0xD6 }),
      ([0x21659EC0, 0x82B5BE60, 0x00000000], .fmax { laneDefault with u := true, guard := 5, neg := true, d := 0x7B, a := 0x105, b := 0xD6 }),
      ([0x21A59EC0, 0x82FCFE60, 0x00000000], .fabs { laneDefault with u := true, guard := 5, neg := true, d := 0x7B, a := 0x105 }),
      ([0x21E59EC0, 0x82FCFE60, 0x00000000], .fneg { laneDefault with u := true, guard := 5, neg := true, d := 0x7B, a := 0x105 }),
      ([0x22259EC0, 0x82B5B180, 0x00000000], .fclamp { laneDefault with u := true, guard := 5, neg := true, d := 0x7B, a := 0x105, b := 0xD6, c := 0x18C }),
      ([0x22659EC0, 0x82FCFE70, 0x00000000], .frnd { laneDefault with u := true, guard := 5, neg := true, d := 0x7B, a := 0x105, rnd := 2 }),
      ([0x30259EC0, 0x82FCFE74, 0x00000000], .frcp { laneDefault with u := true, guard := 5, neg := true, d := 0x7B, a := 0x105, rnd := 2, sat := true }),
      ([0x30659EC0, 0x82FCFE74, 0x00000000], .frsq { laneDefault with u := true, guard := 5, neg := true, d := 0x7B, a := 0x105, rnd := 2, sat := true }),
      ([0x30A59EC0, 0x82FCFE74, 0x00000000], .fsqrt { laneDefault with u := true, guard := 5, neg := true, d := 0x7B, a := 0x105, rnd := 2, sat := true }),
      ([0x30E59EC0, 0x82B5BE74, 0x00000000], .fdiv { laneDefault with u := true, guard := 5, neg := true, d := 0x7B, a := 0x105, b := 0xD6, rnd := 2, sat := true }),
      ([0x31259EC0, 0x82FCFE74, 0x00000000], .fex2 { laneDefault with u := true, guard := 5, neg := true, d := 0x7B, a := 0x105, rnd := 2, sat := true }),
      ([0x31659EC0, 0x82FCFE74, 0x00000000], .flg2 { laneDefault with u := true, guard := 5, neg := true, d := 0x7B, a := 0x105, rnd := 2, sat := true }),
      ([0x31A59EC0, 0x82FCFE74, 0x00000000], .fsin { laneDefault with u := true, guard := 5, neg := true, d := 0x7B, a := 0x105, rnd := 2, sat := true }),
      ([0x31E59EC0, 0x82FCFE74, 0x00000000], .fcos { laneDefault with u := true, guard := 5, neg := true, d := 0x7B, a := 0x105, rnd := 2, sat := true }),
      ([0x32259EC0, 0x82FCFE74, 0x00000000], .ftanh { laneDefault with u := true, guard := 5, neg := true, d := 0x7B, a := 0x105, rnd := 2, sat := true }),
      ([0x40259EC0, 0x82FCFE74, 0x00000000], .cvt { laneDefault with u := true, guard := 5, neg := true, d := 0x7B, a := 0x105, rnd := 2, sat := true }),
      ([0x40659EC0, 0x82FCFE70, 0x00000000], .cvti { laneDefault with u := true, guard := 5, neg := true, d := 0x7B, a := 0x105, rnd := 2 }),
      ([0x40A59EC0, 0x82B5BE74, 0x00000000], .pack { laneDefault with u := true, guard := 5, neg := true, d := 0x7B, a := 0x105, b := 0xD6, rnd := 2, sat := true }),
      ([0x40E59EC0, 0x82FCFE60, 0x00000000], .unpack { laneDefault with u := true, guard := 5, neg := true, d := 0x7B, a := 0x105 }),
      ([0x41259EC0, 0x82B5B180, 0x00000000], .qscale { laneDefault with u := true, guard := 5, neg := true, d := 0x7B, a := 0x105, b := 0xD6, c := 0x18C })] : List (List W32 × Instr)).all (fun p => decide (decodeWords p.1 = .ok p.2)) = true := by decide +kernel

/-- Triples written from R279 to R284, each decodes to its instruction (part 3). -/
theorem test_decoded_lane_words_3 :
    ([([0x50259EC0, 0x82B5B194, 0x00000000], .dotn { laneDefault with u := true, guard := 5, neg := true, d := 0x7B, a := 0x105, b := 0xD6, c := 0x18C, rnd := 2, sat := true }),
      ([0x50659EC0, 0x82B5B186, 0x00000000], .dot2 { laneDefault with u := true, guard := 5, neg := true, d := 0x7B, a := 0x105, b := 0xD6, c := 0x18C, sat := true, width := 2 }),
      ([0x50A59EC0, 0x82B5B187, 0x00000000], .dot4 { laneDefault with u := true, guard := 5, neg := true, d := 0x7B, a := 0x105, b := 0xD6, c := 0x18C, sat := true, width := 3 }),
      ([0x60059EC0, 0x82B5BE60, 0x00000000], .shfl { laneDefault with guard := 5, neg := true, d := 0x7B, a := 0x105, b := 0xD6 }),
      ([0x60459EC0, 0x82B5BE60, 0x00000000], .shflup { laneDefault with guard := 5, neg := true, d := 0x7B, a := 0x105, b := 0xD6 }),
      ([0x60859EC0, 0x82B5BE60, 0x00000000], .shfldn { laneDefault with guard := 5, neg := true, d := 0x7B, a := 0x105, b := 0xD6 }),
      ([0x60C59EC0, 0x82B5BE60, 0x00000000], .shflx { laneDefault with guard := 5, neg := true, d := 0x7B, a := 0x105, b := 0xD6 }),
      ([0x61059EC0, 0x82B5BE60, 0x00000000], .bcast { laneDefault with guard := 5, neg := true, d := 0x7B, a := 0x105, b := 0xD6 }),
      ([0x61459EC0, 0x82FCFE64, 0x00000000], .redsum { laneDefault with guard := 5, neg := true, d := 0x7B, a := 0x105, sat := true }),
      ([0x61859EC0, 0x82FCFE60, 0x00000000], .redmin { laneDefault with guard := 5, neg := true, d := 0x7B, a := 0x105 }),
      ([0x61C59EC0, 0x82FCFE60, 0x00000000], .redmax { laneDefault with guard := 5, neg := true, d := 0x7B, a := 0x105 }),
      ([0x62059EC0, 0x82FCFE64, 0x00000000], .scanadd { laneDefault with guard := 5, neg := true, d := 0x7B, a := 0x105, sat := true }),
      ([0x62459EC0, 0x82FCFE60, 0x00000000], .scanmax { laneDefault with guard := 5, neg := true, d := 0x7B, a := 0x105 }),
      ([0x62859EC0, 0x82FCFE60, 0x00000000], .ballot { laneDefault with guard := 5, neg := true, d := 0x7B, a := 0x105 }),
      ([0x62C59EC0, 0x82FCFE60, 0x00000000], .voteany { laneDefault with guard := 5, neg := true, d := 0x7B, a := 0x105 }),
      ([0x63059EC0, 0x82FCFE60, 0x00000000], .voteall { laneDefault with guard := 5, neg := true, d := 0x7B, a := 0x105 }),
      ([0x70059EC2, 0x82FCFE60, 0x00000000], .rng { laneDefault with guard := 5, neg := true, d := 0x7B, a := 0x105, sub := 2 }),
      ([0x7045FCC0, 0x82FCFE60, 0x00000000], .lpush { laneDefault with guard := 5, neg := true, a := 0x105 }),
      ([0x70A59EC0, 0xF9FCFE60, 0x00000000], .vqpop { laneDefault with u := true, guard := 5, neg := true, d := 0x7B }),
      ([0x70E59EC0, 0xF9FCFE60, 0x00001A5B], .rdsr { laneDefault with u := true, guard := 5, neg := true, d := 0x7B, imm := 0x1A5B }),
      ([0x7105FCC0, 0xF9FCFE60, 0x00000000], .lnop { laneDefault with guard := 5, neg := true }),
      ([0x8015FCC0, 0xF9FCFE60, 0x00140A0B], .lbr { laneDefault with e := true, guard := 5, neg := true, imm := 0x140A0B }),
      ([0x80577CC0, 0xF9FCFE60, 0x00140000], .ljmp { laneDefault with e := true, imm := 0x140000 }),
      ([0x8095FCC0, 0xF9FCFE60, 0x00000A0B], .lbreak { laneDefault with e := true, guard := 5, neg := true, imm := 0xA0B }),
      ([0x80D5FCC0, 0xF9FCFE60, 0x00000000], .lexit { laneDefault with e := true, guard := 5, neg := true }),
      ([0x90059EC0, 0x82FCFE60, 0x631CF0F5], .ld { laneDefault with guard := 5, neg := true, d := 0x7B, a := 0x105, imm := 0x631CF0F5 }),
      ([0x9045FCC0, 0x82B5BE60, 0xA31CF0F5], .st { laneDefault with guard := 5, neg := true, a := 0x105, b := 0xD6, imm := 0xA31CF0F5 }),
      ([0x9085FCC0, 0x82B5BE60, 0x101CF0F5], .ost { laneDefault with guard := 5, neg := true, a := 0x105, b := 0xD6, imm := 0x101CF0F5 })] : List (List W32 × Instr)).all (fun p => decide (decodeWords p.1 = .ok p.2)) = true := by decide +kernel

/-- Triples written from R279 to R284, each decodes to its instruction (part 4). -/
theorem test_decoded_lane_words_4 :
    ([([0x90C59EC0, 0x82FCFE60, 0x101CF0F5], .old { laneDefault with guard := 5, neg := true, d := 0x7B, a := 0x105, imm := 0x101CF0F5 }),
      ([0x9105FCC0, 0x82FCFE60, 0x6314F0F5], .pref { laneDefault with guard := 5, neg := true, a := 0x105, imm := 0x6314F0F5 }),
      ([0xA0059EC0, 0x82B5BE60, 0xE31CF0F5], .atom { laneDefault with guard := 5, neg := true, d := 0x7B, a := 0x105, b := 0xD6, imm := 0xE31CF0F5 }),
      ([0xA0459EC0, 0x82B5B180, 0xE31CF0F5], .atomc { laneDefault with guard := 5, neg := true, d := 0x7B, a := 0x105, b := 0xD6, c := 0x18C, imm := 0xE31CF0F5 }),
      ([0xA085FCC0, 0x82B5BE60, 0xE31CF0F5], .red { laneDefault with guard := 5, neg := true, a := 0x105, b := 0xD6, imm := 0xE31CF0F5 }),
      ([0xB0059EC0, 0x82B5BE60, 0x101CF0F5], .lcopy { laneDefault with guard := 5, neg := true, d := 0x7B, a := 0x105, b := 0xD6, imm := 0x101CF0F5 }),
      ([0xB0459EC0, 0x82B5BE60, 0x101CF0F5], .lcopyo { laneDefault with guard := 5, neg := true, d := 0x7B, a := 0x105, b := 0xD6, imm := 0x101CF0F5 }),
      ([0xC0059EC0, 0xF9FCFE60, 0x0000002B], .amovr { laneDefault with guard := 5, neg := true, d := 0x7B, imm := 0x2B }),
      ([0xC045FCC0, 0x82FCFE60, 0x0000002B], .amovw { laneDefault with guard := 5, neg := true, a := 0x105, imm := 0x2B })] : List (List W32 × Instr)).all (fun p => decide (decodeWords p.1 = .ok p.2)) = true := by decide +kernel

/-- Words that R278 and R285 call no instruction. -/
theorem test_words_without_instruction :
    ([[0x80000000], [0x00000009], [0x0400001C], [0x64000006], [0x68000009], [0x6C000012], [0x70000007], [0x74000006], [0x78000004],
      [0x7C000005], [0x2B800000], [0x3C000030], [0x3C000001], [0x40001000], [0x3C002000], [0x3C0001C0], [0x1C003000], [0x1C000040],
      [0x04000117], [0xD0070000, 0xF9FCFE60, 0], [0x06070000, 0xF9FCFE60, 0]] : List (List W32)).all
      (fun w => (decodeWords w).toOption.isNone) = true := by decide +kernel

/-- Lane 0 of register 3 and SR_FPSTAT after a lane instruction with values in registers 4, 5 and 6. -/
def lane3 (i : Instr) (a b c : W32) : Option (Nat × BitVec 6) :=
  match exec i (withV [v0 4 a, v0 5 b, v0 6 c]) with
  | .next t => some (vget t.g 3 0, t.g.fpstat)
  | _ => none

/-- Three operands from registers 4, 5 and 6 to register 3. -/
def abc : LaneFields := lf 3 4 5 6

/-- Two operands. -/
def ab : LaneFields := lf 3 4 5 0x1F3

/-- One operand. -/
def one : LaneFields := lf 3 4 0x1F3 0x1F3

/-- The results worked through behind R402, with the flags where lane 0 alone decides them. -/
theorem test_integer_results :
    (lane3 (.vadd { ab with sub := 1, sat := true, width := 2 }) 0xFFF00005 0x00200003 0) = some (0xFFFF0008, 20) ∧
    (lane3 (.vadd { ab with width := 3 }) 0x7F01FF80 0x01010180 0).map (·.1) = some 0x80020000 ∧
    (lane3 (.vmulh ab) 0x40000000 0xFFFFFFFE 0).map (·.1) = some 0xFFFFFFFF ∧
    (lane3 (.vmulh { ab with sub := 1 }) 0x40000000 0xFFFFFFFE 0).map (·.1) = some 0x3FFFFFFF ∧
    (lane3 (.vbfx { ab with sub := 1 }) 0x00000F00 0x00000408 0).map (·.1) = some 0xFFFFFFFF ∧
    (lane3 (.vbfx ab) 0x00000F00 0x00000408 0).map (·.1) = some 0xF := by decide +kernel

theorem test_float_results :
    (lane3 (.fadd ab) 0x3F800000 0x33800000 0) = some (0x3F800000, 16) ∧
    (lane3 (.fadd { ab with rnd := 2 }) 0x3F800000 0x33800000 0).map (·.1) = some 0x3F800001 ∧
    (lane3 (.fadd { ab with sat := true, width := 2 }) 0x7F7F3F80 0x7F7F3F80 0) = some (0x7F7F4000, 20) ∧
    (lane3 (.fmul ab) 0x3F000000 0x3F000000 0) = some (0x3E800000, 0) ∧
    (lane3 (.fdiv ab) 0xBF400000 0x3F400000 0).map (·.1) = some 0xBF800000 ∧
    (lane3 (.fsqrt one) 0x3F100000 0 0) = some (0x3F400000, 0) ∧
    (lane3 (.ffma abc) 0x3F800000 0xBC800000 0x3F800000) = some (0x3F7C0000, 0) := by decide +kernel

theorem test_conversion_results :
    (lane3 (.cvti one) 0xC0200000 0 0).map (·.1) = some 0xFFFFFFFE ∧
    (lane3 (.cvti { one with rnd := 3 }) 0xC0200000 0 0).map (·.1) = some 0xFFFFFFFD ∧
    (lane3 (.cvti one) 0x4F32D05E 0 0).map (·.1) = some 0x7FFFFFFF ∧
    (lane3 (.cvt { one with sub := 4 }) 0x43FA0000 0 0).map (·.1) = some 0x7F ∧
    (lane3 (.cvt { one with sub := 4, sat := true }) 0x43FA0000 0 0).map (·.1) = some 0x7E ∧
    (lane3 (.cvt { one with sub := 2 }) 0x400F8000 0 0).map (·.1) = some 0x4010 ∧
    (lane3 (.cvt { one with sub := 2 }) 0x40188000 0 0).map (·.1) = some 0x4018 := by decide +kernel

theorem test_qscale_results :
    (lane3 (.qscale abc) 0x4A 0x180 0).map (·.1) = some 0x40A00000 ∧ (lane3 (.qscale abc) 0x4A 0x180 1).map (·.1) = some 0x41200000 ∧
    (lane3 (.qscale { one with sub := 10 }) 0x41200000 0 0).map (·.1) = some 0x80 ∧
    (lane3 (.qscale { abc with sub := 9 }) 0xC0400000 0x004AFE80 0).map (·.1) = some 0xB ∧
    (lane3 (.qscale { one with sub := 2 }) 0x3F400000 0 0).map (·.1) = some 118 ∧
    (lane3 (.qscale { abc with sub := 1 }) 0x3ED80000 0xAA75 0).map (·.1) = some 0x7E := by decide +kernel

/-- The worked group of R408 to R410: lanes 2 and 13 inactive, lane t holds t + 1. -/
def sixteen : State :=
  let s := withV ((List.range 16).map (fun k => (64 * 4 + k, BitVec.ofNat 32 (k + 1))))
  onG s (fun g => { g with ln := { g.ln with mask := 0xDFFB } })

/-- The lanes of register 3 after an instruction. -/
def lanes3 (i : Instr) (s : State) : List Nat :=
  match exec i s with
  | .next t => (List.range 16).map (fun k => vget t.g 3 k)
  | _ => []

theorem test_crossing_results :
    lanes3 (.redsum { one with sub := 3 }) sixteen = [33, 33, 0, 33, 33, 33, 33, 33, 86, 86, 86, 86, 86, 0, 86, 86] ∧
    lanes3 (.scanadd { one with sub := 3 }) sixteen = [1, 3, 0, 7, 12, 18, 25, 33, 9, 19, 30, 42, 55, 0, 70, 86] ∧
    lanes3 (.scanadd { one with sub := 0x23 }) sixteen = [0, 1, 0, 3, 7, 12, 18, 25, 0, 9, 19, 30, 42, 0, 55, 70] := by decide +kernel

theorem test_shuffle_results :
    lanes3 (.shflx { lf 3 4 0x1F0 0x1F3 with sub := 2, imm := 1 }) sixteen = [2, 1, 0, 3, 6, 5, 8, 7, 10, 9, 12, 11, 14, 0, 16, 15] := by
  decide +kernel

theorem test_dot2_exact : lane3 (.dot2 { abc with width := 2 }) 0x3F804B80 0x3F803F80 0x3F800000 = some (0x4B800001, 0) := by decide +kernel

theorem test_redsum_order :
    let s := withV [(256, 0x4B800000), (257, 0x3F800000), (258, 0x3F800000), (259, 0xCB800000)]
    (lanes3 (.redsum { one with sub := 0x13 }) (onG s (fun g => { g with ln := { g.ln with mask := 0xF } }))).take 4 = [0, 0, 0, 0] := by
  decide +kernel

/-- R319's table. -/
theorem test_division_results :
    regAfter (.sdiv 3 1 2) (withS [(1, 0xFFFFFFFFFFFFFFF9), (2, 2)]) 3 = some 0xFFFFFFFFFFFFFFFD ∧
    regAfter (.srem 3 1 2) (withS [(1, 0xFFFFFFFFFFFFFFF9), (2, 2)]) 3 = some 0xFFFFFFFFFFFFFFFF ∧
    regAfter (.sdivn 3 1 2) (withS [(1, 0xFFFFFFFFFFFFFFF9), (2, 2)]) 3 = some 0x7FFFFFFFFFFFFFFC ∧
    regAfter (.srem 3 1 2) (withS [(1, 9), (2, 0)]) 3 = some 9 := by decide +kernel

theorem test_scalar_results :
    regAfter (.sadd 0 1 1) (withS [(1, 5)]) 0 = some 0 ∧ regAfter (.ssra 3 1 2) (withS [(1, 0x8000000000000000), (2, 0xFFFF)]) 3 = some 0xFFFFFFFFFFFFFFFF ∧
    regAfter (.smulh 3 1 2) (withS [(1, 0xFFFFFFFFFFFFFFFF), (2, 1)]) 3 = some 0xFFFFFFFFFFFFFFFF ∧ regAfter (.sclz 3 1) (withS []) 3 = some 64 ∧
    regAfter (.ssextw 3 1) (withS [(1, 0x80000000)]) 3 = some 0xFFFFFFFF80000000 := by decide +kernel

/-- R321: the offset counts words from the branch word. -/
theorem test_branch :
    (match exec (.sbr 0 1 0x1FFFF) (withS []) with
     | .next t => t.g.sc.spc
     | _ => 0) = 0xFFFC ∧
    (match exec (.sjal 62 3) (withS []) with
     | .next t => (t.g.sc.spc, sreg t 62)
     | _ => (0, 0)) = (0x1000C, 0x10004) := by decide +kernel

/-- `s` whose core 0 holds, in its L1, a sector that a store of another core has passed by, and core 1 one that agrees with memory. -/
def cached (s : State) (k : Nat) : State :=
  { s with cores := [{ noCore 0 with l1 := [⟨k, some 0x11⟩] }, { noCore 1 with l1 := [⟨k, none⟩] }] }

/-- The L1 of a core after an instruction. -/
def l1After (i : Instr) (s : State) (c : Nat) : Option (List L1Sector) :=
  match exec i s with
  | .next t => some (coreOf t c).l1
  | _ => none

/-- A group at the address 0x20000 in s1, with its page's first sector in the L1s. -/
def warm : State := cached (withS [(1, 0x20000), (2, 0x22)]) 0x1000

theorem test_witness_L1_clauses :
    wide demo 3 ∧ ¬wide demo 2 ∧ wide { demo with tm := { demo.tm with twin := true } } 2 ∧
    ((0 : BitVec 2) = 0 ∧ (0 : BitVec 3) ≠ 4 ∧ (0 : BitVec 3) ≠ 6 ∧ (1 : BitVec 2) = 1) ∧
    (∀ e ∈ (coreOf demo demo.g.core).l1, e.num = 0x20000 / 32 → e.old = none) ∧
    ((sreg (withS [(1, 0xFFFF0000)]) 1).extractLsb' 16 8 = 255 ∧ (sreg (withS [(1, 0xFFFF0000)]) 1).extractLsb' 24 8 = 255) ∧
    (inSector ⟨0x1000, none⟩ 0x20000 8 = true ∧ inSector ⟨0x1001, none⟩ 0x20000 8 = false ∧ inSector ⟨0x1000, none⟩ 0x20018 8 = true) :=
  ⟨.inl (by decide), by unfold wide; decide, .inr (by decide), by decide, by decide +kernel, by decide +kernel, by decide⟩

/-- R109: a store updates its own core's copy, and the other core's copy keeps what the sector held. -/
theorem test_store_passes_the_other_l1_by :
    l1After (.sst 2 1 ⟨0, 5, 3, 2⟩) warm 0 = some [⟨0x1000, some 0x22⟩] ∧
    l1After (.sst 2 1 ⟨0, 5, 3, 2⟩) warm 1 = some [⟨0x1000, some 0⟩] := by decide +kernel

/-- R109, R337: a fence with acq at scope dev invalidates the L1, one at scope team does not; the other core keeps its lines. -/
theorem test_fence_invalidates_l1 :
    l1After (.fence 1 5) warm 0 = some [] ∧ l1After (.fence 1 2) warm 0 = some [⟨0x1000, some 0x11⟩] ∧
    l1After (.fence 1 5) warm 1 = some [⟨0x1000, none⟩] := by decide +kernel

/-- R109, R184: an sc load and an atomic are performed at the home slice; the atomic leaves no copy. -/
theorem test_home_slice_passes_l1 :
    regAfter (.sld 3 1 ⟨3, 1, 3, 2⟩) warm 3 = some 0 ∧ regAfter (.saadd 3 1 2 ⟨2, 0, 3⟩) warm 3 = some 0 ∧
    l1After (.saadd 3 1 2 ⟨2, 0, 3⟩) warm 0 = some [] := by decide +kernel

/-- R111: a load with the hint noalloc leaves its sector in the L1, one with once does not. -/
theorem test_hints_allocate_in_l1 :
    l1After (.sld 3 1 ⟨0, 2, 3, 2⟩) (withS [(1, 0x20000)]) 0 = some [⟨0x1000, none⟩] ∧
    l1After (.sld 3 1 ⟨0, 2, 6, 2⟩) (withS [(1, 0x20000)]) 0 = some [] := by decide +kernel

theorem test_witness_IssueChecks :
    (∀ b ∈ [({ fB with a := 250 } : LaneFields)], legal (.vadd b) = true ∧ (rolesCheck laned b (r2 1)).isSome = true) ∧
    (let f : LaneFields := { fB with d := 1, sub := 6 }
     legal (.vsetp f) = true ∧ rolesCheck laned f ⟨.pred, .src 1, .src 1, .none⟩ = none ∧ 6 ≤ fld f.sub.toNat 0 3) ∧
    rolesCheck laned fB (r2 1) = none ∧ legal (.vadd fB) = true := by decide +kernel

theorem test_witness_FloatRounding :
    (isNaNOf 0 0x7F800001 = true ∧ isSigOf 0 0x7F800001 = true ∧ isNaNOf 0 0x7FC00000 = true ∧ isSigOf 0 0x7FC00000 = false) ∧
    (isInfOf 0 0x7F800000 = true ∧ isInfOf 0 0xFF800000 = true ∧ magOf 0 0x80000000 = 0 ∧ magOf 0 0x7F7FFFFF ≤ largestOf 0) ∧
    (isInfOf 4 0x7F = false ∧ isNaNOf 4 0x7F = true ∧ isNaNOf 4 0x7E = false ∧ isInfOf 5 0x7C = true ∧ isNaNOf 5 0x7D = true) ∧
    (flushed 0 0x80000001 = 0x80000000 ∧ flushed 4 0x01 = 0x01 ∧ flushedOut 0 ⟨0x00000001, 0⟩ = ⟨0, flUnderflow⟩) := by decide +kernel

/-- R244, R242: what overflows, what is tied and what is tiny, worked out by hand. -/
theorem test_float_rounding_results :
    fAdd fF32 ⟨0, false, false⟩ 0x7F7FFFFF 0x7F7FFFFF = ⟨0x7F800000, flOverflow⟩ ∧
    fAdd fF32 ⟨1, false, false⟩ 0x7F7FFFFF 0x7F7FFFFF = ⟨0x7F7FFFFF, flOverflow⟩ ∧
    fAdd fF32 ⟨0, false, false⟩ 0x4B800000 0x3F800000 = ⟨0x4B800000, flInexact⟩ ∧
    fAdd fF32 ⟨3, false, false⟩ 0x3F800000 0xBF800000 = ⟨0x80000000, 0⟩ ∧
    fMul fF32 ⟨0, false, false⟩ 0x00000001 0x3F000000 = ⟨0, flUnderflow⟩ := by decide +kernel

/-- A copy that counts its beats at the stage barrier at 0x1000. -/
def counted : State := copying { aCopy (.tensor (rowRec 0 256)) true 0 with barrier := some 0x1000 } .free

theorem test_witness_BarrierBeats :
    FirstCopy counted counted.g { aCopy (.tensor (rowRec 0 256)) true 0 with barrier := some 0x1000 } counted.tm ∧
    (0x1000 + 16 ≤ 2 ^ 20 ∧ counted.tm.killed = 0 ∧ (256 + 64 ≤ 0x1000 ∨ 0x1000 + 16 ≤ 256)) :=
  ⟨copying_first _ _, by decide, rfl, by decide⟩

/-- A TEDGE from slot 2 to the scratchpad, the only command of the Wheel; the slot in a state. -/
def edging (st : SlotState) : State :=
  let w : TileCmd := { zeroing with op := .tedge, word := 0x10002, slots := [2] }
  let s := onC (about demo) (fun c => { c with wheelQ := [w] })
  { s with tm := { s.tm with slots := [(2, ⟨st, [(0, 7)]⟩)] } }

theorem test_witness_EdgeWaits : ∀ st ∈ [SlotState.ready, .inUse],
    EdgeWaits (edging st) 0 (edging st).g (edging st).tm { zeroing with op := .tedge, word := 0x10002, slots := [2] } 2 ∧
      (slotOf (edging st).tm 2).st = st := by
  intro st h
  have : st = .ready ∨ st = .inUse := by simpa using h
  rcases this with rfl | rfl <;> exact ⟨⟨by decide, ⟨rfl, rfl⟩, rfl, by decide, by decide, rfl⟩, rfl⟩

theorem test_witness_SlotWaits :
    (let s := edging .filling
     (slotOf s.tm 2).st = .filling ∧ cmdSlots s.tm.kernel.tbase .tedge 0x10002 0 0 = ([2], [])) ∧
    (slotOf (edging .claimed).tm 2).st = .claimed := by decide +kernel

/-- `laned` with constant data from 0x20002 on, its lane at offset 0xFFC: two bytes of a word stand in the next page. -/
def constant : State :=
  let s := onG laned (fun g => { g with ln := { g.ln with v := [v0 8 0xFFC] } })
  { s with tm := { s.tm with kernel := { s.tm.kernel with cbase := 0x20002, csize := 0x1000 } } }

theorem test_witness_ConstPlain :
    ConstPlain constant { fMem with imm := 0x10900000 } 4 (fun _ => loc 0x20FFE 0x20FFE) (fun _ => loc 0x21000 0x21000) := by
  have e : ∀ k, laneIn (laneMask constant { fMem with imm := 0x10900000 }) k = true → k = 0 := fun k h => lane_zero k h
  exact
    { focused := isFoc_focused _ (by decide +kernel), const := by decide, aligned := fun k h => by rw [e k h]; rfl
      lower := fun k h => by rw [e k h]; rfl
      upper := fun k h w hw _ => by rw [e k h] at hw ⊢; subst hw; rfl
      sound := fun k _ => ⟨by decide, by decide, rfl, rfl⟩, part := ⟨rfl, rfl, rfl⟩, done := rfl, now := rfl }

/-- `turnOf` with the team's time up. -/
def lateTurn : State := let s := turnOf .scalar [0x04720905]; { s with g := { s.g with timeUp := true } }

theorem test_witness_TimeUpTurn :
    let u := atTurn lateTurn gid false .clean 0
    (takeTurn lateTurn).1 = some (.issue gid .scalar false .clean 0) ∧ u.g.timeUp = true ∧ canIssue u = true ∧ u.g.id = gid ∧
      othersFirst u = false := by decide +kernel

theorem test_witness_OwedAndWoken :
    (let s := tiers 0 (leafPte 1 0) [] (fun p => { p with owed := [moving 0 (some due)] })
     findPart s 1 = some s.pt ∧ activePart s.pt = true ∧ s.pt.owed ≠ []) ∧
    (let s := tiers 0 (leafPte 1 0) [(0x2000, 2 ^ 60)] (fun p => { p with insts := [{ due with woke := some 0 }], noVictim := [0] })
     s.pt.insts = [{ due with woke := some 0 }] ∧ 0 ∈ s.pt.noVictim) := by decide +kernel

/-- `cold` whose leaf is the first of the sixteen of a 64 KiB page. -/
def large : State :=
  let s := cold (leafPte 1 0 + 4)
  { s with mem := (List.range 16).foldl (fun m k => mwrite m (0x104100 + 8 * k) 8 (leafPte 1 0 + 4 + 4096 * k)) s.mem }

theorem test_witness_LargePageWalk :
    finds large (coldLeaf (leafPte 1 0 + 4)) = true ∧ bit (leafPte 1 0 + 4) 2 = true ∧ tlbFind large.pt (me large).unit 1 0x20000 = none ∧
    permFail (leafPte 1 0 + 4) 0 false true false = none := by decide +kernel

/-- Core 2 holds a range of a twin kernel's task, and core 1's request stands, its pair being idle. -/
def twinned : State :=
  let k := { kern with groups := 65, width := 64 }
  let s := { demo with g := noGroup, tm := noTeam, groups := [], teams := [], tk := { demo.tk with kernel := k } }
  let u := onI (onP s (fun p => { p with twins := [0, 1] })) (fun x => { x with core := 1, part := 1, idx := 1 })
  { u with cores := [noCore 0, { noCore 1 with asked := some 0 }, { noCore 2 with share := some ⟨1, 1, 0, 4, false⟩ }, noCore 3] }

theorem test_witness_TwinHalving :
    isAsking twinned = true ∧ halveVictim twinned twinned.pt 1 = some (2, ⟨1, 1, 0, 4, false⟩) ∧ twinKernel (kernelFor twinned 1 1) = true ∧
    twinned.pt.pending = [] ∧ twinned.pt.qf = [] ∧ twinned.pt.qt = [] := by decide +kernel

end Sys2Proof.Tests
end

section
/-! PROOFS. What the handling of an error leaves: event records (R37), killed groups and contexts (R267, R268), the severity
matrix (R263, R264). -/
namespace Sys2Proof.Machine

/-- What no handling of an error changes of a partition: its number, its twins, its severity words. -/
def partKey (p : Partition) : Nat × List Nat × Sparse Word := (p.num, p.twins, p.sev)

/-- That of every partition, and whether the one in focus exists. -/
def partsKey (s : State) : (Nat × List Nat × Sparse Word) × Bool × List (Nat × List Nat × Sparse Word) :=
  (partKey s.pt, s.pt.state != 0, s.parts.map partKey)

/-- What no handling of an error changes of a core: its self-tests, its corrected errors, whether it retires. -/
def coreKey (c : Core) : List Nat × List (Nat × Nat) × Bool := (c.testing, c.ceTimes, c.retiring)

/-- The device without the lane slots and the MSI-X messages sent. -/
def devKey (d : Device) : Device := { d with quads := [], msixOut := [] }

/-- The machine without its partitions, its bytes and the MSI-X messages sent. -/
def postKey (s : State) : State := { s with pt := noPartition, parts := [], mem := [], dev := { s.dev with msixOut := [] } }

/-- `t` is `s` after work of the part on a partition's own behalf: translations, bytes written, event records (R28, R37). -/
structure Posted (s t : State) : Prop where
  parts : partsKey t = partsKey s
  rest : postKey t = postKey s

/-- `t` is `s` after errors have been handled (R264). -/
structure Handled (s t : State) : Prop where
  parts : partsKey t = partsKey s
  core : ∀ n, coreKey (coreOf t n) = coreKey (coreOf s n)
  dev : devKey t.dev = devKey s.dev

theorem Posted.refl (s : State) : Posted s s := ⟨rfl, rfl⟩

theorem Posted.trans {s t u : State} (h : Posted s t) (k : Posted t u) : Posted s u :=
  ⟨k.parts.trans h.parts, k.rest.trans h.rest⟩

theorem Posted.g {s t : State} (h : Posted s t) : t.g = s.g :=
  (congrArg State.g h.rest :)
theorem Posted.groups {s t : State} (h : Posted s t) : t.groups = s.groups :=
  (congrArg State.groups h.rest :)
theorem Posted.cores {s t : State} (h : Posted s t) : t.cores = s.cores :=
  (congrArg State.cores h.rest :)

theorem Handled.refl (s : State) : Handled s s := ⟨rfl, fun _ => rfl, rfl⟩

theorem Handled.trans {s t u : State} (h : Handled s t) (k : Handled t u) : Handled s u :=
  ⟨k.parts.trans h.parts, fun n => (k.core n).trans (h.core n), k.dev.trans h.dev⟩

/-- A change of anything but partitions, cores and device. -/
theorem Handled.of_eq {s t : State} (hp : t.pt = s.pt) (hq : t.parts = s.parts) (hc : t.cores = s.cores) (hd : t.dev = s.dev) :
    Handled s t :=
  ⟨by simp only [partsKey, hp, hq], fun n => by simp only [coreOf, hc], by rw [hd]⟩

theorem Posted.handled {s t : State} (h : Posted s t) : Handled s t :=
  ⟨h.parts, fun n => by simp only [coreOf, h.cores], congrArg (fun u : State => { u.dev with quads := [] }) h.rest⟩

/-- A fold of steps that are each the handling of an error. -/
theorem Handled.foldl {α : Type} (f : State → α → State) (hf : ∀ u x, Handled u (f u x)) (l : List α) (s : State) :
    Handled s (l.foldl f s) := by
  induction l generalizing s with
  | nil => exact .refl s
  | cons x r ih => exact (hf s x).trans (ih _)

theorem partsKey_modPart (s : State) (n : Nat) (f : Partition → Partition) (hf : ∀ p, partKey (f p) = partKey p)
    (hs : ∀ p, p.state ≠ 0 → (f p).state ≠ 0) : partsKey (modPart s n f) = partsKey s := by
  have h : ∀ b : Bool, ∀ p, partKey (if b then f p else p) = partKey p := fun b p => by cases b <;> simp [hf]
  have hl : (s.parts.map (fun p => if p.num == n then f p else p)).map partKey = s.parts.map partKey := by
    rw [List.map_map]
    exact List.map_congr_left (fun p _ => h _ p)
  have hp : ((if s.pt.state != 0 && s.pt.num == n then f s.pt else s.pt).state != 0) = (s.pt.state != 0) := by
    split
    · next hc =>
      simp only [Bool.and_eq_true, bne_iff_ne, ne_eq] at hc
      exact (bne_iff_ne.mpr (hs _ hc.1)).trans (bne_iff_ne.mpr hc.1).symm
    · rfl
  simp only [partsKey, modPart, modBy, h, hl, hp]

theorem Posted.ite {s t u : State} {c : Prop} [Decidable c] (ht : Posted s t) (hu : Posted s u) : Posted s (if c then t else u) := by
  split
  · exact ht
  · exact hu

/-- A fold of such steps. -/
theorem Posted.foldl {α : Type} (f : State → α → State) (hf : ∀ u x, Posted u (f u x)) (l : List α) (s : State) :
    Posted s (l.foldl f s) := by
  induction l generalizing s with
  | nil => exact .refl s
  | cons x r ih => exact (hf s x).trans (ih _)

theorem Posted.modPart {s t : State} (h : Posted s t) (n : Nat) (f : Partition → Partition)
    (hf : ∀ p, partKey (f p) = partKey p := by intro p; rfl)
    (hs : ∀ p, p.state ≠ 0 → (f p).state ≠ 0 := by intro p h; exact h) : Posted s (modPart t n f) :=
  h.trans ⟨partsKey_modPart t n f hf hs, rfl⟩

/-- Bytes alone change. -/
theorem Posted.mem {s t : State} (h : Posted s t) (m : Memory) : Posted s { t with mem := m } := h.trans ⟨rfl, rfl⟩

theorem Posted.markDirtyRange {s t : State} (h : Posted s t) (part key n : Nat) : Posted s (markDirtyRange t part key n) :=
  h.modPart part _ (fun p => by dsimp only; split <;> rfl) (fun p hp => by dsimp only; split <;> exact hp)

theorem Posted.partPuts {s t : State} (h : Posted s t) (part key : Nat) (bs : List Byte) : Posted s (partPuts t part key bs) :=
  (h.mem _).markDirtyRange part key _

theorem Posted.ctlWrite {s t : State} (h : Posted s t) (part off n v : Nat) : Posted s (ctlWrite t part off n v) :=
  (h.mem _).markDirtyRange part _ n

theorem Posted.tlbFill {s t : State} (h : Posted s t) (part u : Nat) (e : TlbEntry) : Posted s (tlbFill t part u e) := by
  unfold Machine.tlbFill
  exact h.modPart part _

theorem Posted.fillTlb (s : State) (u part ctx : Nat) (l : Leaf) (write : Bool) : Posted s (fillTlb s u part ctx l write).1 :=
  ((Posted.ite (.refl s) (((Posted.refl s).mem _).markDirtyRange part l.key 8)).modPart part _).tlbFill part u _

theorem failOrWait_not_ok (s t : State) (part ctx va num : Nat) (d : BitVec 192) (l : Loc) :
    failOrWait s part ctx va num d ≠ .ok l t := by
  unfold failOrWait
  split <;> simp

theorem Posted.walkFill {s t : State} {u part ctx va : Nat} {sup write read : Bool} {l : Loc}
    (h : walkFill s u part ctx va sup write read = .ok l t) : Posted s t := by
  unfold Machine.walkFill at h
  split at h
  · exact absurd h (failOrWait_not_ok _ _ _ _ _ _ _ _)
  · cases h
  · split at h
    · exact absurd h (failOrWait_not_ok _ _ _ _ _ _ _ _)
    · dsimp only at h
      split at h
      · cases h
        exact .fillTlb s u part ctx _ write
      · cases h

/-- A translation changes the tables, the TLBs and the walk cache alone. -/
theorem Posted.translate {s t : State} {u part ctx va : Nat} {sup write read : Bool} {l : Loc}
    (h : translate s u part ctx va sup write read = .ok l t) : Posted s t := by
  unfold Machine.translate at h
  split at h
  · cases h
  · split at h
    · cases h
      exact .refl s
    · split at h
      · exact absurd h (failOrWait_not_ok _ _ _ _ _ _ _ _)
      · split at h
        · split at h
          · exact .walkFill h
          · split at h
            · exact absurd h (failOrWait_not_ok _ _ _ _ _ _ _ _)
            · dsimp only at h
              split at h
              · cases h
                split
                · exact .refl s
                · exact (Posted.refl s).tlbFill part u _
              · cases h
        · exact .walkFill h

theorem Posted.supWrite {s t u : State} (h : Posted s t) {part va : Nat} {bs : List Byte} (hw : supWrite t part va bs = some u) :
    Posted s u := by
  unfold Machine.supWrite at hw
  split at hw
  · next hl =>
    cases hw
    exact (h.trans (.translate hl)).partPuts part _ bs
  · cases hw

theorem Posted.sendMsix {s t : State} (h : Posted s t) (p : Partition) (vec : Nat) : Posted s (sendMsix t p vec) :=
  h.trans ⟨rfl, rfl⟩

/-- A message that is sent or not. -/
theorem Posted.sendIf {s t : State} (h : Posted s t) (c : Bool) (p : Partition) (vec : Nat) :
    Posted s (if c then Machine.sendMsix t p vec else t) := .ite (h.sendMsix p vec) h

theorem Posted.loseRecord {s t : State} (h : Posted s t) (part : Nat) : Posted s (loseRecord t part) := h.modPart part _

/-- Posting a record is work of the part on the partition's own behalf (R37). -/
theorem Posted.postEvent {s t : State} (h : Posted s t) (part : Nat) (e : EventRec) (force : Bool) :
    Posted s (postEvent t part e force) := by
  unfold Machine.postEvent
  split
  · exact h
  · dsimp only
    apply Posted.sendIf
    split
    · exact h.loseRecord part
    · split
      · exact h.loseRecord part
      · split
        · exact h.loseRecord part
        · next hw =>
          dsimp only
          exact (h.supWrite hw).modPart part _

/-- A completion word is work of the part on the partition's own behalf (R35). -/
theorem Posted.writeCompl {s t : State} (h : Posted s t) (part va code : Nat) : Posted s (writeCompl t part va code) := by
  unfold Machine.writeCompl
  split
  · exact h
  · next p _ =>
    cases hw : Machine.supWrite t part va (natBytes 8 (complWord (ptime t p) code)) with
    | none => exact h
    | some u => exact h.supWrite hw

theorem Posted.completeLaunch {s t : State} (h : Posted s t) (part va code : Nat) (msix : Bool) (vec : Nat) :
    Posted s (completeLaunch t part va code msix vec) := by
  have hw := h.writeCompl part va code
  unfold Machine.completeLaunch
  dsimp only
  split
  · exact hw
  · exact hw.sendIf msix _ vec

/-- Frames that go back to the pool (R152). -/
theorem Posted.poolPush {s t : State} (h : Posted s t) (part : Nat) (l : List Nat) : Posted s (poolPush t part l) := by
  induction l generalizing t with
  | nil => exact h
  | cons f r ih =>
    unfold Machine.poolPush
    dsimp only
    split
    · exact ih h
    · next hw => exact ih ((h.supWrite hw).ctlWrite part _ 4 _)

theorem Posted.resetRecords {s t : State} (h : Posted s t) (part : Nat) (q : Queue) (n k : Nat) :
    Posted s (resetRecords t part q n k) := by
  induction n generalizing t k with
  | zero => exact h
  | succ n ih => exact ih (h.completeLaunch part _ 3 _ _) _

/-! The handling of an error (R262 to R268). -/

theorem Handled.posted {s t u : State} (h : Handled s t) (k : Posted t u) : Handled s u := h.trans k.handled

theorem Handled.postEvent {s t : State} (h : Handled s t) (part : Nat) (e : EventRec) (force : Bool) :
    Handled s (postEvent t part e force) := h.posted (.postEvent (.refl t) part e force)

theorem Handled.poolPush {s t : State} (h : Handled s t) (part : Nat) (l : List Nat) : Handled s (poolPush t part l) :=
  h.posted (.poolPush (.refl t) part l)

theorem Handled.completeLaunch {s t : State} (h : Handled s t) (part va code : Nat) (msix : Bool) (vec : Nat) :
    Handled s (completeLaunch t part va code msix vec) := h.posted (.completeLaunch (.refl t) part va code msix vec)

theorem Handled.ite {s t u : State} {c : Prop} [Decidable c] (ht : Handled s t) (hu : Handled s u) :
    Handled s (if c then t else u) := by
  split
  · exact ht
  · exact hu

theorem Handled.modPart {s t : State} (h : Handled s t) (n : Nat) (f : Partition → Partition)
    (hf : ∀ p, partKey (f p) = partKey p := by intro p; rfl)
    (hs : ∀ p, p.state ≠ 0 → (f p).state ≠ 0 := by intro p h; exact h) : Handled s (modPart t n f) :=
  h.posted ((Posted.refl t).modPart n f hf hs)

theorem Handled.modTeams {s t : State} (h : Handled s t) (p : Team → Bool) (f : Team → Team) : Handled s (modTeams t p f) :=
  h.trans (.of_eq rfl rfl rfl rfl)

theorem Handled.modGroups {s t : State} (h : Handled s t) (p : Group → Bool) (f : Group → Group) : Handled s (modGroups t p f) :=
  h.trans (.of_eq rfl rfl rfl rfl)

theorem Handled.modTasks {s t : State} (h : Handled s t) (p : Task → Bool) (f : Task → Task) : Handled s (modTasks t p f) :=
  h.trans (.of_eq rfl rfl rfl rfl)

/-- Every core changes by `f`, and no partition. -/
theorem Handled.mapCores {s t u : State} (h : Handled s t) {f : Core → Core} (hp : u.pt = t.pt) (hq : u.parts = t.parts)
    (hd : u.dev = t.dev) (hc : u.cores = t.cores.map f) (hn : ∀ c, (f c).num = c.num) (hf : ∀ c, coreKey (f c) = coreKey c) :
    Handled s u := by
  refine h.trans ⟨by simp only [partsKey, hp, hq], fun n => ?_, by rw [hd]⟩
  have hm := find_modBy (fun _ : Core => true) (fun c : Core => c.num == n) f (fun c => by rw [hn]) t.cores
  simp only [modBy, if_true] at hm
  simp only [coreOf, hc, hm]
  cases t.cores.find? (fun c => c.num == n) with
  | none => rfl
  | some c => exact hf c

theorem Handled.modCore {s t : State} (h : Handled s t) (n : Nat) (f : Core → Core) (hn : ∀ c, (f c).num = c.num := by intro c; rfl)
    (hf : ∀ c, coreKey (f c) = coreKey c := by intro c; rfl) : Handled s (modCore t n f) := by
  refine h.trans ⟨rfl, fun m => ?_, rfl⟩
  rw [coreOf_modCore t n m f hn]
  split
  · next e => rw [hf, e]
  · rfl

theorem Handled.freeSlotOwner {s t : State} (h : Handled s t) (g : Group) : Handled s (freeSlotOwner t g) :=
  .ite (h.trans ⟨rfl, fun _ => rfl, rfl⟩) h

/-- What copies kept leaves the TLBs, and nothing else changes (R126). -/
theorem foldl_tlbForget (f : Copy → Nat) (l : List Copy) (p : Partition) :
    ∃ b, l.foldl (fun q c => tlbForget q (f c)) p = { p with tlb := b } := by
  induction l generalizing p with
  | nil => exact ⟨_, rfl⟩
  | cons c r ih => exact ih _

theorem Handled.killGroup {s t : State} (h : Handled s t) (id : GroupId) : Handled s (killGroup t id) := by
  unfold Machine.killGroup
  split
  · exact h
  · split
    · exact h
    · dsimp only [teamBars, modTeamOf, modTeam, modTask, modGroup]
      refine Handled.modTeams (.freeSlotOwner (.modTasks (.modCore (.modTeams (.modGroups ?_ _ _) _ _) _ _) _ _) _) _ _
      refine .modPart (.modGroups h _ _) id.part _ (fun p => ?_) (fun p hp => ?_)
      · obtain ⟨b, hb⟩ := foldl_tlbForget _ _ p
        rw [hb]
        rfl
      · obtain ⟨b, hb⟩ := foldl_tlbForget _ _ p
        rw [hb]
        exact hp

theorem Handled.noteCool {s t : State} (h : Handled s t) (part : Nat) : Handled s (noteCool t part) :=
  .modPart h part _ (fun p => by split <;> rfl) (fun p hp => by split <;> exact hp)

theorem Handled.enqueueTask {s t : State} (h : Handled s t) (part : Nat) (k : Task) (fork : Bool) :
    Handled s (enqueueTask t part k fork) := by
  unfold Machine.enqueueTask
  split
  · exact h
  · exact Handled.trans (.modPart h part _) (.of_eq rfl rfl rfl rfl)

theorem Handled.createTrig {s t : State} (h : Handled s t) (part idx : Nat) (r : TrigRec) (addr die : Nat) :
    Handled s (createTrig t part idx r addr die).1 := by
  unfold Machine.createTrig
  split
  · exact h
  · split
    · exact h
    · dsimp only
      rw [apply_ite Prod.fst]
      exact .ite (.postEvent (.modPart h part _) part _ _) (.enqueueTask (.modPart h part _) part _ _)

theorem Handled.retrigger {s t : State} (h : Handled s t) (part : Nat) (r : TrigRec) : Handled s (retrigger t part r) := by
  have hc := h.createTrig part r.entry r r.addr 0
  unfold Machine.retrigger
  split
  · exact h
  · exact .ite (.modPart h part _) (.ite hc (.modPart hc part _))

theorem Handled.closeTrig {s t : State} (h : Handled s t) (part num : Nat) (re : Bool) : Handled s (closeTrig t part num re) := by
  unfold Machine.closeTrig
  split
  · exact h
  · have hm := h.modTasks
    exact .ite h (.ite ((hm _ _).retrigger part _) (hm _ _))

theorem Handled.endHolds {s t : State} (h : Handled s t) (part : Nat) (inst : Option Instance) (f : Hold → Bool) :
    Handled s (endHolds t part inst f) := by
  unfold Machine.endHolds
  split
  · exact h
  · refine Handled.trans (.modPart h part _) (.foldl _ (fun u x => ?_) _ _)
    dsimp only
    split
    · exact .refl u
    · exact .ite (.modPart (.refl u) part _ (fun p => by split <;> [rfl; (split <;> rfl)])
        (fun p hp => by split <;> [exact hp; (split <;> exact hp)])) (.refl u)

theorem Handled.finishTask {s t : State} (h : Handled s t) (part num : Nat) : Handled s (finishTask t part num) := by
  unfold Machine.finishTask
  split
  · exact h
  · refine .ite h ?_
    exact .modPart (.modTasks (.closeTrig (.poolPush (.endHolds (.modPart h part _) part none _) part _) part num true) _ _) part _

theorem Handled.cancelTasks {s t : State} (h : Handled s t) (part : Nat) (f : Task → Bool) : Handled s (cancelTasks t part f) := by
  unfold Machine.cancelTasks
  dsimp only
  refine Handled.trans (Handled.noteCool ?_ part) (.foldl _ (fun u x => (Handled.refl u).finishTask part x) _ _)
  refine Handled.modTasks (Handled.modPart ?_ part _) _ _
  exact Handled.mapCores (h.trans (.foldl Machine.killGroup (fun u x => (Handled.refl u).killGroup x) _ _)) rfl rfl rfl rfl
    (fun _ => rfl) (fun _ => rfl)

/-- RESET with INSPECT 0 is the handling of an error (R42, R264). -/
theorem Handled.resetPart {s t : State} (h : Handled s t) (part : Nat) : Handled s (resetPart t part) := by
  unfold Machine.resetPart
  extract_lets launches shut s0 s1 s2 s3 s4 qs s5
  have h1 : Handled s s1 := .modPart (.modTasks h _ _) part _ (fun _ => rfl) (fun _ _ => (by decide : (4 : Nat) ≠ 0))
  have h2 : Handled s s2 := h1.cancelTasks part _
  have h3 : Handled s s3 := h2.trans (.foldl _ (fun u k => .completeLaunch (.refl u) part _ 3 _ _) _ _)
  have h4 : Handled s s4 := h3.modTasks _ _
  have h5 : Handled s s5 := by
    refine h4.trans (.foldl _ (fun u x => ?_) _ _)
    dsimp only
    split
    · exact .refl u
    · exact .modPart (.posted (.refl u) (.resetRecords (.refl u) part _ _ _)) part _
  refine h5.modPart part _ (fun _ => rfl) (fun p _ => ?_)
  dsimp only
  split <;> decide

theorem Handled.doAction {s t : State} (h : Handled s t) (part action : Nat) (victims : List GroupId) (ctx : Nat) :
    Handled s (doAction t part action victims ctx) :=
  .ite (h.trans (.foldl _ (fun u x => .killGroup (.refl u) x) victims t)) (.ite (h.cancelTasks part _) (.ite (h.resetPart part) h))

/-- Handling an error through the severity matrix (R264). -/
theorem Handled.severity {s t : State} (h : Handled s t) (part cls atLeast : Nat) (e : EventRec) (victims : List GroupId) :
    Handled s (severity t part cls atLeast e victims) := by
  unfold Machine.severity
  split
  · exact h
  · exact .doAction (.ite (.postEvent h part _ _) h) part _ victims _

theorem Handled.severityUnit {s t : State} (h : Handled s t) (part cls source ctx addr : Nat) (victims : List GroupId) :
    Handled s (severityUnit t part cls source ctx addr victims) := h.severity part cls 0 _ victims

end Sys2Proof.Machine
end

section
/-! PROOFS. Device reset (R7, R12, R22, R43, R44). -/
namespace Sys2Proof.Machine

/-- A byte that a filter on addresses keeps reads as before. -/
theorem mget_filter (m : Memory) (p : Nat → Bool) (a : Nat) (h : p a = true) : mget (m.filter (fun c => p c.1)) a = mget m a := by
  induction m with
  | nil => rfl
  | cons x r ih =>
    obtain ⟨k, v⟩ := x
    by_cases hk : k = a
    · subst hk
      simp [mget, sget, h]
    · cases hp : p k
      · simpa [mget, sget, hp, hk] using ih
      · simpa [mget, sget, hp, hk] using ih

/-- The bytes of host memory and of the fabric nodes stay (log 13). -/
theorem mget_outsideMem (m : Memory) (a : Nat) (h : 2 * spaceSize ≤ a) (h3 : a < 3 * spaceSize ∨ 4 * spaceSize ≤ a) :
    mget (outsideMem m) a = mget m a :=
  mget_filter m (fun k => decide (2 * spaceSize ≤ k) && !(decide (3 * spaceSize ≤ k) && decide (k < 4 * spaceSize))) a (by
    simp only [h, decide_true, Bool.true_and, Bool.not_eq_true', Bool.and_eq_false_iff, decide_eq_false_iff_not]
    omega)

end Sys2Proof.Machine

namespace Sys2Proof.Claims

open Sys2Proof Sys2Proof.Machine

/-- Settles O56: reset lists nothing, and reset as an event starts from the same machine with what non-volatile storage, the host and
the fabric nodes hold. -/
theorem resetState : Obligations.ResetState := by
  unfold Obligations.ResetState
  refine ⟨⟨rfl, rfl, rfl, rfl, rfl, rfl, fun c => ⟨rfl, rfl⟩, fun c q => ⟨rfl, rfl⟩, fun a => rfl, rfl⟩, fun s => ?_⟩
  refine ⟨_, rfl, rfl, rfl, rfl, rfl, fun c => rfl, fun c q => rfl, rfl, rfl, rfl, rfl, rfl, rfl, rfl, rfl, rfl, fun a => ?_⟩
  exact mget_outsideMem s.mem a

end Sys2Proof.Claims
end

section
/-! PROOFS. The placement state of cores (R57, R58), killed groups (R267), self-tests and retired twins (R269, R270), the sc clocks
(R184). -/
namespace Sys2Proof.Machine

open Sys2Proof.Claims

/-- Every share may have lost its mark of a core that was not cool, on core `c` and its even core alone, and nothing else changes. -/
structure Cooled (s t : State) (c : Nat) : Prop where
  cores : ∀ n, ∃ sh, coreOf t n = { coreOf s n with share := sh } ∧ coolerShare (coreOf s n).share sh ∧
    (n ≠ c → n ≠ c - c % 2 → sh = (coreOf s n).share)
  rest : t = { s with cores := t.cores }

theorem Cooled.refl (s : State) (c : Nat) : Cooled s s c := ⟨fun _ => ⟨_, rfl, .inl rfl, fun _ _ => rfl⟩, rfl⟩

theorem coolerShare_trans {a b c : Option Share} (h : coolerShare a b) (k : coolerShare b c) : coolerShare a c := by
  rcases k with rfl | ⟨x, rfl, rfl⟩
  · exact h
  · rcases h with rfl | ⟨y, rfl, hy⟩
    · exact .inr ⟨x, rfl, rfl⟩
    · cases hy
      exact .inr ⟨y, rfl, rfl⟩

theorem Cooled.trans {s t u : State} {c : Nat} (h : Cooled s t c) (k : Cooled t u c) : Cooled s u c := by
  refine ⟨fun n => ?_, by rw [k.rest, h.rest]⟩
  obtain ⟨a, ha, hc, hn⟩ := h.cores n
  obtain ⟨b, hb, hd, hm⟩ := k.cores n
  rw [ha] at hb hd hm
  exact ⟨b, hb, coolerShare_trans hc hd, fun h1 h2 => (hm h1 h2).trans (hn h1 h2)⟩

/-- A share whose core has turned cool (R58). -/
theorem coolShare_cooled (s : State) (c : Nat) : Cooled s (coolShare s c) c := by
  unfold coolShare
  extract_lets one
  have step : ∀ u k, k = c ∨ k = c - c % 2 → Cooled u (one u k) c := by
    intro u k hk
    simp only [one]
    split
    · exact .refl u c
    · next sh hsh =>
      split
      · refine ⟨fun n => ?_, rfl⟩
        rw [coreOf_modCore u k n]
        · split
          · next e =>
            subst e
            exact ⟨_, rfl, .inr ⟨sh, hsh, rfl⟩, fun h1 h2 => absurd hk (by simp [h1, h2])⟩
          · exact ⟨_, rfl, .inl rfl, fun _ _ => rfl⟩
        · exact fun _ => rfl
      · exact .refl u c
  exact (step s c (.inl rfl)).trans (step _ _ (.inr rfl))

/-- The time since when a partition has had no idle cool core (R58). -/
def cooled (s : State) (p : Partition) : Partition :=
  if idleCool s p then { p with hotSince := none, hotMayAsk := false } else { p with hotSince := some (p.hotSince.getD s.dev.gtc) }

theorem findPart_noteCool (s : State) (n m : Nat) :
    findPart (noteCool s n) m = if m = n then (findPart s n).map (cooled s) else findPart s m :=
  findPart_modPart s n m (cooled s) (fun p => by unfold cooled; split <;> rfl) (fun p => by unfold cooled; split <;> rfl)

/-- What a change of a core's placement state brings (R57, R58). -/
theorem notePlace_placed (s : State) (c : Nat) (f : Core → Core) (hf : ∀ k, (f k).num = k.num) :
    CorePlaced s (notePlace (modCore s c f) c) c (f (coreOf s c)) := by
  obtain ⟨cores, rest⟩ := coolShare_cooled (modCore s c f) c
  generalize hu : coolShare (modCore s c f) c = u at cores rest
  have hc : ∀ n, coreOf (notePlace (modCore s c f) c) n = coreOf u n := fun n => by
    unfold notePlace
    rw [hu]
    split <;> rfl
  have ho : ownerOf (modCore s c f) c = ownerOf s c := rfl
  have hp : ∀ n, findPart u n = findPart s n := fun n => by rw [rest]; rfl
  have at_ : ∀ n, coreOf (modCore s c f) n = if n = c then f (coreOf s c) else coreOf s n := fun n => coreOf_modCore s c n f hf
  refine ⟨?_, fun h => ?_, fun n h1 h2 => ?_, fun p h1 h2 _ => ?_, fun m hm => ?_, ?_⟩
  · obtain ⟨sh, h, k, -⟩ := cores c
    rw [at_, if_pos rfl] at h k
    exact ⟨sh, (hc c).trans h, k⟩
  · obtain ⟨sh, h, k, -⟩ := cores (c - 1)
    rw [at_, if_neg (by omega)] at h k
    exact ⟨sh, (hc _).trans h, k⟩
  · obtain ⟨sh, h, -, k⟩ := cores n
    rw [at_, if_neg h1] at h k
    rw [hc, h, k h1 h2]
  · have hn : notePlace (modCore s c f) c = noteCool u p.num := by
      unfold notePlace
      rw [hu, ho, h1]
    rw [hn, findPart_noteCool, if_pos rfl, hp, h2, Option.map_some, cooled]
    have hg : u.dev = s.dev := by rw [rest]; rfl
    rw [hg]
    rfl
  · unfold notePlace
    rw [hu, ho]
    split
    · exact hp m
    · next p h =>
      rw [findPart_noteCool, if_neg (hm p h), hp]
  · unfold notePlace
    rw [hu]
    split
    · rw [rest]; rfl
    · show noteCool u _ = _
      unfold noteCool
      rw [rest]
      rfl

/-! Killed groups (R267). -/

/-- A group after a change of the groups that a predicate picks, which keeps their names and whether they are resident. -/
theorem findGroup_modGroups (s : State) (p : Group → Bool) (f : Group → Group) (hid : ∀ g, (f g).id = g.id)
    (hl : ∀ g, (f g).live = g.live) (id : GroupId) :
    findGroup (modGroups s p f) id = (findGroup s id).map (fun g => if p g then f g else g) :=
  find_focus (fun g : Group => g.live) p (fun g => g.id == id) f hl (fun g => by rw [hid]) s.g s.groups

/-- A team after such a change. -/
theorem findTeam_modTeams (s : State) (p : Team → Bool) (f : Team → Team)
    (hid : ∀ m, (f m).part = m.part ∧ (f m).task = m.task ∧ (f m).index = m.index) (hl : ∀ m, (f m).live = m.live)
    (part task idx : Nat) :
    findTeam (modTeams s p f) part task idx = (findTeam s part task idx).map (fun m => if p m then f m else m) :=
  find_focus (fun m : Team => m.live) p (fun m => m.part == part && m.task == task && m.index == idx) f hl
    (fun m => by rw [(hid m).1, (hid m).2.1, (hid m).2.2]) s.tm s.teams

theorem findGroup_congr {s t : State} (hg : t.g = s.g) (hs : t.groups = s.groups) (id : GroupId) : findGroup t id = findGroup s id := by
  simp only [findGroup, allGroups, hg, hs]

/-- The name that a group is found under is its own. -/
theorem findGroup_id {s : State} {id : GroupId} {g : Group} (h : findGroup s id = some g) : g.id = id := by
  have := List.find?_some (p := fun g : Group => g.id == id) h
  simpa using this

theorem findGroup_mem {s : State} {id : GroupId} {g : Group} (h : findGroup s id = some g) : g ∈ allGroups s :=
  List.mem_of_find?_eq_some h

theorem findTeam_key {s : State} {part task idx : Nat} {m : Team} (h : findTeam s part task idx = some m) :
    m.part = part ∧ m.task = task ∧ m.index = idx := by
  have := List.find?_some (p := fun m : Team => m.part == part && m.task == task && m.index == idx) h
  simp only [Bool.and_eq_true, beq_iff_eq] at this
  exact ⟨this.1.1, this.1.2, this.2⟩

/-- What names a group: its id, and whether it is resident. -/
def groupKey (g : Group) : GroupId × Bool := (g.id, g.live)

theorem groupKey_putSreg (g : Group) (r : Nat) (v : Word) : groupKey (putSreg g r v) = groupKey g := by
  unfold putSreg
  split <;> rfl

theorem groupKey_landSreg (g : Group) (sup : Bool) (r : Nat) (v : Word) : groupKey (landSreg g sup r v) = groupKey g := by
  unfold landSreg
  split
  · split
    · rfl
    · exact groupKey_putSreg g r v
  · exact groupKey_putSreg g r v

theorem groupKey_vputN (g : Group) (r t n v : Nat) : groupKey (vputN g r t n v) = groupKey g := by
  induction n generalizing g r v with
  | zero => rfl
  | succ n ih => exact ih _ _ _

theorem groupKey_foldl {α : Type} (f : Group → α → Group) (hf : ∀ g x, groupKey (f g x) = groupKey g) (l : List α) (g : Group) :
    groupKey (l.foldl f g) = groupKey g := by
  induction l generalizing g with
  | nil => rfl
  | cons x r ih => exact (ih _).trans (hf g x)

theorem groupKey_abandonLanes (g : Group) (c : Copy) (ls : List LaneCopy) : groupKey (abandonLanes g c ls) = groupKey g :=
  groupKey_foldl _ (fun g x => by
    split
    · exact groupKey_vputN g c.dst x.lane 2 _
    · rfl) _ g

theorem groupKey_abandonWords (g : Group) (c : Copy) : groupKey (abandonWords g c) = groupKey g := by
  unfold abandonWords
  split
  · exact groupKey_landSreg g _ _ _
  · exact groupKey_abandonLanes g c _
  · exact groupKey_abandonLanes g c _

@[simp] theorem freeSlotOwner_g (s : State) (g : Group) : (freeSlotOwner s g).g = s.g := by
  unfold freeSlotOwner
  dsimp only
  split <;> rfl

@[simp] theorem freeSlotOwner_groups (s : State) (g : Group) : (freeSlotOwner s g).groups = s.groups := by
  unfold freeSlotOwner
  dsimp only
  split <;> rfl

/-- The groups after one is killed (R267): that one alone changes, and unless it has ended it is killed. -/
theorem findGroup_killGroup (s : State) (a b : GroupId) :
    (b ≠ a → findGroup (killGroup s a) b = findGroup s b) ∧
      ∀ g, findGroup s a = some g → g.killed = true ∨ g.ended = false →
        ∃ g', findGroup (killGroup s a) a = some g' ∧ g'.killed = true := by
  unfold killGroup
  split
  · next h => exact ⟨fun _ => rfl, fun g hg => absurd (h.symm.trans hg) (by simp)⟩
  · next g0 h =>
    split
    · next hk =>
      refine ⟨fun _ => rfl, fun g hg h2 => ⟨g, hg, ?_⟩⟩
      obtain rfl : g0 = g := Option.some.inj (h.symm.trans hg)
      rcases h2 with h2 | h2
      · exact h2
      · simpa [h2] using hk
    · extract_lets filled s0 s1 s2 s3 s4
      have hfind : ∀ id, findGroup (teamBars s4 a.part a.task a.team) id = findGroup s1 id := fun id =>
        findGroup_congr (freeSlotOwner_g _ _) (freeSlotOwner_groups _ _) id
      have keyed : ∀ g : Group, groupKey (g.en.copies.foldl abandonWords g) = groupKey g := fun g =>
        groupKey_foldl _ groupKey_abandonWords _ g
      have h0 : ∀ id, findGroup s0 id = if id = a then (findGroup s a).map (fun g => g.en.copies.foldl abandonWords g) else findGroup s id :=
        fun id => findGroup_modGroup s a id _ (fun g => congrArg Prod.fst (keyed g)) (fun g => congrArg Prod.snd (keyed g))
      have h1 := fun id => findGroup_modGroup s0 a id (fun h =>
        { h with killed := true, trapPend := none, hidden := none, sup := false, skipS := false, skipL := none,
                 q := { dq := [], vq := [], rq := [] }, sc := { h.sc with barWait := none, sbWait := none },
                 en := { h.en with copies := [], cp := 0 } }) (fun _ => rfl) (fun _ => rfl)
      refine ⟨fun hb => ?_, fun g hg _ => ?_⟩
      · exact (hfind b).trans ((h1 b).trans (by rw [if_neg hb, h0, if_neg hb]))
      · refine ⟨_, (hfind a).trans ((h1 a).trans (by rw [if_pos rfl, h0, if_pos rfl, hg, Option.map_some, Option.map_some])), rfl⟩

/-- Each of some groups that has not ended is killed (R267). -/
theorem foldl_killGroup_kills (l : List GroupId) (s : State) (id : GroupId) (g : Group) (h : findGroup s id = some g)
    (hk : g.killed = true ∨ (id ∈ l ∧ g.ended = false)) : ∃ g', findGroup (l.foldl killGroup s) id = some g' ∧ g'.killed = true := by
  induction l generalizing s g with
  | nil => exact ⟨g, h, by simpa using hk⟩
  | cons a r ih =>
    obtain ⟨other, same⟩ := findGroup_killGroup s a id
    by_cases e : id = a
    · subst e
      obtain ⟨g', h', k'⟩ := same g h (hk.imp_right And.right)
      exact ih _ g' h' (.inl k')
    · refine ih _ g ((other e).trans h) (hk.imp_right fun hm => ⟨?_, hm.2⟩)
      exact (List.mem_cons.mp hm.1).resolve_left e

end Sys2Proof.Machine
end

section
/-! PROOFS. The sensors, the errors in core structures and the self-tests (R25, R26, R57, R184, R269, R270). -/
namespace Sys2Proof.Machine

open Sys2Proof.Claims

theorem allParts_key {s t : State} (h : partsKey t = partsKey s) : (allParts t).map partKey = (allParts s).map partKey := by
  simp only [partsKey, Prod.mk.injEq] at h
  obtain ⟨h1, h2, h3⟩ := h
  unfold allParts
  rw [h2]
  split
  · simp [h1, h3]
  · exact h3

/-- What is found among partitions by number or twins is what was found before an error was handled. -/
theorem find_partKey {s t : State} (h : partsKey t = partsKey s) (q : Nat × List Nat × Sparse Word → Bool) :
    ((allParts t).find? (fun p => q (partKey p))).map partKey = ((allParts s).find? (fun p => q (partKey p))).map partKey := by
  have e : ∀ u : State, ((allParts u).find? (fun p => q (partKey p))).map partKey = ((allParts u).map partKey).find? q := fun u => by
    rw [List.find?_map]
    rfl
  rw [e, e, allParts_key h]

theorem findPart_key {s t : State} (h : partsKey t = partsKey s) (n : Nat) :
    (findPart t n).map partKey = (findPart s n).map partKey := find_partKey h (fun k => k.1 == n)

theorem ownerOf_key {s t : State} (h : partsKey t = partsKey s) (c : Nat) :
    (ownerOf t c).map partKey = (ownerOf s c).map partKey := find_partKey h (fun k => k.2.1.contains (c / 2))

/-- The partition found after an error was handled has the number, twins and severity words of the one found before. -/
theorem findPart_kept {s t : State} (h : partsKey t = partsKey s) {n : Nat} {p : Partition} (hp : findPart s n = some p) :
    ∃ q, findPart t n = some q ∧ partKey q = partKey p := by
  have := findPart_key h n
  rw [hp] at this
  exact Option.map_eq_some_iff.mp this

/-- An error whose action is 0 and whose class posts no record regardless does nothing (R264). -/
theorem severityUnit_none {s : State} {part cls source ctx addr : Nat} {victims : List GroupId} {p : Partition}
    (hp : findPart s part = some p) (ha : sevAction p cls source = 0) (ht : ¬(2 ≤ sevType cls ∧ sevType cls ≤ 0xB)) :
    severityUnit s part cls source ctx addr victims = s := by
  have h0 : max 0 (sevAction p cls source) = 0 := by rw [ha]; rfl
  have hc : ((0 : Nat) != 0 || decide (2 ≤ sevType cls) && decide (sevType cls ≤ 0xB)) = false := by simpa using ht
  unfold severityUnit severity
  rw [hp]
  simp only [noneRec, h0, hc, doAction]
  rfl

/-- What the pre-emption of a core's teams leaves (R61, R62). -/
theorem Handled.preemptCore {s t : State} (h : Handled s t) (c : Nat) : Handled s (preemptCore t c) := by
  have hd : Handled s ((residentOn t c).foldl drainTeam t) := by
    refine h.trans (.foldl _ (fun u x => ?_) _ _)
    exact .ite (.modTeams (.refl u) _ _) (.modGroups (.modTeams (.refl u) _ _) _ _)
  unfold Machine.preemptCore shareAway
  split
  · exact hd
  · refine .noteCool (.ite ?_ (.modPart ?_ _ _)) _ <;> exact .modCore hd _ _

/-- A core's team that is not saved is on it, or spans its twin. -/
theorem residentOn_team {s : State} {c : Nat} (h : (!(residentOn s c).isEmpty) = true) :
    ∃ m ∈ allTeams s, m.saved = false ∧ (m.core = c ∨ (m.twin = true ∧ m.core + 1 = c)) := by
  cases hr : residentOn s c with
  | nil => simp [hr] at h
  | cons m r =>
    have hm : m ∈ residentOn s c := by rw [hr]; exact List.mem_cons_self
    simp only [residentOn, List.mem_filter, Bool.and_eq_true, Bool.not_eq_true', Bool.or_eq_true, beq_iff_eq] at hm
    exact ⟨m, hm.1, hm.2.1, hm.2.2⟩

/-- The end of a twin's retirement (R270): it waits while a team of the twin is left to save, and then the twin leaves its partition. -/
structure RetireDone (s t : State) (c : Nat) : Prop where
  retired : t.dev.retired = s.dev.retired
  testing : ∀ n, (coreOf t n).testing = (coreOf s n).testing
  waits : (coreOf t (2 * (c / 2))).retiring = true → ∃ m ∈ allTeams t, m.saved = false ∧ (m.core / 2 = c / 2 ∨ m.twin = true)
  leaves : ∀ p, ownerOf s c = some p → (coreOf t (2 * (c / 2))).retiring = false → ∀ q, findPart t p.num = some q → c / 2 ∉ q.twins

theorem coreKey_testing {a b : Core} (h : coreKey a = coreKey b) : a.testing = b.testing := congrArg Prod.fst h

theorem coreKey_retiring {a b : Core} (h : coreKey a = coreKey b) : a.retiring = b.retiring := congrArg (fun k => k.2.2) h

theorem devKey_retired {a b : Device} (h : devKey a = devKey b) : a.retired = b.retired := (congrArg Device.retired h :)

/-- A core whose twin is retired no longer. -/
def notRetiring (s : State) (c : Nat) : State := modCore s c (fun x => { x with retiring := false })

theorem coreOf_notRetiring (s : State) (c n : Nat) :
    coreOf (notRetiring s c) n = if n = c then { coreOf s c with retiring := false } else coreOf s n :=
  coreOf_modCore s c n _ (fun _ => rfl)

/-- A partition that a twin has left (R270). -/
def leftBy (tw : Nat) (q : Partition) : Partition := { q with twins := q.twins.filter (fun t => t != tw), retiredF := true }

theorem finishRetire_done (s : State) (c : Nat) (hr : (coreOf s (2 * (c / 2))).retiring = true) :
    RetireDone s (finishRetire s c) c := by
  unfold finishRetire
  extract_lets tw busy off s1
  split
  · next h =>
    refine ⟨rfl, fun _ => rfl, fun _ => ?_, fun p _ h0 => absurd (hr.symm.trans h0) (by simp)⟩
    have hb : busy (2 * tw) = true ∨ busy (2 * tw + 1) = true := by simpa [tw, hr] using h
    rcases hb with hb | hb <;> obtain ⟨m, hm, hs, hc⟩ := residentOn_team hb <;> refine ⟨m, hm, hs, ?_⟩ <;>
      exact hc.imp (fun e => by omega) And.left
  · have h1 : s1 = notRetiring (notRetiring s (2 * tw)) (2 * tw + 1) := rfl
    have key1 : partsKey s1 = partsKey s := rfl
    have test1 : ∀ n, (coreOf s1 n).testing = (coreOf s n).testing := fun n => by
      rw [h1, coreOf_notRetiring, coreOf_notRetiring, coreOf_notRetiring]
      split
      · next e => rw [e, if_neg (by omega)]
      · split
        · next e => rw [e]
        · rfl
    have ret1 : (coreOf s1 (2 * (c / 2))).retiring = false := by
      rw [h1, coreOf_notRetiring, if_neg (by omega), coreOf_notRetiring, if_pos rfl]
    split
    · next h =>
      refine ⟨rfl, test1, fun h0 => absurd (ret1.symm.trans h0) (by simp), fun p hp => ?_⟩
      have := ownerOf_key key1 c
      rw [h, hp] at this
      exact absurd this (by simp)
    · next p1 h =>
      extract_lets s2 s3
      have kept : Handled s2 (severityUnit s3 p1.num 0x27 c 0 0 []) := .severityUnit (.postEvent (.refl s2) _ _ _) _ _ _ _ _ _
      refine ⟨devKey_retired kept.dev, fun n => (coreKey_testing (kept.core n)).trans (test1 n), fun h0 => ?_, fun p hp _ q hq => ?_⟩
      · exact absurd (((coreKey_retiring (kept.core _)).trans ret1).symm.trans h0) (by simp)
      · have ho := ownerOf_key key1 c
        rw [h, hp] at ho
        have hn : p1.num = p.num := congrArg Prod.fst (Option.some.inj ho)
        have hk := findPart_key kept.parts p.num
        have h2 : findPart s2 p.num = (findPart s1 p.num).map (leftBy tw) := by
          rw [← hn]
          exact (findPart_modPart s1 p1.num p1.num (leftBy tw) (fun _ => rfl) (fun _ => rfl)).trans (if_pos rfl)
        rw [hq, h2, Option.map_some, Option.map_map] at hk
        obtain ⟨q1, -, e⟩ := Option.map_eq_some_iff.mp hk.symm
        have ht : q.twins = q1.twins.filter (fun t => t != tw) := (congrArg (fun k => k.2.1) e).symm
        rw [ht]
        simp [tw]

/-- A twin that fails its self-test is retired, at once or when its teams are saved (R270). -/
theorem retireTwin_done (s : State) (c : Nat) (dead : List GroupId) :
    c / 2 ∈ (retireTwin s c dead).dev.retired ∧ ∃ u, RetireDone u (retireTwin s c dead) c ∧ partsKey u = partsKey s ∧
      ∀ n, (coreOf u n).testing = (coreOf s n).testing := by
  unfold retireTwin
  extract_lets tw lost s1 s2 on s3
  have h0 : Handled s s1 := .foldl _ (fun u x => .killGroup (.refl u) x) _ _
  have h1 : Handled s s2 := (h0.preemptCore _).preemptCore _
  clear_value s2
  have on_ : ∀ u k n, coreOf (on u k) n = if n = k then { coreOf u k with retiring := true } else coreOf u n :=
    fun u k n => coreOf_modCore u k n _ (fun _ => rfl)
  have hr : (coreOf s3 (2 * (c / 2))).retiring = true := by
    rw [show s3 = on (on s2 (2 * tw)) (2 * tw + 1) from rfl, on_, if_neg (by omega), on_, if_pos rfl]
  have key : partsKey s3 = partsKey s := h1.parts
  have test : ∀ n, (coreOf s3 n).testing = (coreOf s n).testing := fun n => by
    refine Eq.trans ?_ (coreKey_testing (h1.core n))
    rw [show s3 = on (on s2 (2 * tw)) (2 * tw + 1) from rfl, on_, on_, on_]
    split
    · next e => rw [e, if_neg (by omega)]
    · split
      · next e => rw [e]
      · rfl
  clear_value s3
  have done := finishRetire_done { s3 with dev := { s3.dev with retired := s3.dev.retired ++ [tw] } } c hr
  refine ⟨?_, _, done, key, test⟩
  rw [done.retired]
  simp [tw]

/-! Counts after a pause (R269, R271). -/

/-- A team has a group present on core `c`, as a test. -/
def teamHere (s : State) (c part task team : Nat) : Bool :=
  ((allGroups s).filter (fun g => g.core == c && !g.saved)).any
    (fun g => g.id.part == part && g.id.task == task && g.id.team == team)

theorem teamHere_iff (s : State) (c part task team : Nat) : teamHere s c part task team = true ↔ teamOn s c part task team := by
  simp only [teamHere, teamOn, List.any_eq_true, List.mem_filter, Bool.and_eq_true, beq_iff_eq, Bool.not_eq_true']
  constructor
  · rintro ⟨h, ⟨hm, h1, h2⟩, ⟨h3, h4⟩, h5⟩
    exact ⟨h, hm, h1, h2, h3, h4, h5⟩
  · rintro ⟨h, hm, h1, h2, h3, h4, h5⟩
    exact ⟨h, ⟨hm, h1, h2⟩, ⟨h3, h4⟩, h5⟩

/-- A group whose counts start again. -/
def counted (now : Word) (h : Group) : Group := { h with waits := if h.ended then [(.ended, now)] else [], drainAt := now }

/-- A team whose counts start again. -/
def teamCounted (now : Word) (m : Team) : Team := { m with startGtc := now }

theorem restartCounts_eq (s : State) (c : Nat) :
    restartCounts s c = modGroups (modTeams s (fun t => teamHere s c t.part t.task t.index) (teamCounted s.dev.gtc))
      (fun h => teamHere s c h.id.part h.id.task h.id.team) (counted s.dev.gtc) := rfl

@[simp] theorem coreOf_restartCounts (s : State) (c n : Nat) : coreOf (restartCounts s c) n = coreOf s n := rfl

@[simp] theorem ownerOf_restartCounts (s : State) (c n : Nat) : ownerOf (restartCounts s c) n = ownerOf s n := rfl

@[simp] theorem ownerOf_modCore (s : State) (c n : Nat) (f : Core → Core) : ownerOf (modCore s c f) n = ownerOf s n := rfl

theorem findGroup_restartCounts (s : State) (c : Nat) (id : GroupId) (g : Group) (h : findGroup s id = some g) :
    (teamOn s c id.part id.task id.team → findGroup (restartCounts s c) id = some (counted s.dev.gtc g)) ∧
    (¬teamOn s c id.part id.task id.team → findGroup (restartCounts s c) id = some g) := by
  obtain rfl := findGroup_id h
  rw [← teamHere_iff, restartCounts_eq, findGroup_modGroups _ _ (counted s.dev.gtc) (fun _ => rfl) (fun _ => rfl),
    show findGroup (modTeams s _ _) g.id = findGroup s g.id from rfl, h, Option.map_some]
  exact ⟨fun hc => by rw [if_pos hc], fun hc => by rw [if_neg hc]⟩

theorem findTeam_restartCounts (s : State) (c part task team : Nat) (m : Team) (h : findTeam s part task team = some m) :
    (teamOn s c part task team → findTeam (restartCounts s c) part task team = some (teamCounted s.dev.gtc m)) ∧
    (¬teamOn s c part task team → findTeam (restartCounts s c) part task team = some m) := by
  obtain ⟨rfl, rfl, rfl⟩ := findTeam_key h
  rw [← teamHere_iff, restartCounts_eq, show ∀ u p f, findTeam (modGroups u p f) m.part m.task m.index = findTeam u m.part m.task m.index
    from fun _ _ _ => rfl, findTeam_modTeams s _ (teamCounted s.dev.gtc) (fun _ => ⟨rfl, rfl, rfl⟩) (fun _ => rfl), h, Option.map_some]
  exact ⟨fun hc => by rw [if_pos hc], fun hc => by rw [if_neg hc]⟩

/-! The sc clocks (R184). -/

/-- A core at its raised clock. -/
theorem foldl_raise (l : List Nat) (hl : l.Nodup) (s : State) (f : State → Nat → State)
    (hf : ∀ u n, f u n = { u with cores := (f u n).cores } ∧ ∀ j, coreOf (f u n) j =
      if j = n then { coreOf u n with clock := raisedClock u.dev.sliceM n (coreOf u n).clock } else coreOf u j) :
    l.foldl f s = { s with cores := (l.foldl f s).cores } ∧ ∀ j, coreOf (l.foldl f s) j =
      if j ∈ l then { coreOf s j with clock := raisedClock s.dev.sliceM j (coreOf s j).clock } else coreOf s j := by
  induction l generalizing s with
  | nil => exact ⟨rfl, fun j => by simp⟩
  | cons n r ih =>
    obtain ⟨hn, hr⟩ := List.nodup_cons.mp hl
    obtain ⟨hrest, hcore⟩ := hf s n
    obtain ⟨irest, icore⟩ := ih hr (f s n)
    have hd : (f s n).dev = s.dev := by rw [hrest]
    refine ⟨?_, fun j => ?_⟩
    · rw [List.foldl_cons, irest]
      rw [hrest]
    · rw [List.foldl_cons, icore, hcore, hd]
      by_cases e : j = n
      · subst e
        simp [hn]
      · simp [e]

theorem scClockRaise_raises (s : State) :
    ∃ t, execScClockRaise s = .next t ∧ t = { s with cores := t.cores } ∧
      ∀ n, n < 216 → coreOf t n = { coreOf s n with clock := raisedClock s.dev.sliceM n (coreOf s n).clock } := by
  obtain ⟨hrest, hcore⟩ := foldl_raise (List.range 216) List.nodup_range s (fun u n =>
    let l := (coreOf u n).clock
    let m := raisedClock u.dev.sliceM n l
    if m = l then u else modCore u n (fun c => { c with clock := m })) (fun u n => by
      dsimp only
      split
      · next h =>
        refine ⟨rfl, fun j => ?_⟩
        split
        · next e => rw [h, e]
        · rfl
      · exact ⟨rfl, fun j => coreOf_modCore u n j _ (fun _ => rfl)⟩)
  exact ⟨_, rfl, hrest, fun n hn => (hcore n).trans (if_pos (List.mem_range.mpr hn))⟩

/-- A core that lags no slice of its die keeps its clock. -/
theorem raisedClock_keeps (m : Sparse (BitVec 48)) (n : Nat) (hn : n < 216) (l : BitVec 48)
    (h : ∀ e ∈ m, e.1 / 64 = n / 108 → ¬ lags l e.2) : raisedClock m n l = l := by
  unfold raisedClock
  have hd : (if n < 108 then 0 else 1) = n / 108 := by split <;> omega
  rw [hd]
  induction m with
  | nil => rfl
  | cons e r ih =>
    rw [List.foldl_cons, if_neg, ih (fun x hx => h x (List.mem_cons_of_mem _ hx))]
    intro hc
    simp only [Bool.and_eq_true, beq_iff_eq, decide_eq_true_eq] at hc
    exact h e List.mem_cons_self hc.1.1 ⟨hc.1.2, hc.2⟩

/-- A core that lags the one slice takes its clock. -/
theorem raisedClock_raises (k n : Nat) (hn : n < 216) (l m : BitVec 48) (hk : k / 64 = n / 108) (h : lags l m) :
    raisedClock [(k, m)] n l = m := by
  unfold raisedClock
  have hd : (if n < 108 then 0 else 1) = n / 108 := by split <;> omega
  rw [hd, List.foldl_cons, if_pos, List.foldl_nil]
  simp only [Bool.and_eq_true, beq_iff_eq, decide_eq_true_eq]
  exact ⟨⟨hk, h.1⟩, h.2⟩

/-! The victims of an error (R264, R269). -/

/-- A group on the failing core, in whose state the failing bits lie, is a victim. -/
theorem hitGroups_mem {s : State} {c k : Nat} {ids : List GroupId} {id : GroupId} {g : Group} (hid : id ∈ ids)
    (hg : findGroup s id = some g) (hc : g.core = c) (hs : g.saved = false) : id ∈ hitGroups s c k ids := by
  obtain rfl := findGroup_id hg
  have hm := findGroup_mem hg
  have here : g ∈ (allGroups s).filter (fun g => ids.contains g.id && g.core == c && !g.saved) := by
    simp [List.mem_filter, hm, hid, hc, hs]
  unfold hitGroups
  dsimp only
  split
  · refine List.mem_map_of_mem (List.mem_filter.mpr ⟨hm, ?_⟩)
    exact List.any_eq_true.mpr ⟨g, here, by simp⟩
  · exact List.mem_map_of_mem here

/-- An error in a core structure with action 3 kills its victims (R264). -/
theorem severityUnit_kills {s : State} {part source ctx addr : Nat} {victims : List GroupId} {p : Partition} {id : GroupId}
    {g : Group} (hp : findPart s part = some p) (ha : sevAction p 0x21 source = 3) (hid : id ∈ victims)
    (hg : findGroup s id = some g) (he : g.ended = false) :
    ∃ g', findGroup (severityUnit s part 0x21 source ctx addr victims) id = some g' ∧ g'.killed = true := by
  have kills : ∀ u, Posted s u → ∃ g', findGroup (victims.foldl killGroup u) id = some g' ∧ g'.killed = true := fun u h =>
    foldl_killGroup_kills victims u id g ((findGroup_congr h.g h.groups id).trans hg) (.inr ⟨hid, he⟩)
  unfold severityUnit severity
  rw [hp]
  dsimp only [noneRec]
  rw [ha]
  exact kills _ (.ite (.postEvent (.refl s) part _ _) (.refl s))

end Sys2Proof.Machine
end

section
/-! PROOFS. O44: the clock, the sensors, the trips, the errors and the self-tests of the cores. -/
namespace Sys2Proof.Claims

open Sys2Proof Sys2Proof.Machine

/-- One core changes by `f`, and nothing else. -/
theorem modCore_becomes (s : State) (c : Nat) (f : Core → Core) (hf : ∀ k, (f k).num = k.num) :
    CoreBecomes s (modCore s c f) c (f (coreOf s c)) :=
  ⟨(coreOf_modCore s c c f hf).trans (if_pos rfl), fun n hn => (coreOf_modCore s c n f hf).trans (if_neg hn), rfl⟩

/-- HOT of a core at a temperature (R57): the hysteresis of its partition's T_hot; without a partition it stays. -/
def hotAt (o : Option Partition) (t : BitVec 16) (c : Core) : Bool :=
  match o with
  | none => c.hot
  | some p => if 4 * (p.thot.toNat : Int) ≤ t.toInt then true else if t.toInt ≤ 4 * ((p.thot.toNat : Int) - 6) then false else c.hot

/-- TEMP and HOT (R26, R57). -/
theorem tempRefresh_places (s : State) (hc : s.inp.core < 216) :
    let c := s.inp.core
    let x := coreOf s c
    let temp := BitVec.ofNat 16 s.inp.word.toNat
    ∃ hot, PlaceGives .tempRefresh s c { x with temp := temp, hot := hot } ∧ (ownerOf s c = none → hot = x.hot) ∧
      ∀ p, ownerOf s c = some p →
        (4 * (p.thot.toNat : Int) ≤ temp.toInt → hot = true) ∧
        (temp.toInt ≤ 4 * ((p.thot.toNat : Int) - 6) → hot = false) ∧
        (4 * ((p.thot.toNat : Int) - 6) < temp.toInt → temp.toInt < 4 * (p.thot.toNat : Int) → hot = x.hot) := by
  intro c x temp
  have he : execTempRefresh s =
      .next (notePlace (modCore s c (fun k => { k with temp := temp, hot := hotAt (ownerOf s c) temp k })) c) := if_neg (by omega)
  refine ⟨hotAt (ownerOf s c) temp x, ⟨_, he, notePlace_placed s c _ (fun _ => rfl)⟩, fun h => by rw [h]; rfl, fun p hp => ?_⟩
  rw [hp]
  refine ⟨fun h => if_pos h, fun h => ?_, fun h1 h2 => ?_⟩
  · exact (if_neg (by omega)).trans (if_pos h)
  · exact (if_neg (by omega)).trans (if_neg (by omega))

/-- PROC and DROOPS (R26). -/
theorem monitorRefresh_sets (s : State) (hc : s.inp.core < 216) :
    CoreGives .monitorRefresh s s.inp.core { coreOf s s.inp.core with
      proc := BitVec.ofNat 32 s.inp.word.toNat
      droops := BitVec.ofNat 8 (min 255 ((coreOf s s.inp.core).droopTimes.filter (fun t => s.dev.gtc.toNat < t + 1000000)).length) } := by
  refine ⟨_, if_neg (by omega), ?_⟩
  rw [min_comm]
  exact modCore_becomes s s.inp.core _ (by intro _; rfl)

/-- DROOPY after the fourth droop event within 1 ms (R57). -/
theorem voltageDroopEvent_places (s : State) (hc : s.inp.core < 216) :
    let x := coreOf s s.inp.core
    let droops := x.droopTimes.filter (fun t => s.dev.gtc.toNat ≤ t + 1000000) ++ [s.dev.gtc.toNat]
    PlaceGives .voltageDroopEvent s s.inp.core { x with droopTimes := droops, droopy := x.droopy || decide (4 ≤ droops.length) } := by
  refine ⟨_, if_neg (by omega), ?_⟩
  exact notePlace_placed s _ _ (fun _ => rfl)

/-- DROOPY ends 4 ms after the latest event (R57), not before. -/
theorem droopyExit_places (s : State) :
    let x := coreOf s s.inp.core
    let now := s.dev.gtc.toNat
    (x.droopy = true → (∀ t ∈ x.droopTimes, t + 4000000 ≤ now) → PlaceGives .droopyExit s s.inp.core { x with droopy := false }) ∧
    (x.droopy = false ∨ (∃ t ∈ x.droopTimes, now < t + 4000000) → exec .droopyExit s = .next s) := by
  intro x now
  refine ⟨fun h1 h2 => ⟨_, if_neg ?_, notePlace_placed s _ _ (fun _ => rfl)⟩, fun h => if_pos ?_⟩
  · have : x.droopTimes.all (fun t => decide (t + 4000000 ≤ now)) = true := by simpa using h2
    rw [h1, this]
    decide
  · rcases h with h | ⟨t, ht, hn⟩
    · rw [h]
      rfl
    · have : x.droopTimes.all (fun t => decide (t + 4000000 ≤ now)) = false := by
        simp only [List.all_eq_false, decide_eq_true_eq]
        exact ⟨t, ht, by omega⟩
      rw [this, Bool.not_false, Bool.or_true]

/-- The trip of a core stops issue everywhere, and is told to the owner of the device (R25). -/
theorem thermalTrip_stops (s : State) :
    ∃ t r, exec .thermalTrip s = .next t ∧ t.dev.tripped = true ∧ canIssue t = false ∧
      t.dev.mgmtOut = s.dev.mgmtOut ++ [r] ∧ r.type = 0x0009 ∧ r.source = s.inp.core := by
  have posted : Posted s (((allParts s).map Partition.num).foldl (fun u n => postEvent u n (noneRec 0x0009 s.inp.core 0 0 0) false) s) :=
    .foldl _ (fun u n => .postEvent (.refl u) n _ false) _ s
  have out : _ = s.dev.mgmtOut := (congrArg (fun u : State => u.dev.mgmtOut) posted.rest :)
  refine ⟨_, _, rfl, rfl, ?_, congrArg (· ++ [_]) out, rfl, rfl⟩
  simp [canIssue]

/-- One element more in a list that holds each once. -/
theorem insert_eq_if (k : Nat) (l : List Nat) : l.insert k = if k ∈ l then l else k :: l := by
  by_cases h : k ∈ l <;> simp [h]

/-- The structures under test after corrected errors `errs` of structure `k`: the 16th starts a test (R269). -/
def testAfter (errs : List (Nat × Nat)) (k : Nat) (l : List Nat) : List Nat :=
  if 16 ≤ (errs.filter (fun e => e.1 == k)).length then l.insert k else l

/-- The errors of a core, with one more of structure `k` at a time (R269). -/
def errsAfter (now k : Nat) (l : List (Nat × Nat)) : List (Nat × Nat) :=
  l.filter (fun e => e.1 != k || decide (now < e.2 + 2 ^ 30)) ++ [(k, now)]

/-- A core with one more corrected error. -/
def erred (now k : Nat) (c : Core) : Core :=
  { c with ceTimes := errsAfter now k c.ceTimes, testing := testAfter (errsAfter now k c.ceTimes) k c.testing }

/-- A corrected error counts, and the 16th of its structure within 2^30 ns starts a self-test (R269). -/
theorem ceCore_counts (s : State) :
    let c := s.inp.core
    let x := coreOf s c
    let errs := ceList s c s.inp.idx
    let test := testAfter errs s.inp.idx x.testing
    ∃ t, exec .ceCore s = .next t ∧ (coreOf t c).testing = test ∧
      ((ownerOf s c = none ∨ ∃ p, ownerOf s c = some p ∧ findPart s p.num = some p ∧ sevAction p 0x20 c = 0) →
        CoreBecomes s t c { x with ceTimes := errs, testing := test }) := by
  intro c x errs test
  have gives : ∀ u, execCeCore s = .next (modCore u c (erred s.dev.gtc.toNat s.inp.idx)) → Handled s u →
      (coreOf (modCore u c (erred s.dev.gtc.toNat s.inp.idx)) c).testing = test := fun u _ h => by
    have hk := h.core c
    simp only [coreKey, Prod.mk.injEq] at hk
    rw [(modCore_becomes u c (erred s.dev.gtc.toNat s.inp.idx) (fun _ => rfl)).it]
    simp only [erred, hk.1, hk.2.1]
    rfl
  have same : ∀ u, u = s → CoreBecomes s (modCore u c (erred s.dev.gtc.toNat s.inp.idx)) c { x with ceTimes := errs, testing := test } :=
    fun u h => by
      rw [h]
      exact modCore_becomes s c (erred s.dev.gtc.toNat s.inp.idx) (fun _ => rfl)
  cases ho : ownerOf s c with
  | none =>
    have he : execCeCore s = .next (modCore s c (erred s.dev.gtc.toNat s.inp.idx)) := by
      simp only [execCeCore]
      rw [show ownerOf s s.inp.core = none from ho]
      rfl
    exact ⟨_, he, gives s he (.refl s), fun _ => same s rfl⟩
  | some p =>
    have he : execCeCore s = .next (modCore (severityUnit s p.num 0x20 c (ctxOf s (hitGroups s c s.inp.idx s.inp.groups)) s.inp.va
        (hitGroups s c s.inp.idx s.inp.groups)) c (erred s.dev.gtc.toNat s.inp.idx)) := by
      simp only [execCeCore]
      rw [show ownerOf s s.inp.core = some p from ho]
      rfl
    refine ⟨_, he, gives _ he (.severityUnit (.refl s) _ _ _ _ _ _), fun h => same _ ?_⟩
    rcases h with h | ⟨q, hq, hf, ha⟩
    · exact absurd h (by simp)
    · obtain rfl := Option.some.inj hq
      exact severityUnit_none hf ha (by decide)

/-- An uncorrectable error starts a self-test, and with action 3 kills the groups that it hit (R264, R269). -/
theorem ueCore_tests (s : State) :
    let c := s.inp.core
    let x := coreOf s c
    let more := x.testing.insert s.inp.idx
    ∃ t, exec .ueCore s = .next t ∧ (coreOf t c).testing = more ∧
      (ownerOf s c = none → CoreBecomes s t c { x with testing := more }) ∧
      ∀ p, ownerOf s c = some p → findPart s p.num = some p → sevAction p 0x21 c = 3 →
        ∀ id ∈ s.inp.groups, ∀ g, findGroup s id = some g → g.core = c → g.saved = false → g.ended = false →
          ∃ g', findGroup t id = some g' ∧ g'.killed = true := by
  intro c x more
  cases ho : ownerOf s c with
  | none =>
    have he : execUeCore s = .next (modCore s c (fun k => { k with testing := k.testing.insert s.inp.idx })) := by
      simp only [execUeCore]
      rw [show ownerOf s s.inp.core = none from ho]
    have hb := modCore_becomes s c (fun k => { k with testing := k.testing.insert s.inp.idx }) (fun _ => rfl)
    exact ⟨_, he, by rw [hb.it], fun _ => hb, fun p hp => absurd hp (by simp)⟩
  | some p =>
    generalize hv : hitGroups s c s.inp.idx s.inp.groups = victims
    have he : execUeCore s = .next (raiseUE s p.num c s.inp.idx (ctxOf s victims) s.inp.va victims) := by
      simp only [execUeCore]
      rw [show ownerOf s s.inp.core = some p from ho, ← hv]
    have hs : Handled s (severityUnit s p.num 0x21 c (ctxOf s victims) s.inp.va victims) := .severityUnit (.refl s) _ _ _ _ _ _
    refine ⟨_, he, ?_, fun h => absurd h (by simp), fun q hq hf ha id hid g hg hcore hsaved hended => ?_⟩
    · refine (congrArg Core.testing (modCore_becomes _ c _ (by intro _; rfl)).it).trans ?_
      exact congrArg (fun l => l.insert s.inp.idx) (coreKey_testing (hs.core c))
    · obtain rfl := Option.some.inj hq
      have hin : id ∈ victims := hv ▸ hitGroups_mem hid hg hcore hsaved
      exact severityUnit_kills hf ha hin hg hended

/-- A core at the end of the test of structure `k` (R269). -/
def tested (k : Nat) (c : Core) : Core :=
  { c with testing := c.testing.filter (fun j => j != k), ceTimes := c.ceTimes.filter (fun e => e.1 != k) }

/-- The end of a self-test: the counts start again, and a twin whose test has failed is retired (R269, R270). -/
theorem selfTest_runs (s : State) (hk : s.inp.idx ∈ (coreOf s s.inp.core).testing) :
    exec .selfTestComplete s = .next (if s.inp.flag = true
      then retireTwin (restartCounts (modCore s s.inp.core (tested s.inp.idx)) s.inp.core) s.inp.core s.inp.groups
      else restartCounts (modCore s s.inp.core (tested s.inp.idx)) s.inp.core) :=
  if_neg (by simpa using hk)

/-- A self-test that passes ends the pause, which counts towards no watchdog (R269, R271). -/
theorem selfTest_passes (s : State) (hk : s.inp.idx ∈ (coreOf s s.inp.core).testing) (hf : s.inp.flag = false) :
    let c := s.inp.core
    let x := coreOf s c
    ∃ t, exec .selfTestComplete s = .next t ∧
      coreOf t c = { x with testing := x.testing.filter (fun j => j != s.inp.idx), ceTimes := x.ceTimes.filter (fun e => e.1 != s.inp.idx) } ∧
      (∀ n, n ≠ c → coreOf t n = coreOf s n) ∧
      t = { s with cores := t.cores, g := t.g, groups := t.groups, tm := t.tm, teams := t.teams } ∧
      (∀ id g, findGroup s id = some g →
        (teamOn s c id.part id.task id.team → findGroup t id = some { g with
          waits := if g.ended = true then [(.ended, s.dev.gtc)] else [], drainAt := s.dev.gtc }) ∧
        (¬teamOn s c id.part id.task id.team → findGroup t id = some g)) ∧
      ∀ part task team m, findTeam s part task team = some m →
        (teamOn s c part task team → findTeam t part task team = some { m with startGtc := s.dev.gtc }) ∧
        (¬teamOn s c part task team → findTeam t part task team = some m) := by
  intro c x
  have he := selfTest_runs s hk
  rw [if_neg (by simp [hf])] at he
  have hb := modCore_becomes s c (tested s.inp.idx) (fun _ => rfl)
  exact ⟨_, he, hb.it, hb.others, rfl, fun id g h => findGroup_restartCounts (modCore s c (tested s.inp.idx)) c id g h,
    fun part task team m h => findTeam_restartCounts (modCore s c (tested s.inp.idx)) c part task team m h⟩

/-- A self-test that fails retires the twin, at once or when its teams are saved (R270). -/
theorem selfTest_fails (s : State) (hk : s.inp.idx ∈ (coreOf s s.inp.core).testing) (hf : s.inp.flag = true) :
    let c := s.inp.core
    ∃ t, exec .selfTestComplete s = .next t ∧ c / 2 ∈ t.dev.retired ∧
      (coreOf t c).testing = (coreOf s c).testing.filter (fun j => j != s.inp.idx) ∧
      ((coreOf t (c / 2 * 2)).retiring = true → ∃ m ∈ allTeams t, m.saved = false ∧ (m.core / 2 = c / 2 ∨ m.twin = true)) ∧
      ∀ p, ownerOf s c = some p → (coreOf t (c / 2 * 2)).retiring = false →
        ∀ p', findPart t p.num = some p' → c / 2 ∉ p'.twins := by
  intro c
  have he := selfTest_runs s hk
  rw [if_pos hf] at he
  have hb := modCore_becomes s c (tested s.inp.idx) (fun _ => rfl)
  obtain ⟨hr, u, done, key, test⟩ := retireTwin_done (restartCounts (modCore s c (tested s.inp.idx)) c) c s.inp.groups
  generalize retireTwin (restartCounts (modCore s c (tested s.inp.idx)) c) c s.inp.groups = t at he hr done
  rw [Nat.mul_comm (c / 2) 2]
  refine ⟨t, he, hr, ?_, done.waits, fun p hp => ?_⟩
  · rw [done.testing, test, coreOf_restartCounts, hb.it]
    rfl
  · have ho := ownerOf_key key c
    rw [ownerOf_restartCounts, ownerOf_modCore, hp] at ho
    obtain ⟨q, hq, e⟩ := Option.map_eq_some_iff.mp ho
    rw [← show q.num = p.num from congrArg Prod.fst e]
    exact done.leaves q hq

/-- Settles O44: each clause is what its event's meaning does to the one core, or the lemma about the self-test or the sc clocks. -/
theorem sensorsAndReliability : Obligations.SensorsAndReliability := by
  unfold Obligations.SensorsAndReliability
  intro s
  have droopy := droopyExit_places s
  refine ⟨fun hc => ⟨tempRefresh_places s hc, monitorRefresh_sets s hc, voltageDroopEvent_places s hc⟩, droopy.1, droopy.2,
    thermalTrip_stops s, ⟨_, rfl, rfl⟩, ?_, ?_, fun h => if_pos (by simpa using h), selfTest_passes s, selfTest_fails s, ?_, ?_, ?_⟩
  · simpa only [testAfter, insert_eq_if] using ceCore_counts s
  · simpa only [insert_eq_if] using ueCore_tests s
  · obtain ⟨t, he, hrest, hcore⟩ := scClockRaise_raises s
    refine ⟨t, he, hrest, fun n hn => ⟨fun h => ?_, fun k m hm hk hl => ?_⟩⟩
    · rw [hcore n hn, raisedClock_keeps _ n hn _ h]
    · rw [hcore n hn, hm, raisedClock_raises k n hn _ m hk hl]
  · by_cases h : (s.dev.created || s.dev.gtcSet || s.dev.recovery) = true
    · refine ⟨s, if_pos h, rfl, fun h0 => absurd h (by simp [h0]), fun _ => rfl⟩
    · refine ⟨_, if_neg h, rfl, fun _ => ⟨rfl, rfl⟩, fun h0 => absurd ?_ h⟩
      rcases h0 with h0 | h0 | h0 <;> simp [h0]
  · by_cases h : 200 * s.inp.size < 1000000 * s.inp.corr.natAbs
    · exact ⟨s, if_pos h, rfl, fun h0 => absurd h0 (by omega), fun _ => rfl⟩
    · exact ⟨_, if_neg h, rfl, fun _ => rfl, fun h0 => absurd h0 h⟩

end Sys2Proof.Claims
end

section
/-! PROOFS. Accesses on behalf of a quiet partition, one without revisions, drops, moves, pre-copy and watches: what a load reads, a
store and an atomic write, and that nothing but the L1s, the L2 and the bytes changes (R109, R149, R164, R181). -/
namespace Sys2Proof.Machine

open Sys2Proof.Claims

/-- The machine without what an access changes: the L1s, the partitions' stamps and dirty lines, the bytes, the L2. -/
def accKey (s : State) : State :=
  { s with cores := [], pt := noPartition, parts := [], mem := [], dev := { s.dev with l2 := [] } }

/-- `t` is `s` after accesses that a partition takes no notice of. -/
structure Accessed (s t : State) (part : Nat) (p : Partition) : Prop where
  rest : accKey t = accKey s
  here : findPart t part = some p

theorem Accessed.g {s t : State} {part : Nat} {p : Partition} (h : Accessed s t part p) : t.g = s.g :=
  (congrArg State.g h.rest :)

theorem Accessed.tm {s t : State} {part : Nat} {p : Partition} (h : Accessed s t part p) : t.tm = s.tm :=
  (congrArg State.tm h.rest :)

theorem Accessed.inp {s t : State} {part : Nat} {p : Partition} (h : Accessed s t part p) : t.inp = s.inp :=
  (congrArg State.inp h.rest :)

/-- The units of the device other than the L2 are as they were. -/
theorem Accessed.dev {s t : State} {part : Nat} {p : Partition} (h : Accessed s t part p) :
    { t.dev with l2 := [] } = { s.dev with l2 := [] } := (congrArg State.dev h.rest :)

theorem Accessed.respOut {s t : State} {part : Nat} {p : Partition} (h : Accessed s t part p) : t.dev.respOut = s.dev.respOut :=
  (congrArg Device.respOut h.dev :)

theorem Accessed.sliceM {s t : State} {part : Nat} {p : Partition} (h : Accessed s t part p) : t.dev.sliceM = s.dev.sliceM :=
  (congrArg Device.sliceM h.dev :)

theorem Accessed.rdmaOut {s t : State} {part : Nat} {p : Partition} (h : Accessed s t part p) : t.dev.rdmaOut = s.dev.rdmaOut :=
  (congrArg Device.rdmaOut h.dev :)

theorem Accessed.poison {s t : State} {part : Nat} {p : Partition} (h : Accessed s t part p) : t.dev.poison = s.dev.poison :=
  (congrArg Device.poison h.dev :)

theorem Accessed.trans {s t u : State} {part : Nat} {p q : Partition} (h : Accessed s t part p) (k : Accessed t u part q) :
    Accessed s u part q := ⟨k.rest.trans h.rest, k.here⟩

theorem Accessed.refl {s : State} {part : Nat} {p : Partition} (h : findPart s part = some p) : Accessed s s part p := ⟨rfl, h⟩

/-! The parts of an access on behalf of a quiet partition. -/

section
variable {s : State} {part : Nat} {p : Partition} (q : QuietPart s part p)
include q

theorem quiet_accessed {t : State} (h : Accessed s t part p) : QuietPart t part p := ⟨h.here, q.still⟩

theorem findRev_quiet (num : Nat) : findRev p num = none := by simp [findRev, q.still.1]

theorem viewKey_quiet (ctx rev va key : Nat) : viewKey p ctx rev va key = key := by
  simp [viewKey, viewFrame, findRev_quiet q]

theorem writeSide_quiet (ctx rev va : Nat) : writeSide p ctx rev va = 0 := by simp [writeSide, findRev_quiet q]

theorem parentSides_quiet (ctx side va key : Nat) : parentSides s part ctx side va key = [] := by
  simp [parentSides, q.here, q.still.1]

/-- Nothing holds back a write of a quiet partition. -/
theorem writeGate_quiet (ctx rev va key : Nat) (revcap : Bool) : writeGate s part ctx rev va key revcap = none := by
  unfold writeGate
  rw [q.here]
  simp [writeSide_quiet q, parentSides_quiet q, inTransit, q.still.2.2.1]

/-- A write of a quiet partition makes no copies. -/
theorem prepWrite_quiet (task ctx rev va key : Nat) (revcap : Bool) (bits : BitVec 32) :
    prepWrite s part task ctx rev va key revcap bits = .ok key s := by
  unfold prepWrite
  rw [q.here]
  simp only [writeSide_quiet q, parentSides_quiet q, writeGate_quiet q, findRev_quiet q, ensureAnc, List.find?_nil, markParent,
    List.foldl_nil]

theorem watchWrite_quiet (m0 : Memory) (key len depth source : Nat) (publish : Bool) :
    watchWrite s part m0 key len depth source publish = s := by
  unfold watchWrite
  rw [q.here]
  simp [q.still.2.2.2.2]

theorem latestOpen_quiet : latestOpen p = false := by simp [latestOpen, q.still.1]

theorem stampWrite_accessed (key len source : Nat) : Accessed s (stampWrite s part key len source) part p := by
  refine ⟨rfl, ?_⟩
  unfold stampWrite
  rw [findPart_modPart, if_pos rfl, q.here, Option.map_some, latestOpen_quiet q]
  · rfl
  · intro p
    dsimp only
    split <;> rfl
  · intro p
    dsimp only
    split <;> rfl

theorem markDirty_accessed (key : Nat) : Accessed s (markDirty s part key) part p := by
  refine ⟨rfl, ?_⟩
  unfold markDirty markDirtyRange
  rw [findPart_modPart, if_pos rfl, q.here, Option.map_some, q.still.2.2.2.1]
  · rfl
  · intro p
    dsimp only
    split <;> rfl
  · intro p
    dsimp only
    split <;> rfl

end

section
variable {s : State} {w : Who} {p : Partition} (q : QuietPart s w.part p)
include q

theorem readKey_quiet (l : Loc) : readKey s w l = l.addr := by
  unfold readKey
  rw [q.here]
  exact viewKey_quiet q _ _ _ _

theorem pubKey_quiet (l : Loc) : pubKey s w l = l.addr := by
  unfold pubKey
  rw [q.here]
  simp [writeSide_quiet q]

theorem behindDrop_quiet (va : Nat) : behindDrop s w va = false := by
  simp [behindDrop, q.here, dropPending, q.still.2.1]

end

theorem isRemote_local {l : Loc} (h : l.addr < 4 * spaceSize) : isRemote l = false := by
  simp only [isRemote, Bool.and_eq_false_iff, decide_eq_false_iff_not]
  exact .inr (by omega)

/-- A local location leaves by no port. -/
theorem cutOff_local (s : State) (l : Loc) (h : l.addr < 4 * spaceSize) : cutOff s l = false := by
  simp [cutOff, isRemote_local h]

theorem l2Touch_accessed {s : State} {part : Nat} {p : Partition} (h : findPart s part = some p) (prt key n cls evict : Nat)
    (pinned write : Bool) : Accessed s (l2Touch s prt key n cls evict pinned write) part p := by
  rw [l2Touch_frame]
  exact ⟨rfl, h⟩

@[simp] theorem l2Touch_mem (s : State) (part key n cls evict : Nat) (pinned write : Bool) :
    (l2Touch s part key n cls evict pinned write).mem = s.mem := by rw [l2Touch_frame]

/-- A store of bytes below the control pages writes them all. -/
theorem physWrite_low (m : Memory) (key n v : Nat) (h : key + n ≤ 3 * spaceSize) : physWrite m key n v = mwrite m key n v := by
  induction n generalizing m key v with
  | zero => rfl
  | succ n ih =>
    have hk : physPut m key (BitVec.ofNat 8 v) = mput m key (BitVec.ofNat 8 v) := by
      unfold physPut
      rw [if_neg]
      simp only [Bool.and_eq_true, decide_eq_true_eq]
      omega
    simp only [physWrite, mwrite, hk]
    exact ih _ _ _ (by omega)

theorem performWrite_accessed {s : State} {w : Who} {p : Partition} (q : QuietPart s w.part p) (l : Loc) (key n v : Nat)
    (parentSide publish : Bool) :
    Accessed s (performWrite s w l key n v parentSide publish) w.part p ∧
      (performWrite s w l key n v parentSide publish).mem = physWrite s.mem key n v := by
  unfold performWrite
  extract_lets s1 s2
  have h1 : Accessed s s1 w.part p := ⟨rfl, q.here⟩
  have q1 := quiet_accessed q h1
  have h2 := h1.trans (stampWrite_accessed q1 key n w.source)
  have h3 : Accessed s s2 w.part p := h2.trans (markDirty_accessed (quiet_accessed q h2) key)
  have hm : s2.mem = physWrite s.mem key n v := rfl
  split
  · rw [watchWrite_quiet (quiet_accessed q h3)]
    exact ⟨h3, hm⟩
  · exact ⟨h3, hm⟩

/-- A store on behalf of a quiet partition writes its bytes (R181). -/
theorem storeAt_quiet {s : State} {w : Who} {p : Partition} (q : QuietPart s w.part p) {l : Loc} {n : Nat} (v evict : Nat)
    (hl : l.scratch = false) (ha : l.addr + n ≤ 3 * spaceSize) (hp : poisoned s l.addr n = false) :
    ∃ t, storeAt s w l n v evict = .ok () t ∧ Accessed s t w.part p ∧ t.mem = mwrite s.mem l.addr n v := by
  have hs : 0 < spaceSize := by decide
  have ht := l2Touch_accessed q.here w.part l.addr n l.cls evict l.t0 true
  obtain ⟨hw, hm⟩ := performWrite_accessed (quiet_accessed q ht) l l.addr n v (l.addr == l.addr) false
  refine ⟨_, ?_, ht.trans hw, hm.trans ?_⟩
  · unfold storeAt
    simp only [hl, readKey_quiet q, behindDrop_quiet q, cutOff_local s l (by omega), hp, prepWrite_quiet q, Bool.false_eq_true, if_false,
      Bool.or_self]
  · rw [l2Touch_mem, physWrite_low _ _ _ _ ha]

/-- No access below the control pages finds the free-page stack (R124). -/
theorem mindStack_low (s : State) (w : Who) (key n : Nat) (h : key + n ≤ 3 * spaceSize) : mindStack s w key n = s := by
  have hc : ¬ ctlKey w.gid.part 0x1008 < key + n := by
    simp only [ctlKey, physKey]
    omega
  unfold mindStack
  split
  · unfold stackSeen
    rw [decide_eq_false hc, Bool.and_false]
    exact if_pos rfl
  · rfl

theorem l1Miss_accessed {s : State} {part : Nat} {p : Partition} (h : findPart s part = some p) (core key : Nat) :
    Accessed s (l1Miss s core key) part p := by
  unfold l1Miss
  split
  · exact .refl h
  · exact ⟨rfl, h⟩

@[simp] theorem l1Miss_mem (s : State) (core key : Nat) : (l1Miss s core key).mem = s.mem := by
  unfold l1Miss
  split <;> rfl

/-- An atomic on behalf of a quiet partition reads its word and writes the new value, if there is one (R335). -/
theorem atomicAt_quiet {s : State} {w : Who} {p : Partition} (q : QuietPart s w.part p) {l : Loc} {n : Nat}
    (f : Nat → Option Nat) (evict : Nat) (hl : l.scratch = false) (ha : l.addr + n ≤ 3 * spaceSize)
    (hp : poisoned s l.addr n = false) :
    ∃ t, atomicAt s w l n f evict = .ok (mread s.mem l.addr n) t ∧ Accessed s t w.part p ∧
      t.mem = ((f (mread s.mem l.addr n)).map (mwrite s.mem l.addr n)).getD s.mem := by
  have hs : 0 < spaceSize := by decide
  have hx : peek s w l n = mread s.mem l.addr n := by simp [peek, hl, readKey_quiet q]
  have missed : ∀ u, Accessed s u w.part p →
      Accessed s (if w.l1 then l1Miss u w.core (readKey u w l) else u) w.part p ∧
        (if w.l1 then l1Miss u w.core (readKey u w l) else u).mem = u.mem := fun u h => by
    split
    · exact ⟨h.trans (l1Miss_accessed h.here _ _), l1Miss_mem _ _ _⟩
    · exact ⟨h, rfl⟩
  unfold atomicAt
  simp only [hx, hl, readKey_quiet q, behindDrop_quiet q, cutOff_local s l (by omega), hp, Bool.false_eq_true, if_false, Bool.or_self,
    mindStack_low s w l.addr n ha]
  cases f (mread s.mem l.addr n) with
  | some y =>
    obtain ⟨t, ht, hacc, hm⟩ := storeAt_quiet q y evict hl ha hp
    obtain ⟨h1, h2⟩ := missed t hacc
    exact ⟨_, by simp only [ht, MR.bind], h1, h2.trans hm⟩
  | none =>
    obtain ⟨h1, h2⟩ := missed _ (l2Touch_accessed q.here w.part l.addr n l.cls evict l.t0 false)
    exact ⟨_, by simp only [writeGate_quiet q], h1, h2.trans (l2Touch_mem _ _ _ _ _ _ _ _)⟩

/-! Lines and poison (R265). -/

/-- A sound range begins with a sound byte. -/
theorem poisoned_first {s : State} {key n : Nat} (h : poisoned s key n = false) (hn : 0 < n) : poisoned s key 1 = false := by
  simp only [poisoned, List.any_eq_false, Bool.and_eq_true, decide_eq_true_eq] at h ⊢
  intro l hl hc
  exact h l hl ⟨by omega, hc.2⟩

/-- A sound line that meets no error is read as it is. -/
theorem lineCheck_clean {s : State} (part ctx : Nat) {key : Nat} (va : Nat) (h : poisoned s key 1 = false) :
    lineCheck s part ctx key va .clean = (s, 0) := by
  unfold lineCheck
  simp [h]

theorem mread_lt (m : Memory) (a n : Nat) : mread m a n < 256 ^ n := by
  induction n generalizing a with
  | zero => simp [mread]
  | succ n ih =>
    have h1 : (mget m a).toNat < 256 := (mget m a).isLt
    have h2 := ih (a + 1)
    simp only [mread, Nat.pow_succ]
    omega

end Sys2Proof.Machine
end

section
/-! PROOFS. An issued access whose lane answers on sound bytes performs, ends and lands (R197, R331, R333 to R335). -/
namespace Sys2Proof.Machine

open Sys2Proof.Claims

theorem sregOf_putSreg (g : Group) (d r : Nat) (v : Word) (hd : d ≠ 0) : sregOf (putSreg g d v) r = if r = d then v else sregOf g r := by
  unfold sregOf putSreg
  by_cases hr : r = 0
  · subst hr
    simp [Ne.symm hd]
  · simp [hd, hr, sget_sput]

/-- The group in focus, when the turn names it. -/
theorem onGroup_live {s : State} (hl : s.g.live = true) (hid : s.g.id = s.inp.g) (k : State → Out) : onGroup s k = k s := by
  unfold onGroup
  rw [← hid, focusOn_self s hl]
  simp [hl]

theorem onGroup_focused {s : State} (h : Focused s) (hid : s.g.id = s.inp.g) (k : State → Out) : onGroup s k = k s :=
  onGroup_live h.group hid k

/-- An access with ord below 3 takes no sc stamp (R184). -/
theorem scMark_plain (s : State) (w : Who) (l : Loc) {ord : BitVec 2} (h : ord.toNat < 3) : scMark s w l ord = s := by
  have h3 : ord ≠ 3 := by
    rintro rfl
    exact absurd h (by decide)
  unfold scMark
  rw [bne_iff_ne.mpr h3, Bool.true_or, if_pos rfl]

@[simp] theorem acquireAt_g (s : State) (ord : BitVec 2) (scope : Nat) : (acquireAt s ord scope).g = s.g := by
  unfold acquireAt
  split
  · exact l1Inval_g _ _
  · rfl

@[simp] theorem acquireAt_mem (s : State) (ord : BitVec 2) (scope : Nat) : (acquireAt s ord scope).mem = s.mem := by
  unfold acquireAt
  split
  · exact l1Inval_mem _ _
  · rfl

theorem putSreg_en (g : Group) (r : Nat) (v : Word) : (putSreg g r v).en = g.en := by rw [putSreg_eq]

theorem putSreg_q (g : Group) (r : Nat) (v : Word) : (putSreg g r v).q = g.q := by rw [putSreg_eq]

/-- The group `t` is `g` with its only access gone; what it may have written is the scalar registers and the counts (R197). -/
structure AccessGone (g t : Group) : Prop where
  acc : t.en.acc = []
  spc : t.sc.spc = g.sc.spc
  ln : t.ln = g.ln
  q : t.q = g.q

theorem AccessGone.putSreg {g t : Group} (h : AccessGone g t) (r : Nat) (v : Word) : AccessGone g (putSreg t r v) :=
  ⟨by rw [putSreg_en, h.acc], by rw [putSreg_spc, h.spc], by rw [putSreg_ln, h.ln], by rw [putSreg_q, h.q]⟩

/-- A group whose only access has ended. -/
theorem endAcc_gone {s t : State} {b : Access} (a : Access) (hg : t.g = s.g) (h : s.g.en.acc = [b]) :
    AccessGone s.g (endAcc t 0 a).g ∧ ∀ r, sregOf (endAcc t 0 a).g r = sregOf s.g r := by
  rw [← hg] at h ⊢
  exact ⟨⟨by simp [endAcc, h], rfl, rfl, rfl⟩, fun _ => rfl⟩

/-- A result that lands behind no other access is noted nowhere. -/
theorem noteLand_alone {s : State} (old : Group) (st : Stream) (k : Nat) (h : s.g.en.acc = []) : noteLand s old st k = s := by
  unfold noteLand
  dsimp only
  rw [show List.map _ s.g.en.acc.zipIdx = s.g.en.acc by rw [h]; rfl]

theorem landAcc_store {s : State} {a : Access} {n : Nat} (h : a.kind = .store n) : landAcc s a = s := by
  unfold landAcc
  rw [h]
  cases a.stream <;> rfl

theorem landAcc_load {s : State} {a : Access} {n dst : Nat} {sext : Bool} (hs : a.stream = .scalar) (h : a.kind = .load n sext dst) :
    landAcc s a = { s with g := putSreg s.g dst (if sext then BitVec.ofInt 64 (signed 32 (ansOf a.read 0)) else
      BitVec.ofNat 64 (ansOf a.read 0 % 2 ^ (8 * n))) } := by
  unfold landAcc
  rw [hs, h]

theorem landAcc_atomic {s : State} {a : Access} {n op dst : Nat} {res : Bool} (hs : a.stream = .scalar)
    (h : a.kind = .atomic n op res dst) :
    landAcc s a = { s with g := putSreg s.g dst (BitVec.ofNat 64 (ansOf a.read 0)) } := by
  unfold landAcc
  rw [hs, h]

/-- The access whose last lane has answered without a failure ends and lands. -/
theorem settleAcc_lands {s : State} (a : Access) (hl : a.lanes = []) (hf : a.fails = [])
    (hk : (landAcc (endAcc s 0 a) a).g.en.acc = []) :
    ∃ t, settleAcc s 0 a = .next t ∧ t.g = (landAcc (endAcc s 0 a) a).g ∧ t.mem = (landAcc (endAcc s 0 a) a).mem := by
  refine ⟨acquireAt (landAcc (endAcc s 0 a) a) a.ord a.scope.toNat, ?_, acquireAt_g _ _ _, acquireAt_mem _ _ _⟩
  unfold settleAcc
  simp only [hl, hf, List.isEmpty_nil, Bool.not_true, Bool.false_eq_true, if_false, accTrap, List.foldl_nil, Option.map_none]
  rw [noteLand_alone _ _ _ hk]

/-- The access with its one lane answered by `v`. -/
def withAnswer (a : Access) (x : LaneAcc) (v : Nat) : Access := { a with lanes := [], read := [(x.lane, v)] }

section
variable {s : State} {a : Access} {x : LaneAcc} {n : Nat} {p : Partition} (h : Answering s a x n p)
include h

/-- The line of the lane is clean (R265). -/
theorem laneLine_answering (hn : 0 < n) : laneLine s x n = (s, 0) := by
  have q : QuietPart s (me s).part p := h.quiet
  unfold laneLine
  simp only [h.place.1, behindDrop_quiet q, h.whole, readKey_quiet q, h.clean, lineCheck_clean _ _ _ (poisoned_first h.sound hn),
    Bool.or_self, Bool.false_eq_true, if_false]

/-- The turn finds the access and its lane, and lets it perform. -/
theorem performStep_answering {sel : AccKind → Bool} (hs : sel a.kind = true) (hk : kindBytes a.kind = n) (hn : 0 < n) :
    performStep s sel = answerLane s 0 a x (s, 0) (performLane a x) := by
  unfold performStep
  rw [onGroup_focused h.focused h.named]
  simp [h.acc, h.index, h.lane.1, h.lane.2, hs, hk, laneLine_answering h hn]

/-- The lane that performs ends its access. -/
theorem answerLane_performs {v : Nat} {t : State} (hv : performLane a x s = .ok v t) (ho : a.ord.toNat < 3) :
    answerLane s 0 a x (s, 0) (performLane a x) = settleAcc t 0 (withAnswer a x v) := by
  unfold answerLane
  simp [hv, h.first.1, h.first.2, h.lane.1, scMark_plain _ _ _ ho, withAnswer]

/-- A load of the lane reads what the core's L1 shows and changes no byte (R109, R333). -/
theorem performLane_load {dst : Nat} {sext : Bool} (hk : a.kind = .load n sext dst) (ho : a.ord.toNat < 3) :
    ∃ t, performLane a x s = .ok (l1Read s s.g.core x.loc.addr n) t ∧ t.g = s.g ∧ t.mem = s.mem := by
  have q : QuietPart s (me s).part p := h.quiet
  have h3 : (a.ord == 3) = false := by
    rw [beq_eq_false_iff_ne]
    rintro h3
    exact absurd (h3 ▸ ho) (by decide)
  have hs : 0 < spaceSize := by decide
  refine ⟨l2Touch (l1Load s s.g.core x.loc.addr a.evict false) s.g.id.part x.loc.addr n x.loc.cls a.evict x.loc.t0 false, ?_, ?_, ?_⟩
  · unfold performLane
    simp only [hk, loadAt_one _ _ _ _ _ _ h.whole, h3, loadOne, h.place.1, readKey_quiet q, behindDrop_quiet q,
      cutOff_local s x.loc (by have := h.place.2; omega), h.sound, mindStack_low _ _ _ _ h.place.2, Bool.or_self, Bool.false_eq_true, if_false]
    rfl
  · rw [l2Touch_frame, l1Load_frame]
  · rw [l2Touch_mem, l1Load_frame]

theorem performLane_store (hk : a.kind = .store n) :
    ∃ t, performLane a x s = .ok 0 t ∧ t.g = s.g ∧ t.mem = mwrite s.mem x.loc.addr n x.y := by
  have q : QuietPart s (me s).part p := h.quiet
  obtain ⟨t, ht, hacc, hm⟩ := storeAt_quiet q x.y a.evict h.place.1 h.place.2 h.sound
  refine ⟨t, ?_, hacc.g, hm⟩
  unfold performLane
  rw [hk]
  simp only [ht, MR.bind]

theorem performLane_atomic {op dst : Nat} {res : Bool} (hk : a.kind = .atomic n op res dst) :
    let v := mread s.mem x.loc.addr n
    ∃ t, performLane a x s = .ok v t ∧ t.g = s.g ∧ t.mem = ((atomNew op n v x.y x.c).map (mwrite s.mem x.loc.addr n)).getD s.mem := by
  have q : QuietPart s (me s).part p := h.quiet
  obtain ⟨t, ht, hacc, hm⟩ := atomicAt_quiet q (fun v => atomNew op n v x.y x.c) a.evict h.place.1 h.place.2 h.sound
  refine ⟨t, ?_, hacc.g, hm⟩
  unfold performLane
  rw [hk]
  exact ht

/-- What is left of the access once its lane has performed: the group with the result landed. -/
theorem performStep_lands {sel : AccKind → Bool} (hs : sel a.kind = true) (hk : kindBytes a.kind = n) (hn : 0 < n)
    (ho : a.ord.toNat < 3) {v : Nat} {t : State} (hv : performLane a x s = .ok v t)
    (hl : (landAcc (endAcc t 0 (withAnswer a x v)) (withAnswer a x v)).g.en.acc = []) :
    ∃ u, performStep s sel = .next u ∧ u.g = (landAcc (endAcc t 0 (withAnswer a x v)) (withAnswer a x v)).g ∧
      u.mem = (landAcc (endAcc t 0 (withAnswer a x v)) (withAnswer a x v)).mem := by
  obtain ⟨u, hu, hg, hm⟩ := settleAcc_lands (withAnswer a x v) rfl h.first.2 hl
  exact ⟨u, ((performStep_answering h hs hk hn).trans (answerLane_performs h hv ho)).trans hu, hg, hm⟩

/-- LOAD_DATA_RETURN writes the register and ends the access (R197, R333). -/
theorem loadDataReturn_lands {dst : Nat} {sext : Bool} (hk : a.kind = .load n sext dst) (hs : a.stream = .scalar)
    (ho : a.ord.toNat < 3) (hn : 0 < n) (hx : x.lane = 0) (hd : dst ≠ 0) :
    let v := l1Read s s.g.core x.loc.addr n
    ∃ t, exec .loadDataReturn s = .next t ∧ AccessGone s.g t.g ∧ t.mem = s.mem ∧ t.g.en.ld = s.g.en.ld - 1 ∧
      sregOf t.g dst = (if sext then BitVec.ofInt 64 (signed 32 v) else BitVec.ofNat 64 (v % 2 ^ (8 * n))) ∧
      ∀ r, r ≠ dst → sregOf t.g r = sregOf s.g r := by
  intro v
  obtain ⟨w, hw, hg, hm⟩ := performLane_load h hk ho
  obtain ⟨hgone, hregs⟩ := endAcc_gone (withAnswer a x v) hg h.acc
  have hland := landAcc_load (s := endAcc w 0 (withAnswer a x v)) (a := withAnswer a x v) hs hk
  have hans : ansOf (withAnswer a x v).read 0 = v := by simp [ansOf, withAnswer, hx]
  have hld : (endAcc w 0 (withAnswer a x v)).g.en.ld = s.g.en.ld - 1 := by simp [endAcc, withAnswer, hk, hg]
  rw [hans] at hland
  obtain ⟨u, hu, ug, um⟩ := performStep_lands h (sel := fun k => match k with | .load _ _ _ => true | _ => false) (by rw [hk])
    (by rw [hk]; rfl) hn ho hw (by rw [hland]; exact (hgone.putSreg _ _).acc)
  rw [hland] at ug um
  refine ⟨u, hu, ug ▸ hgone.putSreg _ _, um.trans hm, ?_, ?_, fun r hr => ?_⟩
  · rw [ug, putSreg_en, hld]
  · rw [ug, sregOf_putSreg _ _ _ _ hd, if_pos rfl]
  · rw [ug, sregOf_putSreg _ _ _ _ hd, if_neg hr, hregs]

/-- STORE_PERFORM writes the bytes and ends the access (R181, R197, R334). -/
theorem storePerform_lands (hk : a.kind = .store n) (ho : a.ord.toNat < 3) (hn : 0 < n) :
    ∃ t, exec .storePerform s = .next t ∧ AccessGone s.g t.g ∧ t.g.en.st = s.g.en.st - 1 ∧ (∀ r, sregOf t.g r = sregOf s.g r) ∧
      t.mem = mwrite s.mem x.loc.addr n x.y := by
  obtain ⟨w, hw, hg, hm⟩ := performLane_store h hk
  obtain ⟨hgone, hregs⟩ := endAcc_gone (withAnswer a x 0) hg h.acc
  have hland := landAcc_store (s := endAcc w 0 (withAnswer a x 0)) (a := withAnswer a x 0) hk
  have hst : (endAcc w 0 (withAnswer a x 0)).g.en.st = s.g.en.st - 1 := by simp [endAcc, withAnswer, hk, hg]
  obtain ⟨u, hu, ug, um⟩ := performStep_lands h (sel := fun k => match k with | .store _ => true | _ => false) (by rw [hk])
    (by rw [hk]; rfl) hn ho hw (by rw [hland]; exact hgone.acc)
  rw [hland] at ug um
  exact ⟨u, hu, ug ▸ hgone, by rw [ug, hst], fun r => by rw [ug, hregs], um.trans hm⟩

/-- ATOMIC_PERFORM reads the word, writes the new one and returns the old (R335). -/
theorem atomicPerform_lands {op dst : Nat} (hk : a.kind = .atomic n op true dst) (hs : a.stream = .scalar) (ho : a.ord.toNat < 3)
    (hn : 0 < n) (hx : x.lane = 0) (hd : dst ≠ 0) :
    let v := mread s.mem x.loc.addr n
    ∃ t, exec .atomicPerform s = .next t ∧ AccessGone s.g t.g ∧ sregOf t.g dst = BitVec.ofNat 64 v ∧
      (∀ r, r ≠ dst → sregOf t.g r = sregOf s.g r) ∧ t.mem = ((atomNew op n v x.y x.c).map (mwrite s.mem x.loc.addr n)).getD s.mem := by
  intro v
  obtain ⟨w, hw, hg, hm⟩ := performLane_atomic h hk
  obtain ⟨hgone, hregs⟩ := endAcc_gone (withAnswer a x v) hg h.acc
  have hland := landAcc_atomic (s := endAcc w 0 (withAnswer a x v)) (a := withAnswer a x v) hs hk
  have hans : ansOf (withAnswer a x v).read 0 = v := by simp [ansOf, withAnswer, hx]
  rw [hans] at hland
  obtain ⟨u, hu, ug, um⟩ := performStep_lands h (sel := fun k => match k with | .atomic _ _ _ _ => true | _ => false) (by rw [hk])
    (by rw [hk]; rfl) hn ho hw (by rw [hland]; exact (hgone.putSreg _ _).acc)
  rw [hland] at ug um
  refine ⟨u, hu, ug ▸ hgone.putSreg _ _, ?_, fun r hr => ?_, um.trans hm⟩
  · rw [ug, sregOf_putSreg _ _ _ _ hd, if_pos rfl]
  · rw [ug, sregOf_putSreg _ _ _ _ hd, if_neg hr, hregs]

end

end Sys2Proof.Machine
end

section
/-! PROOFS. A second-tier timeout is POISON to the access that meets it (R13, R264, R331). -/
namespace Sys2Proof.Machine

open Sys2Proof.Claims

/-- An error whose action is 0 posts a record at most. -/
theorem severityUnit_records {s : State} {part cls source : Nat} (ctx addr : Nat) (victims : List GroupId) {p : Partition}
    (hp : findPart s part = some p) (ha : sevAction p cls source = 0) : Posted s (severityUnit s part cls source ctx addr victims) := by
  have h0 : max 0 (sevAction p cls source) = 0 := by rw [ha]; rfl
  unfold severityUnit severity
  rw [hp]
  simp only [noneRec, h0]
  have hd : ∀ t, doAction t part 0 victims ctx = t := fun _ => rfl
  rw [hd]
  exact .ite (.postEvent (.refl s) part _ _) (.refl s)

/-- A failed port is POISON to the reader of a line of the second tier, with a record at most where the actions are 0 (R13, R262). -/
theorem lineCheck_linkFail {s : State} {part key port : Nat} (ctx va : Nat) {p : Partition} (hp : findPart s part = some p)
    (h1 : spaceSize ≤ key) (h2 : key < 2 * spaceSize) (h4 : port < 4) (hm : sevAction p 0x23 (0x2008 + port) = 0)
    (hl : sevAction p 0x26 (0x2008 + port) = 0) :
    ∃ t, lineCheck s part ctx key va (.linkFail port) = (t, 0x0F) ∧ Posted s t := by
  have hs : 0 < spaceSize := by decide
  have c1 : (decide (2 * spaceSize ≤ key) && decide (key < 4 * spaceSize)) = false := by simp; omega
  have c2 : ¬ 4 * spaceSize ≤ key := by omega
  have c3 : (decide (key < spaceSize) || decide (4 ≤ port)) = false := by simp; omega
  unfold lineCheck
  simp only [c1, c2, c3, Bool.false_eq_true, if_false]
  split
  · exact ⟨s, rfl, .refl s⟩
  · have h := severityUnit_records ctx va [] hp hm
    obtain ⟨q, hq, hk⟩ := findPart_kept h.parts hp
    have hsev : q.sev = p.sev := (congrArg (fun k => k.2.2) hk :)
    have hl' : sevAction q 0x26 (0x2008 + port) = 0 := by simpa only [sevAction, sevWord, hsev] using hl
    exact ⟨_, by rw [severityUnit_none hq hl' (by decide)], h⟩

/-- A trap that comes late to a group that holds none is taken as any other. -/
theorem lateTrap_free {s : State} (t : TrapInfo) (h : s.g.trapPend = none) : lateTrap s t = takeTrap s t := by
  unfold lateTrap
  rw [h]

/-- The trap of an access with one failure has the number and address of the failure. -/
theorem accTrap_one (k : Nat) (t : TrapInfo) : accTrap [(k, t)] = some { t with lanes := maskOf [k] } := by
  simp [accTrap]

/-- The scalar access `a`, the group's only one, gone with what has issued behind it. -/
def unissued (s : State) (a : Access) : State := dropBehind (backTo (endAcc s 0 a) a) .scalar 0

theorem unissued_keeps {s : State} {a : Access} {b : Access} (hs : a.stream = .scalar) (h : s.g.en.acc = [b]) :
    (unissued s a).g.en.acc = [] ∧ (unissued s a).g.sc.spc = BitVec.ofNat 64 a.pc ∧
      (unissued s a).g.sc.regs = sputs 0 s.g.sc.regs a.undo.regs ∧ (unissued s a).g.trapPend = s.g.trapPend ∧
      (unissued s a).dev = s.dev ∧ ∀ n, findPart (unissued s a) n = findPart s n := by
  have hb : backTo (endAcc s 0 a) a = { endAcc s 0 a with g := { undone (endAcc s 0 a).g a.undo with
      sc := { (undone (endAcc s 0 a).g a.undo).sc with spc := BitVec.ofNat 64 a.pc } } } := by
    unfold backTo
    rw [hs]
  have hacc : (endAcc s 0 a).g.en.acc = [] := by simp [endAcc, h]
  unfold unissued
  rw [hb]
  refine ⟨?_, rfl, rfl, rfl, rfl, fun _ => rfl⟩
  simp [dropBehind, dropBy, undone, hacc]

/-- The scalar access with its one lane failed by trap `num`. -/
def failedBy (a : Access) (x : LaneAcc) (num : Nat) : Access :=
  { a with lanes := [], fails := [(x.lane, ⟨num, x.loc.va, 0, 0, .scalar, false⟩)] }

section
variable {s : State} {a : Access} {x : LaneAcc} {n : Nat} {p : Partition} (h : Answering s a x n p)
include h

/-- A load that meets the trap number `num` in its line ends with that trap, and what has issued behind it is undone (R331). -/
theorem answerLane_bad {dst num : Nat} {sext : Bool} {t : State} (hk : a.kind = .load n sext dst) (hs : a.stream = .scalar)
    (hn : num ≠ 0) (hd : num ≠ 0x0D) (hg : t.g = s.g) :
    answerLane t 0 a x (t, num) (performLane a x) =
      .next (takeTrap (unissued t (failedBy a x num)) ⟨num, x.loc.va, 0, maskOf [x.lane], .scalar, false⟩) := by
  have hfree : t.g.trapPend = none ∧ t.g.killed = false := by rw [hg]; exact h.free
  have hpend : (unissued t (failedBy a x num)).g.trapPend = none :=
    (unissued_keeps (a := failedBy a x num) hs (hg ▸ h.acc)).2.2.2.1.trans hfree.1
  have hset : settleAcc t 0 (failedBy a x num) =
      .next (lateTrap (unissued t (failedBy a x num)) ⟨num, x.loc.va, 0, maskOf [x.lane], .scalar, false⟩) := by
    simp only [settleAcc, failedBy, accTrap_one, unissued, hs]
    rfl
  rw [← lateTrap_free _ hpend, ← hset]
  unfold answerLane
  simp [hk, hn, hd, hs, hfree.2, h.lane.1, h.first.2, failedBy]

/-- SECOND_TIER_TIMEOUT is POISON to the load that it meets, and marks no line (R13). -/
theorem secondTierTimeout_traps {dst : Nat} {sext : Bool} (hk : a.kind = .load n sext dst) (hs : a.stream = .scalar)
    (h1 : spaceSize ≤ x.loc.addr) (h2 : x.loc.addr < 2 * spaceSize) (h4 : s.inp.port < 4)
    (hm : sevAction p 0x23 (0x2008 + s.inp.port) = 0) (hl : sevAction p 0x26 (0x2008 + s.inp.port) = 0) :
    ∃ u, exec .secondTierTimeout s = .next (takeTrap u ⟨0x0F, x.loc.va, 0, maskOf [x.lane], .scalar, false⟩) ∧
      u.g.en.acc = [] ∧ u.g.sc.spc = BitVec.ofNat 64 a.pc ∧ u.g.sc.regs = sputs 0 s.g.sc.regs a.undo.regs ∧
      (∃ p', findPart u s.g.id.part = some p') ∧ u.dev.poison = s.dev.poison := by
  have q : QuietPart s (me s).part p := h.quiet
  obtain ⟨t, ht, hp⟩ := lineCheck_linkFail s.tk.ctx x.loc.va h.quiet.here h1 h2 h4 hm hl
  obtain ⟨hacc, hpc, hregs, -, hdev, hpart⟩ := unissued_keeps (s := t) (a := failedBy a x 0x0F) hs (hp.g ▸ h.acc)
  refine ⟨unissued t (failedBy a x 0x0F), ?_, hacc, hpc, by rw [hregs, hp.g]; rfl, ?_, ?_⟩
  · rw [← answerLane_bad h hk hs (by decide) (by decide) hp.g]
    show execSecondTierTimeout s = _
    unfold execSecondTierTimeout
    rw [onGroup_focused h.focused h.named]
    have c : (x.loc.scratch || decide (x.loc.addr < spaceSize) || decide (2 * spaceSize ≤ x.loc.addr) || decide (4 ≤ s.inp.port)) = false := by
      simp [h.place.1]
      omega
    simp [h.acc, h.index, h.lane.1, h.lane.2, readKey_quiet q, c, ht]
  · obtain ⟨p', hp', -⟩ := findPart_kept hp.parts h.quiet.here
    exact ⟨p', (hpart _).trans hp'⟩
  · rw [hdev]
    exact (congrArg (fun u : State => u.dev.poison) hp.rest :)

end

end Sys2Proof.Machine
end

section
/-! PROOFS. A page walk sets A and D in the entry and fills the TLB (R115, R117, R118). -/
namespace Sys2Proof.Machine

open Sys2Proof.Claims

/-- A number with bit `i` set. -/
def setBit (x i : Nat) : Nat := if bit x i then x else x + 2 ^ i

@[simp] theorem bit_setBit (x i : Nat) : bit (setBit x i) i = true := by
  unfold setBit
  split
  · assumption
  · next h =>
    have h0 : x / 2 ^ i % 2 = 0 := by simpa [bit] using h
    have h1 : (x + 2 ^ i) / 2 ^ i = x / 2 ^ i + 1 := Nat.add_div_right x (by positivity)
    simp only [bit, h1, beq_iff_eq]
    omega

/-- Setting a bit changes nothing above it. -/
theorem setBit_div (x i j : Nat) (h : i < j) : setBit x i / 2 ^ j = x / 2 ^ j := by
  unfold setBit
  split
  · rfl
  · next hb =>
    have h0 : x / 2 ^ i % 2 = 0 := by simpa [bit] using hb
    have h1 : (x + 2 ^ i) / 2 ^ i = x / 2 ^ i + 1 := Nat.add_div_right x (by positivity)
    have hj : 2 ^ j = 2 ^ i * (2 * 2 ^ (j - i - 1)) := by
      rw [← pow_succ', ← pow_add]
      congr 1
      omega
    have h2 : (x / 2 ^ i + 1) / 2 = x / 2 ^ i / 2 := by omega
    rw [hj, ← Nat.div_div_eq_div_mul, ← Nat.div_div_eq_div_mul, ← Nat.div_div_eq_div_mul, ← Nat.div_div_eq_div_mul, h1, h2]

/-- A field that does not hold bit `i` is as before once that is set. -/
theorem fld_setBit (x i lo n : Nat) (h : i < lo ∨ lo + n ≤ i) : fld (setBit x i) lo n = fld x lo n := by
  rcases h with h | h
  · simp only [fld, setBit_div x i lo h]
  · unfold setBit
    split
    · rfl
    · have hi : 2 ^ i = 2 ^ (i - lo - n) * 2 ^ n * 2 ^ lo := by
        rw [← pow_add, ← pow_add]
        congr 1
        omega
      rw [fld, fld, hi, Nat.add_mul_div_right _ _ (by positivity), Nat.add_mul_mod_self_right]

theorem setBit_lt (x i k : Nat) (hx : x < 2 ^ k) (hi : i < k) : setBit x i < 2 ^ k := by
  rw [← Nat.div_eq_zero_iff_lt (by positivity), setBit_div x i k hi, Nat.div_eq_of_lt hx]

theorem bit_eq_fld (x i : Nat) : bit x i = (fld x i 1 == 1) := rfl

/-- What a walk writes back (R117): the entry with A, and with D for a store. -/
def marked (e : Nat) (write : Bool) : Nat := if write then setBit (setBit e 59) 11 else setBit e 59

theorem bit59_marked (e : Nat) (write : Bool) : bit (marked e write) 59 = true := by
  cases write
  · exact bit_setBit e 59
  · simp only [marked, if_true, bit_eq_fld, fld_setBit _ 11 59 1 (.inl (by decide))]
    exact bit_setBit e 59

theorem bit11_marked (e : Nat) : bit (marked e true) 11 = true := bit_setBit _ 11

/-- A and D apart, the entry is as it was. -/
theorem fld_marked (e lo n : Nat) (write : Bool) (h11 : 11 < lo ∨ lo + n ≤ 11) (h59 : 59 < lo ∨ lo + n ≤ 59) :
    fld (marked e write) lo n = fld e lo n := by
  cases write
  · exact fld_setBit _ _ _ _ h59
  · exact (fld_setBit _ _ _ _ h11).trans (fld_setBit _ _ _ _ h59)

theorem marked_lt {e : Nat} (write : Bool) (h : e < 2 ^ 64) : marked e write < 2 ^ 64 := by
  cases write
  · exact setBit_lt _ _ _ h (by decide)
  · exact setBit_lt _ _ _ (setBit_lt _ _ _ h (by decide)) (by decide)

theorem leafKey_marked (e va size : Nat) (write : Bool) : leafKey (marked e write) va size = leafKey e va size := by
  simp [leafKey, frameOf, bit_eq_fld, fld_marked]

/-- A walk that ends in a leaf ends at its entry, in the page of the level about the address, or goes on below (R115). -/
theorem walkAt_step {t2 : Nat} {mem : Memory} {rd : Nat → Nat → Option Nat} {va level table : Nat} {l : Leaf}
    (h : walkAt t2 mem rd va level table = .leaf l) :
    (l.size = pageSize l.level ∧ l.va = va - va % pageSize l.level) ∨
      ∃ k e, level = k + 1 ∧ walkAt t2 mem rd va k (frameOf e) = .leaf l := by
  unfold walkAt at h
  dsimp only at h
  split at h
  · cases h
  split at h
  · cases h
  split at h
  · cases h
  split at h
  · cases h
  split at h
  · split at h
    · cases h
    split at h
    · cases h
    split at h
    · cases h
    cases h
    exact .inl ⟨rfl, rfl⟩
  · split at h
    · cases h
    · exact .inr ⟨_, _, rfl, h⟩

theorem walkAt_leaf {t2 : Nat} {mem : Memory} {rd : Nat → Nat → Option Nat} {va level table : Nat} {l : Leaf}
    (h : walkAt t2 mem rd va level table = .leaf l) : l.size = pageSize l.level ∧ l.va = va - va % pageSize l.level := by
  induction level generalizing table with
  | zero =>
    rcases walkAt_step h with h | ⟨k, e, hk, -⟩
    · exact h
    · cases hk
  | succ k ih =>
    rcases walkAt_step h with h | ⟨_, e, hk, h⟩
    · exact h
    · cases hk
      exact ih h

theorem walk_leaf {s : State} {part ctx va : Nat} {l : Leaf} (h : walk s part ctx va = .leaf l) :
    l.size = pageSize l.level ∧ l.va = va - va % pageSize l.level := by
  unfold walk walkWith at h
  dsimp only at h
  split at h
  · cases h
  · exact walkAt_leaf h

/-! The fill of the TLBs. -/

/-- The entry that fills a TLB comes first. -/
theorem tlbPut_head (tick : Nat) (e : TlbEntry) (l : List TlbEntry) : ∃ r, tlbPut tick e l = e :: r := by
  unfold tlbPut
  dsimp only
  split
  · exact ⟨_, rfl⟩
  · split
    · exact ⟨_, rfl⟩
    · split
      · exact ⟨_, rfl⟩
      · exact ⟨_, rfl⟩

theorem modPart_focus {s : State} {n : Nat} (f : Partition → Partition) (h : s.pt.state ≠ 0 ∧ s.pt.num = n) :
    (modPart s n f).pt = f s.pt := by
  unfold modPart
  simp [h.1, h.2]

theorem markDirtyRange_focus {s : State} {n : Nat} (key len : Nat) (h : s.pt.state ≠ 0 ∧ s.pt.num = n) :
    (markDirtyRange s n key len).pt.state ≠ 0 ∧ (markDirtyRange s n key len).pt.num = n := by
  unfold markDirtyRange
  rw [modPart_focus _ h]
  split
  · exact h
  · exact h

/-- After a fill of a unit's TLB it finds the entry for every address in its page. -/
theorem tlbFind_tlbFill {s : State} {part : Nat} (u ctx va : Nat) (e : TlbEntry) (h : s.pt.state ≠ 0 ∧ s.pt.num = part)
    (hu : e.unit = u) (hc : e.ctx = ctx) (hv : e.va ≤ va ∧ va < e.va + e.size) :
    tlbFind (tlbFill s part u e).pt u ctx va = some e := by
  subst hu
  obtain ⟨r, hr⟩ : ∃ r, (tlbFill s part e.unit e).pt.tlb = e :: r := by
    unfold tlbFill
    rw [modPart_focus _ h]
    exact tlbPut_head _ _ _
  unfold tlbFind tlbAt
  rw [hr]
  simp [hc, hv]

/-- A TLB holds the whole of a 64 KiB page as one, and another page as it is (R115, R118). -/
theorem tlbEntry_page (u ctx : Nat) (l : Leaf) (e : Nat) :
    let k := if l.level = 0 ∧ bit e 2 = true then l.va / 4096 % 16 else 0
    (tlbEntry u ctx l e).va = l.va - 4096 * k ∧
      (tlbEntry u ctx l e).size = (if l.level = 0 ∧ bit e 2 = true then 65536 else l.size) ∧
      (tlbEntry u ctx l e).pte = BitVec.ofNat 64 (e - 4096 * k) := by
  intro k
  by_cases hm : l.level = 0 ∧ bit e 2 = true
  · simp [tlbEntry, k, hm.1, hm.2]
  · have hc : (decide (l.level = 0) && bit e 2) = false := by simpa using hm
    simp only [tlbEntry, hc, k, if_neg hm, Bool.false_eq_true, if_false, Nat.mul_zero, Nat.sub_zero, and_self]

/-- The page that a TLB holds of a leaf covers the addresses of the leaf (R115, R118). -/
theorem tlbEntry_covers (u ctx va : Nat) (l : Leaf) (e : Nat) (hs : l.size = pageSize l.level) (h : l.va ≤ va ∧ va < l.va + l.size) :
    (tlbEntry u ctx l e).va ≤ va ∧ va < (tlbEntry u ctx l e).va + (tlbEntry u ctx l e).size := by
  unfold tlbEntry
  dsimp only
  split
  · next hm =>
    have h0 : l.level = 0 := by
      simp only [Bool.and_eq_true, decide_eq_true_eq] at hm
      exact hm.1
    have h4 : l.size = 4096 := by rw [hs, h0]; rfl
    dsimp only
    omega
  · exact h

@[simp] theorem tlbEntry_unit (u ctx : Nat) (l : Leaf) (e : Nat) : (tlbEntry u ctx l e).unit = u := by
  unfold tlbEntry
  dsimp only
  split <;> rfl

@[simp] theorem tlbEntry_ctx (u ctx : Nat) (l : Leaf) (e : Nat) : (tlbEntry u ctx l e).ctx = ctx := by
  unfold tlbEntry
  dsimp only
  split <;> rfl

/-- The machine with the entry of a leaf written back as the walk marks it (R117). -/
def markedBack (s : State) (part : Nat) (l : Leaf) (write : Bool) : State :=
  if marked l.pte write = l.pte then s else markDirtyRange { s with mem := mwrite s.mem l.key 8 (marked l.pte write) } part l.key 8

theorem markedBack_mem (s : State) (part : Nat) (l : Leaf) (write : Bool) :
    (markedBack s part l write).mem = if marked l.pte write = l.pte then s.mem else mwrite s.mem l.key 8 (marked l.pte write) := by
  unfold markedBack
  split <;> rfl

theorem markedBack_focus {s : State} {part : Nat} (l : Leaf) (write : Bool) (h : s.pt.state ≠ 0 ∧ s.pt.num = part) :
    (markedBack s part l write).pt.state ≠ 0 ∧ (markedBack s part l write).pt.num = part := by
  unfold markedBack
  split
  · exact h
  · exact markDirtyRange_focus _ _ h

/-- The walk cache of a partition after a walk to a leaf (R118). -/
def walked (s : State) (part ctx : Nat) (l : Leaf) (p : Partition) : Partition :=
  { p with walks := walksPut p.walks (walkPath s.dev.t2Bytes (rdCached s part ctx) ctx l.va 4 (rootOf s part ctx)) }

theorem walked_focus {s : State} {part : Nat} (ctx : Nat) (l : Leaf) (write : Bool) (h : s.pt.state ≠ 0 ∧ s.pt.num = part) :
    (modPart (markedBack s part l write) part (walked s part ctx l)).pt.state ≠ 0 ∧
      (modPart (markedBack s part l write) part (walked s part ctx l)).pt.num = part := by
  rw [modPart_focus _ (markedBack_focus l write h)]
  exact markedBack_focus l write h

/-- A fill of the TLB for a leaf: the entry is written back marked, then the walk cache and the TLBs have it. -/
theorem fillTlb_eq (s : State) (u part ctx : Nat) (l : Leaf) (write : Bool) :
    fillTlb s u part ctx l write = (tlbFill (modPart (markedBack s part l write) part (walked s part ctx l)) part u
      (tlbEntry u ctx l (marked l.pte write)), marked l.pte write) := by
  have hd : ∀ x, (if (write && !bit x 11) = true then x + 2 ^ 11 else x) = if write then setBit x 11 else x := fun x => by
    cases write
    · rfl
    · cases hb : bit x 11 <;> simp [setBit, hb]
  unfold fillTlb
  simp only [← setBit.eq_def, hd, ← marked.eq_def]
  rfl

/-- A walk that fails fills nothing (R117, R126). -/
theorem walkFill_trap {s : State} {part ctx va n : Nat} {d : BitVec 192} (u : Nat) (sup write read : Bool)
    (h : walk s part ctx va = .trap n d) : ∃ x, walkFill s u part ctx va sup write read = x ∧ (x = .stall ∨ x = .trap n d) := by
  refine ⟨_, rfl, ?_⟩
  unfold walkFill
  rw [h]
  dsimp only [failOrWait]
  split
  · exact .inl rfl
  · exact .inr rfl

/-- A walk whose leaf admits the access fills the TLB and sets A and D (R117, R118). -/
theorem walkFill_leaf {s : State} {u part ctx va : Nat} {sup write read : Bool} {l : Leaf} (hw : walk s part ctx va = .leaf l)
    (hp : permFail l.pte l.level sup write read = none) (hk : physOk s.dev.t2Bytes (leafKey l.pte va l.size) = true) :
    ∃ loc, walkFill s u part ctx va sup write read = .ok loc (fillTlb s u part ctx l write).1 := by
  have hk' : physOk s.dev.t2Bytes (locOf (marked l.pte write) va l.size).addr = true := by
    show physOk s.dev.t2Bytes (leafKey (marked l.pte write) va l.size) = true
    rw [leafKey_marked, hk]
  refine ⟨locOf (marked l.pte write) va l.size, ?_⟩
  unfold walkFill
  rw [hw]
  simp only [hp, fillTlb_eq, hk', if_true]

/-! PAGE_WALK. -/

section
variable {s : State} (h : Focused s) (hid : s.g.id = s.inp.g)
include h hid

theorem pageWalk_hit (ht : (tlbFind s.pt (me s).unit s.tk.ctx s.inp.va).isSome = true) : exec .pageWalk s = .next s := by
  show execPageWalk s = _
  unfold execPageWalk
  rw [onGroup_focused h hid]
  simp [ht]

section
variable (hv : vaCheck s.inp.va s.g.sup = none) (hc : s.inp.va < ctlVA) (ht : tlbFind s.pt (me s).unit s.tk.ctx s.inp.va = none)
include hv hc ht

/-- A walk that fails leaves the trap to the access (log 34). -/
theorem pageWalk_fails {n : Nat} {d : BitVec 192} (hw : walk s s.g.id.part s.tk.ctx s.inp.va = .trap n d) :
    exec .pageWalk s = .next s := by
  have hc' : decide (ctlVA ≤ s.inp.va) = false := by simpa using hc
  obtain ⟨x, hx, hcase⟩ := walkFill_trap (me s).unit s.g.sup s.inp.flag (!s.inp.flag) hw
  show execPageWalk s = _
  unfold execPageWalk
  rw [onGroup_focused h hid]
  simp only [hv, hc', ht, hw, Option.isSome_none, Bool.or_self, bne_self_eq_false, Bool.false_eq_true, if_false, hx]
  rcases hcase with rfl | rfl
  · rfl
  · rfl

/-- A walk to a sound entry that admits the access fills the TLB. -/
theorem pageWalk_fills {l : Leaf} (hw : walk s s.g.id.part s.tk.ctx s.inp.va = .leaf l) (he : s.inp.ecc = .clean)
    (hs : poisoned s l.key 1 = false) (hp : permFail l.pte l.level s.g.sup s.inp.flag (!s.inp.flag) = none)
    (hk : physOk s.dev.t2Bytes (leafKey l.pte s.inp.va l.size) = true) :
    exec .pageWalk s = .next (fillTlb s (me s).unit s.g.id.part s.tk.ctx l s.inp.flag).1 := by
  have hc' : decide (ctlVA ≤ s.inp.va) = false := by simpa using hc
  obtain ⟨loc, hf⟩ := walkFill_leaf (u := (me s).unit) hw hp hk
  show execPageWalk s = _
  unfold execPageWalk
  rw [onGroup_focused h hid]
  simp only [hv, hc', ht, hw, he, lineCheck_clean _ _ _ hs, Option.isSome_none, Bool.or_self, bne_self_eq_false, Bool.false_eq_true,
    if_false, hf]

end

end

end Sys2Proof.Machine
end

section
/-! PROOFS. Page walks and the performing of issued accesses: O52. -/
namespace Sys2Proof.Claims

open Sys2Proof.Machine

theorem bytesKept_mwrite {s t : State} {lo n v : Nat} (h : t.mem = mwrite s.mem lo n v) : bytesKept s t lo n := fun a ha => by
  rw [h]
  exact mget_mwrite_other _ _ _ _ _ ha

/-- What a walk to a leaf leaves (R117, R118): one entry in the TLB for the whole of the page, and the entry in memory with A and D. -/
theorem pageWalk_marks {s : State} {l : Leaf} (h : Focused s) (hw : walk s s.g.id.part s.tk.ctx s.inp.va = .leaf l)
    (ha : l.va ≤ s.inp.va ∧ s.inp.va < l.va + l.size) (hb : l.pte < 2 ^ 64) :
    let t := (fillTlb s (me s).unit s.g.id.part s.tk.ctx l s.inp.flag).1
    let w := marked l.pte s.inp.flag
    tlbFind t.pt (me s).unit s.tk.ctx s.inp.va = some (tlbEntry (me s).unit s.tk.ctx l w) ∧
      mread t.mem l.key 8 = (if w = l.pte then mread s.mem l.key 8 else w) ∧ bytesKept s t l.key 8 ∧ t.g = s.g := by
  intro t w
  have hg : t.g = s.g := (Posted.fillTlb s (me s).unit s.g.id.part s.tk.ctx l s.inp.flag).g
  have ht : t = _ := congrArg Prod.fst (fillTlb_eq s (me s).unit s.g.id.part s.tk.ctx l s.inp.flag)
  have hm : t.mem = if w = l.pte then s.mem else mwrite s.mem l.key 8 w := by
    rw [ht]
    exact markedBack_mem s s.g.id.part l s.inp.flag
  refine ⟨?_, ?_, ?_, hg⟩
  · rw [ht]
    exact tlbFind_tlbFill _ _ _ _ (walked_focus _ l _ h.part) (tlbEntry_unit _ _ _ _) (tlbEntry_ctx _ _ _ _)
      (tlbEntry_covers _ _ _ _ _ (walk_leaf hw).1 ha)
  · rw [hm]
    split
    · rfl
    · rw [mread_mwrite]
      exact Nat.mod_eq_of_lt (marked_lt _ hb)
  · rw [bytesKept, hm]
    split
    · exact fun _ _ => rfl
    · exact fun a ha => mget_mwrite_other _ _ _ _ _ ha

/-- Settles O52: one lemma per event about an access in a quiet partition, and for the walk the frame of the fill with the entry marked. -/
theorem accessesPerform : Obligations.AccessesPerform := by
  unfold Obligations.AccessesPerform
  intro s a x p l part ctx gone
  refine ⟨fun h hid ht => pageWalk_hit h hid ht, fun h hid hv hc ht => ⟨fun n d hw => pageWalk_fails h hid hv hc ht hw, ?_⟩, ?_, ?_, ?_, ?_⟩
  · intro hw he hs hp hk h1 h2 hb many k
    obtain ⟨hfind, hm, hkept, hg⟩ := pageWalk_marks h hw ⟨h1, h2⟩ hb
    have hbit : bit (marked l.pte s.inp.flag) 2 = bit l.pte 2 := by simp only [bit_eq_fld, fld_marked _ 2 1 _ (.inr (by decide)) (.inr (by decide))]
    obtain ⟨hva, hsize, hpte⟩ := tlbEntry_page (me s).unit s.tk.ctx l (marked l.pte s.inp.flag)
    rw [hbit] at hva hsize hpte
    exact ⟨_, _, marked l.pte s.inp.flag, pageWalk_fills h hid hv hc ht hw he hs hp hk, hfind, hva, hsize, hpte, bit59_marked _ _,
      fun hf => by rw [hf]; exact bit11_marked _, hm, hkept, hg⟩
  · intro n sext dst h hk hs ho hn _ hx hd v
    obtain ⟨t, ht, hg, hm⟩ := loadDataReturn_lands h hk hs ho hn hx hd
    exact ⟨t, ht, ⟨hg.acc, hg.spc, hg.ln, hg.q⟩, hm⟩
  · intro n h hk ho hn
    obtain ⟨t, ht, hg, hst, hr, hm⟩ := storePerform_lands h hk ho hn
    exact ⟨t, ht, ⟨hg.acc, hg.spc, hg.ln, hg.q⟩, hst, hr, by rw [hm, mread_mwrite], bytesKept_mwrite hm⟩
  · intro n op dst h hk hs ho hn hd hx v
    obtain ⟨t, ht, hg, hdst, hr, hm⟩ := atomicPerform_lands h hk hs ho (by omega) hx hd
    refine ⟨t, ht, ⟨hg.acc, hg.spc, hg.ln, hg.q⟩, hdst, hr, ?_⟩
    cases hv : atomNew op n v x.y x.c with
    | none =>
      have hm' : t.mem = s.mem := hm.trans (by rw [hv]; rfl)
      exact ⟨by rw [hm']; exact (Nat.mod_eq_of_lt (mread_lt _ _ _)).symm, fun b _ => by rw [hm']⟩
    | some y =>
      rw [hv] at hm
      exact ⟨by rw [hm]; exact mread_mwrite _ _ _ _, bytesKept_mwrite hm⟩
  · intro n sext dst h hk hs h1 h2 h4 hm hl
    obtain ⟨u, hu, hacc, hpc, hregs, hpart, hpoison⟩ := secondTierTimeout_traps h hk hs h1 h2 h4 hm hl
    refine ⟨u, _, hu, hpc, hacc, fun k hk => ?_, rfl, hpart, hpoison⟩
    rw [sregOf, if_neg hk, hregs]

end Sys2Proof.Claims
end

section
/-! PROOFS. Links and fabric ports that fail, and the requests of other packages that are served here (R16 to R19, R118, R184, R262). -/
namespace Sys2Proof.Machine

open Sys2Proof.Claims

/-! Ports and links. -/

theorem portOf_put (s : State) (k : Nat) (q : Port) (j : Nat) :
    portOf { s with dev := { s.dev with ports := sput noPort s.dev.ports k q } } j = if j = k then q else portOf s j := by
  simp [portOf, sget_sput]

/-- A port that retries counts the failed retries in a row (R16). -/
theorem fabricFlitCrcRetry_up {s : State} (hk : s.inp.port < 12) (hu : (portOf s s.inp.port).up = true) :
    let q : Port := { portOf s s.inp.port with retries := if s.inp.flag then (portOf s s.inp.port).retries + 1 else 0 }
    exec .fabricFlitCrcRetry s = .next { s with dev := { s.dev with ports := sput noPort s.dev.ports s.inp.port q } } := by
  intro q
  have c : (decide (12 ≤ s.inp.port) || !(portOf s s.inp.port).up) = false := by simpa [hu] using hk
  show execFabricFlitCrcRetry s = _
  unfold execFabricFlitCrcRetry
  exact if_neg (by rw [← portOf, c]; decide)

/-- Raising class LINK leaves the device's own state (R262, R264). -/
theorem raiseLink_handled (s : State) (source : Nat) (f : Partition → Bool) : Handled s (raiseLink s source f) :=
  .foldl _ (fun u n => .severityUnit (.refl u) n 0x26 source 0 0 []) _ s

/-- A port after 64 failed retries in a row is down, and the management ring hears of it (R16, R262). -/
theorem fabricPortDown_fails {s : State} (hk : s.inp.port < 12) (hu : (portOf s s.inp.port).up = true)
    (hr : 64 ≤ (portOf s s.inp.port).retries) :
    ∃ t e, exec .fabricPortDown s = .next t ∧
      t.dev.ports = sput noPort s.dev.ports s.inp.port { portOf s s.inp.port with up := false } ∧
      t.dev.mgmtOut = s.dev.mgmtOut ++ [e] ∧ e.type = 0x0010 ∧ e.source = 0x3002 + s.inp.port := by
  have c : (decide (12 ≤ s.inp.port) || !(portOf s s.inp.port).up || decide ((portOf s s.inp.port).retries < 64)) = false := by
    simp [hu, hk, hr]
  have h := raiseLink_handled (postMgmt { s with dev := { s.dev with
    ports := sput noPort s.dev.ports s.inp.port { portOf s s.inp.port with up := false } } } 0x0010 (0x3002 + s.inp.port))
    (0x3002 + s.inp.port) (fun _ => true)
  refine ⟨_, { noneRec 0x0010 (0x3002 + s.inp.port) 0 0 0 with gtc := s.dev.gtc, action := 1 }, ?_, (congrArg Device.ports h.dev :),
    (congrArg Device.mgmtOut h.dev :), rfl, rfl⟩
  show execFabricPortDown s = _
  unfold execFabricPortDown
  exact if_neg (by rw [← portOf, c]; decide)

theorem fabricPortDown_early {s : State} (hr : (portOf s s.inp.port).retries < 64) : exec .fabricPortDown s = .next s := by
  show execFabricPortDown s = _
  unfold execFabricPortDown
  exact if_pos (by rw [← portOf, decide_eq_true hr, Bool.or_true])

/-- A link goes down once (R24, R262). -/
theorem linkDown_fails {s : State} (hk : s.inp.port ≤ 1 ∨ 14 ≤ s.inp.port ∧ s.inp.port ≤ 22) (hn : s.inp.port ∉ s.dev.linksDown) :
    ∃ t, exec .linkDown s = .next t ∧ t.dev.linksDown = s.dev.linksDown ++ [s.inp.port] := by
  have h := raiseLink_handled { s with dev := { s.dev with linksDown := s.dev.linksDown ++ [s.inp.port] } } (0x3000 + s.inp.port)
    (fun p => 2 ≤ s.inp.port || p.link == s.inp.port)
  refine ⟨_, ?_, (congrArg Device.linksDown h.dev :)⟩
  show execLinkDown s = _
  unfold execLinkDown
  have c : (decide (s.inp.port ≤ 1) || decide (14 ≤ s.inp.port) && decide (s.inp.port ≤ 22)) = true := by simpa using hk
  have cn : s.dev.linksDown.contains s.inp.port = false := by simpa using hn
  exact if_neg (by rw [c, cn]; decide)

/-! Requests that wait, and those that are answered at once. -/

/-- A request on a port that is up, with no earlier one waiting, is served as it comes. -/
theorem arrive_served {s t : State} {m : FabricMsg} (ho : portLive s s.inp.port) (hr : s.dev.recovery = false)
    (hq : s.dev.fabricQ = []) (h : serveMsg s m (0x3002 + s.inp.port) s.inp.ecc = .done t) : arrive s m = .next t := by
  have c : (decide (12 ≤ s.inp.port) || !(portOf s s.inp.port).up || s.dev.recovery) = false := by simp [ho.1, ho.2, hr]
  unfold arrive
  rw [← portOf, c]
  simp [hq, h]

/-- A port that is down, or a device in recovery mode, takes no request (R16, R43). -/
theorem arrive_dead {s : State} (m : FabricMsg) (h : ¬ portLive s s.inp.port ∨ s.dev.recovery = true) : arrive s m = .next s := by
  have c : (decide (12 ≤ s.inp.port) || !(portOf s s.inp.port).up || s.dev.recovery) = true := by
    rcases h with h | h
    · simp only [portLive, not_and, Bool.not_eq_true] at h
      by_cases hk : s.inp.port < 12
      · simp [h hk]
      · simp [Nat.le_of_not_lt hk]
    · simp [h]
  unfold arrive
  exact if_pos c

/-- A request waits behind an earlier one of its core on its line (R17). -/
theorem arrive_behind {s : State} {m : FabricMsg} (ho : portLive s s.inp.port) (hr : s.dev.recovery = false)
    (h : ∃ e ∈ s.dev.fabricQ, sameLine e.1 m = true) :
    arrive s m = .next { s with dev := { s.dev with fabricQ := s.dev.fabricQ ++ [(m, s.dev.gtc.toNat)] } } := by
  have c : (decide (12 ≤ s.inp.port) || !(portOf s s.inp.port).up || s.dev.recovery) = false := by simp [ho.1, ho.2, hr]
  unfold arrive
  rw [← portOf, c]
  exact (if_neg (by decide)).trans (if_pos (List.any_eq_true.mpr h))

theorem exec_fabricRequestArrival {s : State} (h : s.inp.flag = false) :
    exec .fabricRequestArrival s = arrive s (.access s.inp.fabric) := by
  show execFabricRequestArrival s = _
  unfold execFabricRequestArrival
  exact if_neg (by rw [h]; decide)

theorem exec_remoteAtomicRequest (s : State) : exec .remoteAtomicRequest s = arrive s (.atomic s.inp.remote) := rfl

/-- A request tried again after 1 ms is discarded (R16). -/
theorem fabricRequestArrival_old {s : State} {e : FabricMsg × Nat} (he : s.dev.fabricQ[s.inp.idx]? = some e) (hf : s.inp.flag = true)
    (hr : s.dev.recovery = false) (ho : e.2 + 1000000 < s.dev.gtc.toNat) :
    exec .fabricRequestArrival s = .next { s with dev := { s.dev with fabricQ := s.dev.fabricQ.eraseIdx s.inp.idx } } := by
  show execFabricRequestArrival s = _
  unfold execFabricRequestArrival
  rw [if_pos hf, he]
  simp [hr, ho]

/-- A waiting request is discarded once it is older than 1 ms (R16). -/
theorem fabricRequestDiscard_waiting {s : State} {e : FabricMsg × Nat} (he : s.dev.fabricQ[s.inp.idx]? = some e)
    (hf : s.inp.flag = false) :
    exec .fabricRequestDiscard s = .next (if e.2 + 1000000 < s.dev.gtc.toNat then
      { s with dev := { s.dev with fabricQ := s.dev.fabricQ.eraseIdx s.inp.idx } } else s) := by
  show execFabricRequestDiscard s = _
  unfold execFabricRequestDiscard
  rw [hf, he]
  exact (if_neg (by decide)).trans (apply_ite Host.Outcome.next _ _ _).symm

/-! Serving a request. -/

/-- The machine with other lines in the L2. -/
def withL2 (s : State) (v : List L2Line) : State := { s with dev := { s.dev with l2 := v } }

theorem l2Touch_withL2 (s : State) (part key n cls evict : Nat) (pinned write : Bool) :
    ∃ v, l2Touch s part key n cls evict pinned write = withL2 s v := ⟨_, l2Touch_frame s part key n cls evict pinned write⟩

theorem physKey_hbm (addr : Nat) : physKey 0 addr = addr := by simp [physKey]

/-- The stamp that an access of another package takes changes the slices' stamps alone (R184). -/
theorem scTarget_stamp (s : State) (addr : Nat) (ts : Option (BitVec 48)) :
    ∃ t, scTarget s addr ts = (t, homeStamp s addr ts) ∧ t.mem = s.mem ∧ t.dev.respOut = s.dev.respOut := by
  rw [homeStamp, physKey_hbm]
  cases ts <;> exact ⟨_, rfl, rfl, rfl⟩

theorem admits_iff (s : State) (part node req : Nat) :
    admits s part node req = true ↔ ∃ o, findPart s part = some o ∧ (node, req) ∈ o.grants := by
  unfold admits
  cases findPart s part with
  | none => simp
  | some o => simp

theorem physTransit_quiet {s : State} {part : Nat} {p : Partition} (q : QuietPart s part p) (key : Nat) :
    physTransit s part key = false := by
  simp [physTransit, q.here, q.still.2.2.1]

/-- A device-physical address of a fabric page exists. -/
theorem fabricPage_exists {s : State} {part addr n : Nat} {p : Partition} (h : FabricPage s part addr n p) :
    physOk s.dev.t2Bytes (addr + n - 1) = true ∧ ¬ 2 ^ 49 < addr + n ∧ addr + n ≤ 3 * spaceSize := by
  have h1 := h.inRange
  have h2 := h.some'
  have h3 : Config.hbmBytes < spaceSize := by decide
  have h4 : Config.hbmBytes < 2 ^ 49 := by decide
  refine ⟨?_, by omega, by omega⟩
  unfold physOk
  rw [if_pos (by omega)]
  exact decide_eq_true (by omega)

/-- Steps that touch the L2 alone, one after another. -/
theorem foldl_withL2 {α : Type} (f : State → α → State) (s : State) (l : List α)
    (hf : ∀ x ∈ l, ∀ v, ∃ v', f (withL2 s v) x = withL2 s v') :
    ∃ v, l.foldl f s = withL2 s v := by
  have h : ∀ v, ∃ v', l.foldl f (withL2 s v) = withL2 s v' := by
    induction l with
    | nil => exact fun v => ⟨v, rfl⟩
    | cons x r ih =>
      intro v
      obtain ⟨v', hv'⟩ := hf x (List.mem_cons_self ..) v
      rw [List.foldl_cons, hv']
      exact ih (fun y hy => hf y (List.mem_cons_of_mem x hy)) v'
  exact h s.dev.l2

theorem l2TouchAll_withL2 (s : State) (part key n : Nat) : ∃ v, l2TouchAll s part key n = withL2 s v :=
  foldl_withL2 _ s _ (fun _ _ v => l2Touch_withL2 (withL2 s v) _ _ _ _ _ _ _)

/-- The bytes just written as a number are those of the list. -/
theorem mbytes_mwrite (m : Memory) (a : Nat) (bs : List Byte) : mbytes (mwrite m a bs.length (bytesNat bs)) a bs.length = bs := by
  induction bs generalizing m a with
  | nil => rfl
  | cons b r ih =>
    have hb : b.toNat < 256 := b.isLt
    have hd : (b.toNat + 256 * bytesNat r) / 256 = bytesNat r := by omega
    simp only [List.length_cons, mbytes, mwrite, bytesNat, hd, ih]
    rw [mget_mwrite_other _ _ _ _ _ (by omega), mget_mput, if_pos rfl]
    congr 1
    apply BitVec.eq_of_toNat_eq
    simp only [BitVec.toNat_ofNat]
    omega

/-- A request outside the grant table of its target is refused (R118). -/
theorem serveFabric_refused {s : State} {r : FabricReq} (source : Nat) (ecc : Ecc) (h : admits s r.part r.node r.reqPart = false) :
    serveFabric s r source ecc = .done (respondAt s (.refused r.node r.addr) none) := by
  unfold serveFabric
  simp only [h]
  rfl

/-- A load of another package answers the bytes, with the stamp of an sc access (R17, R184). -/
theorem serveFabric_read {s : State} {r : FabricReq} {p : Partition} (source : Nat) (h : FabricPage s r.part r.addr r.size p)
    (hg : (r.node, r.reqPart) ∈ p.grants) (hd : r.data = []) :
    ∃ t, serveFabric s r source .clean = .done t ∧ t.mem = s.mem ∧
      t.dev.respOut = s.dev.respOut ++ [(.data r.node r.addr (mbytes s.mem r.addr r.size), homeStamp s r.addr r.ts)] := by
  have ha : admits s r.part r.node r.reqPart = true := (admits_iff _ _ _ _).mpr ⟨p, h.quiet.here, hg⟩
  obtain ⟨hk, h49, -⟩ := fabricPage_exists h
  obtain ⟨v, hv⟩ := l2TouchAll_withL2 s r.part r.addr r.size
  obtain ⟨t, ht, hm, hresp⟩ := scTarget_stamp (withL2 s v) r.addr r.ts
  refine ⟨respondAt t (.data r.node r.addr (mbytes t.mem r.addr r.size)) (homeStamp (withL2 s v) r.addr r.ts), ?_, hm, ?_⟩
  · unfold serveFabric
    simp only [ha, hd, h49, physKey_hbm, hk, lineCheck_clean _ _ _ (poisoned_first h.sound h.some'), hv, ht, List.isEmpty_nil,
      if_true, if_false, decide_false, Bool.not_true, Bool.or_false, Bool.false_eq_true, bne_self_eq_false]
  · show t.dev.respOut ++ [(Resp.data r.node r.addr (mbytes t.mem r.addr r.size), _)] = _
    rw [hm, hresp]
    rfl

/-- A store of another package writes its bytes and is acknowledged (R17, R184). -/
theorem serveFabric_write {s : State} {r : FabricReq} {p : Partition} (source : Nat)
    (h : FabricPage s r.part r.addr r.data.length p) (hg : (r.node, r.reqPart) ∈ p.grants) (hd : r.data ≠ []) (hp : r.publish = false) :
    ∃ t, serveFabric s r source .clean = .done t ∧ t.mem = mwrite s.mem r.addr r.data.length (bytesNat r.data) ∧
      t.dev.respOut = s.dev.respOut ++ [(.done r.node r.addr, homeStamp s r.addr r.ts)] := by
  have ha : admits s r.part r.node r.reqPart = true := (admits_iff _ _ _ _).mpr ⟨p, h.quiet.here, hg⟩
  have hdata : r.data.isEmpty = false := by simpa using hd
  obtain ⟨hk, h49, h3⟩ := fabricPage_exists h
  have q : QuietPart s (outside r.part source).part p := h.quiet
  obtain ⟨u, hu, hacc, hm⟩ := storeAt_quiet q (l := fabricLoc r.addr) (n := r.data.length) (bytesNat r.data) 0 rfl
    (by rw [fabricLoc, physKey_hbm]; exact h3) (by rw [fabricLoc, physKey_hbm]; exact h.sound)
  obtain ⟨t, ht, htm, hresp⟩ := scTarget_stamp u r.addr r.ts
  have hslice : homeStamp u r.addr r.ts = homeStamp s r.addr r.ts := by
    unfold homeStamp
    rw [hacc.sliceM]
  refine ⟨respondAt t (.done r.node r.addr) (homeStamp u r.addr r.ts), ?_, ?_, ?_⟩
  · unfold serveFabric
    simp only [ha, hdata, h49, physKey_hbm, hk, lineCheck_clean _ _ _ (poisoned_first h.sound h.some'), physTransit_quiet h.quiet, hp, hu,
      ht, if_false, decide_false, Bool.not_true, Bool.or_false, Bool.false_eq_true, bne_self_eq_false]
  · show t.mem = _
    rw [htm, hm, fabricLoc, physKey_hbm]
  · show t.dev.respOut ++ [(Resp.done r.node r.addr, _)] = _
    rw [hslice, hresp, hacc.respOut]

/-! Atomics of other packages (R18, R19). -/

/-- The entries of atomics that are younger than 20 ms. -/
def liveReplays (s : State) : List Replay :=
  s.dev.replay.filter (fun e => decide (s.dev.gtc.toNat + e.aged < e.gtc + 20000000))

/-- The entry that a request sent again meets. -/
def replayOf (s : State) (r : RemoteAtomic) : Option Replay :=
  (liveReplays s).find? (fun e => e.node == r.node && e.core == r.core && e.tag == r.tag)

theorem replayOf_none {s : State} {r : RemoteAtomic}
    (h : ∀ e ∈ s.dev.replay, ¬(e.node = r.node ∧ e.core = r.core ∧ e.tag = r.tag ∧ s.dev.gtc.toNat + e.aged < e.gtc + 20000000)) :
    replayOf s r = none := by
  rw [replayOf, List.find?_eq_none]
  intro e he hc
  simp only [liveReplays, List.mem_filter, decide_eq_true_eq] at he
  simp only [Bool.and_eq_true, beq_iff_eq] at hc
  exact h e he.1 ⟨hc.1.1, hc.1.2, hc.2, he.2⟩

theorem serveAtomic_refused {s : State} {r : RemoteAtomic} (source : Nat) (ecc : Ecc) (h : admits s r.part r.node r.reqPart = false) :
    serveAtomic s r source ecc = .done (respondAt s (.refused r.node r.addr) none) := by
  unfold serveAtomic
  simp only [h]
  rfl

section
variable {s : State} {r : RemoteAtomic} (source : Nat) (ecc : Ecc) (ha : admits s r.part r.node r.reqPart = true)
include ha

/-- A request sent again is answered from its entry (R18, R19). -/
theorem serveAtomic_replay {e : Replay} (h : replayOf s r = some e) :
    serveAtomic s r source ecc = .done (respondAt s (.atomic r.node r.core r.tag e.result true) e.stamp) := by
  unfold replayOf liveReplays at h
  unfold serveAtomic
  simp only [ha, h]
  rfl

/-- Without room for an entry the answer is BUSY (R19). -/
theorem serveAtomic_busy (h : replayOf s r = none) (hn : 65536 ≤ (liveReplays s).length) :
    serveAtomic s r source ecc = .done (respondAt s (.busy r.node r.core r.tag) none) := by
  unfold replayOf liveReplays at h
  unfold liveReplays at hn
  unfold serveAtomic
  simp only [ha, h, if_pos hn]
  rfl

end

/-- What the target keeps of an atomic that read `x` (R18). -/
def entryOf (s : State) (r : RemoteAtomic) (x : Nat) : Replay :=
  { part := r.part, node := r.node, core := r.core, tag := r.tag, result := BitVec.ofNat 64 x, stamp := homeStamp s r.addr r.ts,
    gtc := s.dev.gtc.toNat, aged := 0 }

/-- An atomic that is new here is performed, and its entry kept (R18, R184, R335). -/
theorem serveAtomic_performs {s : State} {r : RemoteAtomic} {p : Partition} (source : Nat) (h : FabricPage s r.part r.addr r.size p)
    (hg : (r.node, r.reqPart) ∈ p.grants) (hr : replayOf s r = none) (hn : (liveReplays s).length < 65536) (hal : r.addr % r.size = 0) :
    let x := mread s.mem r.addr r.size
    let y := atomNew r.op r.size x (r.y.toNat % 2 ^ (8 * r.size)) (r.c.toNat % 2 ^ (8 * r.size))
    ∃ t, serveAtomic s r source .clean = .done t ∧ t.mem = (y.map (mwrite s.mem r.addr r.size)).getD s.mem ∧
      t.dev.replay = liveReplays s ++ [entryOf s r x] ∧
      t.dev.respOut = s.dev.respOut ++ [(.atomic r.node r.core r.tag (BitVec.ofNat 64 x) false, homeStamp s r.addr r.ts)] := by
  intro x y
  have ha : admits s r.part r.node r.reqPart = true := (admits_iff _ _ _ _).mpr ⟨p, h.quiet.here, hg⟩
  obtain ⟨hk, h49, h3⟩ := fabricPage_exists h
  have q : QuietPart s (outside r.part source).part p := h.quiet
  have hloc : (fabricLoc r.addr).addr = r.addr := physKey_hbm r.addr
  obtain ⟨u, hu, hacc, hm⟩ := atomicAt_quiet q (l := fabricLoc r.addr) (n := r.size)
    (fun v => atomNew r.op r.size v (r.y.toNat % 2 ^ (8 * r.size)) (r.c.toNat % 2 ^ (8 * r.size))) 0 rfl
    (by rw [hloc]; exact h3) (by rw [hloc]; exact h.sound)
  rw [hloc] at hu hm
  obtain ⟨t, ht, htm, hresp⟩ := scTarget_stamp u r.addr r.ts
  have hslice : homeStamp u r.addr r.ts = homeStamp s r.addr r.ts := by
    unfold homeStamp
    rw [hacc.sliceM]
  rw [hslice] at ht
  refine ⟨respondAt { t with dev := { t.dev with replay := liveReplays s ++ [entryOf s r x] } }
    (.atomic r.node r.core r.tag (BitVec.ofNat 64 x) false) (homeStamp s r.addr r.ts), ?_, htm.trans hm, rfl, ?_⟩
  · unfold replayOf liveReplays at hr
    unfold liveReplays at hn
    unfold serveAtomic
    simp only [ha, hr, Nat.not_le_of_lt hn, physKey_hbm, hk, hal, lineCheck_clean _ _ _ (poisoned_first h.sound h.some'),
      physTransit_quiet h.quiet, hu, ht, if_false, Bool.not_true, Bool.or_false, Bool.false_eq_true, bne_self_eq_false]
    rfl
  · show t.dev.respOut ++ _ = _
    rw [hresp, hacc.respOut]

end Sys2Proof.Machine
end

section
/-! PROOFS. Remote atomics of this package's groups: the answer that lands and the one that does not come (R17 to R20, R109, R186). -/
namespace Sys2Proof.Machine

open Sys2Proof.Claims

/-- The machine without its cores and its bytes. -/
def unitKey (s : State) : State := { s with cores := [], mem := [] }

theorem unitKey_l1Miss (s : State) (core key : Nat) : unitKey (l1Miss s core key) = unitKey s := by
  unfold l1Miss
  split <;> rfl

theorem unitKey_l1Inval (s : State) (core : Nat) : unitKey (l1Inval s core) = unitKey s := by
  rw [(l1Inval_spec s core).1]
  rfl

theorem unitKey_remoteEffect (s : State) (r : RemoteReq) (v : Word) : unitKey (remoteEffect s r v) = unitKey s := by
  unfold remoteEffect
  dsimp only
  split <;> rfl

/-- The answer's effect on the target's word (R186): its value before, then after. -/
theorem remoteEffect_word (s : State) (r : RemoteReq) (v : Word) :
    let key := physKey (4 + r.node) r.addr
    let old := v.toNat % 2 ^ (8 * r.size)
    let new := atomNew r.op r.size old (r.y.toNat % 2 ^ (8 * r.size)) (r.c.toNat % 2 ^ (8 * r.size))
    mread (remoteEffect s r v).mem key r.size = new.getD old % 2 ^ (8 * r.size) ∧
      ∀ a, a < key ∨ key + r.size ≤ a → mget (remoteEffect s r v).mem a = mget s.mem a := by
  intro key old new
  have hp : (256 : Nat) ^ r.size = 2 ^ (8 * r.size) := by rw [pow_mul]; norm_num
  unfold remoteEffect
  cases hn : new with
  | none =>
    simp only [new, old] at hn
    simp only [hn]
    refine ⟨?_, fun a ha => mget_mwrite_other _ _ _ _ _ ha⟩
    rw [mread_mwrite, hp]
    rfl
  | some x =>
    simp only [new, old] at hn
    simp only [hn]
    refine ⟨?_, fun a ha => ?_⟩
    · show mread (mwrite _ _ _ _) _ _ = _
      rw [mread_mwrite, hp]
      rfl
    · exact (mget_mwrite_other _ _ _ _ _ ha).trans (mget_mwrite_other _ _ _ _ _ ha)

/-- A remote atomic that returns changes its core alone (R109, R178, R184). -/
theorem remoteReturn_core (s : State) (r : RemoteReq) (stamp : Word) :
    unitKey (remoteReturn s r stamp) = unitKey s ∧ (remoteReturn s r stamp).mem = s.mem ∧
      ((r.ord = 1 ∨ r.ord = 3) → l1Scope (teamOf s r.group) r.scope.toNat = true → (coreOf (remoteReturn s r stamp) r.core).l1 = []) := by
  unfold remoteReturn
  extract_lets s1 s2
  have h1 : unitKey s1 = unitKey s ∧ s1.mem = s.mem := ⟨unitKey_l1Miss _ _ _, l1Miss_mem _ _ _⟩
  have h2 : unitKey s2 = unitKey s ∧ s2.mem = s.mem := by
    unfold s2
    split
    · exact ⟨(unitKey_l1Inval _ _).trans h1.1, (l1Inval_mem _ _).trans h1.2⟩
    · exact h1
  have h3 : (r.ord = 1 ∨ r.ord = 3) → l1Scope (teamOf s r.group) r.scope.toNat = true → (coreOf s2 r.core).l1 = [] := by
    intro ho hs
    have : s2 = l1Inval s1 r.core := if_pos (by rcases ho with ho | ho <;> simp [ho, hs])
    rw [this, (l1Inval_spec s1 r.core).2.1]
  split
  · exact ⟨h2.1, h2.2, h3⟩
  · refine ⟨h2.1, h2.2, fun ho hs => ?_⟩
    rw [coreOf_modCore, if_pos rfl]
    · exact h3 ho hs
    · exact fun _ => rfl

/-! The result in its group. -/

theorem putSreg_id (g : Group) (r : Nat) (v : Word) : (putSreg g r v).id = g.id ∧ (putSreg g r v).live = g.live := by
  unfold putSreg
  split <;> exact ⟨rfl, rfl⟩

theorem landSreg_id (g : Group) (sup : Bool) (r : Nat) (v : Word) : (landSreg g sup r v).id = g.id ∧ (landSreg g sup r v).live = g.live := by
  unfold landSreg
  split
  · split
    · exact ⟨rfl, rfl⟩
    · exact putSreg_id g r v
  · exact putSreg_id g r v

/-- What the answer to a request does to its group. -/
def landing (r : RemoteReq) (v : Word) (g : Group) : Group := if g.killed then g else landRemote g r v

theorem landing_id {r : RemoteReq} (hs : r.stream = .scalar) (v : Word) (g : Group) :
    (landing r v g).id = g.id ∧ (landing r v g).live = g.live := by
  unfold landing landRemote
  rw [hs]
  split
  · exact ⟨rfl, rfl⟩
  · exact landSreg_id g r.sup r.dst v

/-- The result lands in its register, or waits for RETH (R18, R255). -/
theorem modGroup_landsIn {s t : State} {r : RemoteReq} (hs : r.stream = .scalar) (v : Word) (h : findGroup t r.group = findGroup s r.group) :
    LandsIn s (modGroup t r.group (landing r v)) r.group r.sup r.dst v := by
  intro g hg hk
  have hland : landing r v g = landSreg g r.sup r.dst v := by
    unfold landing landRemote
    rw [hs, hk]
    rfl
  refine ⟨landSreg g r.sup r.dst v, ?_, fun hn => ?_, fun h hh hsup hr hf => ?_⟩
  · rw [findGroup_modGroup _ _ _ _ (fun g => (landing_id hs v g).1) (fun g => (landing_id hs v g).2), if_pos rfl, h, hg,
      Option.map_some, hland]
  · have hp : landSreg g r.sup r.dst v = putSreg g r.dst v := by
      unfold landSreg
      rw [hn]
    rw [hp]
    by_cases hd : r.dst = 0
    · refine ⟨fun h0 => absurd hd h0, fun k _ => ?_⟩
      unfold putSreg
      rw [if_pos hd]
    · exact ⟨fun _ => by rw [sregOf_putSreg _ _ _ _ hd, if_pos rfl], fun k hk => by rw [sregOf_putSreg _ _ _ _ hd, if_neg hk]⟩
  · have hp : landSreg g r.sup r.dst v = { g with hidden := some { h with late := h.late ++ [(r.dst, v)] } } := by
      unfold landSreg
      rw [hh]
      exact if_pos (by rw [hsup, hr, hf]; rfl)
    rw [hp]
    exact ⟨rfl, fun _ => rfl⟩

/-! REMOTE_ATOMIC_RESPONSE. -/

/-- A request goes out where a port leads to its node (R16). -/
theorem putRequest_out (s : State) (r : RemoteReq) :
    putRequest s r = { s with dev := { s.dev with fabricOut := s.dev.fabricOut ++ (if r.port.isSome then [r] else []) } } := by
  unfold putRequest
  cases r.port with
  | none => exact (congrArg (fun l => ({ s with dev := { s.dev with fabricOut := l } } : State)) (List.append_nil _)).symm
  | some _ => rfl

theorem remoteAtomicResponse_unknown {s : State} (h : ∀ x ∈ s.dev.remote, ¬(x.core = s.inp.core ∧ x.tag = s.inp.idx)) :
    exec .remoteAtomicResponse s = .next s := by
  have hf : s.dev.remote.find? (fun r => r.core == s.inp.core && r.tag == s.inp.idx) = none := by
    rw [List.find?_eq_none]
    intro x hx hc
    exact h x hx (by simpa using hc)
  show execRemoteAtomicResponse s = _
  unfold execRemoteAtomicResponse
  rw [hf]
  exact ite_self _

section
variable {s : State} {x : RemoteReq} (hl : portLive s s.inp.port)
  (hx : s.dev.remote.find? (fun y => y.core == s.inp.core && y.tag == s.inp.idx) = some x)
include hl hx

/-- After BUSY the same tag goes out again (R19). -/
theorem remoteAtomicResponse_busy (hf : s.inp.flag = true) (hp : x.performed = none) :
    exec .remoteAtomicResponse s = .next (putRequest s { x with sent := s.dev.gtc.toNat, port := portFor s x.node x.addr }) := by
  have c : (decide (12 ≤ s.inp.port) || !(portOf s s.inp.port).up) = false := by simp [hl.1, hl.2]
  show execRemoteAtomicResponse s = _
  unfold execRemoteAtomicResponse
  rw [← portOf, c, hx]
  simp [hf, hp]

/-- The machine without request `x` among those awaited. -/
def unawaited (s : State) (x : RemoteReq) : State := { s with dev := { s.dev with remote := dropBy (sameReq x) s.dev.remote } }

/-- The machine once the first answer for `x` has brought the word `v` (R17, R186). -/
def responded (s : State) (x : RemoteReq) (v : Word) : State :=
  if x.performed.isSome then unawaited s x else remoteEffect (unawaited s x) x v

theorem remoteAtomicResponse_first (hf : s.inp.flag = false) :
    exec .remoteAtomicResponse s = .next (modGroup (remoteReturn (responded s x s.inp.word) x s.inp.word2) x.group
      (landing x (x.performed.getD s.inp.word))) := by
  have c : (decide (12 ≤ s.inp.port) || !(portOf s s.inp.port).up) = false := by simp [hl.1, hl.2]
  show execRemoteAtomicResponse s = _
  unfold execRemoteAtomicResponse
  rw [← portOf, c, hx]
  simp only [hf, responded, unawaited]
  cases x.performed <;> rfl

end

/-- Beside cores and bytes, the answer takes the request off the list of those awaited. -/
theorem unitKey_responded (s : State) (x : RemoteReq) (v : Word) :
    unitKey (responded s x v) = unitKey (unawaited s x) := by
  unfold responded
  split
  · rfl
  · exact unitKey_remoteEffect _ x v

theorem teamOf_congr {s t : State} (ht : t.tm = s.tm) (h : t.teams = s.teams) (id : GroupId) : teamOf t id = teamOf s id := by
  simp only [teamOf, findTeam, allTeams, ht, h]

/-- What the first answer leaves: the result in its group, the word at its target, the L1 of an acquire, and no request of the tag. -/
theorem responded_lands (s : State) {x : RemoteReq} (hs : x.stream = .scalar) (word stamp : Word) :
    let key := physKey (4 + x.node) x.addr
    let old := word.toNat % 2 ^ (8 * x.size)
    let new := atomNew x.op x.size old (x.y.toNat % 2 ^ (8 * x.size)) (x.c.toNat % 2 ^ (8 * x.size))
    let t := modGroup (remoteReturn (responded s x word) x stamp) x.group (landing x (x.performed.getD word))
    LandsIn s t x.group x.sup x.dst (x.performed.getD word) ∧
      (x.performed ≠ none → t.mem = s.mem) ∧
      (x.performed = none → mread t.mem key x.size = new.getD old % 2 ^ (8 * x.size) ∧
        ∀ a, a < key ∨ key + x.size ≤ a → mget t.mem a = mget s.mem a) ∧
      ((x.ord = 1 ∨ x.ord = 3) → l1Scope (teamOf s x.group) x.scope.toNat = true → (coreOf t x.core).l1 = []) ∧
      ∀ y ∈ t.dev.remote, ¬(y.core = x.core ∧ y.tag = x.tag ∧ y.group = x.group) := by
  intro key old new t
  obtain ⟨hk, hm, hl1⟩ := remoteReturn_core (responded s x word) x stamp
  have hu := unitKey_responded s x word
  have htm : t.mem = (responded s x word).mem := hm
  have hmem : responded s x word = if x.performed.isSome then unawaited s x else remoteEffect (unawaited s x) x word := rfl
  refine ⟨modGroup_landsIn hs _ ?_, fun hp => ?_, fun hp => ?_, fun ho hsc => hl1 ho ?_, fun y hy hc => ?_⟩
  · exact findGroup_congr (congrArg State.g (hk.trans hu) :) (congrArg State.groups (hk.trans hu) :) x.group
  · rw [htm, hmem, if_pos (Option.isSome_iff_ne_none.mpr hp)]
    rfl
  · rw [htm, hmem, if_neg (by rw [hp]; decide)]
    exact remoteEffect_word _ x word
  · have hteam : teamOf (responded s x word) x.group = teamOf s x.group :=
      teamOf_congr (congrArg State.tm hu :) (congrArg State.teams hu :) _
    rw [hteam, hsc]
  · have hr : t.dev.remote = dropBy (sameReq x) s.dev.remote := (congrArg (fun u : State => u.dev.remote) (hk.trans hu) :)
    rw [hr, dropBy, List.mem_filter] at hy
    simp [sameReq, hc.1, hc.2.1, hc.2.2] at hy

/-! REMOTE_INDETERMINATE. -/

section
variable {s : State} {x : RemoteReq} (hl : s.g.live = true) (hid : s.g.id = s.inp.g)
  (hx : s.dev.remote.find? (fun y => y.group == s.g.id && y.tag == s.inp.idx) = some x)
include hl hid hx

theorem remoteIndeterminate_early (h : s.dev.gtc.toNat < x.sent + 10000000) : exec .remoteIndeterminate s = .next s := by
  show execRemoteIndeterminate s = _
  unfold execRemoteIndeterminate
  rw [onGroup_live hl hid]
  simp [hx, h]

/-- The machine with the request marked failed. -/
def requestFailed (s : State) (x : RemoteReq) : State :=
  { s with dev := { s.dev with remote := modBy (sameReq x) (fun _ => { x with failed := true }) s.dev.remote } }

/-- After 10 ms without an answer the stream takes the trap and the request has failed (R20). -/
theorem remoteIndeterminate_due (hf : s.inp.flag = false) (h : x.sent + 10000000 ≤ s.dev.gtc.toNat) (hn : x.failed = false)
    (hk : s.g.killed = false) (ht : s.g.trapPend = none) :
    exec .remoteIndeterminate s = .next (takeTrap (requestFailed s x)
      ⟨0x11, x.addr, det [(0, x.tag), (4, x.pc), (12, 0)], s.g.ln.mask, x.stream, false⟩) := by
  show execRemoteIndeterminate s = _
  unfold execRemoteIndeterminate
  rw [onGroup_live hl hid]
  simp [hx, hf, hn, hk, ht, Nat.not_lt_of_le h]
  rfl

end

theorem requestFailed_all (s : State) (x : RemoteReq) :
    ∀ y ∈ (requestFailed s x).dev.remote, y.core = x.core → y.tag = x.tag → y.group = x.group → y.failed = true := by
  intro y hy hc ht hg
  simp only [requestFailed, modBy, List.mem_map] at hy
  obtain ⟨z, -, hz⟩ := hy
  split at hz
  · rw [← hz]
  · next hne =>
    subst hz
    simp [sameReq, hc, ht, hg] at hne

end Sys2Proof.Machine
end

section
/-! PROOFS. RDMA over a queue pair of its partition (R21, R154, R157): reads, writes and atomics in the supervisor context of a quiet partition. -/
namespace Sys2Proof.Machine

open Sys2Proof.Claims

/-! A translation does not depend on the L2. -/

theorem markedBack_withL2 (s : State) (v : List L2Line) (part : Nat) (l : Leaf) (write : Bool) :
    markedBack (withL2 s v) part l write = withL2 (markedBack s part l write) v := by
  unfold markedBack
  split <;> rfl

theorem fillTlb_withL2 (s : State) (v : List L2Line) (u part ctx : Nat) (l : Leaf) (write : Bool) :
    fillTlb (withL2 s v) u part ctx l write = (withL2 (fillTlb s u part ctx l write).1 v, (fillTlb s u part ctx l write).2) := by
  rw [fillTlb_eq, fillTlb_eq, markedBack_withL2]
  rfl

theorem walkFill_withL2 {s t : State} {u part ctx va : Nat} {sup write read : Bool} {l : Loc} (v : List L2Line)
    (h : walkFill s u part ctx va sup write read = .ok l t) :
    walkFill (withL2 s v) u part ctx va sup write read = .ok l (withL2 t v) := by
  have hw : walk (withL2 s v) part ctx va = walk s part ctx va := rfl
  unfold walkFill at h ⊢
  rw [hw]
  cases hk : walk s part ctx va with
  | trap n d =>
    rw [hk] at h
    exact absurd h (failOrWait_not_ok _ _ _ _ _ _ _ _)
  | fault k =>
    rw [hk] at h
    cases h
  | leaf f =>
    rw [hk] at h
    dsimp only at h ⊢
    cases hp : permFail f.pte f.level sup write read with
    | some x =>
      rw [hp] at h
      exact absurd h (failOrWait_not_ok _ _ _ _ _ _ _ _)
    | none =>
      rw [hp] at h
      rw [fillTlb_withL2]
      dsimp only at h ⊢
      split at h
      · next hok =>
        cases h
        exact if_pos hok
      · cases h

theorem translate_withL2 {s t : State} {u part ctx va : Nat} {sup write read : Bool} {l : Loc} (v : List L2Line)
    (h : translate s u part ctx va sup write read = .ok l t) :
    translate (withL2 s v) u part ctx va sup write read = .ok l (withL2 t v) := by
  unfold translate at h ⊢
  cases hc : vaCheck va sup with
  | some c =>
    rw [hc] at h
    cases h
  | none =>
    rw [hc] at h
    dsimp only at h ⊢
    split at h
    · next h1 =>
      cases h
      exact if_pos h1
    · next h1 =>
      rw [if_neg h1]
      split at h
      · exact absurd h (failOrWait_not_ok _ _ _ _ _ _ _ _)
      · next h2 =>
        refine (if_neg h2).trans ?_
        rw [show findPart (withL2 s v) part = findPart s part from rfl]
        cases hx : (findPart s part).bind (fun p => tlbFind p u ctx va) with
        | none =>
          rw [hx] at h
          exact walkFill_withL2 v h
        | some e =>
          rw [hx] at h
          dsimp only at h ⊢
          split at h
          · next h3 =>
            rw [if_pos h3]
            exact walkFill_withL2 v h
          · next h3 =>
            rw [if_neg h3]
            cases hp : permFail e.pte.toNat e.level sup write read with
            | some x =>
              rw [hp] at h
              exact absurd h (failOrWait_not_ok _ _ _ _ _ _ _ _)
            | none =>
              rw [hp] at h
              dsimp only at h ⊢
              split at h
              · next hok =>
                cases h
                refine (if_pos hok).trans ?_
                split <;> rfl
              · cases h

/-! Queue pairs. -/

theorem pairOk_held {s : State} (h : pairHeld s) (send : Bool) : pairOk s send = true := by
  unfold pairOk
  simp [h.1, h.2]

theorem takePair_held {s : State} (h : pairHeld s) (reliable : Bool) : takePair s reliable = s := by
  unfold takePair
  rw [h.2]

/-- A queue pair of another partition, or beyond the last, serves nothing (R21). -/
theorem pairOk_foreign {s : State} (h : 65536 ≤ s.inp.idx ∨ ∃ x, sget none s.dev.pairs s.inp.idx = some x ∧ x.part ≠ s.inp.part)
    (send : Bool) : pairOk s send = false := by
  unfold pairOk
  rcases h with h | ⟨x, hx, hp⟩
  · rw [decide_eq_false (Nat.not_lt_of_le h), Bool.false_and]
  · simp [hx, hp]

/-- No operation is done over a pair that is not the partition's (R21). -/
theorem rdma_foreign {s : State} (h : 65536 ≤ s.inp.idx ∨ ∃ x, sget none s.dev.pairs s.inp.idx = some x ∧ x.part ≠ s.inp.part) :
    ∀ i ∈ [Instr.rdmaSend, .rdmaRead, .rdmaWrite, .rdmaAtomic], exec i s = .next s := by
  have hp := pairOk_foreign h
  have hsend : execRdmaSend s = .next s := if_pos (by rw [hp]; simp)
  have hread : execRdmaRead s = .next s := if_pos (by rw [hp]; simp)
  have hwrite : execRdmaWrite s = .next s := if_pos (by rw [hp]; simp)
  have hatomic : execRdmaAtomic s = .next s := if_pos (by rw [hp]; simp)
  intro i hi
  simp only [List.mem_cons, List.not_mem_nil, or_false] at hi
  rcases hi with rfl | rfl | rfl | rfl
  · exact hsend
  · exact hread
  · exact hwrite
  · exact hatomic

/-- A Send over a pair of the partition, or of none yet, which then becomes its own (R21). -/
theorem rdmaSend_delivers {s : State} (hr : s.dev.recovery = false) (hi : s.inp.idx < 65536)
    (hp : ∀ x, sget none s.dev.pairs s.inp.idx = some x → x.part = s.inp.part) :
    exec .rdmaSend s = .next { takePair s (!s.inp.flag) with dev := { (takePair s (!s.inp.flag)).dev with
      rdmaIn := (takePair s (!s.inp.flag)).dev.rdmaIn ++ [(s.inp.port, s.inp.idx, s.inp.data)] } } := by
  have hok : pairOk s true = true := by
    unfold pairOk
    rw [decide_eq_true hi, Bool.true_and]
    split
    · rfl
    · next x hx => simp [hp x hx]
  show execRdmaSend s = _
  unfold execRdmaSend
  rw [hr, hok]
  rfl

theorem takePair_pairs (s : State) (reliable : Bool) :
    takePair s reliable = { s with dev := { s.dev with pairs := (takePair s reliable).dev.pairs } } ∧
    sget none (takePair s reliable).dev.pairs s.inp.idx = some ((sget none s.dev.pairs s.inp.idx).getD ⟨s.inp.part, reliable⟩) ∧
      ∀ j, j ≠ s.inp.idx → sget none (takePair s reliable).dev.pairs j = sget none s.dev.pairs j := by
  unfold takePair
  cases hx : sget none s.dev.pairs s.inp.idx with
  | some x => exact ⟨rfl, hx, fun _ _ => rfl⟩
  | none =>
    refine ⟨rfl, ?_, fun j hj => ?_⟩
    · simp [sget_sput]
    · simp [sget_sput, hj]

/-! Pages. -/

theorem granted_local {s : State} {l : Loc} (part : Nat) (h : l.addr < 4 * spaceSize) : granted part (.ok l s) = .ok l s := by
  simp [granted, MR.bind, grantOk, isRemote_local h]

theorem hostPage_low {s : State} {part va n : Nat} {write : Bool} {l : Loc} (h : HostPage s part va n write l) :
    l.addr + n ≤ 3 * spaceSize ∧ l.addr < 4 * spaceSize := by
  have hs : 0 < spaceSize := by decide
  have := h.inRange
  omega

/-- An RDMA address on a page of the supervisor context. -/
theorem rdmaLoc_page {s : State} {part source va n : Nat} {write : Bool} {l : Loc} (h : HostPage s part va n write l) (ha : va % n = 0) :
    rdmaLoc s (outside part source) va n write (!write) = .ok l s := by
  have hp : translate s (outside part source).unit (outside part source).part (outside part source).ctx va (outside part source).sup write
      (!write) = .ok l s := h.page
  unfold rdmaLoc locate
  simp only [ha, hp, granted_local _ (hostPage_low h).2, bne_self_eq_false, Bool.false_eq_true, if_false]
  rfl

/-- The line at an RDMA address is sound (R265). -/
theorem rdmaLine_page {s : State} {part source va : Nat} {l : Loc} (h : HostPage s part va 1 false l) (he : s.inp.ecc = .clean) :
    rdmaLine s (outside part source) va = (s, true) := by
  unfold rdmaLine
  rw [show rdmaLoc s (outside part source) va 1 false true = .ok l s from rdmaLoc_page h (Nat.mod_one va)]
  simp only [he, lineCheck_clean _ _ _ h.sound]
  rfl

/-! Reads. -/

section
variable {s : State} {part source : Nat} {p : Partition} (q : QuietPart s part p)
include q

theorem engBytes_pages {n va : Nat} {l : Nat → Loc} (hv : va + n ≤ 2 ^ 64) (h : ∀ j, j < n → HostPage s part (va + j) 1 false (l j)) :
    engBytes s (outside part source) n va = .ok ((List.range n).map (fun j => mget s.mem (l j).addr)) s := by
  have qw : QuietPart s (outside part source).part p := q
  induction n generalizing va l with
  | zero => rfl
  | succ n ih =>
    have h0 := h 0 (by omega)
    have hp : translate s (outside part source).unit (outside part source).part (outside part source).ctx (va % 2 ^ 64)
        (outside part source).sup false true = .ok (l 0) s := by
      rw [Nat.mod_eq_of_lt (by omega)]
      exact h0.page
    have hr := ih (va := va + 1) (l := fun j => l (j + 1)) (by omega) (fun j hj => by
      have := h (j + 1) (by omega)
      rwa [show va + (j + 1) = va + 1 + j by omega] at this)
    unfold engBytes
    simp only [hp, granted_local _ (hostPage_low h0).2, MR.bind, readKey_quiet qw, behindDrop_quiet qw,
      cutOff_local s _ (hostPage_low h0).2, h0.sound, hr, Bool.or_self, Bool.false_eq_true, if_false, List.range_succ_eq_map, List.map_cons,
      List.map_map]
    rfl

end

/-- The lines of pages that are read change in the L2 alone (R111). -/
theorem engTouch_pages {s : State} {part source n va : Nat} {l : Nat → Loc} (evict : Nat) (hn : 0 < n) (hv : va + n ≤ 2 ^ 64)
    (h : ∀ j, j < n → HostPage s part (va + j) 1 false (l j)) :
    ∃ v, engTouch s (outside part source) evict n va = withL2 s v := by
  refine foldl_withL2 _ s _ (fun x hx v => ?_)
  obtain ⟨j, hj, rfl⟩ : ∃ j, j < n ∧ x = va + j := by
    simp only [List.mem_cons, List.mem_filter, List.mem_map, List.mem_range] at hx
    rcases hx with rfl | ⟨⟨j, hj, rfl⟩, -⟩
    · exact ⟨0, hn, rfl⟩
    · exact ⟨j, hj, rfl⟩
  have hp : translate (withL2 s v) (outside part source).unit (outside part source).part (outside part source).ctx ((va + j) % 2 ^ 64)
      (outside part source).sup false true = .ok (l j) (withL2 s v) := by
    rw [Nat.mod_eq_of_lt (by omega)]
    exact translate_withL2 v (h j hj).page
  rw [hp]
  exact l2Touch_withL2 _ _ _ _ _ _ _ _

/-- RDMA_READ delivers the bytes (R21). -/
theorem rdmaRead_delivers {s : State} {l : Nat → Loc} {p : Partition} (h : pairHeld s) (he : s.inp.ecc = .clean)
    (hb : RdmaBytes s s.inp.part s.inp.va s.inp.size false l p) :
    ∃ v, exec .rdmaRead s = .next (rdmaReply (withL2 s v) ((List.range s.inp.size).map (fun j => mget s.mem (l j).addr))) := by
  obtain ⟨hn, hv⟩ := hb.low
  obtain ⟨x, hx⟩ := hb.first
  obtain ⟨v, ht⟩ := engTouch_pages (source := 0x300E + s.inp.port % 8) 0 hn hv hb.pages
  refine ⟨v, ?_⟩
  show execRdmaRead s = _
  unfold execRdmaRead
  simp only [pairOk_held h, takePair_held h, hb.quiet.here, rdmaLine_page hx he, engRead, engBytes_pages hb.quiet hv hb.pages, MR.bind,
    Nat.ne_of_gt hn, ht, if_false, Bool.not_true, Bool.or_self, Bool.false_eq_true, Option.isNone_some]

/-- RDMA_ATOMIC performs at the word and delivers what it read (R21, R335). -/
theorem rdmaAtomic_performs {s : State} {l : Loc} {p : Partition} (h : pairHeld s) (he : s.inp.ecc = .clean)
    (q : QuietPart s s.inp.part p) (hx : ∃ x, HostPage s s.inp.part s.inp.va 1 false x) (hl : HostPage s s.inp.part s.inp.va 8 true l)
    (ha : s.inp.va % 8 = 0) (hf : s.inp.flag = false) :
    let x := mread s.mem l.addr 8
    ∃ t, exec .rdmaAtomic s = .next (rdmaReply t (natBytes 8 x)) ∧ Accessed s t s.inp.part p ∧
      t.mem = ((atomNew 0 8 x s.inp.word.toNat s.inp.word2.toNat).map (mwrite s.mem l.addr 8)).getD s.mem := by
  intro x
  obtain ⟨x1, hx1⟩ := hx
  have qw : QuietPart s (outside s.inp.part (0x300E + s.inp.port % 8)).part p := q
  obtain ⟨t, ht, hacc, hm⟩ := atomicAt_quiet qw (fun v => atomNew 0 8 v s.inp.word.toNat s.inp.word2.toNat) 0 hl.local' (hostPage_low hl).1
    hl.sound
  refine ⟨t, ?_, hacc, hm⟩
  have hloc : rdmaLoc s (outside s.inp.part (0x300E + s.inp.port % 8)) s.inp.va 8 true false = .ok l s := rdmaLoc_page hl ha
  show execRdmaAtomic s = _
  unfold execRdmaAtomic
  simp only [pairOk_held h, takePair_held h, q.here, rdmaLine_page hx1 he, hloc, MR.bind, hf, ht, if_false, Bool.not_true, Bool.or_self,
    Bool.false_eq_true, Option.isNone_some]
  rfl

/-! Writes: a shadow published at one point (R154, R157). -/

/-- The bytes of a list with the locations of their pages. -/
def pairUp (l : Nat → Loc) : List Byte → List (Loc × Byte)
  | [] => []
  | b :: r => (l 0, b) :: pairUp (fun j => l (j + 1)) r

theorem mem_pairUp {l : Nat → Loc} {bs : List Byte} {e : Loc × Byte} (h : e ∈ pairUp l bs) : ∃ j, j < bs.length ∧ e.1 = l j := by
  induction bs generalizing l with
  | nil => cases h
  | cons b r ih =>
    rcases List.mem_cons.mp h with rfl | h
    · exact ⟨0, Nat.zero_lt_succ _, rfl⟩
    · obtain ⟨j, hj, he⟩ := ih h
      exact ⟨j + 1, Nat.succ_lt_succ hj, he⟩

/-- Memory with the bytes of a shadow. -/
def putShadow (m : Memory) (sh : List (Loc × Byte)) : Memory := sh.foldl (fun m e => mput m e.1.addr e.2) m

theorem mget_putShadow_other (m : Memory) (sh : List (Loc × Byte)) (a : Nat) (h : ∀ e ∈ sh, a ≠ e.1.addr) :
    mget (putShadow m sh) a = mget m a := by
  induction sh generalizing m with
  | nil => rfl
  | cons e r ih =>
    refine (ih _ (fun x hx => h x (List.mem_cons_of_mem e hx))).trans ?_
    rw [mget_mput, if_neg (h e (List.mem_cons_self ..))]

/-- Bytes at different addresses are all there afterwards. -/
theorem mget_putShadow_pairUp (m : Memory) {l : Nat → Loc} {bs : List Byte}
    (h : ∀ i j, i < bs.length → j < bs.length → (l i).addr = (l j).addr → i = j) :
    ∀ j, j < bs.length → some (mget (putShadow m (pairUp l bs)) (l j).addr) = bs[j]? := by
  induction bs generalizing m l with
  | nil => exact fun j hj => absurd hj (Nat.not_lt_zero j)
  | cons b r ih =>
    intro j hj
    cases j with
    | zero =>
      have hother : ∀ e ∈ pairUp (fun j => l (j + 1)) r, (l 0).addr ≠ e.1.addr := fun e he hc => by
        obtain ⟨j, hj, hl⟩ := mem_pairUp he
        rw [hl] at hc
        exact absurd (h 0 (j + 1) (by simp) (by simpa using hj) hc) (by omega)
      show some (mget (putShadow (mput m (l 0).addr b) (pairUp (fun j => l (j + 1)) r)) (l 0).addr) = some b
      rw [mget_putShadow_other _ _ _ hother, mget_mput, if_pos rfl]
    | succ j =>
      exact ih (mput m (l 0).addr b) (l := fun j => l (j + 1))
        (fun i j hi hj hc => Nat.succ.inj (h (i + 1) (j + 1) (Nat.succ_lt_succ hi) (Nat.succ_lt_succ hj) hc)) j (Nat.lt_of_succ_lt_succ hj)

theorem engLocs_pages {s : State} {part source va : Nat} {bs : List Byte} {l : Nat → Loc} (hv : va + bs.length ≤ 2 ^ 64)
    (h : ∀ j, j < bs.length → HostPage s part (va + j) 1 true (l j)) :
    engLocs s (outside part source) bs va = .ok (pairUp l bs) s := by
  induction bs generalizing va l with
  | nil => rfl
  | cons b r ih =>
    rw [List.length_cons] at hv
    have h0 := h 0 (Nat.zero_lt_succ _)
    have hp : translate s (outside part source).unit (outside part source).part (outside part source).ctx (va % 2 ^ 64)
        (outside part source).sup true false = .ok (l 0) s := by
      rw [Nat.mod_eq_of_lt (by omega)]
      exact h0.page
    have hr := ih (va := va + 1) (l := fun j => l (j + 1)) (by omega) (fun j hj => by
      have := h (j + 1) (Nat.succ_lt_succ hj)
      rwa [show va + (j + 1) = va + 1 + j by omega] at this)
    unfold engLocs
    simp only [hp, granted_local _ (hostPage_low h0).2, MR.bind, hr, pairUp]

theorem lineReps_mem {sh : List (Loc × Byte)} {seen : List Nat} {l : Loc} (h : l ∈ lineReps sh seen) : ∃ e ∈ sh, e.1 = l := by
  induction sh generalizing seen with
  | nil => cases h
  | cons e r ih =>
    unfold lineReps at h
    split at h
    · obtain ⟨x, hx, hl⟩ := ih h
      exact ⟨x, List.mem_cons_of_mem e hx, hl⟩
    · rcases List.mem_cons.mp h with rfl | h
      · exact ⟨e, List.mem_cons_self .., rfl⟩
      · obtain ⟨x, hx, hl⟩ := ih h
        exact ⟨x, List.mem_cons_of_mem e hx, hl⟩

section
variable {s : State} {w : Who} {p : Partition} (q : QuietPart s w.part p)
include q

theorem pubPrep_quiet {ls : List Loc} (h : ∀ l ∈ ls, l.addr < 4 * spaceSize) : pubPrep s w ls = .ok () s := by
  induction ls with
  | nil => rfl
  | cons l r ih =>
    unfold pubPrep
    simp only [behindDrop_quiet q, cutOff_local s l (h l (List.mem_cons_self ..)), prepWrite_quiet q, Bool.or_self, Bool.false_eq_true,
      if_false]
    exact ih (fun x hx => h x (List.mem_cons_of_mem l hx))

/-- One byte of a publish is one byte of memory. -/
theorem pubByte_quiet (source : Nat) {e : Loc × Byte} (h : e.1.addr < 3 * spaceSize) :
    Accessed s (pubByte w source s e) w.part p ∧ (pubByte w source s e).mem = mput s.mem e.1.addr e.2 := by
  have hput : ∀ m : Memory, physPut m e.1.addr e.2 = mput m e.1.addr e.2 := fun m => by
    unfold physPut
    rw [if_neg]
    simp only [Bool.and_eq_true, decide_eq_true_eq]
    omega
  unfold pubByte
  rw [pubKey_quiet q]
  extract_lets key s1
  have h1 : Accessed s s1 w.part p ∧ s1.mem = s.mem := by
    unfold s1
    split
    · exact ⟨.refl q.here, rfl⟩
    · exact ⟨stampWrite_accessed q _ _ _, rfl⟩
  have h2 : Accessed s { s1 with mem := physPut s1.mem key e.2 } w.part p := h1.1.trans ⟨rfl, h1.1.here⟩
  refine ⟨h2.trans (markDirty_accessed (quiet_accessed q h2) key), ?_⟩
  show physPut s1.mem key e.2 = _
  rw [h1.2, hput]

theorem foldl_pubByte_quiet (source : Nat) {sh : List (Loc × Byte)} (h : ∀ e ∈ sh, e.1.addr < 3 * spaceSize) :
    Accessed s (sh.foldl (pubByte w source) s) w.part p ∧ (sh.foldl (pubByte w source) s).mem = putShadow s.mem sh := by
  induction sh generalizing s with
  | nil => exact ⟨.refl q.here, rfl⟩
  | cons e r ih =>
    obtain ⟨h1, hm⟩ := pubByte_quiet q source (h e (List.mem_cons_self ..))
    obtain ⟨h2, hm2⟩ := ih (quiet_accessed q h1) (fun x hx => h x (List.mem_cons_of_mem e hx))
    refine ⟨h1.trans h2, hm2.trans ?_⟩
    rw [hm]
    rfl

end

/-- What a publish from `s` does for each of its lines (R111, R165): the L2, then the watches. -/
def pubLine (s : State) (w : Who) (source evict : Nat) (u : State) (l : Loc) : State :=
  let key := pubKey s w l
  let u1 := l2Touch u w.part key 128 l.cls evict l.t0 true
  if l.watched && key == l.addr then watchWrite u1 w.part s.mem (key - key % 128) 128 w.depth source true else u1

theorem pubLine_quiet {u : State} {w : Who} {p : Partition} (q : QuietPart u w.part p) (s : State) (source evict : Nat) (l : Loc) :
    Accessed u (pubLine s w source evict u l) w.part p ∧ (pubLine s w source evict u l).mem = u.mem := by
  have ht := l2Touch_accessed q.here w.part (pubKey s w l) 128 l.cls evict l.t0 true
  unfold pubLine
  dsimp only
  split
  · rw [watchWrite_quiet (quiet_accessed q ht)]
    exact ⟨ht, l2Touch_mem _ _ _ _ _ _ _ _⟩
  · exact ⟨ht, l2Touch_mem _ _ _ _ _ _ _ _⟩

theorem foldl_pubLine_quiet {u : State} {w : Who} {p : Partition} (q : QuietPart u w.part p) (s : State) (source evict : Nat)
    (ls : List Loc) :
    Accessed u (ls.foldl (pubLine s w source evict) u) w.part p ∧ (ls.foldl (pubLine s w source evict) u).mem = u.mem := by
  induction ls generalizing u with
  | nil => exact ⟨.refl q.here, rfl⟩
  | cons l r ih =>
    obtain ⟨h1, hm⟩ := pubLine_quiet q s source evict l
    obtain ⟨h2, hm2⟩ := ih (quiet_accessed q h1)
    exact ⟨h1.trans h2, hm2.trans hm⟩

/-- A publish for a quiet partition on sound lines writes its bytes (R154, R157). -/
theorem publish_quiet {s : State} {w : Who} {p : Partition} (q : QuietPart s w.part p) (source evict : Nat) {sh : List (Loc × Byte)}
    (h : ∀ e ∈ sh, e.1.addr < 3 * spaceSize) (hp : s.dev.poison = []) :
    ∃ t, publish s w source evict sh = .ok () t ∧ Accessed s t w.part p ∧ t.mem = putShadow s.mem sh := by
  have hdrop : sh.any (fun e => behindDrop s w e.1.va) = false := by
    rw [List.any_eq_false]
    intro e _
    rw [behindDrop_quiet q]
    decide
  have hpart : pubPartial s w sh = false := by
    unfold pubPartial partialByte
    dsimp only
    rw [List.find?_eq_none.mpr]
    · rfl
    · simp [hp]
  have hprep : pubPrep s w (lineReps sh []) = .ok () s := pubPrep_quiet q (fun l hl => by
    obtain ⟨e, he, rfl⟩ := lineReps_mem hl
    have := h e he
    omega)
  obtain ⟨h2, hm2⟩ := foldl_pubByte_quiet q source h
  have hsound : ∀ u, Accessed s u w.part p → ∀ f, Accessed s { u with dev := { u.dev with poison := u.dev.poison.filter f } } w.part p := by
    intro u hu f
    have hf : u.dev.poison.filter f = u.dev.poison := by
      rw [hu.poison, hp]
      rfl
    rw [hf]
    exact hu
  unfold publish
  rw [hdrop, hpart]
  simp only [hprep, MR.bind, Bool.false_eq_true, if_false]
  generalize sh.foldl (pubByte w source) s = u at h2 hm2
  obtain ⟨h4, hm4⟩ := foldl_pubLine_quiet (quiet_accessed q (hsound u h2 _)) s source evict (lineReps sh [])
  exact ⟨_, rfl, (hsound u h2 _).trans h4, hm4.trans hm2⟩

/-- The machine at the end of an RDMA_WRITE: the message is over and reported, or stays open (R21, R157). -/
def partDone (s t : State) : State :=
  if s.inp.flag then rdmaReply (rdmaNext t none) [] else rdmaNext t (some (s.inp.idx, s.inp.va + s.inp.data.length))

theorem rdmaNext_open (t : State) (next : Option (Nat × Nat)) : sget none (rdmaNext t next).dev.rdmaOpen (t.inp.port % 8) = next := by
  simp [rdmaNext, sget_sput]

theorem partDone_spec {s t : State} (hi : t.inp = s.inp) :
    (partDone s t).mem = t.mem ∧
      (partDone s t).dev.rdmaOut = t.dev.rdmaOut ++ (if s.inp.flag then [(s.inp.port, s.inp.idx, [])] else []) ∧
      sget none (partDone s t).dev.rdmaOpen (s.inp.port % 8) =
        if s.inp.flag then none else some (s.inp.idx, s.inp.va + s.inp.data.length) := by
  unfold partDone
  rw [← hi]
  cases t.inp.flag with
  | true => exact ⟨rfl, rfl, rdmaNext_open t none⟩
  | false => exact ⟨rfl, (List.append_nil _).symm, rdmaNext_open t _⟩

/-- RDMA_WRITE of a part that begins its message: the bytes are published, and the message ends or stays open (R21, R157). -/
theorem rdmaWrite_publishes {s : State} {l : Nat → Loc} {p : Partition} (h : pairHeld s) (he : s.inp.ecc = .clean)
    (hb : RdmaBytes s s.inp.part s.inp.va s.inp.data.length true l p) (hn : s.inp.data.length ≤ 2 ^ 24)
    (hw : s.inp.flag = true ∨ s.inp.data.length = 2 ^ 24) (ho : sget none s.dev.rdmaOpen (s.inp.port % 8) = none)
    (hp : s.dev.poison = []) :
    ∃ t, exec .rdmaWrite s = .next (partDone s t) ∧ Accessed s t s.inp.part p ∧ t.mem = putShadow s.mem (pairUp l s.inp.data) := by
  obtain ⟨-, hv⟩ := hb.low
  obtain ⟨x, hx⟩ := hb.first
  have q : QuietPart s (outside s.inp.part (0x300E + s.inp.port % 8)).part p := hb.quiet
  obtain ⟨t, ht, hacc, hm⟩ := publish_quiet q (0x300E + s.inp.port % 8) 0 (sh := pairUp l s.inp.data) (fun e he => by
    obtain ⟨j, hj, hl⟩ := mem_pairUp he
    have := (hostPage_low (hb.pages j hj)).1
    rw [hl]
    omega) hp
  refine ⟨t, ?_, hacc, hm⟩
  have c : (decide (2 ^ 24 < s.inp.data.length) || !s.inp.flag && s.inp.data.length != 2 ^ 24) = false := by
    rcases hw with hw | hw
    · rw [hw, decide_eq_false (Nat.not_lt_of_le hn)]
      rfl
    · simp [hw]
  show execRdmaWrite s = _
  unfold execRdmaWrite
  simp only [c, ho, pairOk_held h, takePair_held h, hb.quiet.here, rdmaLine_page hx he, engLocs_pages hv hb.pages, ht, if_false,
    Bool.not_true, Bool.or_self, Bool.false_eq_true, Option.isNone_some]
  rfl

end Sys2Proof.Machine
end

section
/-! PROOFS. Links, fabric requests, remote atomics and RDMA: O48. -/
namespace Sys2Proof.Claims

open Sys2Proof.Machine

/-- What an atomic's word reads after it has been written, or not, and the other bytes. -/
theorem word_after {m m' : Memory} {a n : Nat} {y : Option Nat} (h : m' = (y.map (mwrite m a n)).getD m) :
    mread m' a n = y.getD (mread m a n) % 2 ^ (8 * n) ∧ ∀ b, b < a ∨ a + n ≤ b → mget m' b = mget m b := by
  have hp : (256 : Nat) ^ n = 2 ^ (8 * n) := by rw [pow_mul]; norm_num
  cases y with
  | none =>
    rw [show m' = m from h]
    exact ⟨(Nat.mod_eq_of_lt (hp ▸ mread_lt m a n)).symm, fun _ _ => rfl⟩
  | some x =>
    rw [show m' = mwrite m a n x from h]
    exact ⟨hp ▸ mread_mwrite m a n x, fun b hb => mget_mwrite_other m a n x b hb⟩

/-- Settles O48: a lemma per event, over the accesses of a quiet partition for what is served here, and the frame of the answer for
what comes back. -/
theorem linksAndRemoteMemory : Obligations.LinksAndRemoteMemory := by
  unfold Obligations.LinksAndRemoteMemory
  intro s p l k r q now ent live ans opens grantsTo
  refine ⟨?_, ?_, fun h => fabricPortDown_early h, fun h hn => linkDown_fails h hn, ?_, ?_, ?_, ?_, ?_, ?_, ?_, ?_, ?_, ?_,
    fun h => remoteAtomicResponse_unknown h, ?_, ?_, ?_, ?_, fun h => rdma_foreign h, ?_, ?_, ?_⟩
  · intro hk hu
    exact ⟨_, fabricFlitCrcRetry_up hk hu, (portOf_put _ _ _ _).trans (if_pos rfl), fun j hj => (portOf_put _ _ _ _).trans (if_neg hj), rfl⟩
  · intro hk hu hr
    obtain ⟨t, e, ht, hp, hm, he⟩ := fabricPortDown_fails hk hu hr
    have hport : ∀ j, portOf t j = if j = k then { portOf s k with up := false } else portOf s j := fun j => by
      rw [portOf, hp, sget_sput]
      rfl
    exact ⟨t, e, ht, by rw [hport, if_pos rfl], fun j hj => by rw [hport, if_neg hj], hm, he⟩
  · intro e he hf
    have hd := fabricRequestDiscard_waiting he hf
    exact ⟨fun ho => hd.trans (by rw [if_pos ho]), fun ho => hd.trans (by rw [if_neg (Nat.not_lt_of_le ho)])⟩
  · intro e he hf hr ho
    exact fabricRequestArrival_old he hf hr ho
  · intro hf h
    exact ⟨(exec_fabricRequestArrival hf).trans (arrive_dead _ h), arrive_dead _ h⟩
  · intro hf hl hr
    exact ⟨fun h => (exec_fabricRequestArrival hf).trans (arrive_behind hl hr h), fun h => arrive_behind hl hr h⟩
  · rintro ⟨hl, hr, hq⟩ hf hg
    have ha : admits s r.part r.node r.reqPart = false := by rw [← Bool.not_eq_true, admits_iff]; exact hg
    exact ⟨_, (exec_fabricRequestArrival hf).trans (arrive_served hl hr hq (serveFabric_refused _ _ ha)), rfl, rfl⟩
  · rintro ⟨hl, hr, hq⟩ hf hg he
    refine ⟨fun hd h => ?_, fun hd hp h => ?_⟩
    · obtain ⟨t, ht, hm, hresp⟩ := serveFabric_read (0x3002 + k) h hg hd
      exact ⟨t, (exec_fabricRequestArrival hf).trans (arrive_served hl hr hq (by rw [he]; exact ht)), hresp, hm⟩
    · obtain ⟨t, ht, hm, hresp⟩ := serveFabric_write (0x3002 + k) h hg hd hp
      refine ⟨t, (exec_fabricRequestArrival hf).trans (arrive_served hl hr hq (by rw [he]; exact ht)), hresp, ?_, fun a ha => ?_⟩
      · rw [hm, mbytes_mwrite]
      · rw [hm, mget_mwrite_other _ _ _ _ _ ha]
  · rintro ⟨hl, hr, hq⟩ hg
    have ha : admits s q.part q.node q.reqPart = false := by rw [← Bool.not_eq_true, admits_iff]; exact hg
    exact ⟨_, arrive_served hl hr hq (serveAtomic_refused _ _ ha), rfl, rfl⟩
  · rintro ⟨hl, hr, hq⟩ hg e he
    exact ⟨_, arrive_served hl hr hq (serveAtomic_replay _ _ ((admits_iff _ _ _ _).mpr hg) he), rfl, rfl⟩
  · rintro ⟨hl, hr, hq⟩ hg hent hn
    exact ⟨_, arrive_served hl hr hq (serveAtomic_busy _ _ ((admits_iff _ _ _ _).mpr hg) (replayOf_none hent) hn), rfl, rfl⟩
  · rintro ⟨hl, hr, hq⟩ hg h hal he hent hn _ x st y
    obtain ⟨t, ht, hm, hrep, hresp⟩ := serveAtomic_performs (0x3002 + k) h hg (replayOf_none hent) hn hal
    obtain ⟨hword, hkept⟩ := word_after hm
    exact ⟨t, entryOf s q x, arrive_served hl hr hq (by rw [he]; exact ht), hresp, hword, hkept, hrep, rfl, rfl, rfl, rfl, rfl, rfl, rfl⟩
  · intro x hl hx
    refine ⟨fun hf hp => ?_, fun hf hs _ => ?_⟩
    · refine ⟨_, _, remoteAtomicResponse_busy hl hx hf hp, rfl, putRequest_out _ _⟩
    · exact ⟨_, remoteAtomicResponse_first hl hx hf, responded_lands s hs _ _⟩
  · intro x hl hid hf hx
    refine ⟨fun h => remoteIndeterminate_early hl hid hx h, fun h hn hk ht => ?_⟩
    exact ⟨_, remoteIndeterminate_due hl hid hx hf h hn hk ht, rfl, requestFailed_all s x⟩
  · intro hr
    exact if_pos (by rw [hr, Bool.true_or])
  · intro hr hi hp
    obtain ⟨hframe, hown, hother⟩ := takePair_pairs s (!s.inp.flag)
    refine ⟨_, rdmaSend_delivers hr hi hp, ?_, hown, hother⟩
    rw [hframe]
  · intro h he hb
    obtain ⟨v, hv⟩ := rdmaRead_delivers h he hb
    exact ⟨_, hv, rfl, rfl⟩
  · intro h he hb ha hs hn hf x
    have hl : HostPage s s.inp.part s.inp.va 8 true (l 0) := ⟨(hb.pages 0 (by decide)).page, (hb.pages 0 (by decide)).local', hn, hs⟩
    obtain ⟨t, ht, hacc, hm⟩ := rdmaAtomic_performs h he hb.quiet hb.first hl ha hf
    obtain ⟨hword, hkept⟩ := word_after hm
    refine ⟨_, ht, ?_, hword.trans ?_, hkept⟩
    · show t.dev.rdmaOut ++ [(t.inp.port, t.inp.idx, _)] = _
      rw [hacc.rdmaOut, hacc.inp]
    · exact Nat.mod_mod _ _
  · intro h he hb hn hw ho hp hinj
    obtain ⟨t, ht, hacc, hm⟩ := rdmaWrite_publishes h he hb hn hw ho hp
    obtain ⟨hmem, hout, hopen⟩ := partDone_spec hacc.inp
    refine ⟨_, ht, fun j hj => ?_, fun a ha => ?_, hout.trans (by rw [hacc.rdmaOut]), hopen⟩
    · rw [hmem, hm]
      exact mget_putShadow_pairUp _ hinj j hj
    · rw [hmem, hm]
      refine mget_putShadow_other _ _ _ (fun e he => ?_)
      obtain ⟨j, hj, hl⟩ := mem_pairUp he
      rw [hl]
      exact ha j hj

end Sys2Proof.Claims
end

section
/-! PROOFS. What a read in the supervisor context depends on (R28, R115 to R118), and the ages of empty sources (R48, R50). -/
namespace Sys2Proof.Machine

open Sys2Proof.Claims

/-- What a memory operation answers, without the state. -/
def MR.val {α : Type} : MR α → Option α
  | .ok a _ => some a
  | _ => none

/-- A partition's TLBs and walk cache (R118). -/
def tablesOf (p : Partition) : List TlbEntry × List WalkEntry := (p.tlb, p.walks)

/-- `t` is `s` but for what no translation for partition `part` reads. -/
structure SameTables (s t : State) (part : Nat) : Prop where
  mem : t.mem = s.mem
  dev : t.dev = s.dev
  tick : t.tick = s.tick
  tables : (findPart t part).map tablesOf = (findPart s part).map tablesOf

/-- A change of partitions that leaves their tables. -/
theorem sameTables_modPart (s : State) (n part : Nat) (f : Partition → Partition) (hn : ∀ p, (f p).num = p.num)
    (hs : ∀ p, ((f p).state != 0) = (p.state != 0)) (ht : ∀ p, tablesOf (f p) = tablesOf p) :
    SameTables s (modPart s n f) part := by
  refine ⟨rfl, rfl, rfl, ?_⟩
  rw [findPart_modPart s n part f hn hs]
  split
  · next h =>
    rw [h, Option.map_map]
    exact congrArg (fun g => (findPart s n).map g) (funext ht)
  · rfl

theorem failOrWait_val (s : State) (part ctx va num : Nat) (d : BitVec 192) : (failOrWait s part ctx va num d).val = none := by
  unfold failOrWait
  split <;> rfl

/-- The place that a walk's leaf gives to an access (R117). -/
theorem walkFill_val (s : State) (u part ctx va : Nat) (sup write read : Bool) :
    (walkFill s u part ctx va sup write read).val = match walk s part ctx va with
      | .leaf l => if (permFail l.pte l.level sup write read).isNone && physOk s.dev.t2Bytes (leafKey (marked l.pte write) va l.size)
          then some (locOf (marked l.pte write) va l.size) else none
      | _ => none := by
  unfold walkFill
  cases walk s part ctx va with
  | trap n d => exact failOrWait_val _ _ _ _ _ _
  | fault k => rfl
  | leaf l =>
    cases hp : permFail l.pte l.level sup write read with
    | some x => simp only [hp, failOrWait_val, Option.isNone_some, Bool.false_and, Bool.false_eq_true, if_false]
    | none =>
      simp only [hp, fillTlb_eq, show ∀ e, (locOf e va l.size).addr = leafKey e va l.size from fun _ => rfl, Option.isNone_none,
        Bool.true_and]
      cases physOk s.dev.t2Bytes (leafKey (marked l.pte write) va l.size) <;> rfl

/-- The place of an address of the control page (R119). -/
def ctlLoc (part va : Nat) : Loc :=
  { scratch := false, partner := false, addr := ctlKey part (va - ctlVA), va := va, watched := false, revcap := false, cls := 0
    t0 := false }

/-- The place that a TLB entry or else a walk gives to an access (R117, R118). -/
theorem translate_val (s : State) (u part ctx va : Nat) (sup write read : Bool) :
    (translate s u part ctx va sup write read).val =
      if (vaCheck va sup).isSome then none
      else if ctlVA ≤ va then some (ctlLoc part va)
      else if ctx = 0 && u = partUnit && rootOf s part 0 = 0 then none
      else match (findPart s part).bind (fun p => tlbFind p u ctx va) with
        | some t =>
          if write && !bit t.pte.toNat 11 then (walkFill s u part ctx va sup write read).val
          else if (permFail t.pte.toNat t.level sup write read).isNone && physOk s.dev.t2Bytes (leafKey t.pte.toNat va t.size)
            then some (locOf t.pte.toNat va t.size) else none
        | none => (walkFill s u part ctx va sup write read).val := by
  unfold translate
  cases vaCheck va sup with
  | some c => rfl
  | none =>
    simp only [Option.isSome_none, Bool.false_eq_true, if_false]
    split
    · rfl
    · split
      · exact failOrWait_val _ _ _ _ _ _
      · cases (findPart s part).bind (fun p => tlbFind p u ctx va) with
        | none => rfl
        | some t =>
          dsimp only
          split
          · rfl
          · cases hp : permFail t.pte.toNat t.level sup write read with
            | some x => simp only [failOrWait_val, Option.isNone_some, Bool.false_and, Bool.false_eq_true, if_false]
            | none =>
              dsimp only
              rw [show (locOf t.pte.toNat va t.size).addr = leafKey t.pte.toNat va t.size from rfl, Option.isNone_none, Bool.true_and]
              cases physOk s.dev.t2Bytes (leafKey t.pte.toNat va t.size) <;> rfl

section
variable {s t : State} {part : Nat} (h : SameTables s t part)
include h

theorem SameTables.bind {β : Type} (f : List TlbEntry × List WalkEntry → Option β) :
    (findPart t part).bind (fun p => f (tablesOf p)) = (findPart s part).bind (fun p => f (tablesOf p)) := by
  have hf : ∀ o : Option Partition, o.bind (fun p => f (tablesOf p)) = (o.map tablesOf).bind f := fun o => by cases o <;> rfl
  rw [hf, hf, h.tables]

theorem rdCached_same (ctx : Nat) : rdCached t part ctx = rdCached s part ctx := by
  have hw : ∀ key, (findPart t part).bind (fun p => p.walks.find? (fun w => w.ctx == ctx && w.key == key)) =
      (findPart s part).bind (fun p => p.walks.find? (fun w => w.ctx == ctx && w.key == key)) := fun key =>
    h.bind (fun x => x.2.find? (fun w => w.ctx == ctx && w.key == key))
  funext level key
  unfold rdCached rdMem
  rw [h.dev, h.mem, h.tick, hw]

theorem walk_same (ctx va : Nat) : walk t part ctx va = walk s part ctx va := by
  unfold walk walkWith rootOf ctlRead
  rw [rdCached_same h, h.dev, h.mem]

theorem tlbFind_same (u ctx va : Nat) :
    (findPart t part).bind (fun p => tlbFind p u ctx va) = (findPart s part).bind (fun p => tlbFind p u ctx va) :=
  h.bind (fun x => tlbFind { noPartition with tlb := x.1 } u ctx va)

theorem walkFill_val_same (u ctx va : Nat) (sup write read : Bool) :
    (walkFill t u part ctx va sup write read).val = (walkFill s u part ctx va sup write read).val := by
  rw [walkFill_val, walkFill_val, walk_same h, h.dev]

theorem translate_val_same (u ctx va : Nat) (sup write read : Bool) :
    (translate t u part ctx va sup write read).val = (translate s u part ctx va sup write read).val := by
  rw [translate_val, translate_val, tlbFind_same h, walkFill_val_same h, h.dev]
  unfold rootOf ctlRead
  rw [h.mem]

/-- What the part reads on the partition's own behalf rests on its bytes and tables alone (R28). -/
theorem supRead_same (va n : Nat) : supRead t part va n = supRead s part va n := by
  have hv : ∀ u : State, supRead u part va n = (translate u partUnit part 0 va true false true).val.bind (fun l =>
      if poisoned u l.addr n then none else some (mread u.mem l.addr n)) := fun u => by
    unfold supRead
    cases translate u partUnit part 0 va true false true <;> rfl
  rw [hv, hv, translate_val_same h]
  unfold poisoned
  rw [h.dev, h.mem]

end

/-- A partition's sources rest on its queues, its tasks and what the part reads on its behalf (R48). -/
theorem sourcesOf_same {s t : State} {p : Partition} (h : SameTables s t p.num) (hk : allTasks t = allTasks s) :
    sourcesOf t p = sourcesOf s p := by
  have hr : ∀ va, recordBytes t p.num va = recordBytes s p.num va := fun va => by
    unfold recordBytes
    simp only [supRead_same h]
  have hq : queueReady t p = queueReady s p := by
    funext k
    simp only [queueReady, prevRuns, hk, hr]
  have hf : ∀ l, frontTickets t p l = frontTickets s p l := fun l => by
    unfold frontTickets findTask
    rw [hk]
  unfold sourcesOf
  rw [hq, hf, hf]

theorem findPart_num {s : State} {n : Nat} {p : Partition} (h : findPart s n = some p) : p.num = n := by
  have := List.find?_some (p := fun q : Partition => q.num == n) h
  simpa using this

/-- A partition whose ages are those that `keep` picks. -/
def agesKept (keep : Nat → Bool) (p : Partition) : Partition := { p with ages := p.ages.filter (fun e => keep e.1) }

theorem agesKept_none {p : Partition} (h : p.ages = []) (keep : Nat → Bool) : agesKept keep p = p := by
  unfold agesKept
  rw [h, List.filter_nil, ← h]

theorem partBecomes_trans {s t u : State} {n : Nat} {p q : Partition} (h : PartBecomes s t n p) (k : PartBecomes t u n q) :
    PartBecomes s u n q :=
  ⟨k.it, fun m hm => (k.others m hm).trans (h.others m hm), by rw [k.rest, h.rest]⟩

theorem partBecomes_refl {s : State} {n : Nat} {p : Partition} (h : findPart s n = some p) : PartBecomes s s n p :=
  ⟨h, fun _ _ => rfl, rfl⟩

/-- A partition after a change of it that keeps its number and whether it exists. -/
theorem partBecomes_modPart {s : State} {n : Nat} {p : Partition} (h : findPart s n = some p) {f : Partition → Partition}
    (hn : ∀ q, (f q).num = q.num) (hs : ∀ q, ((f q).state != 0) = (q.state != 0)) : PartBecomes s (modPart s n f) n (f p) :=
  ⟨by rw [findPart_modPart s n n f hn hs, if_pos rfl, h, Option.map_some],
    fun m hm => (findPart_modPart s n m f hn hs).trans (if_neg hm), rfl⟩

theorem settleAges_eq {s : State} {n : Nat} {p : Partition} (h : findPart s n = some p) :
    settleAges s n = if p.ages.isEmpty then s
      else modPart s n (agesKept (fun k => ((sourcesOf s p).map Prod.fst).contains k)) := by
  unfold settleAges
  rw [h]
  rfl

/-- The sources of a partition are the same once its ages have settled. -/
theorem sourcesOf_settleAges {s : State} {n : Nat} {p : Partition} (h : findPart s n = some p) :
    sourcesOf (settleAges s n) p = sourcesOf s p := by
  rw [settleAges_eq h]
  split
  · rfl
  · exact sourcesOf_same (sameTables_modPart s n p.num _ (fun _ => rfl) (fun _ => rfl) (fun _ => rfl)) rfl

/-- The ages of a partition that stay are those of its sources, and nothing else changes (R50). -/
theorem settleAges_settles {s : State} {n : Nat} {p : Partition} (h : findPart s n = some p) :
    PartBecomes s (settleAges s n) n { p with ages := liveAges (settleAges s n) p } := by
  show PartBecomes s (settleAges s n) n (agesKept (fun k => ((sourcesOf (settleAges s n) p).map Prod.fst).contains k) p)
  rw [sourcesOf_settleAges h, settleAges_eq h]
  split
  · next he =>
    rw [agesKept_none (List.isEmpty_iff.mp he)]
    exact partBecomes_refl h
  · exact partBecomes_modPart h (fun _ => rfl) (fun _ => rfl)

/-- An event that changes a partition and then settles its ages. -/
theorem settleGives_of {i : Instr} {s u : State} {n : Nat} {p : Partition} (he : exec i s = .next (settleAges u n))
    (h : PartBecomes s u n p) : SettleGives i s n p :=
  ⟨_, he, partBecomes_trans h (settleAges_settles h.it)⟩

end Sys2Proof.Machine
end

section
/-! PROOFS. Registers of BAR0 under a write of eight bytes or of four (R28 to R36, R262, R263). -/
namespace Sys2Proof.Machine

open Sys2Proof.Claims

/-! Bits replaced. -/

theorem bytesNat_lt (l : List Byte) : bytesNat l < 256 ^ l.length := by
  induction l with
  | nil => decide
  | cons b r ih =>
    have hb : b.toNat < 256 := b.isLt
    simp only [bytesNat, List.length_cons, Nat.pow_succ]
    omega

/-- All the bits of a register. -/
def allBits : Nat := 2 ^ 64 - 1

theorem mergeBits_all (old : Nat) {v : Nat} (h : v < 2 ^ 64) : mergeBits old v allBits = v := by
  unfold mergeBits allBits
  rw [show 2 ^ 64 - 1 - (2 ^ 64 - 1) % 2 ^ 64 = 0 from rfl, Nat.and_zero, Nat.zero_or, show (2 ^ 64 - 1) % 2 ^ 64 = 2 ^ 64 - 1 from rfl,
    Nat.and_two_pow_sub_one_eq_mod, Nat.mod_eq_of_lt h]

/-- The number with low half `x` and high half `y`, read in halves. -/
theorem halves_eq {n x y : Nat} (hx : n % 2 ^ 32 = x) (hy : n / 2 ^ 32 = y) : n = y * 2 ^ 32 + x := by omega

theorem mergeBits_low {old w : Nat} (ho : old < 2 ^ 64) (hw : w < 2 ^ 32) : mergeBits old w (2 ^ 32 - 1) = old / 2 ^ 32 * 2 ^ 32 + w := by
  refine halves_eq ?_ ?_
  · unfold mergeBits
    rw [Nat.or_mod_two_pow, Nat.and_mod_two_pow, Nat.and_mod_two_pow, show (2 ^ 64 - 1 - (2 ^ 32 - 1) % 2 ^ 64) % 2 ^ 32 = 0 from rfl,
      Nat.and_zero, Nat.zero_or, show (2 ^ 32 - 1) % 2 ^ 64 % 2 ^ 32 = 2 ^ 32 - 1 from rfl, Nat.and_two_pow_sub_one_eq_mod]
    omega
  · unfold mergeBits
    rw [Nat.or_div_two_pow, Nat.and_div_two_pow, Nat.and_div_two_pow,
      show (2 ^ 64 - 1 - (2 ^ 32 - 1) % 2 ^ 64) / 2 ^ 32 = 2 ^ 32 - 1 from rfl, show (2 ^ 32 - 1) % 2 ^ 64 / 2 ^ 32 = 0 from rfl,
      Nat.and_zero, Nat.or_zero, Nat.and_two_pow_sub_one_eq_mod]
    omega

theorem mergeBits_high {old w : Nat} (hw : w < 2 ^ 32) :
    mergeBits old (w * 2 ^ 32) ((2 ^ 32 - 1) * 2 ^ 32) = old % 2 ^ 32 + 2 ^ 32 * w := by
  have h := halves_eq (n := mergeBits old (w * 2 ^ 32) ((2 ^ 32 - 1) * 2 ^ 32)) (x := old % 2 ^ 32) (y := w) ?_ ?_
  · rw [h, Nat.mul_comm, Nat.add_comm]
  · unfold mergeBits
    rw [Nat.or_mod_two_pow, Nat.and_mod_two_pow, Nat.and_mod_two_pow,
      show (2 ^ 64 - 1 - (2 ^ 32 - 1) * 2 ^ 32 % 2 ^ 64) % 2 ^ 32 = 2 ^ 32 - 1 from rfl,
      show (2 ^ 32 - 1) * 2 ^ 32 % 2 ^ 64 % 2 ^ 32 = 0 from rfl, Nat.and_zero, Nat.or_zero, Nat.and_two_pow_sub_one_eq_mod, Nat.mod_mod]
  · unfold mergeBits
    rw [Nat.or_div_two_pow, Nat.and_div_two_pow, Nat.and_div_two_pow,
      show (2 ^ 64 - 1 - (2 ^ 32 - 1) * 2 ^ 32 % 2 ^ 64) / 2 ^ 32 = 0 from rfl,
      show (2 ^ 32 - 1) * 2 ^ 32 % 2 ^ 64 / 2 ^ 32 = 2 ^ 32 - 1 from rfl, Nat.and_zero, Nat.zero_or, Nat.and_two_pow_sub_one_eq_mod]
    omega

/-- A number with its three bits from `lo` on replaced. -/
def setFld3 (x lo f : Nat) : Nat := x - fld x lo 3 * 2 ^ lo + f * 2 ^ lo

theorem fld_mod (x : Nat) {lo n k : Nat} (h : lo + n ≤ k) : fld (x % 2 ^ k) lo n = fld x lo n := by
  obtain ⟨d, rfl⟩ := Nat.exists_eq_add_of_le h
  unfold fld
  rw [Nat.add_assoc, Nat.pow_add, Nat.mod_mul_right_div_self, Nat.pow_add, Nat.mod_mod_of_dvd _ (Nat.dvd_mul_right _ _)]

theorem fld_div (x : Nat) {lo n k : Nat} (h : k ≤ lo) : fld (x / 2 ^ k) (lo - k) n = fld x lo n := by
  unfold fld
  rw [Nat.div_div_eq_div_mul, ← Nat.pow_add, Nat.add_sub_cancel' h]

/-- The replaced bits, and the parts of the number below and above them. -/
theorem setFld3_parts (x lo : Nat) {f : Nat} (hf : f < 8) :
    setFld3 x lo f % 2 ^ lo = x % 2 ^ lo ∧ fld (setFld3 x lo f) lo 3 = f ∧ setFld3 x lo f / 2 ^ (lo + 3) = x / 2 ^ (lo + 3) := by
  have hx := Nat.div_add_mod x (2 ^ lo)
  have hq := Nat.div_add_mod (x / 2 ^ lo) 8
  have hlt := Nat.mod_lt x (Nat.two_pow_pos lo)
  have hs : setFld3 x lo f = 2 ^ lo * (8 * (x / 2 ^ lo / 8) + f) + x % 2 ^ lo := by
    unfold setFld3 fld
    have : x = 2 ^ lo * (8 * (x / 2 ^ lo / 8)) + x / 2 ^ lo % 8 * 2 ^ lo + x % 2 ^ lo := by
      conv_lhs => rw [← hx, ← hq]
      ring
    have h8 : x / 2 ^ lo % 2 ^ 3 = x / 2 ^ lo % 8 := rfl
    rw [h8, Nat.mul_add, Nat.mul_comm _ f]
    omega
  have hd : setFld3 x lo f / 2 ^ lo = 8 * (x / 2 ^ lo / 8) + f := by
    rw [hs, Nat.mul_add_div (Nat.two_pow_pos lo), Nat.div_eq_of_lt hlt, Nat.add_zero]
  refine ⟨by rw [hs, Nat.mul_add_mod, Nat.mod_mod], ?_, ?_⟩
  · unfold fld
    rw [hd]
    omega
  · rw [Nat.pow_add, ← Nat.div_div_eq_div_mul, ← Nat.div_div_eq_div_mul, hd]
    omega

theorem fld_setFld3_other (x : Nat) {lo a f : Nat} (hf : f < 8) (h : a + 3 ≤ lo ∨ lo + 3 ≤ a) :
    fld (setFld3 x lo f) a 3 = fld x a 3 := by
  obtain ⟨hlow, -, hhigh⟩ := setFld3_parts x lo hf
  rcases h with h | h
  · rw [← fld_mod _ h, hlow, fld_mod _ h]
  · rw [← fld_div _ h, hhigh, fld_div _ h]

/-- One field of a class word after a write of all its bits (R263). -/
def sevField (v acc k : Nat) : Nat := if fld v (4 * k) 3 < 6 then setFld3 acc (4 * k) (fld v (4 * k) 3) else acc

theorem fld_sevField (v acc k j : Nat) :
    fld (sevField v acc k) (4 * j) 3 = if j = k ∧ fld v (4 * j) 3 < 6 then fld v (4 * j) 3 else fld acc (4 * j) 3 := by
  unfold sevField
  by_cases hj : j = k
  · subst hj
    split
    · next h => rw [if_pos ⟨rfl, h⟩, (setFld3_parts acc (4 * j) (by omega)).2.1]
    · next h => rw [if_neg (c := j = j ∧ _) (fun hc => h hc.2)]
  · rw [if_neg (c := j = k ∧ _) (fun hc => hj hc.1)]
    split
    · exact fld_setFld3_other acc (by omega) (by omega)
    · rfl

theorem fld_foldl_sevField (v : Nat) (l : List Nat) (acc j : Nat) :
    fld (l.foldl (sevField v) acc) (4 * j) 3 = if j ∈ l ∧ fld v (4 * j) 3 < 6 then fld v (4 * j) 3 else fld acc (4 * j) 3 := by
  induction l generalizing acc with
  | nil => simp
  | cons k r ih =>
    rw [List.foldl_cons, ih, fld_sevField]
    by_cases hv : fld v (4 * j) 3 < 6
    · by_cases hr : j ∈ r <;> simp [hv, hr]
    · simp [hv]

/-- A class word takes the fields below 6 of what is written (R263). -/
theorem fld_sevMerge (old v : Nat) {j : Nat} (hj : j < 6) :
    fld (sevMerge old v allBits) (4 * j) 3 = if fld v (4 * j) 3 < 6 then fld v (4 * j) 3 else fld old (4 * j) 3 := by
  have hs : sevMerge old v allBits = (List.range 6).foldl (sevField v) old := by
    unfold sevMerge
    refine List.foldl_ext _ _ _ (fun acc k hk => ?_)
    have hm : fld allBits (4 * k) 3 = 7 := by
      have : k < 6 := List.mem_range.mp hk
      interval_cases k <;> rfl
    simp only [hm, sevField, setFld3, decide_true, Bool.true_and, decide_eq_true_eq]
  rw [hs, fld_foldl_sevField]
  simp only [List.mem_range, hj, true_and]

/-! What a write does to a partition. -/

/-- `q` has the number of `p`, and exists where `p` does. -/
structure SamePlace (p q : Partition) : Prop where
  num : q.num = p.num
  exists' : (q.state != 0) = (p.state != 0)

theorem SamePlace.ite {p q r : Partition} {c : Prop} [Decidable c] (hq : SamePlace p q) (hr : SamePlace p r) :
    SamePlace p (if c then q else r) := by
  split
  · exact hq
  · exact hr

theorem setRun_samePlace (p : Partition) (run : Bool) : SamePlace p (setRun p run) := by
  refine ⟨rfl, ?_⟩
  unfold setRun
  dsimp only
  split
  · next h =>
    have h0 : p.state ≠ 0 := by
      rintro h0
      simp [h0] at h
    rw [bne_iff_ne.mpr h0]
    cases run <;> rfl
  · rfl

/-- A register write leaves a partition its number, and neither makes nor ends one. -/
theorem regWrite_samePlace (p : Partition) (off v m : Nat) (pf : Bool) : SamePlace p (regWrite p off v m pf) := by
  unfold regWrite
  refine .ite ⟨rfl, (setRun_samePlace p _).exists'⟩ ?_
  dsimp only
  repeat' apply SamePlace.ite
  all_goals exact ⟨rfl, rfl⟩

/-- A register write changes the partition by `regWrite`, and settles its ages (R50). -/
theorem regWrite_becomes {s : State} {p : Partition} (hp : findPart s s.inp.part = some p) (off v m : Nat) :
    PartBecomes s (modPart s s.inp.part (fun q => regWrite q off v m s.inp.flag)) s.inp.part (regWrite p off v m s.inp.flag) :=
  partBecomes_modPart hp (fun q => (regWrite_samePlace q _ _ _ _).num) (fun q => (regWrite_samePlace q _ _ _ _).exists')

/-- The machine after a register write. -/
def regWritten (s : State) (off v m : Nat) : State :=
  settleAges (modPart s s.inp.part (fun q => regWrite q off v m s.inp.flag)) s.inp.part

/-- A write of eight bytes to a register of a virtual function (R28). -/
theorem exec_regWrite8 {s : State} (hl : s.inp.data.length = 8) (ho : s.inp.off % 8 = 0) (hi : s.inp.idx = 0) :
    exec .bar0RegisterWrite s = .next (regWritten s s.inp.off (regWord s).toNat allBits) := by
  have hv : (regWord s).toNat = bytesNat s.inp.data := by
    have := bytesNat_lt s.inp.data
    rw [hl] at this
    exact Nat.mod_eq_of_lt this
  show execBar0RegisterWrite s = _
  unfold execBar0RegisterWrite
  simp [hl, ho, hi, hv, allBits, regWritten]

/-- A write of four bytes to half of a register of a virtual function (R28). -/
theorem exec_regWrite4 {s : State} (hl : s.inp.data.length = 4) (ho : s.inp.off % 4 = 0) (hi : s.inp.idx = 0) :
    exec .bar0RegisterWrite s = .next (regWritten s (s.inp.off - s.inp.off % 8)
      (bytesNat s.inp.data * 2 ^ (8 * (s.inp.off % 8))) ((2 ^ 32 - 1) * 2 ^ (8 * (s.inp.off % 8)))) := by
  show execBar0RegisterWrite s = _
  unfold execBar0RegisterWrite
  simp [hl, ho, hi, regWritten]

/-- A write whose register takes the value `q` makes that the partition, but for the ages of its empty sources. -/
theorem regWrite_settles {s : State} {p q : Partition} (hp : findPart s s.inp.part = some p) {off v m : Nat}
    (he : exec .bar0RegisterWrite s = .next (regWritten s off v m)) (hq : regWrite p off v m s.inp.flag = q) :
    SettleGives .bar0RegisterWrite s s.inp.part q :=
  settleGives_of he (hq ▸ regWrite_becomes hp off v m)

end Sys2Proof.Machine
end

section
/-! PROOFS. O45: the registers of BAR0 and PC_CTL. -/
namespace Sys2Proof.Machine

open Sys2Proof.Claims

/-! The value written, by register. -/

theorem bit_toNat {n : Nat} (v : BitVec n) (k : Nat) : bit v.toNat k = v.getLsbD k := by
  unfold bit
  rw [← BitVec.testBit_toNat, Nat.testBit_eq_decide_div_mod_eq]
  rfl

theorem ofNat_mod_self (n x : Nat) : BitVec.ofNat n (x % 2 ^ n) = BitVec.ofNat n x :=
  BitVec.eq_of_toNat_eq (by simp)

/-- A window base lies on 64 GiB (R29). -/
theorem window_base (v : Word) : BitVec.ofNat 64 (v.toNat / 2 ^ 36 * 2 ^ 36) = v &&& ~~~(0xFFFFFFFFF : Word) := by
  have hlow : ∀ j, (0xFFFFFFFFF : Word).getLsbD j = decide (j < 36) := fun j => by
    rw [← BitVec.testBit_toNat, show (0xFFFFFFFFF : Word).toNat = 2 ^ 36 - 1 from rfl, Nat.testBit_two_pow_sub_one]
  refine BitVec.eq_of_getLsbD_eq fun j hj => ?_
  rw [BitVec.getLsbD_ofNat, BitVec.getLsbD_and, BitVec.getLsbD_not, hlow, Nat.testBit_mul_two_pow, Nat.testBit_div_two_pow]
  by_cases h : 36 ≤ j
  · simp [h, hj, Nat.sub_add_cancel h, BitVec.testBit_toNat]
  · simp [h, Nat.lt_of_not_le h]

section
variable (p : Partition) (v : Word) (pf : Bool)

theorem regWrite_pcCtl : regWrite p 0x10 v.toNat allBits pf = { setRun p (v.getLsbD 0) with drain := v.getLsbD 1 } := by
  simp [regWrite, mergeBits_all _ v.isLt, bit_toNat]

theorem regWrite_winBase : regWrite p 0x20 v.toNat allBits pf = { p with winBase := v &&& ~~~(0xFFFFFFFFF : Word) } := by
  have heq : ∀ w m, regWrite p 0x20 w m pf = { p with winBase := BitVec.ofNat 64 (mergeBits p.winBase.toNat w m / 2 ^ 36 * 2 ^ 36) } :=
    fun _ _ => rfl
  rw [heq, mergeBits_all _ v.isLt, window_base]

theorem regWrite_evCtl : regWrite p 0x48 v.toNat allBits pf =
    { p with evLog2 := BitVec.ofNat 5 (fld v.toNat 0 5), evIe := v.getLsbD 8, evVec := BitVec.ofNat 6 (fld v.toNat 16 6) } := by
  simp [regWrite, mergeBits_all _ v.isLt, bit_toNat]

theorem regWrite_evCons : regWrite p 0x58 v.toNat allBits pf = { p with evCons := BitVec.ofNat 32 (fld v.toNat 0 32) } := by
  have heq : ∀ w m, regWrite p 0x58 w m pf = { p with evCons := BitVec.ofNat 32 (mergeBits p.evCons.toNat w m) } := fun _ _ => rfl
  rw [heq, mergeBits_all _ v.isLt, fld, pow_zero, Nat.div_one, ofNat_mod_self]

theorem regWrite_thot_owner : regWrite p 0x100 v.toNat allBits true =
    { p with thot := BitVec.ofNat 8 (fld v.toNat 0 8), thotLock := v.getLsbD 8 } := by
  simp [regWrite, mergeBits_all _ v.isLt, bit_toNat]

theorem regWrite_thot_function (h : p.thotLock = false) : regWrite p 0x100 v.toNat allBits false =
    { p with thot := BitVec.ofNat 8 (fld v.toNat 0 8) } := by
  simp [regWrite, mergeBits_all _ v.isLt, h]

/-- Read-only registers ignore a write (R29). -/
theorem regWrite_readOnly {off : Nat} (h : off = 0x00 ∨ off = 0x08 ∨ off = 0x18 ∨ off = 0x50 ∨ off = 0x60) (w m : Nat) :
    regWrite p off w m pf = p := by
  rcases h with rfl | rfl | rfl | rfl | rfl <;> rfl

theorem regWrite_queue {k j : Nat} (hk : k < 64) (hj : j < 4) (w m : Nat) : regWrite p (0x1000 + 32 * k + 8 * j) w m pf =
    { p with queues := sput noQueue p.queues k (queueWrite (queueOf p k) j w m) } := by
  have hq : (0x1000 + 32 * k + 8 * j - 0x1000) / 32 = k := by omega
  have hw : (0x1000 + 32 * k + 8 * j) / 8 % 4 = j := by omega
  unfold regWrite
  iterate 8 rw [if_neg (by omega)]
  rw [if_neg (by simp only [Bool.and_eq_true, decide_eq_true_eq]; omega),
    if_pos (by simp only [Bool.and_eq_true, decide_eq_true_eq]; omega)]
  simp only [hq, hw]

theorem regWrite_sev {c : Nat} (h : c ≤ 0x17 ∨ (0x20 ≤ c ∧ c ≤ 0x27)) (w m : Nat) : regWrite p (0x200 + 8 * c) w m pf =
    { p with sev := sput (sevFill (sevDefault c)) p.sev c (BitVec.ofNat 64 (sevMerge (sevWord p c).toNat w m)) } := by
  have hc : (0x200 + 8 * c - 0x200) / 8 = c := by omega
  have hok : sevClassOk c = true := by
    unfold sevClassOk
    simpa only [Bool.or_eq_true, Bool.and_eq_true, decide_eq_true_eq] using h
  unfold regWrite
  iterate 8 rw [if_neg (by omega)]
  rw [if_pos (by simp only [Bool.and_eq_true, decide_eq_true_eq]; omega)]
  simp only [hc, hok, if_true]

end

/-- A write of another key leaves an entry, whatever the default. -/
theorem sget_sput_other {α : Type} [DecidableEq α] (d e : α) (m : Sparse α) {a b : Nat} (h : b ≠ a) (v : α) :
    sget d (sput e m a v) b = sget d m b := by
  unfold sput
  split
  · rw [sget_sdel, if_neg h]
  · rw [sget_sins, if_neg h]

/-- The class words after a write of one (R263). -/
theorem sevWord_written {p q : Partition} {c v : Nat}
    (h : q.sev = sput (sevFill (sevDefault c)) p.sev c (BitVec.ofNat 64 (sevMerge (sevWord p c).toNat v allBits))) :
    (∀ j, j < 6 → fld (sevWord q c).toNat (4 * j) 3 =
      if fld v (4 * j) 3 < 6 then fld v (4 * j) 3 else fld (sevWord p c).toNat (4 * j) 3) ∧
      ∀ d, d ≠ c → sevWord q d = sevWord p d := by
  refine ⟨fun j hj => ?_, fun d hd => ?_⟩
  · have hw : sevWord q c = BitVec.ofNat 64 (sevMerge (sevWord p c).toNat v allBits) := by
      unfold sevWord
      rw [h, sget_sput, if_pos rfl]
      rfl
    rw [hw, BitVec.toNat_ofNat, fld_mod _ (by omega), fld_sevMerge _ _ hj]
  · unfold sevWord
    rw [h, sget_sput_other _ _ _ hd]

/-! Queue descriptors (R32). -/

section
variable (q : Queue) (v : Word)

theorem queueWrite_base : queueWrite q 0 v.toNat allBits = { q with base := v } := by
  simp [queueWrite, mergeBits_all _ v.isLt]

theorem queueWrite_control : queueWrite q 1 v.toNat allBits = { q with
    log2n := BitVec.ofNat 5 (fld v.toNat 0 5), tickets := BitVec.ofNat 8 (fld v.toNat 8 8), preempt := v.getLsbD 16
    enable := v.getLsbD 17, vec := BitVec.ofNat 6 (fld v.toNat 24 6) } := by
  simp [queueWrite, mergeBits_all _ v.isLt, bit_toNat]

theorem queueWrite_tail : queueWrite q 2 v.toNat allBits = { q with tailva := v } := by
  simp [queueWrite, mergeBits_all _ v.isLt]

theorem queueWrite_status : queueWrite q 3 v.toNat allBits = { q with
    qstat := q.qstat &&& ~~~(BitVec.ofNat 3 (fld v.toNat 0 3)), ctx := BitVec.ofNat 8 (fld v.toNat 8 8) } := by
  have hv : v.toNat &&& allBits = v.toNat := by
    rw [allBits, Nat.and_two_pow_sub_one_eq_mod, Nat.mod_eq_of_lt v.isLt]
  have h3 : BitVec.ofNat 3 (fld v.toNat 0 3) = BitVec.ofNat 3 v.toNat := by
    rw [fld, ofNat_mod_self, pow_zero, Nat.div_one]
  simp only [queueWrite, mergeBits_all _ v.isLt, hv, h3]

end

theorem queueOf_put {p p' : Partition} {k : Nat} {q : Queue} (h : p'.queues = sput noQueue p.queues k q) (j : Nat) :
    queueOf p' j = if j = k then q else queueOf p j := by
  unfold queueOf
  rw [h, sget_sput]

/-- One queue of a partition alone is put. -/
theorem queueBecomes_put {s t : State} {n k : Nat} {p p' : Partition} {q : Queue} (hp : findPart s n = some p)
    (ht : findPart t n = some p') (hq : p'.queues = sput noQueue p.queues k q) : QueueBecomes s t n k q :=
  ⟨p, p', hp, ht, by rw [queueOf_put hq, if_pos rfl], fun j hj => by rw [queueOf_put hq, if_neg hj]⟩

/-! Writes of whole registers and of halves. -/

theorem mergeBits_half {old off w : Nat} (ho : old < 2 ^ 64) (hw : w < 2 ^ 32) (h4 : off % 4 = 0) :
    mergeBits old (w * 2 ^ (8 * (off % 8))) ((2 ^ 32 - 1) * 2 ^ (8 * (off % 8))) =
      if off % 8 = 0 then old / 2 ^ 32 * 2 ^ 32 + w else old % 2 ^ 32 + 2 ^ 32 * w := by
  split
  · next h =>
    rw [h]
    exact (mergeBits_low ho (by omega)).trans (by omega)
  · rw [show off % 8 = 4 by omega]
    exact mergeBits_high hw

/-- What a half of EV_CONS takes: the low half its value, the high half nothing (R37). -/
theorem mergeBits_evCons (c : BitVec 32) {w : Nat} (hw : w < 2 ^ 32) :
    BitVec.ofNat 32 (mergeBits c.toNat w (2 ^ 32 - 1)) = BitVec.ofNat 32 w ∧
      BitVec.ofNat 32 (mergeBits c.toNat (w * 2 ^ 32) ((2 ^ 32 - 1) * 2 ^ 32)) = c := by
  have hc := c.isLt
  refine ⟨?_, BitVec.eq_of_toNat_eq ?_⟩
  · rw [mergeBits_low (by omega) hw]
    congr 1
    omega
  · rw [mergeBits_high hw, BitVec.toNat_ofNat]
    omega

theorem regWrite_evCons_halves (p : Partition) (pf : Bool) {w : Nat} (hw : w < 2 ^ 32) :
    regWrite p 0x58 w (2 ^ 32 - 1) pf = { p with evCons := BitVec.ofNat 32 w } ∧
      regWrite p 0x58 (w * 2 ^ 32) ((2 ^ 32 - 1) * 2 ^ 32) pf = p := by
  obtain ⟨hlow, hhigh⟩ := mergeBits_evCons p.evCons hw
  have heq : ∀ v m, regWrite p 0x58 v m pf = { p with evCons := BitVec.ofNat 32 (mergeBits p.evCons.toNat v m) } := fun _ _ => rfl
  rw [heq, heq, hlow, hhigh]
  exact ⟨rfl, rfl⟩

theorem bytesNat_half {l : List Byte} (h : l.length = 4) : bytesNat l < 2 ^ 32 := by
  have := bytesNat_lt l
  rwa [h] at this

/-- The partition after a register write. -/
theorem findPart_regWritten {s : State} {p : Partition} (hp : findPart s s.inp.part = some p) (off v m : Nat) :
    ∃ a, findPart (regWritten s off v m) s.inp.part = some { regWrite p off v m s.inp.flag with ages := a } :=
  ⟨_, (settleAges_settles (regWrite_becomes hp off v m).it).it⟩

/-- The commands of MB_CMD, each the step of its name (R39). -/
theorem startCommand_mail (s : State) : ∀ c ∈ mailCodes, startCommand s c.1 = exec c.2 s := by
  intro c hc
  simp only [mailCodes, List.mem_cons, List.not_mem_nil, or_false] at hc
  rcases hc with rfl | rfl | rfl | rfl | rfl | rfl | rfl | rfl | rfl <;> rfl

/-- A write of MB_CMD starts the command of its value (R39). -/
theorem exec_mbCmd {s : State} (hi : s.inp.idx = 1) (hl : s.inp.data.length = 8) (ho : s.inp.off = 0) :
    exec .bar0RegisterWrite s = startCommand s (regWord s).toNat := by
  have hlt := bytesNat_lt s.inp.data
  rw [hl] at hlt
  have hm : ∀ x, mergeBits x (bytesNat s.inp.data) 18446744073709551615 = bytesNat s.inp.data := fun x => mergeBits_all x hlt
  have hv : (regWord s).toNat = bytesNat s.inp.data := Nat.mod_eq_of_lt hlt
  show execBar0RegisterWrite s = _
  unfold execBar0RegisterWrite
  simp [hl, ho, hi, hv, hm]

/-- The argument area of the mailbox takes what is written to it (R39). -/
theorem exec_mbArgs {s : State} (hi : s.inp.idx = 1) (hl : s.inp.data.length = 8) (ho : s.inp.off % 8 = 0) (hlo : 0x1000 ≤ s.inp.off)
    (hhi : s.inp.off < 0x2000) : exec .bar0RegisterWrite s =
      .next { s with dev := { s.dev with mbArgs := mputs s.dev.mbArgs (s.inp.off - 0x1000) s.inp.data } } := by
  show execBar0RegisterWrite s = _
  unfold execBar0RegisterWrite
  simp [hl, ho, hi, hlo, hhi, Nat.not_lt.mpr (Nat.le_trans (by decide : 8 ≤ 0x1000) hlo)]

/-- A write of another size, or a misaligned one, is ignored (R28). -/
theorem exec_regWrite_ignored {s : State}
    (h : (s.inp.data.length ≠ 4 ∧ s.inp.data.length ≠ 8) ∨ s.inp.off % s.inp.data.length ≠ 0) :
    exec .bar0RegisterWrite s = .next s := by
  have hc : (!((s.inp.data.length == 4 || s.inp.data.length == 8) && s.inp.off % s.inp.data.length == 0)) = true := by
    rcases h with ⟨h4, h8⟩ | h
    · simp [h4, h8]
    · simp [h]
  show execBar0RegisterWrite s = _
  unfold execBar0RegisterWrite
  exact if_pos hc

end Sys2Proof.Machine

namespace Sys2Proof.Claims

open Sys2Proof Sys2Proof.Machine

/-- Settles O45: every register write is a change of the partition by `regWrite`, read off register by register, before the ages of
its empty sources are settled. -/
theorem hostRegisterWrites : Obligations.HostRegisterWrites := by
  unfold Obligations.HostRegisterWrites
  intro s p n off v b on i
  have hon : ∀ x, setRun p x = on x := fun x => by
    simp only [setRun, on, Bool.or_eq_true, decide_eq_true_eq]
  refine ⟨exec_regWrite_ignored, fun hp => ⟨?_, ?_, ?_⟩, fun hp hl ho hi => ?_, fun hp hl ho hi => ?_, fun hi hl ho c hc hv => ?_,
    fun hi hl ho hlo hhi => exec_mbArgs hi hl ho hlo hhi⟩
  · exact settleGives_of (p := on s.inp.flag) rfl (hon _ ▸ partBecomes_modPart (f := fun q => setRun q s.inp.flag) hp
      (fun q => (setRun_samePlace q _).num) (fun q => (setRun_samePlace q _).exists'))
  · exact settleGives_of rfl (partBecomes_modPart hp (fun _ => rfl) (fun _ => rfl))
  · exact ⟨_, rfl, partBecomes_modPart hp (fun _ => rfl) (fun _ => rfl)⟩
  · have he : exec i s = .next (regWritten s off v.toNat allBits) := exec_regWrite8 hl ho hi
    have gives : ∀ {o : Nat} {q : Partition}, regWrite p o v.toNat allBits s.inp.flag = q → off = o → SettleGives i s n q :=
      fun hq h => regWrite_settles hp he (h ▸ hq)
    obtain ⟨a, ha⟩ := findPart_regWritten hp off v.toNat allBits
    refine ⟨gives (hon _ ▸ regWrite_pcCtl p v _), gives (regWrite_winBase p v _), gives ?_, gives (regWrite_evCtl p v _),
      gives (regWrite_evCons p v _), fun h hf => gives (hf ▸ regWrite_thot_owner p v) h,
      fun h hf hk => gives (hf ▸ regWrite_thot_function p v hk) h, gives ?_, gives ?_,
      fun h => gives (regWrite_readOnly p _ h _ _) rfl, fun c hc h => ?_, fun k hk => ⟨_, he, ?_, ?_, ?_, ?_⟩⟩
    · simp [regWrite, mergeBits_all _ v.isLt]
    · simp [regWrite, mergeBits_all _ v.isLt]
    · simp [regWrite, mergeBits_all _ v.isLt]
    · obtain ⟨hword, hothers⟩ := sevWord_written (q := { regWrite p off v.toNat allBits s.inp.flag with ages := a }) (p := p) (c := c)
        (by rw [h, regWrite_sev p _ hc])
      exact ⟨_, _, he, ha, hword, hothers⟩
    all_goals intro h
    · refine queueBecomes_put hp ha ?_
      rw [show off = 0x1000 + 32 * k + 8 * 0 by omega, regWrite_queue p _ hk (by decide), queueWrite_base]
    · refine queueBecomes_put hp ha ?_
      rw [show off = 0x1000 + 32 * k + 8 * 1 by omega, regWrite_queue p _ hk (by decide), queueWrite_control]
      rfl
    · refine queueBecomes_put hp ha ?_
      rw [show off = 0x1000 + 32 * k + 8 * 2 by omega, regWrite_queue p _ hk (by decide), queueWrite_tail]
    · refine queueBecomes_put hp ha ?_
      rw [show off = 0x1000 + 32 * k + 8 * 3 by omega, regWrite_queue p _ hk (by decide), queueWrite_status]
      rfl
  · intro w half
    have hw : w < 2 ^ 32 := bytesNat_half hl
    have he := exec_regWrite4 hl ho hi
    have hhalf : ∀ old : Word, BitVec.ofNat 64 (mergeBits old.toNat (w * 2 ^ (8 * (off % 8))) ((2 ^ 32 - 1) * 2 ^ (8 * (off % 8)))) =
        half old := fun old => by rw [mergeBits_half old.isLt hw ho]
    refine ⟨fun h => regWrite_settles hp he ?_, fun h => regWrite_settles hp he ?_, fun h => regWrite_settles hp he ?_,
      fun h => regWrite_settles hp he ?_, fun h => regWrite_settles hp he ?_⟩
    · rw [show s.inp.off - s.inp.off % 8 = 0x40 by omega, ← hhalf]
      rfl
    · rw [show s.inp.off - s.inp.off % 8 = 0x110 by omega, ← hhalf]
      rfl
    · rw [show s.inp.off - s.inp.off % 8 = 0x118 by omega, ← hhalf]
      rfl
    · rw [show s.inp.off = 0x58 from h]
      simpa using (regWrite_evCons_halves p s.inp.flag hw).1
    · rw [show s.inp.off = 0x5C from h]
      simpa using (regWrite_evCons_halves p s.inp.flag hw).2
  · rw [exec_mbCmd hi hl ho, show (regWord s).toNat = c.1 from hv]
    exact startCommand_mail s c hc

end Sys2Proof.Claims
end

section
/-! PROOFS. The BAR2 window (R28), and launch queues as the Work Distributor meets them (R31 to R33). -/
namespace Sys2Proof.Machine

open Sys2Proof.Claims

/-! What the posting of a record leaves of the partitions (R37). -/

/-- A partition without its tables, its dirty lines and the counts of its event ring. -/
def unposted (p : Partition) : Partition := { p with tlb := [], walks := [], dirty := [], evProd := 0, evLost := 0 }

/-- The partitions of `t` are those of `s`, but for what translations and event records change. -/
def PartsKept (s t : State) : Prop := ∀ n, (findPart t n).map unposted = (findPart s n).map unposted

theorem PartsKept.trans {s t u : State} (h : PartsKept s t) (k : PartsKept t u) : PartsKept s u := fun n => (k n).trans (h n)

theorem PartsKept.ite {s t u : State} {c : Prop} [Decidable c] (ht : PartsKept s t) (hu : PartsKept s u) :
    PartsKept s (if c then t else u) := by
  split
  · exact ht
  · exact hu

theorem PartsKept.modPart {s t : State} (h : PartsKept s t) (n : Nat) (f : Partition → Partition)
    (hf : ∀ p, unposted (f p) = unposted p := by intro p; rfl) : PartsKept s (modPart t n f) := by
  refine h.trans fun m => ?_
  have hn : ∀ p, (f p).num = p.num := fun p => (congrArg Partition.num (hf p) :)
  have hs : ∀ p, ((f p).state != 0) = (p.state != 0) := fun p => (congrArg (fun q => q.state != 0) (hf p) :)
  rw [findPart_modPart t n m f hn hs]
  split
  · next e =>
    subst e
    rw [Option.map_map]
    exact congrArg (fun g => (findPart t m).map g) (funext hf)
  · rfl

theorem PartsKept.markDirtyRange {s t : State} (h : PartsKept s t) (part key n : Nat) : PartsKept s (markDirtyRange t part key n) :=
  h.modPart part _ (fun p => by dsimp only; split <;> rfl)

theorem PartsKept.tlbFill {s t : State} (h : PartsKept s t) (part u : Nat) (e : TlbEntry) : PartsKept s (tlbFill t part u e) :=
  h.modPart part _

theorem PartsKept.fillTlb (s : State) (u part ctx : Nat) (l : Leaf) (write : Bool) :
    PartsKept s (fillTlb s u part ctx l write).1 := by
  rw [fillTlb_eq]
  refine PartsKept.tlbFill (PartsKept.modPart ?_ part _) part u _
  unfold markedBack
  exact .ite (fun _ => rfl) (PartsKept.markDirtyRange (fun _ => rfl) part _ 8)

theorem PartsKept.walkFill {s t : State} {u part ctx va : Nat} {sup write read : Bool} {l : Loc}
    (h : walkFill s u part ctx va sup write read = .ok l t) : PartsKept s t := by
  unfold Machine.walkFill at h
  split at h
  · exact absurd h (failOrWait_not_ok _ _ _ _ _ _ _ _)
  · cases h
  · split at h
    · exact absurd h (failOrWait_not_ok _ _ _ _ _ _ _ _)
    · dsimp only at h
      split at h
      · cases h
        exact .fillTlb s u part ctx _ write
      · cases h

theorem PartsKept.translate {s t : State} {u part ctx va : Nat} {sup write read : Bool} {l : Loc}
    (h : translate s u part ctx va sup write read = .ok l t) : PartsKept s t := by
  unfold Machine.translate at h
  split at h
  · cases h
  · split at h
    · cases h
      exact fun _ => rfl
    · split at h
      · exact absurd h (failOrWait_not_ok _ _ _ _ _ _ _ _)
      · split at h
        · split at h
          · exact .walkFill h
          · split at h
            · exact absurd h (failOrWait_not_ok _ _ _ _ _ _ _ _)
            · dsimp only at h
              split at h
              · cases h
                exact .ite (fun _ => rfl) (.tlbFill (fun _ => rfl) part u _)
              · cases h
        · exact .walkFill h

theorem PartsKept.supWrite {s t : State} {part va : Nat} {bs : List Byte} (h : supWrite s part va bs = some t) : PartsKept s t := by
  unfold Machine.supWrite at h
  split at h
  · next hl =>
    cases h
    exact (PartsKept.translate hl).trans (PartsKept.markDirtyRange (fun _ => rfl) part _ _)
  · cases h

/-- A record changes the event ring, the tables and the dirty lines of partitions alone (R37). -/
theorem PartsKept.postEvent (s : State) (part : Nat) (e : EventRec) (force : Bool) : PartsKept s (postEvent s part e force) := by
  have lose : PartsKept s (loseRecord s part) := PartsKept.modPart (fun _ => rfl) part _
  have send : ∀ {t : State} (c : Bool) (p : Partition) (vec : Nat), PartsKept s t → PartsKept s (if c then sendMsix t p vec else t) :=
    fun _ _ _ h => .ite h h
  unfold Machine.postEvent
  split
  · exact fun _ => rfl
  · dsimp only
    apply send
    split
    · exact lose
    · split
      · exact lose
      · split
        · exact lose
        · next hw => exact PartsKept.modPart (.supWrite hw) part _

/-- The partition found after such a change has the queues of the one found before. -/
theorem PartsKept.queues {s t : State} (h : PartsKept s t) {n : Nat} {p : Partition} (hp : findPart s n = some p) :
    ∃ q, findPart t n = some q ∧ q.queues = p.queues := by
  have := h n
  rw [hp] at this
  obtain ⟨q, hq, e⟩ := Option.map_eq_some_iff.mp this
  exact ⟨q, hq, (congrArg Partition.queues e :)⟩

/-! One queue of a partition changes. -/

theorem queueBecomes_refl {s : State} {n : Nat} {p : Partition} (h : findPart s n = some p) (k : Nat) :
    QueueBecomes s s n k (queueOf p k) := ⟨p, p, h, h, rfl, fun _ _ => rfl⟩

theorem queueBecomes_kept {s t u : State} {n k : Nat} {q : Queue} (h : QueueBecomes s t n k q)
    (hu : ∀ p, findPart t n = some p → ∃ p', findPart u n = some p' ∧ p'.queues = p.queues) : QueueBecomes s u n k q := by
  obtain ⟨p, p1, hp, h1, hk, hothers⟩ := h
  obtain ⟨p2, h2, hq⟩ := hu p1 h1
  have hsame : ∀ j, queueOf p2 j = queueOf p1 j := fun j => by rw [queueOf, hq, queueOf]
  exact ⟨p, p2, hp, h2, (hsame k).trans hk, fun j hj => (hsame j).trans (hothers j hj)⟩

theorem queueBecomes_settle {s t : State} {n k : Nat} {q : Queue} (h : QueueBecomes s t n k q) :
    QueueBecomes s (settleAges t n) n k q :=
  queueBecomes_kept h (fun _ hp => ⟨_, (settleAges_settles hp).it, rfl⟩)

theorem queueBecomes_postEvent {s t : State} {n k : Nat} {q : Queue} (h : QueueBecomes s t n k q) (e : EventRec) (force : Bool) :
    QueueBecomes s (postEvent t n e force) n k q :=
  queueBecomes_kept h (fun _ hp => (PartsKept.postEvent t n e force).queues hp)

/-- A partition with a queue changed by `f`. -/
def withQueue (p : Partition) (k : Nat) (f : Queue → Queue) : Partition := { p with queues := sput noQueue p.queues k (f (queueOf p k)) }

theorem findPart_modQueue {s : State} {n : Nat} {p : Partition} (h : findPart s n = some p) (k : Nat) (f : Queue → Queue) :
    findPart (modQueue s n k f) n = some (withQueue p k f) :=
  (partBecomes_modPart (f := fun p => withQueue p k f) h (fun _ => rfl) (fun _ => rfl)).it

theorem queueOf_withQueue (p : Partition) (k : Nat) (f : Queue → Queue) : queueOf (withQueue p k f) k = f (queueOf p k) := by
  rw [queueOf_put (p' := withQueue p k f) (p := p) rfl, if_pos rfl]

theorem queueBecomes_modQueue {s t : State} {n k : Nat} {q : Queue} (h : QueueBecomes s t n k q) (f : Queue → Queue) :
    QueueBecomes s (modQueue t n k f) n k (f q) := by
  obtain ⟨p, p1, hp, h1, rfl, hothers⟩ := h
  refine ⟨p, _, hp, findPart_modQueue h1 k f, queueOf_withQueue p1 k f, fun j hj => ?_⟩
  rw [queueOf_put (p' := withQueue p1 k f) (p := p1) rfl, if_neg hj, hothers j hj]

/-- What the part reads on a partition's behalf does not depend on its queues. -/
theorem supRead_modQueue (s : State) (n k part va len : Nat) (f : Queue → Queue) :
    supRead (modQueue s n k f) part va len = supRead s part va len :=
  supRead_same (sameTables_modPart s n part (fun p => withQueue p k f) (fun _ => rfl) (fun _ => rfl) (fun _ => rfl)) va len

/-! The Work Distributor looks at a queue (R33). -/

theorem queueBad_base {q : Queue} (h : q.base.toNat % 128 ≠ 0) (s : State) (n : Nat) : queueBad s n q = some 0 := by
  unfold queueBad
  rw [if_pos (bne_iff_ne.mpr h)]

theorem queueActive_of {p : Partition} (hs : p.state = 1 ∨ p.state = 2) {q : Queue} (ho : q.enable = true ∧ q.tickets ≠ 0)
    (hq : q.qstat.getLsbD 0 = false) : queueActive p q = true := by
  unfold queueActive
  rw [ho.1, hq, bne_iff_ne.mpr ho.2]
  rcases hs with h | h <;> rw [h] <;> rfl

theorem queueBad_good {s : State} {n : Nat} {p : Partition} {q : Queue} {x : Nat} (h : QueueGood s n p q x) : queueBad s n q = none := by
  obtain ⟨hlo, hhi⟩ := h.size
  obtain ⟨hal, hx⟩ := h.tail
  unfold queueBad
  simp [h.base, Nat.not_lt.mpr hlo, Nat.not_lt.mpr hhi, hal, hx]

section
variable {s : State} {n k : Nat} {p : Partition} (hp : findPart s n = some p)
include hp

/-- A queue that is off, or has no tickets, is left alone (R32). -/
theorem wakeQueue_off (h : (queueOf p k).enable = false ∨ (queueOf p k).tickets = 0) : wakeQueue s n k = s := by
  have ha : queueActive p (queueOf p k) = false := by
    unfold queueActive
    rcases h with h | h <;> simp [h]
  unfold wakeQueue
  simp only [hp, ha, Bool.not_false, if_true]

/-- An invalid queue of a partition that takes no records is left alone (R33; log 116). -/
theorem wakeQueue_paused (hr : p.run = false ∨ p.drain = true) (hb : (queueOf p k).base.toNat % 128 ≠ 0) : wakeQueue s n k = s := by
  have hon : queueOn p (queueOf p k) = false := by
    unfold queueOn
    rcases hr with h | h <;> simp [h]
  unfold wakeQueue
  simp only [hp, queueBad_base hb s n, hon, Bool.false_eq_true, if_false, ite_self]

/-- An invalid queue is stopped when records may be taken (R33; log 116). -/
theorem wakeQueue_invalid (hr : p.run = true) (hd : p.drain = false) (ha : queueActive p (queueOf p k) = true)
    (hb : (queueOf p k).base.toNat % 128 ≠ 0) :
    wakeQueue s n k = launchError (stopQueue s n k 4) n k (0x1000 + 32 * k) 0 4 0 := by
  have hon : queueOn p (queueOf p k) = true := by
    unfold queueOn
    rw [hr, hd, ha]
    rfl
  unfold wakeQueue
  simp only [hp, queueBad_base hb s n, hon, ha, Bool.not_true, Bool.false_eq_true, if_false, if_true]

/-- The tail of an active queue with a good descriptor is taken; an overflow stops the queue (R33). -/
theorem wakeQueue_good {x : Nat} (h : QueueGood s n p (queueOf p k) x) (hq : (queueOf p k).qstat.getLsbD 0 = false) :
    wakeQueue s n k =
      if 2 ^ (queueOf p k).log2n.toNat < (BitVec.ofNat 32 x - (queueOf p k).head).toNat then
        postEvent (stopQueue (modQueue s n k (fun y => { y with tail := BitVec.ofNat 32 x })) n k 2) n
          { noneRec 0x0004 distSource (queueOf p k).ctx.toNat 0 0 with queue := k } false
      else modQueue s n k (fun y => { y with tail := BitVec.ofNat 32 x }) := by
  unfold wakeQueue
  simp only [hp, queueActive_of h.ready h.on hq, queueBad_good h, h.tail.2, Bool.not_true, Bool.false_eq_true, if_false, Option.getD_some]

end

theorem exec_tailWord {s : State} (hk : s.inp.idx < 64) :
    exec .tailWordEvent s = .next (settleAges (wakeQueue s s.inp.part s.inp.idx) s.inp.part) := if_pos hk

/-- The ones of `word` clear bits of QSTAT (R32). -/
def clearStat (w : Word) (q : Queue) : Queue := { q with qstat := q.qstat &&& ~~~(zx 3 w) }

theorem exec_queueStopClear {s : State} (hk : s.inp.idx < 64) :
    exec .queueStopClear s = .next (settleAges (wakeQueue (modQueue s s.inp.part s.inp.idx (clearStat s.inp.word)) s.inp.part s.inp.idx)
      s.inp.part) := if_neg (Nat.not_le.mpr hk)

/-- New quotas as a partition's entry holds them, put into an entry (R41). -/
def quotaSet (p q : Partition) : Partition :=
  match p.quotaPend with
  | none => q
  | some (share, ways, classWays) => { q with share := share, ways := ways, classWays := classWays, quotaPend := none }

theorem quotaSet_twice (p : Partition) : quotaSet p (quotaSet p p) = quotaSet p p := by
  unfold quotaSet
  split <;> rfl

/-- A partition's step at a frame boundary (R41). -/
def quotaStep (u : State) (p : Partition) : State :=
  match p.quotaPend with
  | none => u
  | some (share, ways, classWays) =>
    modPart u p.num (fun q => { q with share := share, ways := ways, classWays := classWays, quotaPend := none })

theorem findPart_quotaStep (u : State) (p : Partition) (j : Nat) :
    findPart (quotaStep u p) j = if j = p.num then (findPart u p.num).map (quotaSet p) else findPart u j := by
  unfold quotaStep quotaSet
  cases p.quotaPend with
  | none =>
    dsimp only
    split
    · next h => rw [h, Option.map_id']
    · rfl
  | some x =>
    obtain ⟨share, ways, classWays⟩ := x
    exact findPart_modPart u p.num j _ (fun _ => rfl) (fun _ => rfl)

/-- Partition `j`, whose entries in a list of partitions are all `r`, after their steps. -/
theorem findPart_foldl_quotaStep {j : Nat} {r : Partition} (hr : r.num = j) (l : List Partition) (hl : ∀ p ∈ l, p.num = j → p = r)
    (u : State) (hu : (findPart u j = some r ∧ r ∈ l) ∨ findPart u j = some (quotaSet r r)) :
    findPart (l.foldl quotaStep u) j = some (quotaSet r r) := by
  induction l generalizing u with
  | nil => exact hu.resolve_left (fun h => List.not_mem_nil h.2)
  | cons p l ih =>
    have hl' : ∀ p ∈ l, p.num = j → p = r := fun q hq => hl q (List.mem_cons_of_mem p hq)
    by_cases hj : p.num = j
    · obtain rfl : p = r := hl p (List.mem_cons_self ..) hj
      refine ih hl' _ (.inr ?_)
      rw [findPart_quotaStep, if_pos hj.symm, hj]
      rcases hu with ⟨h, -⟩ | h
      · rw [h, Option.map_some]
      · rw [h, Option.map_some, quotaSet_twice]
    · refine ih hl' _ ?_
      rw [findPart_quotaStep, if_neg (Ne.symm hj)]
      refine hu.imp_left (fun h => ⟨h.1, (List.mem_cons.mp h.2).resolve_left ?_⟩)
      rintro rfl
      exact hj hr

/-- At a frame boundary every partition takes its new quotas (R41). -/
theorem hbmFrameBoundary_quotas (s : State) : ∃ t, exec .hbmFrameBoundary s = .next t ∧
    ∀ j r, findPart s j = some r → (∀ o ∈ allParts s, o.num = j → o = r) → findPart t j = some (quotaSet r r) :=
  ⟨_, rfl, fun _ _ h hl => findPart_foldl_quotaStep (findPart_num h) _ hl s (.inl ⟨h, List.mem_of_find?_eq_some h⟩)⟩

end Sys2Proof.Machine
end

section
/-! PROOFS. O46: the BAR2 window, queue tails and quotas. -/
namespace Sys2Proof.Machine

open Sys2Proof.Claims

@[simp] theorem settleAges_mem (s : State) (n : Nat) : (settleAges s n).mem = s.mem := by
  unfold settleAges
  split
  · rfl
  · dsimp only
    split <;> rfl

/-! Accesses through BAR2 (R28). -/

theorem winAddr_aligned {p : Partition} {off : Nat} (h : off % 8 = 0) : winAddr p off % 8 = 0 := by
  unfold winAddr
  omega

theorem winAddr_lt (p : Partition) (off : Nat) : winAddr p off < 2 ^ 64 := Nat.mod_lt _ (by decide)

/-- Eight bytes at an aligned address are one access. -/
theorem piecesOf_eight {va : Nat} {data : List Byte} (ha : va % 8 = 0) (hl : data.length = 8) :
    piecesOf data.length va data = [(va, data)] := by
  have hk : pieceLen va 8 = 8 := by
    unfold pieceLen
    simp [ha]
  cases data with
  | nil => cases hl
  | cons b r =>
    have hr : r.length + 1 = 8 := hl
    rw [List.length_cons]
    unfold piecesOf
    rw [hr, hk]
    dsimp only
    rw [List.take_of_length_le (Nat.le_of_eq hl), List.drop_eq_nil_of_le (Nat.le_of_eq hl)]
    cases r.length <;> rfl

/-- The stores of a posted write whose bytes are one access. -/
theorem storePieces_one (s : State) (w : Who) (va : Nat) (data : List Byte) :
    (locPieces w true s [(va, data)]).bind (fun ls s1 => storePieces w s1 ls) =
      (granted w.part (translate s w.unit w.part w.ctx va w.sup true false)).bind (fun l s1 =>
        (storeAt s1 w l data.length (bytesNat data) 0).bind (fun _ s2 => .ok () s2)) := by
  simp only [locPieces, Bool.not_true]
  cases granted w.part (translate s w.unit w.part w.ctx va w.sup true false) <;> simp only [MR.bind, storePieces]

/-- What a posted write of one access does (R28). -/
def storeWindow (s : State) (p : Partition) (va : Nat) (data : List Byte) : MR Unit :=
  let w := outside p.num (linkSource p)
  (granted w.part (translate s w.unit w.part w.ctx va w.sup true false)).bind (fun l s1 =>
    (storeAt s1 w l data.length (bytesNat data) 0).bind (fun _ s2 => .ok () s2))

section
variable {s : State} {p : Partition} {off : Nat} {data : List Byte} (hecc : s.inp.ecc = .clean) (ha : off % 8 = 0)
  (hl : data.length = 8)
include hecc ha hl

theorem barWrite_stored {t : State} (h : storeWindow s p (winAddr p off) data = .ok () t) : barWrite s p off data = .ok () t := by
  have hva := winAddr_aligned (p := p) ha
  unfold barWrite
  generalize winAddr p off = va at h hva
  unfold storeWindow at h
  simp only [hecc, beq_self_eq_true, if_true, Option.isSome_none, Bool.false_eq_true, if_false, piecesOf_eight hva hl, storePieces_one, h]

theorem barWrite_refused {num : Nat} {d : BitVec 192} (h : storeWindow s p (winAddr p off) data = .trap num d) (hn : num ≠ 0x0D) :
    barWrite s p off data = .ok () (barFault s p (winAddr p off)) := by
  have hva := winAddr_aligned (p := p) ha
  unfold barWrite
  generalize winAddr p off = va at h hva
  unfold storeWindow at h
  simp only [hecc, beq_self_eq_true, if_true, Option.isSome_none, Bool.false_eq_true, if_false, piecesOf_eight hva hl, storePieces_one, h,
    hn]

/-- A write to a sound page of the window writes its bytes (R28). -/
theorem barWrite_writes {part : Nat} {l : Loc} (q : QuietPart s part p) (h : HostPage s part (winAddr p off) 8 true l) :
    ∃ t, barWrite s p off data = .ok () t ∧ Accessed s t part p ∧ t.mem = mwrite s.mem l.addr 8 (bytesNat data) := by
  obtain rfl : p.num = part := findPart_num q.here
  have qw : QuietPart s (outside p.num (linkSource p)).part p := q
  obtain ⟨hlow, hloc⟩ := hostPage_low h
  obtain ⟨t, ht, hacc, hm⟩ := storeAt_quiet qw (bytesNat data) 0 h.local' hlow h.sound
  refine ⟨t, barWrite_stored hecc ha hl ?_, hacc, hm⟩
  have hpage : translate s (outside p.num (linkSource p)).unit (outside p.num (linkSource p)).part (outside p.num (linkSource p)).ctx
      (winAddr p off) (outside p.num (linkSource p)).sup true false = .ok l s := h.page
  unfold storeWindow
  dsimp only
  rw [hpage, granted_local _ hloc, hl]
  simp only [MR.bind, ht]

/-- A write whose translation fails is dropped with a record (R28). -/
theorem barWrite_fails {part num : Nat} {d : BitVec 192} (hp : findPart s part = some p) (hn : num ≠ 0x0D)
    (h : translate s partUnit part 0 (winAddr p off) true true false = .trap num d) :
    barWrite s p off data = .ok () (barFault s p (winAddr p off)) := by
  obtain rfl : p.num = part := findPart_num hp
  refine barWrite_refused hecc ha hl (num := num) (d := d) ?_ hn
  have hpage : translate s (outside p.num (linkSource p)).unit (outside p.num (linkSource p)).part (outside p.num (linkSource p)).ctx
      (winAddr p off) (outside p.num (linkSource p)).sup true false = .trap num d := h
  unfold storeWindow
  dsimp only
  rw [hpage]
  rfl

end

/-- BAR2_WRITE with no write waiting (R28). -/
theorem exec_bar2Write {s t : State} {p : Partition} (hp : findPart s s.inp.part = some p) (he : p.posted = []) (hf : s.inp.flag = false)
    (h : barWrite s p s.inp.off s.inp.data = .ok () t) : exec .bar2Write s = .next t := by
  show execBar2Write s = _
  unfold execBar2Write
  simp only [hp, hf, he, h]

/-- BAR2_WRITE behind writes that wait (R28). -/
theorem exec_bar2Write_waits {s : State} {p : Partition} (hp : findPart s s.inp.part = some p) (he : p.posted ≠ [])
    (hf : s.inp.flag = false) : exec .bar2Write s = .next (postWrite s s.inp.part s.inp.off s.inp.data) := by
  obtain ⟨x, r, hx⟩ := List.exists_cons_of_ne_nil he
  show execBar2Write s = _
  unfold execBar2Write
  simp only [hp, hf, hx, findPart_num hp]

section
variable {s : State} {p : Partition} (hp : findPart s s.inp.part = some p) (he : p.posted = []) (hecc : s.inp.ecc = .clean)
include hp he hecc

/-- BAR2_READ of bytes that the part can read (R28). -/
theorem exec_bar2Read {t : State} {bs : List Byte}
    (h : engRead s (outside s.inp.part (linkSource p)) 0 s.inp.size (winAddr p s.inp.off) = .ok bs t) :
    exec .bar2Read s = .next (hostRead t bs) := by
  show execBar2Read s = _
  unfold execBar2Read
  simp only [hp, hecc, findPart_num hp, he, h, List.isEmpty_nil, Bool.not_true, Bool.false_eq_true, if_false, beq_self_eq_true,
    if_true, Option.isSome_none]

/-- BAR2_READ whose translation fails answers all ones with a record (R28). -/
theorem exec_bar2Read_fails {num : Nat} {d : BitVec 192} (hn : 1 ≤ s.inp.size)
    (h : translate s partUnit s.inp.part 0 (winAddr p s.inp.off) true false true = .trap num d) :
    exec .bar2Read s = .next (hostRead (barFault s p (winAddr p s.inp.off)) (List.replicate s.inp.size 0xFF)) := by
  have hr : engRead s (outside s.inp.part (linkSource p)) 0 s.inp.size (winAddr p s.inp.off) = .trap num d := by
    obtain ⟨m, hm⟩ := Nat.exists_eq_add_of_le' hn
    rw [hm]
    unfold engRead engBytes
    rw [Nat.mod_eq_of_lt (winAddr_lt p s.inp.off)]
    exact congrArg (fun x => ((granted s.inp.part x).bind _).bind _) h
  show execBar2Read s = _
  unfold execBar2Read
  simp only [hp, hecc, findPart_num hp, he, hr, List.isEmpty_nil, Bool.not_true, Bool.false_eq_true, if_false, beq_self_eq_true,
    if_true, Option.isSome_none]

end

/-- The groups, teams and tasks after accesses of a quiet partition. -/
theorem Accessed.lists {s t : State} {part : Nat} {p : Partition} (h : Accessed s t part p) :
    allGroups t = allGroups s ∧ allTeams t = allTeams s ∧ allTasks t = allTasks s :=
  ⟨(congrArg allGroups h.rest :), (congrArg allTeams h.rest :), (congrArg allTasks h.rest :)⟩

end Sys2Proof.Machine

namespace Sys2Proof.Claims

open Sys2Proof Sys2Proof.Machine

/-- Settles O46: the window's accesses are those of a quiet partition in its supervisor context, a queue's tail is taken by
`wakeQueue`, and a frame boundary is a fold over the partitions. -/
theorem hostWindowAndQueues : Obligations.HostWindowAndQueues := by
  unfold Obligations.HostWindowAndQueues
  intro s p l x n va m k q len cleared
  have hclear : clearStat s.inp.word q = cleared := by
    have h3 : zx 3 s.inp.word = BitVec.ofNat 3 (s.inp.word.toNat % 8) :=
      BitVec.eq_of_toNat_eq (by simp [zx])
    simp only [clearStat, cleared, h3]
  refine ⟨fun hq he hf hecc hl ho => ⟨fun h => ?_, fun num d hn h => ?_⟩, fun hp he hf => ?_, fun hq he hecc h1 hv h => ?_,
    fun hq he hecc h1 num d h => ?_, fun hp hk hoff => ?_, fun hp hk hr hb => ?_, fun hp hk hg hle => ⟨fun hs => ?_, fun hs => ?_⟩,
    fun hp hk hg hlt hs => ?_, fun hp hk hr hd hst hen htk hs hb => ?_, ?_⟩
  · obtain ⟨t, ht, hacc, hm⟩ := barWrite_writes hecc ho hl hq h
    refine ⟨t, exec_bar2Write hq.here he hf ht, ?_, fun a ha => ?_, hacc.lists⟩
    · rw [hm, ← hl, mbytes_mwrite]
    · rw [hm, mget_mwrite_other _ _ _ _ _ ha]
  · exact exec_bar2Write hq.here he hf (barWrite_fails hecc ho hl hq.here hn h)
  · exact ⟨_, exec_bar2Write_waits hp he hf, partBecomes_modPart hp (fun _ => rfl) (fun _ => rfl)⟩
  · obtain ⟨v, hv2⟩ := engTouch_pages (source := linkSource p) 0 h1 hv h
    have hread : engRead s (outside n (linkSource p)) 0 m va = .ok ((List.range m).map (fun j => mget s.mem (l j).addr)) (withL2 s v) := by
      unfold engRead
      rw [engBytes_pages hq hv h, MR.bind, if_neg (Nat.ne_of_gt h1), hv2]
    refine ⟨_, _, exec_bar2Read hq.here he hecc hread, rfl, by simp, fun j hj => ?_, rfl, rfl, rfl, rfl⟩
    simp [List.getElem?_range hj]
  · have hposted : Posted s (barFault s p va) := .postEvent (.refl s) _ _ _
    refine ⟨_, exec_bar2Read_fails hq.here he hecc h1 h, ?_⟩
    exact congrArg (· ++ [List.replicate m 0xFF]) (congrArg (fun u => u.dev.readOut) hposted.rest :)
  · have hu : findPart (modQueue s n k (clearStat s.inp.word)) n = _ := findPart_modQueue hp k _
    refine ⟨settleGives_of (by rw [exec_tailWord hk, wakeQueue_off hp hoff]) (partBecomes_refl hp), _, exec_queueStopClear hk, ?_⟩
    rw [wakeQueue_off hu (by rw [queueOf_withQueue]; exact hoff), ← hclear]
    exact queueBecomes_settle (queueBecomes_modQueue (queueBecomes_refl hp k) _)
  · have hu : findPart (modQueue s n k (clearStat s.inp.word)) n = _ := findPart_modQueue hp k _
    refine ⟨settleGives_of (by rw [exec_tailWord hk, wakeQueue_paused hp hr hb]) (partBecomes_refl hp), _, exec_queueStopClear hk, ?_⟩
    rw [wakeQueue_paused hu hr (by rw [queueOf_withQueue]; exact hb), ← hclear]
    exact queueBecomes_settle (queueBecomes_modQueue (queueBecomes_refl hp k) _)
  · refine ⟨_, exec_tailWord hk, ?_, ?_⟩ <;> rw [wakeQueue_good hp hg hs, if_neg (Nat.not_lt.mpr hle)]
    · exact queueBecomes_settle (queueBecomes_modQueue (queueBecomes_refl hp k) _)
    · rw [settleAges_mem]
      rfl
  · have hu : findPart (modQueue s n k (clearStat s.inp.word)) n = _ := findPart_modQueue hp k _
    have hg' : QueueGood (modQueue s n k (clearStat s.inp.word)) n (withQueue p k (clearStat s.inp.word))
        (queueOf (withQueue p k (clearStat s.inp.word)) k) x := by
      rw [queueOf_withQueue]
      exact ⟨hg.ready, hg.on, hg.base, hg.size, hg.tail.1, (supRead_modQueue _ _ _ _ _ _ _).trans hg.tail.2⟩
    have hs' : (queueOf (withQueue p k (clearStat s.inp.word)) k).qstat.getLsbD 0 = false := by
      rw [queueOf_withQueue, hclear]
      exact hs
    have hle' : ¬ 2 ^ (queueOf (withQueue p k (clearStat s.inp.word)) k).log2n.toNat <
        (BitVec.ofNat 32 x - (queueOf (withQueue p k (clearStat s.inp.word)) k).head).toNat := by
      rw [queueOf_withQueue]
      exact Nat.not_lt.mpr hle
    refine ⟨_, exec_queueStopClear hk, ?_, ?_⟩ <;> rw [wakeQueue_good hu hg' hs', if_neg hle']
    · rw [← hclear]
      exact queueBecomes_settle (queueBecomes_modQueue (queueBecomes_modQueue (queueBecomes_refl hp k) _) _)
    · rw [settleAges_mem]
      rfl
  · refine ⟨_, exec_tailWord hk, ?_⟩
    rw [wakeQueue_good hp hg hs, if_pos hlt]
    exact queueBecomes_settle (queueBecomes_postEvent (queueBecomes_modQueue (queueBecomes_modQueue (queueBecomes_refl hp k) _) _) _ _)
  · refine ⟨_, exec_tailWord hk, ?_⟩
    rw [wakeQueue_invalid hp hr hd (queueActive_of hst ⟨hen, htk⟩ hs) hb]
    exact queueBecomes_settle (queueBecomes_postEvent (queueBecomes_modQueue (queueBecomes_refl hp k) _) _ _)
  · obtain ⟨t, ht, hq⟩ := hbmFrameBoundary_quotas s
    refine ⟨t, ht, fun j r hr hl => ⟨fun share ways cw h => ?_, fun h => ?_⟩⟩ <;> rw [hq j r hr hl, quotaSet, h]

end Sys2Proof.Claims
end

section
/-! PROOFS. O47: FREEZE, and a team that is being saved already (R45, R61, R65). -/
namespace Sys2Proof.Claims

open Sys2Proof Sys2Proof.Machine

/-- A team of partition 0 is being saved: DRAIN_WATCHDOG has saved its group 0, which drains no more, while its group 1 still drains
(R61, R271). -/
def halfSaved : State :=
  { State.reset with
    pt := { noPartition with state := 2, run := true }
    tk := { noTask with live := true, started := true }
    tm := { noTeam with live := true, saving := true }
    g := { noGroup with live := true, saved := true }
    groups := [{ noGroup with live := true, id := ⟨0, 0, 0, 1⟩, draining := true }] }

/-- A stream that brings an empty partition. -/
def emptyImage : Image :=
  { part := noPartition, tasks := [], teams := [], groups := [], mem := [], poison := [], replay := [], remote := [], srcTime := 0
    maxStamp := 0, pinned := [], final := true }

/-- FREEZE marks a team under save for another pre-emption (R65) and leaves its groups as they are. -/
theorem freeze_halfSaved_groups {t : State} (h : exec .freeze halfSaved = .next t) : allGroups t = allGroups halfSaved := by
  have hf : exec .freeze halfSaved = .next (mailAnswer (mbWaits { halfSaved with
      pt := { halfSaved.pt with keptCtl := some (true, false), drain := true }
      tm := { halfSaved.tm with again := true } } 0x10 0) 0x10 0) := by rfl
  rw [hf] at h
  cases h
  rfl

/-- Refutes O47: its clause on FREEZE says that every group of a team that is not saved drains afterwards; in `halfSaved`, group 0 of
the team, which is saved ahead of its team, does not. -/
theorem not_mailboxCommands : ¬ Obligations.MailboxCommands := by
  unfold Obligations.MailboxCommands
  intro h
  obtain ⟨-, -, -, -, -, -, -, -, hquota, -⟩ := h halfSaved halfSaved.pt emptyImage
  obtain ⟨-, -, t, q, hfreeze, -, -, -, -, -, hdrains⟩ := hquota ⟨rfl, rfl⟩ rfl (.inr rfl)
  have hmem : halfSaved.g ∈ allGroups t := by
    rw [freeze_halfSaved_groups hfreeze]
    exact List.mem_cons_self ..
  have hteam : halfSaved.tm ∈ allTeams halfSaved := List.mem_cons_self ..
  have hdraining : halfSaved.g.draining = true := hdrains _ hmem rfl ⟨_, hteam, rfl, rfl, rfl, rfl⟩
  cases hdraining

end Sys2Proof.Claims
end

section
/-! PROOFS. O49: a draw of a pre-empting queue, and a resident team whose task is gone (R47, R62). -/
namespace Sys2Proof.Claims

open Sys2Proof Sys2Proof.Machine

/-- The control page of partition 1 as the draw reads it: the root of context 0, the tail word of queue 0, its record for team 0 of a kernel,
and the kernel's descriptor with one group of width 16 (R34, R119, R299, R300). -/
def drawMem : Memory :=
  [(0x3000, 8, 0x1000), (0x7000, 4, 1), (0x8000, 8, ctlVA + 0x9000), (0x800C, 4, 1), (0x9000, 2, 1), (0x9004, 1, 16), (0x9005, 1, 1),
    (0x9006, 1, 1), (0x9008, 1, 255), (0x9010, 8, 0x10000), (0x9018, 8, 0x10000), (0x9020, 4, 1), (0x9040, 1, 1), (0x9041, 1, 1),
    (0x9042, 2, 4)].foldl (fun m e => mwrite m (ctlKey 1 e.1) e.2.1 e.2.2) []

/-- A pre-empting queue with one record. -/
def preemptQueue : Queue :=
  { noQueue with base := BitVec.ofNat 64 (ctlVA + 0x8000), tailva := BitVec.ofNat 64 (ctlVA + 0x7000), log2n := 4, tickets := 1
                 preempt := true, enable := true, tail := 1 }

/-- A team of task 1 on the twin of cores 0 and 1. -/
def twinTeam : Team :=
  { noTeam with live := true, part := 1, task := 1, twin := true, kernel := { noKernel with width := 64, groups := 128, share := 1 } }

/-- Core 1 of partition 1 asks. The only team stands on cores 0 and 1, and its task, number 1, does not exist: 1 is the number of the next
task. The descriptor's line is in the L2, so that its reads move no line. -/
def orphaned : State :=
  { State.reset with
    mem := drawMem
    pt := { noPartition with num := 1, state := 2, run := true, twins := [0], queues := [(0, preemptQueue)] }
    teams := [twinTeam]
    dev := { resetDevice with l2 := [⟨ctlKey 1 0x9000 / 128, 15, 0, 1, 0, 1, false⟩] }
    cores := [{ noCore 0 with spShare := 1 }, { noCore 1 with spShare := 1, asked := some 0 }]
    inp := { noInputs with core := 1 } }

/-- `orphaned` after the draw, before the record is taken. -/
def orphanedDrawn : State :=
  drawn orphaned 1 orphaned.pt (ageStep orphaned.pt.ages ([(0, 1)].map Prod.fst) ((sourcesOf orphaned orphaned.pt).map Prod.fst) 0)

/-- The record's bytes. -/
def orphanedBytes : List Byte := (recordBytes orphanedDrawn 1 (ctlVA + 0x8000)).getD []

/-- The record's kernel. -/
def orphanedKernel : Kernel := kernelOf (mbytes drawMem (ctlKey 1 0x9000) 128)

/-- The request of core 1 is the next of the partition. -/
theorem asks_orphaned : Asks orphaned 1 orphaned.pt where
  owner := by decide +kernel
  here := by decide +kernel
  asked := by decide +kernel
  asks := by decide +kernel
  first := by decide +kernel

/-- Queue 0 wins the draw: it is the only source. -/
theorem draws_orphaned : Draws orphaned 1 orphaned.pt [(0, 1)] 0 where
  asks := asks_orphaned
  none' := by decide +kernel
  woken := by decide +kernel
  sources := by decide +kernel
  wins := ⟨by decide, [], 1, [], rfl, .inr (by decide +kernel)⟩

/-- The descriptor passes its checks, and its reads leave the L2 as it is. -/
theorem getKernel_orphanedDrawn :
    getKernel orphanedDrawn { outside 1 distSource with ctx := 0 } noTeam (frameFld orphanedBytes 0 8) = .ok orphanedKernel orphanedDrawn := by
  have h : (match getKernel orphanedDrawn { outside 1 distSource with ctx := 0 } noTeam (frameFld orphanedBytes 0 8) with
    | .ok k u => decide (k = orphanedKernel ∧ u = orphanedDrawn)
    | _ => false) = true := by decide +kernel
  split at h
  next k u hk =>
    obtain ⟨rfl, rfl⟩ := of_decide_eq_true h
    exact hk
  next => cases h

/-- The record at the head of queue 0 passes its checks. -/
theorem goodRecord_orphaned :
    GoodRecord orphanedDrawn 1 (queueOf orphaned.pt 0) orphanedBytes orphanedKernel orphanedDrawn.dev.l2 where
  bytes := by decide +kernel
  fields := by decide +kernel
  root := by decide +kernel
  kernel := getKernel_orphanedDrawn

/-- No core of the partition has room for the drawn task. -/
theorem no_room_orphaned : ¬ (saveRoom orphaned orphaned.pt orphanedKernel = true ∧
    ∃ v ∈ coresOf orphaned.pt, fitsAt orphaned orphanedKernel v = true) := by
  rintro ⟨-, v, hv, hfits⟩
  exact absurd hfits ((by decide +kernel : ∀ v ∈ coresOf orphaned.pt, ¬ fitsAt orphaned orphanedKernel v = true) v hv)

/-- Before the record is taken the team's task does not exist, so that the team counts as one of no pre-empting queue, and core 0 as the
victim (R62). -/
theorem preemptVictim_orphaned : preemptVictim orphaned orphaned.pt orphanedKernel = some 0 := by decide +kernel

/-- The drawn task gets the number that the team names, so that the team counts as one of the pre-empting queue: the request finds no victim
and books no core. -/
theorem idleCoreRequest_orphaned_booked {t : State} (h : exec .idleCoreRequest orphaned = .next t) : (coreOf t 0).booked = none := by
  have hrun : (match exec .idleCoreRequest orphaned with
    | .next u => decide ((coreOf u 0).booked = none)
    | _ => true) = true := by decide +kernel
  rw [h] at hrun
  exact of_decide_eq_true hrun

/-- Refutes O49: the clause on a draw of a pre-empting queue chooses the victim in the state before the record is taken, the model in the
state that holds the new task. The two differ in `orphaned`, where a resident team names a task that does not exist and whose number is
the next to be given out. -/
theorem not_workDistribution : ¬ Obligations.WorkDistribution := by
  unfold Obligations.WorkDistribution
  intro h
  obtain ⟨-, -, -, -, -, -, -, -, -, -, -, -, -, -, -, -, hdraw⟩ :=
    h orphaned orphaned.pt ⟨0, 0, 0, 0, false⟩ noTeam noGroup noTask ⟨false, false, 0, 0, false, false, 0, false, none⟩
  obtain ⟨t, _, _, hexec, -, -, -, -, -, -, -, -, hpreempts⟩ := hdraw _ _ _ _ _ draws_orphaned goodRecord_orphaned
  have htakes : takes orphaned orphaned.pt orphanedKernel 1 = false := by decide +kernel
  obtain ⟨-, hvictim⟩ := hpreempts htakes rfl no_room_orphaned
  obtain ⟨hbooked, -⟩ := hvictim 0 preemptVictim_orphaned
  rw [idleCoreRequest_orphaned_booked hexec] at hbooked
  cases hbooked

end Sys2Proof.Claims
end

section
/-! PROOFS. O59: what a turn fetches, and the step that runs it (R69, R70, R265, R271, R331, R420). -/
namespace Sys2Proof.Machine

open Sys2Proof.Claims

/-! The words of a fetch. -/

theorem MR.bind_eq_ok {α β : Type} {x : MR α} {k : α → State → MR β} {b : β} {t : State} (h : x.bind k = .ok b t) :
    ∃ a u, x = .ok a u ∧ k a u = .ok b t := by
  cases x with
  | ok a u => exact ⟨a, u, rfl, h⟩
  | trap n d => cases h
  | stall => cases h
  | fault f => cases h

/-- A word is fetched as 32 bits (R275). -/
theorem fetchWord_lt {s t : State} {va w : Nat} (h : fetchWord s va = .ok w t) : w < 2 ^ 32 := by
  unfold fetchWord at h
  split at h
  · cases h
  · obtain ⟨l, u, _, hk⟩ := MR.bind_eq_ok h
    dsimp only at hk
    split at hk
    · cases hk
    · cases hk
      exact mread_lt _ _ 4

theorem fetchTriple_lt {s t : State} {k w0 w1 w2 : Nat} (h : fetchTriple s k = .ok (some (w0, w1, w2)) t) :
    w0 < 2 ^ 32 ∧ w1 < 2 ^ 32 ∧ w2 < 2 ^ 32 := by
  unfold fetchTriple at h
  dsimp only at h
  split at h
  · cases h
  · obtain ⟨x0, u0, h0, h⟩ := MR.bind_eq_ok h
    obtain ⟨x1, u1, h1, h⟩ := MR.bind_eq_ok h
    obtain ⟨x2, u2, h2, h⟩ := MR.bind_eq_ok h
    cases h
    exact ⟨fetchWord_lt h0, fetchWord_lt h1, fetchWord_lt h2⟩

theorem toNat_word {w : Nat} (h : w < 2 ^ 32) : (BitVec.ofNat 32 w).toNat = w := by
  rw [BitVec.toNat_ofNat, Nat.mod_eq_of_lt h]

/-- A fetch that passes the checks of its page and of its line reads the word there (R265, R323). -/
theorem fetchWord_sound {u u1 : State} {va : Nat} {l : Loc} (ha : va % 4 = 0)
    (hl : translate u (me u).unit u.g.id.part u.tk.ctx va u.g.sup false true = .ok l u1)
    (hp : poisoned u1 (readKey u1 (me u1) l) 4 = false) : fetchWord u va = .ok (mread u1.mem (readKey u1 (me u1) l) 4) u1 := by
  unfold fetchWord
  rw [hl, if_neg (by simp [ha])]
  exact if_neg (by simp [hp])

/-! The instruction of a stream. -/

/-- Nothing outstanding: any instruction may follow (R331, R420). -/
theorem mayFollow_alone {s : State} {st : Stream} (h : incomplete s st = []) (light : Bool) : mayFollow s st light = true := by
  simp [mayFollow, h]

section
variable {u u0 u1 : State} {w : Nat} (hi : canIssueS u = true) (hs : u.g.skipS = false)
  (hl : fetchLine u u.g.sc.spc.toNat = (u0, 0)) (hw : fetchWord u0 u.g.sc.spc.toNat = .ok w u1)
  (hr : ∀ r ∈ scalarRegs w, r ≠ 0 → r ∉ pendingS u1)
include hi hs hl hw hr

/-- The word at SPC that decodes to an instruction (R69, R331). -/
theorem fetchScalar_decodes {i : Instr} (hd : decodeScalar (BitVec.ofNat 32 w) = .ok i) :
    fetchScalar u = if mayFollow u1 .scalar (lightS i) then .run i u1 else .stop u1 := by
  have free : (scalarRegs w).any (fun r => r != 0 && (pendingS u1).contains r) = false := by simpa using hr
  rw [decodeScalar, toNat_word (fetchWord_lt hw)] at hd
  simp only [fetchScalar, hi, hs, hl, hw, free, hd, Bool.not_true, Bool.false_eq_true, if_false, bne_self_eq_false]

/-- The word at SPC that is no instruction (R278). -/
theorem fetchScalar_rejects {e : Reject} (hd : decodeScalar (BitVec.ofNat 32 w) = .error e) (hn : incomplete u1 .scalar = []) :
    fetchScalar u = .run (.scalarWordNotInstruction (BitVec.ofNat 32 w)) u1 := by
  have free : (scalarRegs w).any (fun r => r != 0 && (pendingS u1).contains r) = false := by simpa using hr
  rw [decodeScalar, toNat_word (fetchWord_lt hw)] at hd
  simp only [fetchScalar, hi, hs, hl, hw, free, hd, mayFollow_alone hn, Bool.not_true, Bool.false_eq_true, if_false, if_true,
    bne_self_eq_false]

end

section
variable {u u0 u1 : State} {w0 w1 w2 : Nat} (hi : canIssueL u = true) (hc : u.g.ln.lpc < (laneCode u).2)
  (hl : fetchLine u (lineWord u ((laneCode u).1 + 12 * u.g.ln.lpc)) = (u0, 0))
  (hw : fetchTriple u0 u0.g.ln.lpc = .ok (some (w0, w1, w2)) u1) (hr : ∀ r ∈ laneRegs (laneFieldsOf w0 w1 w2), r ∉ pendingL u1)
include hi hc hl hw hr

/-- The triple at LPC that decodes to an instruction (R69, R420). -/
theorem fetchLane_decodes {i : Instr} (hd : decodeLane (BitVec.ofNat 32 w0) (BitVec.ofNat 32 w1) (BitVec.ofNat 32 w2) = .ok i) :
    fetchLane u = if mayFollow u1 .lane (lightL w0 (laneFieldsOf w0 w1 w2)) then .run i u1 else .stop u1 := by
  have free : (laneRegs (laneFieldsOf w0 w1 w2)).any (fun r => (pendingL u1).contains r) = false := by simpa using hr
  obtain ⟨h0, h1, h2⟩ := fetchTriple_lt hw
  rw [decodeLane, toNat_word h0, toNat_word h1, toNat_word h2] at hd
  simp only [fetchLane, hi, hc, hl, hw, free, hd, Bool.not_true, Bool.false_eq_true, if_false, if_true, bne_self_eq_false]

/-- The triple at LPC that is no instruction (R285). -/
theorem fetchLane_rejects {e : Reject} (hd : decodeLane (BitVec.ofNat 32 w0) (BitVec.ofNat 32 w1) (BitVec.ofNat 32 w2) = .error e)
    (hn : incomplete u1 .lane = []) :
    fetchLane u = .run (.laneWordNotInstruction (BitVec.ofNat 32 w0) (BitVec.ofNat 32 w1) (BitVec.ofNat 32 w2) false) u1 := by
  have free : (laneRegs (laneFieldsOf w0 w1 w2)).any (fun r => (pendingL u1).contains r) = false := by simpa using hr
  obtain ⟨h0, h1, h2⟩ := fetchTriple_lt hw
  rw [decodeLane, toNat_word h0, toNat_word h1, toNat_word h2] at hd
  simp only [fetchLane, hi, hc, hl, hw, free, hd, mayFollow_alone hn, Bool.not_true, Bool.false_eq_true, if_false, if_true,
    bne_self_eq_false]

end

/-- WATCHDOG code 4 that is due comes before the stream's next instruction (R271). -/
theorem fetchInstr_timeUp {u : State} (ht : u.g.timeUp = true) (hi : canIssue u = true) (st : Stream) :
    fetchInstr u st = .stop (takeTrap { u with g := { u.g with timeUp := false } } ⟨0x16, 0, det [(0, 4)], u.g.ln.mask, .scalar, false⟩) :=
  if_pos (by rw [ht, hi]; rfl)

theorem fetchInstr_scalar {u : State} (ht : u.g.timeUp = false) : fetchInstr u .scalar = fetchScalar u := by simp [fetchInstr, ht]

theorem fetchInstr_lane {u : State} (ht : u.g.timeUp = false) : fetchInstr u .lane = fetchLane u := by simp [fetchInstr, ht]

theorem canIssue_live {u : State} (h : canIssue u = true) : u.g.live = true := by
  simp only [canIssue, Bool.and_eq_true] at h
  simp [h]

/-! The step. -/

/-- A step whose turn runs an instruction. -/
theorem step_run {s u : State} {i : Instr} (h : fetchNext s = .run i u) : step s = stepOf s i u := by
  unfold step
  rw [h]
  rfl

/-- A step whose turn runs none. -/
theorem step_stop {s u : State} (h : fetchNext s = .stop u) : step s = .next (noted s u) := by
  unfold step
  rw [h]
  rfl

/-- A step that runs an instruction where it may. -/
theorem step_runIf {s u : State} {i : Instr} {c : Bool} (h : fetchNext s = if c then .run i u else .stop u) :
    step s = if c then stepOf s i u else .next (noted s u) := by
  cases c with
  | true => exact step_run h
  | false => exact step_stop h

/-- The turn of a stream that no other group of the quad comes before (R70). -/
theorem fetchNext_issue {s : State} {id : GroupId} {st : Stream} {d : Bool} {ecc : Ecc} {va : Nat}
    (ht : (takeTurn s).1 = some (.issue id st d ecc va)) (hl : (atTurn s id d ecc va).g.live = true)
    (hid : (atTurn s id d ecc va).g.id = id) (ho : st = .scalar → othersFirst (atTurn s id d ecc va) = false) :
    fetchNext s = fetchInstr (atTurn s id d ecc va) st := by
  have first : (st == .scalar && othersFirst (atTurn s id d ecc va)) = false := by
    cases st with
    | scalar => simp [ho]
    | lane => rfl
  have due : ((atTurn s id d ecc va).g.live && (atTurn s id d ecc va).g.id == id
      && !(st == .scalar && othersFirst (atTurn s id d ecc va))) = true := by rw [hl, hid, first]; simp
  unfold fetchNext
  rw [ht]
  exact if_pos due

end Sys2Proof.Machine

namespace Sys2Proof.Claims

open Sys2Proof.Machine

/-- Settles O59: an event's turn is one unfolding of the step; a stream's turn is what its word or triple decodes to. -/
theorem stepRunsDecodedInstruction : Obligations.StepRunsDecodedInstruction := by
  unfold Obligations.StepRunsDecodedInstruction
  refine ⟨fun s t rest h => by simp only [takeTurn, h], fun s i inp h => ?_, ?_, ?_, ?_, fun s va h => by simp [fetchLine, h],
    fun u va l u1 => fetchWord_sound⟩
  · refine step_run ?_
    unfold fetchNext
    rw [h]
    show Fetched.run i (eventState i inp _) = _
    unfold eventState l1Flush
    split <;> rfl
  · intro s u0 u1 id d ecc va w u ht htime hlive hid hfirst hissue hskip hline hword hregs
    have hf : fetchNext s = fetchScalar u := (fetchNext_issue ht hlive hid (fun _ => hfirst)).trans (fetchInstr_scalar htime)
    exact ⟨fun i hi => step_runIf (hf.trans (fetchScalar_decodes hissue hskip hline hword hregs hi)),
      fun e he hn => step_run (hf.trans (fetchScalar_rejects hissue hskip hline hword hregs he hn))⟩
  · intro s u0 u1 id d ecc va w0 w1 w2 u b ht htime hlive hid hissue hcount hline htriple hregs
    have hf : fetchNext s = fetchLane u := (fetchNext_issue ht hlive hid (fun h => by cases h)).trans (fetchInstr_lane htime)
    exact ⟨fun i hi => step_runIf (hf.trans (fetchLane_decodes hissue hcount hline htriple hregs hi)),
      fun e he hn => step_run (hf.trans (fetchLane_rejects hissue hcount hline htriple hregs he hn))⟩
  · intro s id st d ecc va u ht htime hissue hid hfirst
    exact step_stop ((fetchNext_issue ht (canIssue_live hissue) hid hfirst).trans (fetchInstr_timeUp htime hissue st))

end Sys2Proof.Claims
end

section
/-! PROOFS. What the scalar instructions with a register result leave (R276), and O10: SSRR and SSRW of the special registers
(R82, R98, R252, R260, R324, R386 to R388). -/
namespace Sys2Proof.Machine

open Sys2Proof.Claims

/-! A result in a scalar register. -/

/-- A result and the next word are a scalar result (R276). -/
theorem scalarResult_finS (s : State) (sd : BitVec 6) (v : Word) : ScalarResult s (finS s sd v) sd v where
  value h := by rw [sreg_finS, if_pos ⟨rfl, h⟩]
  zero := sreg_zero _
  others r h := by rw [sreg_finS, if_neg (fun e => h e.1)]
  pc := finS_spc s sd v
  bytes _ := rfl
  rest := finS_eq s sd v

theorem gives_finS {i : Instr} {s : State} {sd : BitVec 6} {v : Word} (h : exec i s = .next (finS s sd v)) : Gives i s sd v :=
  ⟨_, h, scalarResult_finS s sd v⟩

/-! The list of special registers (R324). -/

/-- The indexes of the list (R386 to R388). -/
abbrev listed (k : Nat) : Prop :=
  k ≤ 7 ∨ (0x10 ≤ k ∧ k ≤ 0x15) ∨ (0x20 ≤ k ∧ k ≤ 0x23) ∨ k = 0x30 ∨ k = 0x31 ∨ k = 0x40 ∨ k = 0x41 ∨ (0x100 ≤ k ∧ k ≤ 0x110)

theorem specialReg_isSome_iff (s : State) (k : Nat) : (specialReg s k).isSome = true ↔ listed k := by
  unfold specialReg
  dsimp only
  split
  · next h =>
    have h : 0x100 ≤ k ∧ k ≤ 0x10F := by simpa using h
    simp only [Option.isSome_some, listed, true_iff]
    omega
  · next h =>
    have h : ¬(0x100 ≤ k ∧ k ≤ 0x10F) := by simpa using h
    split
    case h_24 =>
      simp only [imp_false] at *
      simp only [Option.isSome_none, Bool.false_eq_true, listed, false_iff]
      omega
    all_goals simp [listed]

theorem specialReg_unlisted {s : State} {k : Nat} (h : ¬listed k) : specialReg s k = none := by
  have := (specialReg_isSome_iff s k).not.mpr h
  simpa using this

theorem specialReg_bound (s : State) {k : Nat} (h : k < 16) : specialReg s (0x100 + k) = some (boundReg s.tm k) := by
  have : (0x100 ≤ 0x100 + k && 0x100 + k ≤ 0x10F) = true := by simp; omega
  unfold specialReg
  dsimp only
  rw [if_pos this, Nat.add_sub_cancel_left]

theorem toNat_boundIndex {k : Nat} (h : k < 16) : (BitVec.ofNat 14 (0x100 + k)).toNat = 0x100 + k := by
  rw [BitVec.toNat_ofNat, Nat.mod_eq_of_lt (by omega)]

/-! The two instructions. -/

theorem ssrr_gives {s : State} (sd : BitVec 6) {idx : BitVec 14} {v : Word} (h : specialReg s idx.toNat = some v) :
    Gives (.ssrr sd idx) s sd v :=
  gives_finS (by show execSsrr sd idx s = _; simp only [execSsrr, h])

theorem ssrr_unlisted (s : State) (sd : BitVec 6) {idx : BitVec 14} (h : ¬listed idx.toNat) :
    exec (.ssrr sd idx) s = trapS s 0x01 0 (opDetail 0 idx.toNat 0) := by
  show execSsrr sd idx s = _
  simp only [execSsrr, specialReg_unlisted h, badField]

theorem ssrw_unlisted (s : State) (sa : BitVec 6) {idx : BitVec 14} (h : ¬listed idx.toNat) :
    exec (.ssrw sa idx) s = trapS s 0x01 0 (opDetail 0 idx.toNat 0) := by
  show execSsrw sa idx s = _
  simp only [execSsrw, specialReg_unlisted h, badField]

/-- What SSRW does with the value for each register of the list (R324). -/
def ssrwListed (s : State) (k : Nat) (v : Word) : Out :=
  if k = 0x010 then setFmt s v
  else if k = 0x014 then .next (advS { s with g := { s.g with fpstat := s.g.fpstat &&& ~~~(zx 6 v) } })
  else if k = 0x015 then .next (advS { s with g := { s.g with tickets := lowerTickets s.g.tickets v } })
  else if k = 0x023 then .next (advS { s with g := { s.g with srFault := v } })
  else if 0x100 ≤ k && k ≤ 0x10F then
    .next (advS { s with tm := { s.tm with bounds := sput boundReset s.tm.bounds (k - 0x100) v } })
  else if k = 0x110 then .next (advS { s with tm := { s.tm with policy := v } })
  else .next (advS s)

theorem ssrw_listed (s : State) (sa : BitVec 6) {idx : BitVec 14} (h : listed idx.toNat) :
    exec (.ssrw sa idx) s = ssrwListed s idx.toNat (sreg s sa) := by
  obtain ⟨w, hw⟩ := Option.isSome_iff_exists.mp ((specialReg_isSome_iff s idx.toNat).mpr h)
  show execSsrw sa idx s = _
  simp only [execSsrw, hw]
  rfl

/-- The registers that ignore a write (R324). -/
theorem ssrwListed_readOnly (s : State) (v : Word) {k : Nat}
    (h : k ≤ 7 ∨ (0x11 ≤ k ∧ k ≤ 0x13) ∨ (0x20 ≤ k ∧ k ≤ 0x22) ∨ k = 0x30 ∨ k = 0x31 ∨ k = 0x40 ∨ k = 0x41) :
    ssrwListed s k v = .next (advS s) := by
  have far : (0x100 ≤ k && k ≤ 0x10F) = false := by simp; omega
  unfold ssrwListed
  rw [if_neg (by omega), if_neg (by omega), if_neg (by omega), if_neg (by omega), far, if_neg (by simp), if_neg (by omega)]

theorem ssrwListed_bound (s : State) (v : Word) {k : Nat} (h : k < 16) :
    ssrwListed s (0x100 + k) v = .next (advS { s with tm := { s.tm with bounds := sput boundReset s.tm.bounds k v } }) := by
  have here : (0x100 ≤ 0x100 + k && 0x100 + k ≤ 0x10F) = true := by simp; omega
  unfold ssrwListed
  rw [if_neg (by omega), if_neg (by omega), if_neg (by omega), if_neg (by omega), if_pos here, Nat.add_sub_cancel_left]

theorem lowerTickets_le {old : BitVec 8} {v : Word} (h : old ≤ v.setWidth 8) : lowerTickets old v = old := if_pos h

theorem lowerTickets_lt {old : BitVec 8} {v : Word} (h : v.setWidth 8 < old) :
    lowerTickets old v = if v.setWidth 8 = (0 : BitVec 8) then 1 else v.setWidth 8 := if_neg (Nat.not_le.mpr h)

end Sys2Proof.Machine

namespace Sys2Proof.Claims

open Sys2Proof.Machine

/-- Settles O10: SSRR gives what `specialReg` lists, and SSRW is `ssrwListed` at every listed index. -/
theorem specialRegisters : Obligations.SpecialRegisters := by
  unfold Obligations.SpecialRegisters
  intro s sd sa x rd n
  have rdAt : ∀ (idx : BitVec 14) (v : Word), specialReg s idx.toNat = some v → rd idx v := fun idx v h => ssrr_gives sd h
  have cntComm : s.g.en.ld + s.g.en.st * 2 ^ 8 + s.g.en.cp * 2 ^ 16 + s.g.en.tl * 2 ^ 24
      = s.g.en.ld + 2 ^ 8 * s.g.en.st + 2 ^ 16 * s.g.en.cp + 2 ^ 24 * s.g.en.tl := by omega
  have revComm : s.tk.rev + s.tk.revDepth * 2 ^ 32 = s.tk.rev + 2 ^ 32 * s.tk.revDepth := by omega
  have partComm : s.pt.num + s.pt.link * 2 ^ 8 + s.pt.vf * 2 ^ 12 + b2n s.g.sup * 2 ^ 16
      = s.pt.num + 2 ^ 8 * s.pt.link + 2 ^ 12 * s.pt.vf + (if s.g.sup then 2 ^ 16 else 0) := by
    unfold b2n
    split <;> omega
  refine ⟨rdAt _ _ rfl, rdAt _ _ rfl, rdAt _ _ rfl, rdAt _ _ rfl, rdAt _ _ rfl, rdAt _ _ rfl, rdAt _ _ rfl, rdAt _ _ rfl, rdAt _ _ rfl,
    rdAt _ _ rfl, rdAt _ _ rfl, ?_, rdAt _ _ rfl, rdAt _ _ rfl, ?_, rdAt _ _ rfl, rdAt _ _ rfl, rdAt _ _ rfl, rdAt _ _ rfl,
    rdAt _ _ rfl, ?_, rdAt _ _ rfl, fun k hk => ?_, rdAt _ _ rfl, fun idx h => ?_, ?_, fun h => ?_, fun h => ?_, ?_, ?_,
    fun idx h => ?_, fun k hk => ?_, ?_⟩
  · exact rdAt _ _ (congrArg (fun k => some (n k)) cntComm)
  · exact rdAt _ _ (congrArg (fun k => some (n k)) revComm)
  · exact rdAt _ _ (congrArg (fun k => some (n k)) partComm)
  · have := specialReg_bound s hk
    refine rdAt _ _ ?_
    rw [toNat_boundIndex hk]
    exact this
  · have h' : ¬listed idx.toNat := fun l => h (by simpa [listed, BitVec.toNat_eq] using l)
    exact ⟨ssrr_unlisted s sd h', ssrw_unlisted s sa h'⟩
  · exact ssrw_listed s sa (by decide)
  · rw [Becomes, ssrw_listed s sa (by decide)]
    show Host.Outcome.next (advS { s with g := { s.g with tickets := _ } }) = _
    rw [lowerTickets_le h]
    rfl
  · rw [Becomes, ssrw_listed s sa (by decide)]
    show Host.Outcome.next (advS { s with g := { s.g with tickets := _ } }) = _
    rw [lowerTickets_lt h]
    rfl
  · exact ssrw_listed s sa (by decide)
  · exact ssrw_listed s sa (by decide)
  · have hr := by simpa [BitVec.toNat_eq] using h
    rw [Becomes, ssrw_listed s sa (by unfold listed; omega), ssrwListed_readOnly s _ hr]
    rfl
  · refine ⟨_, (ssrw_listed s sa (by rw [toNat_boundIndex hk]; unfold listed; omega)).trans
      (by rw [toNat_boundIndex hk]; exact ssrwListed_bound s _ hk), ?_, fun j hj => ?_, rfl⟩
    · exact (sget_sput _ _ _ _ _).trans (if_pos rfl)
    · exact (sget_sput _ _ _ _ _).trans (if_neg hj)
  · exact ssrw_listed s sa (by decide)

end Sys2Proof.Claims
end

section
/-! PROOFS. O11: the queues between the streams, from the scalar side (R72, R74, R326 to R328). -/
namespace Sys2Proof.Machine

open Sys2Proof.Claims

/-- A field of a word as a number. -/
theorem fld_toNat {n : Nat} (x : BitVec n) (lo len : Nat) : fld x.toNat lo len = (x.extractLsb' lo len).toNat := by
  rw [fld, BitVec.extractLsb'_toNat, Nat.shiftRight_eq_div_pow]

theorem fld_bne_zero {n : Nat} (x : BitVec n) (lo len : Nat) : (fld x.toNat lo len != 0) = true ↔ x.extractLsb' lo len ≠ 0 := by
  rw [fld_toNat, bne_iff_ne, ne_eq, ne_eq, BitVec.toNat_eq]
  rfl

/-! DISPATCH (R74, R326). -/

section
variable {s : State} {sa : BitVec 6}

theorem dispatch_wide (h : (sreg s sa).extractLsb' 16 48 ≠ 0) :
    exec (.dispatch sa) s = trapS s 0x01 0 (opDetail 3 (sreg s sa).toNat 16) :=
  if_pos ((fld_bne_zero _ _ _).mpr h)

variable (h : (sreg s sa).extractLsb' 16 48 = 0)
include h

theorem dispatch_narrow : ¬(fld (sreg s sa).toNat 16 48 != 0) = true := fun e => (fld_bne_zero _ _ _).mp e h

theorem dispatch_pushes (hd : s.g.q.dq.length + dqHeld s.g < 8) (hq : quiet s .scalar = true) :
    Becomes (.dispatch sa) s (fun g => { g with
      sc := { g.sc with fmtPend := none },
      q := { g.q with dq := g.q.dq ++ [((sreg s sa).setWidth 16, g.sc.fmtPend)] } }) :=
  (if_neg (dispatch_narrow h)).trans (if_neg (by simp [hq, hd]))

theorem dispatch_waits (hd : 8 ≤ s.g.q.dq.length + dqHeld s.g) : exec (.dispatch sa) s = .next s :=
  (if_neg (dispatch_narrow h)).trans (if_pos (by simp [hd]))

end

/-! VQPUSH and VQPUSH2 (R326). -/

theorem pushVQ_pushes {s : State} {vs : List Word} (hv : s.g.q.vq.length + vqHeld s.g + vs.length ≤ 16) (hq : quiet s .scalar = true) :
    pushVQ s vs = .next (advS { s with g := { s.g with q := { s.g.q with vq := s.g.q.vq ++ vs } } }) :=
  if_neg (by simp [hq, hv])

theorem pushVQ_waits {s : State} {vs : List Word} (hv : 16 < s.g.q.vq.length + vqHeld s.g + vs.length) : pushVQ s vs = .next s :=
  if_pos (by simp [hv])

/-! RQPOP, QSTAT and QDRAIN (R326 to R328). -/

theorem rqpop_waits {s : State} (sd : BitVec 6) (h : s.g.q.rq = []) : exec (.rqpop sd) s = .next s := by
  show execRqpop sd s = _
  simp only [execRqpop, h, stallS]

theorem rqpop_takes {s : State} (sd : BitVec 6) {z : Word} {r : List Word} (h : s.g.q.rq = z :: r) :
    exec (.rqpop sd) s = .next (finS { s with g := { s.g with q := { s.g.q with rq := r } } } sd z) := by
  show execRqpop sd s = _
  simp only [execRqpop, h]

/-- The counts of QSTAT (R327). -/
theorem queueCounts_word (s : State) : queueCounts s.g + b2n (fmtPending s) * 2 ^ 16 =
    s.g.q.dq.length + 2 ^ 4 * s.g.q.vq.length + 2 ^ 9 * s.g.q.rq.length
      + (if s.g.sc.fmtPend.isSome || s.g.q.dq.any (fun e => e.2.isSome) then 2 ^ 16 else 0) := by
  unfold queueCounts fmtPending b2n
  split <;> omega

theorem qdrain_passes {s : State} (hp : s.g.ln.pos = .pop) (hd : s.g.q.dq = []) (hv : s.g.q.vq = []) (hq : quiet s .lane = true)
    (hr : pendingL s = []) : Becomes .qdrain s id :=
  if_pos (by simp [drainedQ, hp, hd, hv, hq, hr])

theorem qdrain_waits {s : State} (hp : s.g.ln.pos = .inRun) : exec .qdrain s = .next s := if_neg (by simp [drainedQ, hp])

end Sys2Proof.Machine

namespace Sys2Proof.Claims

open Sys2Proof.Machine

/-- Settles O11: a lemma per queue operation, for room and for none. -/
theorem scalarQueues : Obligations.ScalarQueues := by
  unfold Obligations.ScalarQueues
  intro s sd sa sb x y d v
  refine ⟨dispatch_wide, dispatch_pushes, dispatch_waits, fun hv => pushVQ_pushes (Nat.succ_le_of_lt hv),
    fun hv => pushVQ_waits (Nat.lt_succ_of_le hv), fun hv => pushVQ_pushes (Nat.succ_le_succ hv),
    fun hv => pushVQ_waits (Nat.add_le_add_right hv 2), rqpop_waits sd,
    fun z r h => ⟨_, rqpop_takes sd h, scalarResult_finS _ sd z⟩, gives_finS ?_, qdrain_passes, qdrain_waits⟩
  rw [← queueCounts_word s]
  rfl

end Sys2Proof.Claims
end

section
/-! PROOFS. O23: registers handed over between the groups of a team on one quad (R88, R382). -/
namespace Sys2Proof.Machine

open Sys2Proof.Claims

/-- A sparse table without the keys that `p` leaves out. -/
theorem sget_filter {α : Type} (d : α) (m : Sparse α) (p : Nat → Bool) (a : Nat) :
    sget d (m.filter (fun e => p e.1)) a = if p a then sget d m a else d := by
  induction m with
  | nil => simp [sget]
  | cons e r ih =>
    obtain ⟨k, v⟩ := e
    by_cases hk : k = a
    · subst hk
      cases hp : p k
      · simpa [hp] using ih
      · simp [sget, hp]
    · cases hp : p k <;> simp [sget, hp, hk, ih]

/-- The vector registers that `p` keeps, of every lane. -/
theorem vget_filter (g : Group) (p : Nat → Bool) (r : Nat) {k : Nat} (hk : k < 64) {h : Group}
    (hv : h.ln.v = g.ln.v.filter (fun e => p (e.1 / 64))) : vget h r k = if p r then vget g r k else 0 := by
  have hr : (64 * r + k) / 64 = r := by omega
  rw [vget, hv, sget_filter 0 g.ln.v (fun a => p (a / 64)), hr, vget]
  split <;> rfl

theorem vget_shrinkBy (g : Group) (n r : Nat) {k : Nat} (hk : k < 64) :
    vget (shrinkBy g n) r k = if r < g.allot - 4 * n then vget g r k else 0 := by
  rw [vget_filter g (fun x => x < g.allot - 4 * n) r hk rfl]
  simp only [decide_eq_true_eq]

theorem vget_growBy (g : Group) (n r : Nat) {k : Nat} (hk : k < 64) :
    vget (growBy g n) r k = if r < g.allot ∨ g.allot + 4 * n ≤ r then vget g r k else 0 := by
  rw [vget_filter g (fun x => x < g.allot || g.allot + 4 * n ≤ x) r hk rfl]
  simp only [Bool.or_eq_true, decide_eq_true_eq]

/-- F of the quad after it is replaced (R88). -/
theorem blocksFree_putBlk (s : State) (n : Nat) (f : Team → Team) (g : Group) (hf : ∀ t, (f t).freeBlocks = t.freeBlocks)
    (ht : ∀ t, (f t).twin = t.twin) (hc : g.core = s.g.core) (hq : g.quad = s.g.quad) :
    blocksFree { s with tm := f (putBlk s n), g := g } = n := by
  have hk : quadKey (f (putBlk s n)) g = quadKey s.tm s.g := by simp only [quadKey, ht, hc, hq, putBlk]
  simp only [blocksFree, hk, hf]
  exact (sget_sput _ _ _ _ _).trans (if_pos rfl)

/-- The blocks of a claim that is met (R88). -/
theorem claimMet_takeBlocks (s : State) (n : Nat) : ClaimMet s (takeBlocks s n) n := by
  refine ⟨rfl, ?_, rfl, fun r k hr hk => ?_, fun r k hr hr' hk => ?_, rfl, rfl⟩
  · exact blocksFree_putBlk s _ (fun t => { t with claims := t.claims.filter (fun c => c.group != s.g.id.group) }) _
      (fun _ => rfl) (fun _ => rfl) rfl rfl
  · exact (vget_growBy s.g n r hk).trans (if_pos (.inl hr))
  · exact (vget_growBy s.g n r hk).trans (if_neg (by omega))

/-- A result does not touch the blocks. -/
theorem claimMet_finS {s t : State} {n : Nat} (h : ClaimMet s t n) (d : BitVec 6) (v : Word) : ClaimMet s (finS t d v) n := by
  rw [finS_eq]
  exact h

/-- A claim that is met has left the line (R88). -/
theorem waiting_takeBlocks (s : State) (n : Nat) : ∀ c ∈ waiting (takeBlocks s n), c.group ≠ s.g.id.group := by
  intro c hc
  have := List.mem_of_mem_filter hc
  simpa using (List.mem_filter.mp this).2

/-! The instructions, outside legacy and supervisor mode. -/

section
variable {s : State} {sa : BitVec 6} (hl : s.tm.kernel.legacy = false) (hs : s.g.sup = false)
include hl hs

theorem notLegacy_user (i : Instr) (k : Out) : notLegacy i s k = k := by simp [notLegacy, userOnly, hl, hs]

theorem giveback_bad (h : 256 < (sreg s sa).toNat ∨ s.g.allot < 4 * (sreg s sa).toNat + max s.g.bnd 4) :
    exec (.giveback sa) s = trapS s 0x01 0 (opDetail 3 (sreg s sa).toNat 0) :=
  (notLegacy_user hl hs _ _).trans (if_pos (by simpa using h))

theorem claim_bad (h : 256 < (sreg s sa).toNat ∨ 1024 < s.g.allot + 4 * (sreg s sa).toNat) :
    exec (.claim sa) s = trapS s 0x01 0 (opDetail 3 (sreg s sa).toNat 0) :=
  (notLegacy_user hl hs _ _).trans (if_pos (by simpa using h))

theorem claimtry_bad (sd : BitVec 6) (h : 256 < (sreg s sa).toNat ∨ 1024 < s.g.allot + 4 * (sreg s sa).toNat) :
    exec (.claimtry sd sa) s = trapS s 0x01 0 (opDetail 3 (sreg s sa).toNat 0) :=
  (notLegacy_user hl hs _ _).trans (if_pos (by simpa using h))

theorem claim_none (ha : s.g.allot + 4 * (sreg s sa).toNat ≤ 1024) (h0 : (sreg s sa).toNat = 0) : Becomes (.claim sa) s id :=
  (notLegacy_user hl hs _ _).trans ((if_neg (by simp only [Bool.or_eq_true, decide_eq_true_eq]; omega)).trans (if_pos h0))

theorem claimtry_none (sd : BitVec 6) (ha : s.g.allot + 4 * (sreg s sa).toNat ≤ 1024)
    (h0 : (sreg s sa).toNat = 0) : Gives (.claimtry sd sa) s sd 1 :=
  gives_finS ((notLegacy_user hl hs _ _).trans
    ((if_neg (by simp only [Bool.or_eq_true, decide_eq_true_eq]; omega)).trans (if_pos h0)))

section
variable (h256 : (sreg s sa).toNat ≤ 256)
include h256

section
variable (hg : 4 * (sreg s sa).toNat + max s.g.bnd 4 ≤ s.g.allot)
include hg

theorem giveback_good : exec (.giveback sa) s =
    (if (sreg s sa).toNat = 0 then .next (advS s)
     else if regsBusy s (s.g.allot - 4 * (sreg s sa).toNat) then stallS s
     else .next (advS { s with tm := putBlk s (freeBlk s + (sreg s sa).toNat), g := shrinkBy s.g (sreg s sa).toNat })) :=
  (notLegacy_user hl hs _ _).trans (if_neg (by simp only [Bool.or_eq_true, decide_eq_true_eq]; omega))

theorem giveback_none (h0 : (sreg s sa).toNat = 0) : Becomes (.giveback sa) s id :=
  (giveback_good hl hs h256 hg).trans (if_pos h0)

theorem giveback_returns (h1 : 1 ≤ (sreg s sa).toNat) (hf : inFlight s s.g = []) : exec (.giveback sa) s =
    .next (advS { s with tm := putBlk s (freeBlk s + (sreg s sa).toNat), g := shrinkBy s.g (sreg s sa).toNat }) :=
  (giveback_good hl hs h256 hg).trans ((if_neg (by omega)).trans (if_neg (by simp [regsBusy, hf])))

end

variable (ha : s.g.allot + 4 * (sreg s sa).toNat ≤ 1024)
include ha

variable (h1 : 1 ≤ (sreg s sa).toNat)
include h1

theorem claim_good : exec (.claim sa) s =
    (if ((waiting s).head?.map (fun c => c.group == s.g.id.group)).getD true && (sreg s sa).toNat ≤ blocksFree s then
      .next (advS (takeBlocks s (sreg s sa).toNat))
     else if (waiting s).any (fun c => c.group == s.g.id.group) then stallS s
     else .next { s with tm := { s.tm with claims := s.tm.claims ++
       [⟨quadKey s.tm s.g, s.g.id.group, (sreg s sa).toNat⟩] } }) :=
  (notLegacy_user hl hs _ _).trans
    ((if_neg (by simp only [Bool.or_eq_true, decide_eq_true_eq]; omega)).trans (if_neg (by omega)))

/-- CLAIM that is first in the line and finds its blocks (R88). -/
theorem claim_takes (hw : waiting s = [] ∨ ∃ c r, waiting s = c :: r ∧ c.group = s.g.id.group)
    (hf : (sreg s sa).toNat ≤ blocksFree s) : exec (.claim sa) s = .next (advS (takeBlocks s (sreg s sa).toNat)) := by
  refine (claim_good hl hs h256 ha h1).trans (if_pos ?_)
  rcases hw with hw | ⟨c, r, hw, hm⟩
  · simp [hw, hf]
  · simp [hw, hf, hm]

/-- CLAIM that stands in no line yet and is not met goes to its end (R88). -/
theorem claim_queues (hm : ∀ c ∈ waiting s, ¬c.group = s.g.id.group) (hw : waiting s ≠ [] ∨ blocksFree s < (sreg s sa).toNat) :
    exec (.claim sa) s = .next { s with tm := { s.tm with claims := s.tm.claims ++
      [⟨quadKey s.tm s.g, s.g.id.group, (sreg s sa).toNat⟩] } } := by
  refine (claim_good hl hs h256 ha h1).trans ((if_neg ?_).trans (if_neg (by simpa using hm)))
  cases hl : waiting s with
  | nil =>
    have := hw.resolve_left (fun h => h hl)
    simp [this]
  | cons c r =>
    have := hm c (by simp [hl])
    simp [this]

theorem claimtry_good (sd : BitVec 6) : exec (.claimtry sd sa) s =
    (if (waiting s).isEmpty && (sreg s sa).toNat ≤ blocksFree s then .next (finS (takeBlocks s (sreg s sa).toNat) sd 1)
     else .next (finS s sd 0)) :=
  (notLegacy_user hl hs _ _).trans
    ((if_neg (by simp only [Bool.or_eq_true, decide_eq_true_eq]; omega)).trans (if_neg (by omega)))

theorem claimtry_takes (sd : BitVec 6) (hw : waiting s = []) (hf : (sreg s sa).toNat ≤ blocksFree s) :
    exec (.claimtry sd sa) s = .next (finS (takeBlocks s (sreg s sa).toNat) sd 1) :=
  (claimtry_good hl hs h256 ha h1 sd).trans (if_pos (by simp [hw, hf]))

theorem claimtry_fails (sd : BitVec 6) (hw : waiting s ≠ [] ∨ blocksFree s < (sreg s sa).toNat) : Gives (.claimtry sd sa) s sd 0 :=
  gives_finS ((claimtry_good hl hs h256 ha h1 sd).trans (if_neg (by
    simp only [Bool.and_eq_true, List.isEmpty_iff, decide_eq_true_eq, not_and, Nat.not_le]
    exact fun h => hw.resolve_left (fun k => k h))))

end

end

end Sys2Proof.Machine

namespace Sys2Proof.Claims

open Sys2Proof.Machine

/-- Settles O23: each instruction reduces to its choice on the line and on F, and what moves is `shrinkBy` or `takeBlocks`. -/
theorem registerHandOver : Obligations.RegisterHandOver := by
  unfold Obligations.RegisterHandOver
  intro s sd sa hl hs x n mine
  refine ⟨giveback_bad hl hs, fun h1 h256 hg hf => ?_, fun h => ⟨claim_bad hl hs h, claimtry_bad hl hs sd h⟩, fun h0 h1024 h4 hb => ?_,
    fun h1 h256 ha hw hf => ?_, fun h1 h256 ha hm hw => ?_, fun h1 h256 ha hw hf => ?_, fun h1 h256 ha => claimtry_fails hl hs h256 ha h1 sd⟩
  · refine ⟨_, giveback_returns hl hs h256 hg h1 hf, rfl, ?_, rfl, fun r k hr hk => ?_, fun r k hr hk => ?_, fun _ => rfl, rfl, rfl, rfl⟩
    · exact blocksFree_putBlk s _ id _ (fun _ => rfl) (fun _ => rfl) rfl rfl
    · exact (vget_shrinkBy s.g n r hk).trans (if_pos hr)
    · exact (vget_shrinkBy s.g n r hk).trans (if_neg (by omega))
  · have h0' : (sreg s sa).toNat = 0 := h0
    have h256 : (sreg s sa).toNat ≤ 256 := by omega
    have ha : s.g.allot + 4 * (sreg s sa).toNat ≤ 1024 := by omega
    exact ⟨giveback_none hl hs h256 (by omega) h0, claim_none hl hs ha h0, claimtry_none hl hs sd ha h0⟩
  · exact ⟨_, claim_takes hl hs h256 ha h1 hw hf, claimMet_takeBlocks s n, fun _ => rfl, rfl, waiting_takeBlocks s n⟩
  · refine ⟨_, claim_queues hl hs h256 ha h1 hm hw, rfl, rfl, ?_, rfl⟩
    exact (List.filter_append ..).trans (congrArg (waiting s ++ ·) (List.filter_cons_of_pos (by simp [quadKey])))
  · refine ⟨_, claimtry_takes hl hs h256 ha h1 sd hw hf, claimMet_finS (claimMet_takeBlocks s n) sd 1, fun h => ?_, fun r hr => ?_, finS_spc _ sd 1⟩
    · rw [sreg_finS, if_pos ⟨rfl, h⟩]
    · rw [sreg_finS, if_neg (fun e => hr e.1)]
      rfl

end Sys2Proof.Claims
end

section
/-! PROOFS. A lane instruction that passes its issue checks (R285, R286), what its registers' blocks leave (R99 to R101), and what its
end leaves (R71 to R77, R80). -/
namespace Sys2Proof.Machine

open Sys2Proof.Claims

/-! The issue of a lane instruction. -/

/-- A ready instruction, whose own operand check passes, takes no trap of R286. -/
theorem laneCheck_ready {s : State} {i : Instr} {f : LaneFields} {r : Roles} {c : LaneCtx} {sp : LaneSpec} (h : LaneReady s i f r c)
    (op : Nat) {extra : Option BadOp} (hx : extra = none) (hs : laneSpecOf i f = some sp) (hl : legal i = laneOk i sp f) :
    laneCheck s i f op r extra = none := by
  have enc : laneOk i sp f = true := hl ▸ h.legal
  have run : (f.j && s.g.ln.runPos != 0) = false := by
    cases hj : f.j
    · rfl
    · simp [h.first hj]
  have short : ¬24 ≤ s.g.ln.runPos := Nat.not_le.mpr h.length
  simp only [laneCheck, hs, enc, run, h.operands, hx, short, Bool.not_true, Bool.or_self, Bool.false_eq_true, if_false, Option.or_none]

/-- A ready instruction runs with its mask and its VQ entries. -/
theorem laneRun_of_ready {s : State} {i : Instr} {f : LaneFields} {r : Roles} {c : LaneCtx} {sp : LaneSpec} (h : LaneReady s i f r c)
    (op : Nat) {extra : Option BadOp} (hx : extra = none) (k : State → BitVec 64 → Nat × Nat × Nat → Out)
    (hs : laneSpecOf i f = some sp) (hl : legal i = laneOk i sp f) :
    laneRun s i f op r extra k = k (withLane s c) (laneMask s f) (vqVals s f) :=
  laneRun_ready s i f op r extra c k (laneCheck_ready h op hx hs hl) h.queue h.bank

/-- An instruction that names no register uses no block (R97, R100). -/
theorem legAccess_noRoles {s : State} {f : LaneFields} {c : LaneCtx} (h : legAccess s f noRoles = some c) : c = s.g.ln := by
  have : legBlocks f noRoles = ([], []) := rfl
  unfold legAccess at h
  split at h
  · exact (Option.some.inj h).symm
  · rw [this] at h
    exact (Option.some.inj (Option.filter_eq_some_iff.mp h).1).symm

/-! The lane slot (R80). -/

theorem freeSlotOwner_eq (s : State) (g : Group) :
    freeSlotOwner s g = { s with dev := { s.dev with quads := (freeSlotOwner s g).dev.quads } } := by
  unfold freeSlotOwner
  dsimp only
  split <;> rfl

/-- The group has given up the lane slot (R80). -/
theorem owner_freeSlotOwner (s : State) (g : Group) : (quadOf (freeSlotOwner s g) g.core g.quad).owner ≠ some g.id := by
  unfold freeSlotOwner
  dsimp only
  split
  · have : quadOf (putQuad s g.core g.quad { quadOf s g.core g.quad with owner := none }) g.core g.quad =
        { quadOf s g.core g.quad with owner := none } := (sget_sput _ _ _ _ _).trans (if_pos rfl)
    rw [this]
    exact fun h => by cases h
  · next h => simpa using h

/-- No lane is left (R71, R94). -/
theorem allRetired_iff (c : LaneCtx) : allRetired c = true ↔ noLanes c.mask c.stack := by
  simp [allRetired, noLanes]

theorem endRun_drained {c : LaneCtx} (h : noLanes c.mask c.stack) (next : Option Nat) :
    endRun c next = { c with pos := .drained, runPos := 0 } := if_pos ((allRetired_iff c).mpr h)

theorem endRun_next {c : LaneCtx} (h : ¬noLanes c.mask c.stack) (k : Nat) :
    endRun c (some k) = { c with pos := .start, lpc := k, runPos := 0 } := if_neg (fun e => h ((allRetired_iff c).mp e))

theorem endRun_merge {c : LaneCtx} (h : ¬noLanes c.mask c.stack) (hm : c.mask = 0) :
    endRun c none = { c with pos := .start, runPos := 0 } :=
  (if_neg (fun e => h ((allRetired_iff c).mp e))).trans (if_pos hm)

theorem endRun_pop {c : LaneCtx} (hm : c.mask ≠ 0) : endRun c none = { c with pos := .pop, runPos := 0 } :=
  (if_neg (fun e => hm ((allRetired_iff c).mp e).1)).trans (if_neg hm)

/-! Lane branches (R77, R90 to R95). -/

/-- A branch completes with the lanes and the stack that `w` holds, the rest of the group being that of `s`. -/
theorem branchDone_finBranch (s : State) (mask retired : BitVec 64) (stack : List StackEntry) (k : Nat) :
    BranchDone s (finBranch (putLane s { s.g.ln with mask := mask, retired := retired, stack := stack }) k) mask retired stack k := by
  generalize hc : { s.g.ln with mask := mask, retired := retired, stack := stack } = c
  have hmask : c.mask = mask := by rw [← hc]
  have hret : c.retired = retired := by rw [← hc]
  have hstack : c.stack = stack := by rw [← hc]
  have hrest : c.v = s.g.ln.v ∧ c.preds = s.g.ln.preds ∧ c.fmt = s.g.ln.fmt := by rw [← hc]; exact ⟨rfl, rfl, rfl⟩
  have ends : ∃ d : LaneCtx, endRun c (some k) = d ∧ d.mask = mask ∧ d.retired = retired ∧ d.stack = stack ∧ d.runPos = 0 ∧
      d.v = s.g.ln.v ∧ d.preds = s.g.ln.preds ∧ d.fmt = s.g.ln.fmt ∧
      (¬noLanes mask stack → d.pos = .start ∧ d.lpc = k) ∧ (noLanes mask stack → d.pos = .drained) := by
    by_cases h : noLanes mask stack
    · exact ⟨_, endRun_drained (by rwa [hmask, hstack]) _, hmask, hret, hstack, rfl, hrest.1, hrest.2.1, hrest.2.2,
        fun n => absurd h n, fun _ => rfl⟩
    · exact ⟨_, endRun_next (by rwa [hmask, hstack]) _, hmask, hret, hstack, rfl, hrest.1, hrest.2.1, hrest.2.2,
        fun _ => ⟨rfl, rfl⟩, fun n => absurd n h⟩
  obtain ⟨d, hd, dmask, dret, dstack, dpos, dv, dpreds, dfmt, dgoes, dends⟩ := ends
  have hf : finBranch (putLane s c) k = { freeSlotOwner (putLane s c) (putLane s c).g with
      g := { s.g with skipL := none, ln := d, halted := if s.g.stepping then true else s.g.halted, stepping := false } } := by
    unfold finBranch
    simp only [freeSlotOwner_g]
    rw [show (putLane s c).g.ln = c from rfl, hd]
    rfl
  rw [hf, freeSlotOwner_eq]
  exact {
    lanes := ⟨dmask, dret, dstack, dpos⟩
    goes := dgoes
    ends := dends
    slot := owner_freeSlotOwner (putLane s c) (putLane s c).g
    kept := ⟨dv, dpreds, dfmt, rfl, rfl, rfl⟩
    pure' := ⟨rfl, rfl, rfl, rfl⟩ }

/-- An entry is pushed where there is room (R95). -/
theorem pushEntry_room {s : State} (e : StackEntry) (mask : BitVec 64) (next : Nat)
    (h : s.g.ln.stack.length < 256 ∧ (s.g.ln.stack.length < 32 ∨ s.inp.ecc ≠ .spill)) :
    pushEntry s e mask next = .next (finBranch (putLane s { s.g.ln with stack := e :: s.g.ln.stack, mask := mask }) next) := by
  refine if_neg ?_
  simp only [Bool.or_eq_true, Bool.and_eq_true, decide_eq_true_eq, beq_iff_eq, not_or, not_and, Nat.not_le]
  exact ⟨h.1, fun h32 => h.2.resolve_left (Nat.not_lt.mpr h32)⟩

/-- STACK_SPILL where there is none, its address a free value (R95). -/
theorem pushEntry_spills {s : State} (e : StackEntry) (mask : BitVec 64) (next : Nat)
    (h : ¬(s.g.ln.stack.length < 256 ∧ (s.g.ln.stack.length < 32 ∨ s.inp.ecc ≠ .spill))) :
    pushEntry s e mask next = trapL { s with free := s.free + 1 } s.g.ln.mask 0x14 (Config.freeValue s.free).toNat 0 := by
  refine if_pos ?_
  simp only [Bool.or_eq_true, Bool.and_eq_true, decide_eq_true_eq, beq_iff_eq]
  by_contra hn
  simp only [not_or, not_and, Nat.not_le] at hn
  exact h ⟨hn.1, (Nat.lt_or_ge s.g.ln.stack.length 32).imp_right hn.2⟩

theorem bTarget_eq (f : LaneFields) : bTarget f = f.imm.toNat / 2 ^ 16 := by
  have := f.imm.isLt
  unfold bTarget fld
  omega

theorem bReconv_ofNat (f : LaneFields) : BitVec.ofNat 16 (bReconv f) = f.imm.setWidth 16 := by
  apply BitVec.eq_of_toNat_eq
  simp [bReconv, fld]

theorem bReconv_eq_iff (f : LaneFields) (x : BitVec 16) : x.toNat = bReconv f ↔ x = f.imm.setWidth 16 := by
  have hlt : bReconv f < 2 ^ 16 := Nat.mod_lt _ (by decide)
  rw [BitVec.toNat_eq, ← bReconv_ofNat, BitVec.toNat_ofNat, Nat.mod_eq_of_lt hlt]

/-- A ready branch runs with the lanes that its guard selects (R283). -/
theorem branchRun_ready {s : State} {i : Instr} {f : LaneFields} {c : LaneCtx} {sp : LaneSpec} (h : LaneReady s i f noRoles c) (op : Nat)
    (k : State → BitVec 64 → Out) (hs : laneSpecOf i f = some sp) (hl : legal i = laneOk i sp f) :
    branchRun s i f op k = k s (takenMask s f) := by
  have hc := legAccess_noRoles h.bank
  subst hc
  exact laneRun_of_ready h op rfl _ hs hl

end Sys2Proof.Machine
end

section
/-! PROOFS. O40: lane branches and the reconvergence stack. -/
namespace Sys2Proof.Machine

open Sys2Proof.Claims

section
variable {s : State} {f : LaneFields} {c : LaneCtx}

/-- There is room for one entry more (R95). -/
def stackRoom (s : State) : Prop := s.g.ln.stack.length < 256 ∧ (s.g.ln.stack.length < 32 ∨ s.inp.ecc ≠ .spill)

/-- The branch goes on with these lanes, this stack and this index. -/
def BranchGoes (i : Instr) (s : State) (mask retired : BitVec 64) (stack : List StackEntry) (next : Nat) : Prop :=
  ∃ t, exec i s = .next t ∧ BranchDone s t mask retired stack next

theorem branchGoes_of {i : Instr} {mask retired : BitVec 64} {stack : List StackEntry} {next : Nat}
    (h : exec i s = .next (finBranch (putLane s { s.g.ln with mask := mask, retired := retired, stack := stack }) next)) :
    BranchGoes i s mask retired stack next := ⟨_, h, branchDone_finBranch s mask retired stack next⟩

/-- An entry is pushed where there is room, and STACK_SPILL is taken where there is none. -/
theorem pushes_of {i : Instr} {e : StackEntry} {mask : BitVec 64} {next : Nat} (h : exec i s = pushEntry s e mask next) :
    (stackRoom s → BranchGoes i s mask s.g.ln.retired (e :: s.g.ln.stack) next) ∧
    (¬stackRoom s → ∃ a, exec i s = trapL { s with free := s.free + 1 } s.g.ln.mask 0x14 a 0) :=
  ⟨fun hr => branchGoes_of (h.trans (pushEntry_room e mask next hr)), fun hr => ⟨_, h.trans (pushEntry_spills e mask next hr)⟩⟩

theorem lbr_run (h : LaneReady s (.lbr f) f noRoles c) : exec (.lbr f) s =
    if takenMask s f = 0 then .next (finBranch s (s.g.ln.lpc + 1))
    else if takenMask s f = s.g.ln.mask then .next (finBranch s (bTarget f))
    else pushEntry s ⟨s.g.ln.mask &&& ~~~takenMask s f, false, zx 24 s.g.ln.fmt, BitVec.ofNat 16 (s.g.ln.lpc + 1),
      BitVec.ofNat 16 (bReconv f)⟩ (takenMask s f) (bTarget f) := by
  show execLbr f s = _
  rw [execLbr, branchRun_ready h _ _ rfl rfl]

theorem ljmp_run (h : LaneReady s (.ljmp f) f noRoles c) : exec (.ljmp f) s =
    .next (finBranch s (if takenMask s f = 0 then s.g.ln.lpc + 1 else bTarget f)) := by
  show execLjmp f s = _
  rw [execLjmp, branchRun_ready h _ _ rfl rfl]

theorem lexit_run (h : LaneReady s (.lexit f) f noRoles c) : exec (.lexit f) s =
    .next (finBranch (putLane s { s.g.ln with
      mask := s.g.ln.mask &&& ~~~takenMask s f, retired := s.g.ln.retired ||| takenMask s f,
      stack := s.g.ln.stack.map (fun e => { e with mask := e.mask &&& ~~~takenMask s f }) }) (s.g.ln.lpc + 1)) := by
  show execLexit f s = _
  rw [execLexit, branchRun_ready h _ _ rfl rfl]

/-- The entry that LBREAK pushes. -/
def brokeEntry (s : State) (f : LaneFields) : StackEntry := ⟨takenMask s f, true, zx 24 s.g.ln.fmt, 0, BitVec.ofNat 16 (bReconv f)⟩

theorem lbreak_none (h : LaneReady s (.lbreak f) f noRoles c) (ht : takenMask s f = 0) :
    exec (.lbreak f) s = .next (finBranch s (s.g.ln.lpc + 1)) := by
  show execLbreak f s = _
  rw [execLbreak, branchRun_ready h _ _ rfl rfl]
  exact if_pos ht

/-- LBREAK whose entry is on top adds its lanes to it (R415). -/
theorem lbreak_joins (h : LaneReady s (.lbreak f) f noRoles c) (ht : takenMask s f ≠ 0) {top : StackEntry} {more : List StackEntry}
    (hs : s.g.ln.stack = top :: more) (hp : top.phase = true) (hr : top.reconv.toNat = bReconv f) : exec (.lbreak f) s =
    .next (finBranch (putLane s { s.g.ln with
      mask := s.g.ln.mask &&& ~~~takenMask s f, stack := ({ top with mask := top.mask ||| takenMask s f } : StackEntry) :: more })
      (s.g.ln.lpc + 1)) := by
  show execLbreak f s = _
  rw [execLbreak, branchRun_ready h _ _ rfl rfl]
  refine (if_neg ht).trans ?_
  rw [hs]
  exact if_pos (by simp [hp, hr])

theorem lbreak_pushes (h : LaneReady s (.lbreak f) f noRoles c) (ht : takenMask s f ≠ 0)
    (hn : ∀ top more, s.g.ln.stack = top :: more → top.phase = false ∨ top.reconv.toNat ≠ bReconv f) :
    exec (.lbreak f) s = pushEntry s (brokeEntry s f) (s.g.ln.mask &&& ~~~takenMask s f) (s.g.ln.lpc + 1) := by
  show execLbreak f s = _
  rw [execLbreak, branchRun_ready h _ _ rfl rfl]
  refine (if_neg ht).trans ?_
  split
  · next top more hs =>
    refine if_neg ?_
    rcases hn top more hs with hp | hr
    · simp [hp]
    · simp [hr]
  · rfl

end

end Sys2Proof.Machine

namespace Sys2Proof.Claims

open Sys2Proof.Machine

/-- Settles O40: a ready branch runs with the lanes that its guard selects, and each outcome is a branch that completes or a push. -/
theorem laneBranches : Obligations.LaneBranches := by
  unfold Obligations.LaneBranches
  intro s f c x taken rest target rec' next ready room goes parked broke spills
  have htarget : bTarget f = target := bTarget_eq f
  have hrec : BitVec.ofNat 16 (bReconv f) = rec' := bReconv_ofNat f
  refine ⟨fun h => ?_, fun h => ?_, fun h => ?_, fun h => branchGoes_of (lexit_run h)⟩
  · have run := lbr_run h
    rw [htarget, hrec] at run
    refine ⟨fun h0 => branchGoes_of (run.trans (if_pos h0)), fun h0 h1 => branchGoes_of (run.trans ((if_neg h0).trans (if_pos h1))),
      fun h0 h1 => (pushes_of (run.trans ((if_neg h0).trans (if_neg h1)))).1,
      fun h0 h1 hr _ => (pushes_of (run.trans ((if_neg h0).trans (if_neg h1)))).2 hr⟩
  · have run := ljmp_run h
    rw [htarget] at run
    exact branchGoes_of run
  · refine ⟨fun h0 => branchGoes_of (lbreak_none h h0), fun top more h0 hs hp hr => ?_, fun h0 hn => ?_⟩
    · exact branchGoes_of (lbreak_joins h h0 hs hp ((bReconv_eq_iff f _).mpr hr))
    · have run := lbreak_pushes h h0 (fun top more hs => (hn top more hs).imp_right (fun hr e => hr ((bReconv_eq_iff f _).mp e)))
      rw [brokeEntry, hrec] at run
      exact ⟨(pushes_of run).1, fun hr _ => (pushes_of run).2 hr⟩

end Sys2Proof.Claims
end

section
/-! PROOFS. What a lane instruction's register accesses, result and end leave of the group (R76, R77, R97, R100, R390). -/
namespace Sys2Proof.Machine

open Sys2Proof.Claims

/-! Vector registers. -/

theorem vget_vput (g : Group) (r t v : Nat) {r' k : Nat} (ht : t < 64) (hk : k < 64) :
    vget (vput g r t v) r' k = if k = t ∧ r' = r then v % 2 ^ 32 else vget g r' k := by
  have key : 64 * r' + k = 64 * r + t ↔ k = t ∧ r' = r := by omega
  simp only [vget, vput, sget_sput, key]
  split
  · exact BitVec.toNat_ofNat ..
  · rfl

/-- The registers of a lane after an `n`-register value is written (R422). -/
theorem vget_vputN (g : Group) (r t n v : Nat) {r' k : Nat} (ht : t < 64) (hk : k < 64) :
    vget (vputN g r t n v) r' k = if k = t ∧ r ≤ r' ∧ r' < r + n then v / 2 ^ (32 * (r' - r)) % 2 ^ 32 else vget g r' k := by
  induction n generalizing g r v with
  | zero =>
    rw [if_neg (by omega)]
    rfl
  | succ n ih =>
    rw [show vputN g r t (n + 1) v = vputN (vput g r t v) (r + 1) t n (v / 2 ^ 32) from rfl, ih, vget_vput g r t v ht hk]
    by_cases hr : k = t ∧ r' = r
    · rw [if_neg (by omega), if_pos hr, if_pos (by omega), hr.2, Nat.sub_self, Nat.mul_zero, pow_zero, Nat.div_one]
    · by_cases hin : k = t ∧ r + 1 ≤ r' ∧ r' < r + 1 + n
      · rw [if_pos hin, if_pos (by omega), Nat.div_div_eq_div_mul, ← pow_add,
          show 32 + 32 * (r' - (r + 1)) = 32 * (r' - r) by omega]
      · rw [if_neg hin, if_neg hr, if_neg (by omega)]

/-- A value of `n` registers is read back from the registers that hold its parts. -/
theorem vgetN_parts {g : Group} {r k : Nat} (n v : Nat) (h : ∀ j, j < n → vget g (r + j) k = v / 2 ^ (32 * j) % 2 ^ 32) :
    vgetN g r k n = v % 2 ^ (32 * n) := by
  induction n generalizing r v with
  | zero => simp [vgetN, Nat.mod_one]
  | succ n ih =>
    have h0 := h 0 (by omega)
    simp only [Nat.add_zero, Nat.mul_zero, pow_zero, Nat.div_one] at h0
    have hn := ih (r := r + 1) (v / 2 ^ 32) (fun j hj => by
      rw [Nat.div_div_eq_div_mul, ← pow_add, show r + 1 + j = r + (j + 1) by omega, h (j + 1) (by omega),
        show 32 + 32 * j = 32 * (j + 1) by omega])
    rw [vgetN, h0, hn, show 32 * (n + 1) = 32 + 32 * n by omega, pow_add, Nat.mod_mul]

/-- The results of the lanes `ls`, one after the other (R390). -/
def putLanes (g : Group) (r n : Nat) (v : Nat → Nat) (ls : List Nat) : Group := ls.foldl (fun g t => vputN g r t n (v t)) g

theorem vget_putLanes (g : Group) (r n : Nat) (v : Nat → Nat) (ls : List Nat) (hls : ∀ t ∈ ls, t < 64) {r' k : Nat} (hk : k < 64) :
    vget (putLanes g r n v ls) r' k =
      if k ∈ ls ∧ r ≤ r' ∧ r' < r + n then v k / 2 ^ (32 * (r' - r)) % 2 ^ 32 else vget g r' k := by
  induction ls generalizing g with
  | nil => simp [putLanes]
  | cons t ls ih =>
    have step : putLanes g r n v (t :: ls) = putLanes (vputN g r t n (v t)) r n v ls := rfl
    rw [step, ih _ (fun x hx => hls x (List.mem_cons_of_mem _ hx)), vget_vputN g r t n (v t) (hls t (List.mem_cons_self ..)) hk]
    by_cases hin : k ∈ ls ∧ r ≤ r' ∧ r' < r + n
    · rw [if_pos hin, if_pos ⟨List.mem_cons_of_mem _ hin.1, hin.2⟩]
    · rw [if_neg hin]
      by_cases ht : k = t ∧ r ≤ r' ∧ r' < r + n
      · rw [if_pos ht, if_pos ⟨ht.1 ▸ List.mem_cons_self .., ht.2⟩, ht.1]
      · rw [if_neg ht, if_neg]
        rintro ⟨hm, hr⟩
        rcases List.mem_cons.mp hm with h | h
        · exact ht ⟨h, hr⟩
        · exact hin ⟨h, hr⟩

theorem mem_lanesOf {m : BitVec 64} {k : Nat} (hk : k < 64) : k ∈ lanesOf m ↔ laneIn m k = true := by
  simp [lanesOf, hk]

theorem lanesOf_lt {m : BitVec 64} : ∀ k ∈ lanesOf m, k < 64 := fun _ h => List.mem_range.mp (List.mem_of_mem_filter h)

/-! The frame of a lane instruction: what it may change before its end are the flags, the registers and the legacy blocks. -/

/-- A lane context without registers, predicates and legacy blocks. -/
def ctxKey (c : LaneCtx) : LaneCtx := { c with v := [], preds := [], legBound := [], legSpilled := [] }

/-- A group without its flags and what `ctxKey` leaves out. -/
def laneKey (g : Group) : Group := { g with fpstat := 0, ln := ctxKey g.ln }

theorem laneKey_withLane {s : State} {c : LaneCtx} (h : ctxKey c = ctxKey s.g.ln) : laneKey (withLane s c).g = laneKey s.g :=
  congrArg (fun x => ({ s.g with fpstat := 0, ln := x } : Group)) h

theorem laneDone_iff_key (s t : State) (f : LaneFields) (pops : Nat) :
    LaneDone s t f pops ↔ LaneDone { State.reset with g := laneKey s.g } t f pops :=
  ⟨fun d => ⟨d.queues, d.scalar, d.skip, d.ctx, d.next, d.last, d.drains, d.merge, d.waits, d.pops'⟩,
    fun d => ⟨d.queues, d.scalar, d.skip, d.ctx, d.next, d.last, d.drains, d.merge, d.waits, d.pops'⟩⟩

/-- What an instruction has done does not depend on what it may change before its end. -/
theorem laneDone_of_key {s w t : State} {f : LaneFields} {pops : Nat} (d : LaneDone w t f pops) (h : laneKey w.g = laneKey s.g) :
    LaneDone s t f pops := by
  rw [laneDone_iff_key, h] at d
  exact (laneDone_iff_key s t f pops).mpr d

/-! Legacy register blocks (R100). -/

/-- A lane context without its legacy blocks. -/
def blockKey (c : LaneCtx) : LaneCtx := { c with legBound := [], legSpilled := [] }

theorem blockKey_legUse {g : Group} {spill b : Nat} {bind : Bool} {c d : LaneCtx} (h : legUse g spill bind c b = some d) :
    blockKey d = blockKey c := by
  unfold legUse at h
  dsimp only at h
  split at h
  · cases h
    rfl
  · split at h
    · cases h
      rfl
    · split at h
      · cases h
        rfl
      · split at h
        · cases h
        · split at h
          · cases h
            rfl
          · cases h

theorem blockKey_foldl_legUse {g : Group} {spill : Nat} {bind : Bool} {c0 : LaneCtx} (l : List Nat) (acc : Option LaneCtx)
    (ha : ∀ c, acc = some c → blockKey c = blockKey c0) :
    ∀ d, l.foldl (fun acc b => acc.bind (fun c => legUse g spill bind c b)) acc = some d → blockKey d = blockKey c0 := by
  induction l generalizing acc with
  | nil => exact ha
  | cons b l ih =>
    refine ih _ (fun c hc => ?_)
    obtain ⟨x, hx, hu⟩ := Option.bind_eq_some_iff.mp hc
    exact (blockKey_legUse hu).trans (ha x hx)

/-- The register accesses of an instruction change the legacy blocks alone. -/
theorem blockKey_legAccess {s : State} {f : LaneFields} {r : Roles} {c : LaneCtx} (h : legAccess s f r = some c) :
    blockKey c = blockKey s.g.ln := by
  unfold legAccess at h
  split at h
  · cases h
    rfl
  · refine blockKey_foldl_legUse _ _ (blockKey_foldl_legUse _ _ ?_) c (Option.filter_eq_some_iff.mp h).1
    intro d hd
    cases hd
    rfl

theorem ctxKey_legAccess {s : State} {f : LaneFields} {r : Roles} {c : LaneCtx} (h : legAccess s f r = some c) :
    ctxKey c = ctxKey s.g.ln := congrArg (fun x : LaneCtx => { x with v := [], preds := [] }) (blockKey_legAccess h)

/-- Registers and predicates are as before the accesses. -/
theorem legAccess_kept {s : State} {f : LaneFields} {r : Roles} {c : LaneCtx} (h : legAccess s f r = some c) :
    c.v = s.g.ln.v ∧ c.preds = s.g.ln.preds :=
  ⟨(congrArg LaneCtx.v (blockKey_legAccess h) :), (congrArg LaneCtx.preds (blockKey_legAccess h) :)⟩

/-! Results (R390). -/

theorem laneKey_vputN (g : Group) (r t n v : Nat) : laneKey (vputN g r t n v) = laneKey g := by
  induction n generalizing g r v with
  | zero => rfl
  | succ n ih => exact ih (vput g r t v) (r + 1) (v / 2 ^ 32)

theorem laneKey_putLanes (g : Group) (r n : Nat) (v : Nat → Nat) (ls : List Nat) : laneKey (putLanes g r n v ls) = laneKey g := by
  induction ls generalizing g with
  | nil => rfl
  | cons t ls ih => exact (ih (vputN g r t n (v t))).trans (laneKey_vputN g r t n (v t))

/-- Registers alone change when a value is written. -/
theorem preds_vputN (g : Group) (r t n v : Nat) : (vputN g r t n v).ln.preds = g.ln.preds ∧ (vputN g r t n v).fpstat = g.fpstat := by
  induction n generalizing g r v with
  | zero => exact ⟨rfl, rfl⟩
  | succ n ih => exact ih (vput g r t v) (r + 1) (v / 2 ^ 32)

theorem preds_putLanes (g : Group) (r n : Nat) (v : Nat → Nat) (ls : List Nat) :
    (putLanes g r n v ls).ln.preds = g.ln.preds ∧ (putLanes g r n v ls).fpstat = g.fpstat := by
  induction ls generalizing g with
  | nil => exact ⟨rfl, rfl⟩
  | cons t ls ih =>
    obtain ⟨hp, hf⟩ := ih (vputN g r t n (v t))
    obtain ⟨hp', hf'⟩ := preds_vputN g r t n (v t)
    exact ⟨hp.trans hp', hf.trans hf'⟩

theorem preds_writeLanes (s : State) (code : BitVec 9) (n : Nat) (m : BitVec 64) (v : Nat → Nat) :
    (writeLanes s code n m v).g.ln.preds = s.g.ln.preds ∧ (writeLanes s code n m v).g.fpstat = s.g.fpstat := by
  unfold writeLanes
  split
  · exact preds_putLanes s.g code.toNat n v (lanesOf m)
  · exact ⟨rfl, rfl⟩

theorem writeLanes_frame (s : State) (code : BitVec 9) (n : Nat) (m : BitVec 64) (v : Nat → Nat) :
    writeLanes s code n m v = { s with g := (writeLanes s code n m v).g } := by
  unfold writeLanes
  split <;> rfl

theorem laneKey_writeLanes (s : State) (code : BitVec 9) (n : Nat) (m : BitVec 64) (v : Nat → Nat) :
    laneKey (writeLanes s code n m v).g = laneKey s.g := by
  unfold writeLanes
  split
  · exact laneKey_putLanes s.g code.toNat n v (lanesOf m)
  · rfl

/-- The lanes of the mask hold their results, and nothing else has changed (R390). -/
theorem laneWrites_writeLanes (s : State) (f : LaneFields) (n : Nat) (m : BitVec 64) (v : Nat → Nat) :
    LaneWrites s (writeLanes s f.d n m v) f n m v := by
  have get : f.d.toNat < 0x1F0 → ∀ r k, k < 64 → vget (writeLanes s f.d n m v).g r k =
      if k ∈ lanesOf m ∧ f.d.toNat ≤ r ∧ r < f.d.toNat + n then v k / 2 ^ (32 * (r - f.d.toNat)) % 2 ^ 32 else vget s.g r k := by
    intro hd r k hk
    unfold writeLanes
    rw [if_pos hd]
    exact vget_putLanes s.g f.d.toNat n v (lanesOf m) lanesOf_lt hk
  refine ⟨fun hd k hk hm => vgetN_parts n (v k) (fun j hj => ?_), fun r k hk hn => ?_, (preds_writeLanes s f.d n m v).1⟩
  · rw [get hd _ k hk, if_pos ⟨(mem_lanesOf hk).mpr hm, by omega, by omega⟩, Nat.add_sub_cancel_left]
  · by_cases hd : f.d.toNat < 0x1F0
    · rw [get hd r k hk, if_neg]
      exact fun h => hn ⟨(mem_lanesOf hk).mp h.1, hd, h.2⟩
    · unfold writeLanes
      rw [if_neg hd]

theorem vgetN_congr {g g' : Group} (h : g'.ln.v = g.ln.v) (r k n : Nat) : vgetN g' r k n = vgetN g r k n := by
  induction n generalizing r with
  | zero => rfl
  | succ n ih => simp only [vgetN, vget, h, ih]

theorem operand_withLane {s : State} {c : LaneCtx} (h : c.v = s.g.ln.v) (code : BitVec 9) (n lit vq k : Nat) :
    operand (withLane s c).g code n lit vq k = operand s.g code n lit vq k := by
  have hv : (withLane s c).g.ln.v = s.g.ln.v := h
  unfold operand
  dsimp only
  rw [vgetN_congr hv]
  rfl

/-- Results are read in the vector registers and predicates alone. -/
theorem laneWrites_congr {s t s' t' : State} {f : LaneFields} {n : Nat} {m : BitVec 64} {v : Nat → Nat} (h : LaneWrites s t f n m v)
    (hs : s'.g.ln.v = s.g.ln.v ∧ s'.g.ln.preds = s.g.ln.preds) (ht : t'.g.ln.v = t.g.ln.v ∧ t'.g.ln.preds = t.g.ln.preds) :
    LaneWrites s' t' f n m v := by
  have get : ∀ {a b : State}, b.g.ln.v = a.g.ln.v → ∀ r k, vget b.g r k = vget a.g r k := fun e r k => by simp only [vget, e]
  exact ⟨fun hd k hk hm => (vgetN_congr ht.1 _ k n).trans (h.wrote hd k hk hm),
    fun r k hk hn => by rw [get hs.1, get ht.1, h.kept r k hk hn], by rw [hs.2, ht.2, h.preds]⟩

/-- The values of the 64 lanes alone count. -/
theorem laneWrites_of_eqOn {s t : State} {f : LaneFields} {n : Nat} {m : BitVec 64} {v w : Nat → Nat} (h : LaneWrites s t f n m v)
    (hvw : ∀ k, k < 64 → v k = w k) : LaneWrites s t f n m w :=
  ⟨fun hd k hk hm => (h.wrote hd k hk hm).trans (by rw [hvw k hk]), h.kept, h.preds⟩

/-- Nothing is written where no lane is active or the destination is zero. -/
theorem laneWrites_none {s t : State} {f : LaneFields} (n : Nat) (m : BitVec 64) (v : Nat → Nat) (hd : f.d = zeroCode)
    (hv : t.g.ln.v = s.g.ln.v) (hp : t.g.ln.preds = s.g.ln.preds) : LaneWrites s t f n m v := by
  have far : ¬f.d.toNat < 0x1F0 := by rw [hd]; decide
  exact ⟨fun h => absurd h far, fun r k _ _ => by simp only [vget, hv], hp⟩

/-! The end of a lane instruction (R76, R77, R80). -/

/-- The group at the end of a run before its next index is taken. -/
def atEnd (g : Group) : Group :=
  { g with skipL := none, ln := endRun g.ln none, halted := if g.stepping then true else g.halted, stepping := false }

theorem finL_inside (s : State) {f : LaneFields} (h : f.e = false) : finL s f =
    { s with g := { s.g with skipL := none, ln := { s.g.ln with lpc := s.g.ln.lpc + 1, runPos := s.g.ln.runPos + 1 } } } :=
  if_neg (by simp [h])

theorem finL_last (s : State) {f : LaneFields} (h : f.e = true) : finL s f = { freeSlotOwner s s.g with g := popDQ (atEnd s.g) } := by
  unfold finL
  rw [if_pos h]
  dsimp only
  rw [freeSlotOwner_g]
  rfl

/-- A group without what the end of a run changes. -/
def endKey (g : Group) : Group :=
  { g with skipL := none, halted := false, stepping := false, q := { g.q with dq := [] }, en := { g.en with acc := [] }
           ln := { g.ln with lpc := 0, pos := .pop, runPos := 0, fmt := 0 } }

theorem endKey_popDQ (g : Group) : endKey (popDQ g) = endKey g := by
  unfold popDQ
  split <;> rfl

/-- The end of a run moves the lane stream's position alone. -/
theorem endRun_position (c : LaneCtx) : ∃ pos, endRun c none = { c with pos := pos, runPos := 0 } := by
  by_cases h : noLanes c.mask c.stack
  · exact ⟨_, endRun_drained h none⟩
  · by_cases hm : c.mask = 0
    · exact ⟨_, endRun_merge h hm⟩
    · exact ⟨_, endRun_pop hm⟩

theorem endKey_atEnd (g : Group) : endKey (atEnd g) = endKey g := by
  obtain ⟨pos, h⟩ := endRun_position g.ln
  unfold atEnd
  rw [h]
  rfl

theorem skipL_popDQ (g : Group) : (popDQ g).skipL = g.skipL := (congrArg Group.skipL (popDQ_frame g) :)

theorem runPos_popDQ (g : Group) (h : g.ln.runPos = 0) : (popDQ g).ln.runPos = 0 := by
  unfold popDQ
  split
  · rfl
  · exact h

theorem runPos_atEnd (g : Group) : (atEnd g).ln.runPos = 0 := by
  obtain ⟨pos, h⟩ := endRun_position g.ln
  exact congrArg LaneCtx.runPos h

theorem atEnd_drains {g : Group} (h : noLanes g.ln.mask g.ln.stack) : popDQ (atEnd g) = atEnd g ∧
    (atEnd g).ln = { g.ln with pos := .drained, runPos := 0 } := by
  have hl : (atEnd g).ln = _ := endRun_drained h none
  exact ⟨popDQ_inRun _ (by rw [hl]; simp), hl⟩

theorem atEnd_merges {g : Group} (hm : g.ln.mask = 0) (h : ¬noLanes g.ln.mask g.ln.stack) : popDQ (atEnd g) = atEnd g ∧
    (atEnd g).ln = { g.ln with pos := .start, runPos := 0 } := by
  have hl : (atEnd g).ln = _ := endRun_merge h hm
  exact ⟨popDQ_inRun _ (by rw [hl]; simp), hl⟩

/-- Where no index leaves DQ, the end of a run changes its position alone. -/
theorem popDQ_atEnd_stays {g : Group} {pos : LanePos} (hp : popDQ (atEnd g) = atEnd g)
    (hl : (atEnd g).ln = { g.ln with pos := pos, runPos := 0 }) :
    (popDQ (atEnd g)).ln.pos = pos ∧ (popDQ (atEnd g)).ln.lpc = g.ln.lpc ∧ (popDQ (atEnd g)).q.dq = g.q.dq ∧
      (popDQ (atEnd g)).ln.fmt = g.ln.fmt ∧ (popDQ (atEnd g)).en.acc = g.en.acc := by
  rw [hp, hl]
  exact ⟨rfl, rfl, rfl, rfl, rfl⟩

theorem popDQ_acc (g : Group) (k : BitVec 16) (fmt : Option W32) (rest : List (BitVec 16 × Option W32)) (h : g.ln.pos = .pop)
    (hq : g.q.dq = (k, fmt) :: rest) : (popDQ g).en.acc = noteDQ g (k, fmt) := by
  unfold popDQ
  rw [h, hq]

theorem noteDQ_eq (s : State) (e : BitVec 16 × Option W32) : noteDQ s.g e = behindPop s e := by
  simp [noteDQ, behindPop]

/-- The end of a lane instruction whose pops are done (R76, R77). -/
theorem laneDone_finL (s : State) (f : LaneFields) : LaneDone s (finL s f) f 0 := by
  cases he : f.e
  · rw [finL_inside s he]
    exact {
      queues := ⟨by simp, rfl⟩, scalar := ⟨rfl, rfl, rfl, rfl, rfl⟩, skip := ⟨rfl, rfl⟩, ctx := ⟨rfl, rfl, rfl, rfl⟩
      next := fun _ => ⟨rfl, rfl, rfl, rfl, rfl, rfl⟩
      last := fun h => by simp [he] at h
      drains := fun h => by simp [he] at h
      merge := fun h => by simp [he] at h
      waits := fun h => by simp [he] at h
      pops' := fun h => by simp [he] at h }
  · rw [finL_last s he]
    have key : endKey (popDQ (atEnd s.g)) = endKey s.g := (endKey_popDQ _).trans (endKey_atEnd _)
    have hpos := runPos_popDQ _ (runPos_atEnd s.g)
    have pop : s.g.ln.mask ≠ 0 → (atEnd s.g).ln = { s.g.ln with pos := .pop, runPos := 0 } := endRun_pop
    exact {
      queues := ⟨(congrArg (fun g => g.q.vq) key :).trans (by rw [List.drop_zero, ite_self]; rfl), (congrArg (fun g => g.q.rq) key :)⟩
      scalar := ⟨(congrArg Group.sc key :), (congrArg (fun g => { g.en with acc := (popDQ (atEnd s.g)).en.acc }) key :),
        (congrArg Group.sup key :), (congrArg Group.allot key :), (congrArg Group.bnd key :)⟩
      skip := ⟨skipL_popDQ (atEnd s.g), (congrArg Group.skipS key :)⟩
      ctx := ⟨(congrArg (fun g => g.ln.mask) key :), (congrArg (fun g => g.ln.retired) key :), (congrArg (fun g => g.ln.stack) key :),
        (congrArg (fun g => g.ln.rng) key :)⟩
      next := fun h => by simp [he] at h
      last := fun _ => ⟨hpos, owner_freeSlotOwner s s.g⟩
      drains := fun _ h => popDQ_atEnd_stays (atEnd_drains h).1 (atEnd_drains h).2
      merge := fun _ hm h => popDQ_atEnd_stays (atEnd_merges hm h).1 (atEnd_merges hm h).2
      waits := fun _ hm hq => popDQ_atEnd_stays (popDQ_empty _ hq) (pop hm)
      pops' := fun _ hm k fmt rest hq => by
        have hl := pop hm
        obtain ⟨h1, h2, h3, h4, -⟩ := popDQ_head (atEnd s.g) k fmt rest (by rw [hl]) hq
        rw [hl] at h4
        exact ⟨h3, h2, h1, h4, (popDQ_acc (atEnd s.g) k fmt rest (by rw [hl]) hq).trans (noteDQ_eq s (k, fmt))⟩ }

/-- A lane instruction's pops and its end are those of R72, R73, R76 and R77. -/
theorem laneDone_popFinL (s : State) (f : LaneFields) (r : Roles) : LaneDone s (popFinL s f r) f (vqFields f r) := by
  unfold popFinL
  split
  · next hk =>
    have d := laneDone_finL s f
    refine ⟨?_, d.scalar, d.skip, d.ctx, d.next, d.last, d.drains, d.merge, d.waits, d.pops'⟩
    have hq := d.queues
    rw [if_pos hk] at hq ⊢
    exact hq
  · next hk =>
    have d := laneDone_finL (popVQ s (vqFields f r)) f
    refine ⟨?_, d.scalar, d.skip, d.ctx, d.next, d.last, d.drains, d.merge, d.waits, d.pops'⟩
    have hq := d.queues
    rw [if_neg (show ¬skipQ (popVQ s (vqFields f r)) = true from hk)] at hq
    rw [if_neg hk]
    exact hq

/-- Registers, predicates and flags are as before. -/
def RegsKept (s t : State) : Prop := t.g.ln.v = s.g.ln.v ∧ t.g.ln.preds = s.g.ln.preds ∧ t.g.fpstat = s.g.fpstat

/-- The end of a lane instruction leaves memory, team, task, partition and registers. -/
theorem finL_kept (s : State) (f : LaneFields) : LanePure s (finL s f) ∧ RegsKept s (finL s f) := by
  cases he : f.e
  · rw [finL_inside s he]
    exact ⟨⟨rfl, rfl, rfl, rfl⟩, rfl, rfl, rfl⟩
  · rw [finL_last s he, freeSlotOwner_eq]
    have key : endKey (popDQ (atEnd s.g)) = endKey s.g := (endKey_popDQ _).trans (endKey_atEnd _)
    exact ⟨⟨rfl, rfl, rfl, rfl⟩, (congrArg (fun g => g.ln.v) key :), (congrArg (fun g => g.ln.preds) key :), (congrArg Group.fpstat key :)⟩

theorem popFinL_kept (s : State) (f : LaneFields) (r : Roles) : LanePure s (popFinL s f r) ∧ RegsKept s (popFinL s f r) := by
  unfold popFinL
  split
  · exact finL_kept s f
  · exact finL_kept (popVQ s (vqFields f r)) f

/-- The instruction has done its work once its pops and its end follow on a state that differs from `s` in what it may change before
its end, and in memory, team, task and partition not at all. -/
theorem done_popFinL {s w : State} (f : LaneFields) (r : Roles) (hk : laneKey w.g = laneKey s.g) :
    LaneDone s (popFinL w f r) f (vqFields f r) := laneDone_of_key (laneDone_popFinL w f r) hk

theorem lanePure_popFinL {s w : State} (f : LaneFields) (r : Roles) (h : LanePure s w) : LanePure s (popFinL w f r) := by
  obtain ⟨hmem, htm, htk, hpt⟩ := h
  obtain ⟨⟨hmem', htm', htk', hpt'⟩, -⟩ := popFinL_kept w f r
  exact ⟨hmem'.trans hmem, htm'.trans htm, htk'.trans htk, hpt'.trans hpt⟩

/-! An instruction that writes values of the lanes into d and does no more. -/

section
variable {s : State} {f : LaneFields} {r : Roles} {c : LaneCtx}

/-- The state after the register accesses and the writes. -/
def lanesWritten (s : State) (c : LaneCtx) (f : LaneFields) (n : Nat) (m : BitVec 64) (v : Nat → Nat) : State :=
  writeLanes (withLane s c) f.d n m v

theorem laneKey_lanesWritten (h : legAccess s f r = some c) (n : Nat) (m : BitVec 64) (v : Nat → Nat) :
    laneKey (lanesWritten s c f n m v).g = laneKey s.g :=
  (laneKey_writeLanes (withLane s c) f.d n m v).trans (laneKey_withLane (ctxKey_legAccess h))

theorem lanePure_lanesWritten (s : State) (c : LaneCtx) (f : LaneFields) (n : Nat) (m : BitVec 64) (v : Nat → Nat) :
    LanePure s (lanesWritten s c f n m v) := by
  rw [lanesWritten, writeLanes_frame]
  exact ⟨rfl, rfl, rfl, rfl⟩

theorem laneWrites_lanesWritten (h : legAccess s f r = some c) (n : Nat) (m : BitVec 64) (v : Nat → Nat) {t : State}
    (hv : t.g.ln.v = (lanesWritten s c f n m v).g.ln.v) (hp : t.g.ln.preds = (lanesWritten s c f n m v).g.ln.preds) :
    LaneWrites s t f n m v :=
  laneWrites_congr (laneWrites_writeLanes (withLane s c) f n m v) ⟨(legAccess_kept h).1.symm, (legAccess_kept h).2.symm⟩ ⟨hv, hp⟩

/-- Values without flags: no lane raises an enabled flag, and SR_FPSTAT is as before. -/
theorem laneEffect_quiet {i : Instr} {done : State → Prop}
    (h : ∀ c, LaneReady s i f r c →
      ∃ t, exec i s = .next t ∧ LaneDone s t f (vqFields f r) ∧ LanePure s t ∧ done t ∧ t.g.fpstat = s.g.fpstat) :
    LaneEffect i s f r (fun _ => 0) done := by
  intro c hr
  have none_hit : ∀ k, ¬(laneIn (laneMask s f) k = true ∧ enabled s 0) := fun k hk => hk.2 (BitVec.zero_and ..)
  refine ⟨fun _ => ?_, fun ⟨k, hk⟩ => absurd hk (none_hit k)⟩
  obtain ⟨t, ht, hd, hp, hw, hf⟩ := h c hr
  refine ⟨t, ht, hd, hp, hw, fun b _ => ?_⟩
  rw [hf]
  exact ⟨.inl, fun x => x.elim id (fun ⟨k, _, hb⟩ => absurd hb (by simp))⟩

/-- An instruction that writes values of its lanes and ends gives them (R390). -/
theorem laneGives_of_run {i : Instr} {n : Nat} {v : Nat → Nat}
    (run : ∀ c, LaneReady s i f r c → exec i s = .next (popFinL (lanesWritten s c f n (laneMask s f) v) f r)) :
    LaneGives i s f r n (quietly v) := by
  refine laneEffect_quiet (fun c hr => ⟨_, run c hr, ?_, ?_, ?_, ?_⟩)
  · exact done_popFinL f r (laneKey_lanesWritten hr.bank n _ v)
  · exact lanePure_popFinL f r (lanePure_lanesWritten s c f n _ v)
  · obtain ⟨-, hv, hp, -⟩ := popFinL_kept (lanesWritten s c f n (laneMask s f) v) f r
    exact laneWrites_lanesWritten hr.bank n _ v hv hp
  · obtain ⟨-, -, -, hf⟩ := popFinL_kept (lanesWritten s c f n (laneMask s f) v) f r
    exact hf.trans (preds_writeLanes (withLane s c) f.d n (laneMask s f) v).2

end

end Sys2Proof.Machine
end

section
/-! PROOFS. O39: RNG, LPUSH, VQPOP, RDSR and LNOP. -/
namespace Sys2Proof.Machine

open Sys2Proof.Claims

/-! Philox (R412). -/

/-- A product of two words as its upper and its lower half. -/
theorem wordProduct_halves (k x : W32) :
    ((k.zeroExtend 64 * x.zeroExtend 64).extractLsb' 32 32).toNat = k.toNat * x.toNat / 2 ^ 32 ∧
    ((k.zeroExtend 64 * x.zeroExtend 64).extractLsb' 0 32).toNat = k.toNat * x.toNat % 2 ^ 32 := by
  have hk := k.isLt
  have hx := x.isLt
  have small : k.toNat * x.toNat < 2 ^ 32 * 2 ^ 32 := Nat.mul_lt_mul'' hk hx
  have whole : (k.zeroExtend 64 * x.zeroExtend 64).toNat = k.toNat * x.toNat := by
    rw [BitVec.toNat_mul, BitVec.toNat_setWidth, BitVec.toNat_setWidth, Nat.mod_eq_of_lt (show k.toNat < 2 ^ 64 by omega),
      Nat.mod_eq_of_lt (show x.toNat < 2 ^ 64 by omega), Nat.mod_eq_of_lt (by omega)]
  constructor
  · rw [BitVec.extractLsb'_toNat, whole, Nat.shiftRight_eq_div_pow, Nat.mod_eq_of_lt (by omega)]
  · rw [BitVec.extractLsb'_toNat, whole, Nat.shiftRight_zero]

/-- Four words as numbers. -/
def wordNats (x : W32 × W32 × W32 × W32) : Nat × Nat × Nat × Nat := (x.1.toNat, x.2.1.toNat, x.2.2.1.toNat, x.2.2.2.toNat)

/-- The model's rounds are those of R412. -/
theorem philox_eq_philoxRounds (n : Nat) (k0 k1 : W32) (x : W32 × W32 × W32 × W32) :
    philox n k0.toNat k1.toNat (wordNats x) = wordNats (philoxRounds n k0 k1 x) := by
  induction n generalizing k0 k1 x with
  | zero => rfl
  | succ n ih =>
    obtain ⟨x0, x1, x2, x3⟩ := x
    obtain ⟨hi0, lo0⟩ := wordProduct_halves 0xD2511F53 x0
    obtain ⟨hi1, lo1⟩ := wordProduct_halves 0xCD9E8D57 x2
    have round : philoxRound (wordNats (x0, x1, x2, x3)) k0.toNat k1.toNat = wordNats
        ((((0xCD9E8D57 : W32).zeroExtend 64 * x2.zeroExtend 64).extractLsb' 32 32) ^^^ x1 ^^^ k0,
          ((0xCD9E8D57 : W32).zeroExtend 64 * x2.zeroExtend 64).extractLsb' 0 32,
          (((0xD2511F53 : W32).zeroExtend 64 * x0.zeroExtend 64).extractLsb' 32 32) ^^^ x3 ^^^ k1,
          ((0xD2511F53 : W32).zeroExtend 64 * x0.zeroExtend 64).extractLsb' 0 32) := by
      simp only [wordNats, BitVec.toNat_xor, hi0, lo0, hi1, lo1]
      rfl
    rw [philox, round, philoxRounds, ← ih, BitVec.toNat_add, BitVec.toNat_add]
    rfl

/-- A lane's draw from the counter and the words in its registers. -/
def drawOf (s : State) (f : LaneFields) (k : Nat) : Nat :=
  let x := philoxRounds 10 (BitVec.ofNat 32 (vget s.g f.a.toNat k)) (BitVec.ofNat 32 (vget s.g (f.a.toNat + 1) k))
    (BitVec.ofNat 32 k, s.g.ln.rng.extractLsb' 0 32, s.g.ln.rng.extractLsb' 32 32, BitVec.ofNat 32 s.g.id.group)
  x.1.toNat + 2 ^ 32 * x.2.1.toNat + 2 ^ 64 * x.2.2.1.toNat + 2 ^ 96 * x.2.2.2.toNat

theorem ofNat_vget (g : Group) (r k : Nat) : (BitVec.ofNat 32 (vget g r k)).toNat = vget g r k := by
  rw [vget, BitVec.ofNat_toNat, BitVec.setWidth_eq]

theorem rngDraw_eq (s : State) (f : LaneFields) (hg : s.g.id.group < 2 ^ 32) {k : Nat} (hk : k < 64) :
    rngDraw s.g.id.group k s.g.ln.rng (vget s.g f.a.toNat k) (vget s.g (f.a.toNat + 1) k) = drawOf s f k := by
  have start : (k, fld s.g.ln.rng.toNat 0 32, fld s.g.ln.rng.toNat 32 32, s.g.id.group) =
      wordNats (BitVec.ofNat 32 k, s.g.ln.rng.extractLsb' 0 32, s.g.ln.rng.extractLsb' 32 32, BitVec.ofNat 32 s.g.id.group) := by
    simp only [wordNats, fld_toNat, BitVec.toNat_ofNat, Nat.mod_eq_of_lt hg, Nat.mod_eq_of_lt (show k < 2 ^ 32 by omega)]
  have keys := philox_eq_philoxRounds 10 (BitVec.ofNat 32 (vget s.g f.a.toNat k)) (BitVec.ofNat 32 (vget s.g (f.a.toNat + 1) k))
  rw [ofNat_vget, ofNat_vget] at keys
  unfold rngDraw drawOf
  rw [start, keys]
  simp only [wordNats, Nat.mul_comm]

/-! Each instruction's run. -/

section
variable {s : State} {f : LaneFields} {c : LaneCtx}

theorem widthRegs_eq (f : LaneFields) : widthRegs f.width.toNat = regsOf f := by
  unfold widthRegs regsOf
  congr 1
  exact propext ⟨fun h => BitVec.eq_of_toNat_eq h, fun h => congrArg BitVec.toNat h⟩

/-- The lane context with the counter advanced for a mask that is not empty (R412). -/
def drawn (s : State) (f : LaneFields) : State :=
  if laneMask s f = 0 then s else { s with g := { s.g with ln := { s.g.ln with rng := s.g.ln.rng + 1 } } }

def rngRoles (f : LaneFields) : Roles := ⟨.dst (f.sub.toNat % 4 + 1), .reg 2, .none, .none⟩

/-- The draws as RNG makes them. -/
def rngVal (s : State) (f : LaneFields) (k : Nat) : Nat :=
  rngDraw s.g.id.group k s.g.ln.rng (vget s.g f.a.toNat k) (vget s.g (f.a.toNat + 1) k)

/-- The state of RNG before its end. -/
def rngWritten (s : State) (c : LaneCtx) (f : LaneFields) : State :=
  let w := lanesWritten s c f (f.sub.toNat % 4 + 1) (laneMask s f) (rngVal s f)
  { w with g := { w.g with ln := { w.g.ln with rng := if laneMask s f = 0 then w.g.ln.rng else w.g.ln.rng + 1 } } }

theorem rng_run (h : LaneReady s (.rng f) f (rngRoles f) c) :
    exec (.rng f) s = .next (popFinL (rngWritten s c f) f (rngRoles f)) := by
  have hn : fld f.sub.toNat 0 2 + 1 = f.sub.toNat % 4 + 1 := by simp [fld]
  have hkey := blockKey_legAccess h.bank
  have hrng : c.rng = s.g.ln.rng := (congrArg LaneCtx.rng hkey :)
  have hv := (legAccess_kept h.bank).1
  have hval : (fun t => rngDraw s.g.id.group t c.rng (vget (withLane s c).g f.a.toNat t) (vget (withLane s c).g (f.a.toNat + 1) t)) =
      rngVal s f := by
    funext t
    simp only [rngVal, hrng, vget, withLane, hv]
  show execRng f s = _
  rw [execRng, hn]
  show laneRun s (.rng f) f 448 (rngRoles f) none _ = _
  rw [laneRun_of_ready h _ rfl _ rfl rfl]
  unfold rngWritten lanesWritten
  rw [← hval]
  rfl

/-- The group, all but the counter, is as before the draws. -/
theorem laneKey_rngWritten (h : legAccess s f (rngRoles f) = some c) : laneKey (rngWritten s c f).g = laneKey (drawn s f).g := by
  have key := laneKey_lanesWritten h (f.sub.toNat % 4 + 1) (laneMask s f) (rngVal s f)
  unfold rngWritten drawn
  dsimp only
  split
  · exact key
  · exact (congrArg (fun g : Group => { g with ln := { g.ln with rng := g.ln.rng + 1 } }) key :)

/-- A queue instruction that SKIP passes over with its queues pops nothing (R258). -/
theorem skips {i : Instr} {r : Roles} (run : exec i s = .next (popFinL (withLane s c) f r)) (h : legAccess s f r = some c)
    (hk : skipQ s = true) : ∃ t, exec i s = .next t ∧ LanePure s t ∧ LaneDone s t f 0 := by
  refine ⟨_, run, lanePure_popFinL f r ⟨rfl, rfl, rfl, rfl⟩, ?_⟩
  have d := done_popFinL f r (laneKey_withLane (ctxKey_legAccess h))
  refine ⟨?_, d.scalar, d.skip, d.ctx, d.next, d.last, d.drains, d.merge, d.waits, d.pops'⟩
  have hq := d.queues
  rw [if_pos hk] at hq ⊢
  exact hq

theorem lpush_run (h : LaneReady s (.lpush f) f ⟨.none, .src (regsOf f), .none, .none⟩ c) : exec (.lpush f) s =
    if skipQ s then .next (popFinL (withLane s c) f ⟨.none, .src (regsOf f), .none, .none⟩)
    else if 8 ≤ s.g.q.rq.length || !quiet s .lane then .next s
    else .next (popFinL { withLane s c with g := { (withLane s c).g with q := { s.g.q with
      rq := s.g.q.rq ++ [BitVec.ofNat 64 ((lowLane (laneMask s f)).elim 0 (fun k => operand s.g f.a (regsOf f) 0 (vqVals s f).1 k))] } } }
      f ⟨.none, .src (regsOf f), .none, .none⟩) := by
  have hv := (legAccess_kept h.bank).1
  show execLpush f s = _
  rw [execLpush, widthRegs_eq, laneRun_of_ready h _ rfl _ rfl rfl]
  dsimp only
  simp only [operand_withLane hv]
  cases lowLane (laneMask s f) <;> rfl

theorem vqpop_run (h : LaneReady s (.vqpop f) f ⟨.dst (regsOf f), .none, .none, .none⟩ c) :
    (skipQ s = true → exec (.vqpop f) s = .next (popFinL (withLane s c) f ⟨.dst (regsOf f), .none, .none, .none⟩)) ∧
    (skipQ s = false →
      (s.g.q.vq = [] → exec (.vqpop f) s = .next s) ∧
      (∀ x l, s.g.q.vq = x :: l → exec (.vqpop f) s = .next (popFinL
        (popVQ (lanesWritten s c f (regsOf f) (laneMask s f) (fun _ => x.toNat)) 1) f ⟨.dst (regsOf f), .none, .none, .none⟩))) := by
  show (_ → execVqpop f s = _) ∧ (_ → (_ → execVqpop f s = _) ∧ (∀ x l, _ → execVqpop f s = _))
  rw [execVqpop, widthRegs_eq, laneRun_of_ready h _ rfl _ rfl rfl]
  rw [show skipQ (withLane s c) = skipQ s from rfl, show (withLane s c).g.q.vq = s.g.q.vq from rfl]
  refine ⟨fun hk => if_pos hk, fun hk => ⟨fun hq => ?_, fun x l hq => ?_⟩⟩
  · rw [hk, hq]
    rfl
  · rw [hk, hq]
    rfl

theorem rdsr_run (h : LaneReady s (.rdsr f) f ⟨.dst (regsOf f), .none, .none, .none⟩ c) (hi : f.imm.toNat < 2 ^ 14) {x : Word}
    (hx : laneSpecial s (f.imm.toNat % 2 ^ 14) = some x) :
    exec (.rdsr f) s = .next (popFinL (lanesWritten s c f (regsOf f) (laneMask s f) (fun _ => x.toNat)) f
      ⟨.dst (regsOf f), .none, .none, .none⟩) := by
  have hidx : fld f.imm.toNat 0 14 = f.imm.toNat % 2 ^ 14 := by simp [fld]
  have hhigh : fld f.imm.toNat 14 18 = 0 := by
    unfold fld
    omega
  have hc : laneSpecial (withLane s c) (f.imm.toNat % 2 ^ 14) = some x := by
    have hkey := blockKey_legAccess h.bank
    have hfmt : c.fmt = s.g.ln.fmt := (congrArg LaneCtx.fmt hkey :)
    have hallot : c.runAllot = s.g.ln.runAllot := (congrArg LaneCtx.runAllot hkey :)
    have hbnd : c.runBnd = s.g.ln.runBnd := (congrArg LaneCtx.runBnd hkey :)
    rw [← hx]
    unfold laneSpecial
    dsimp only [withLane]
    rw [hfmt, hallot, hbnd]
    rfl
  show execRdsr f s = _
  rw [execRdsr, widthRegs_eq, hidx, hhigh, hx]
  refine (laneRun_of_ready h _ rfl _ rfl rfl).trans ?_
  rw [hc]
  rfl

/-- A legal encoding has zero in d where the instruction has no destination (R285). -/
theorem laneOk_zeroD {i : Instr} {sp : LaneSpec} (h : laneOk i sp f = true) (hd : sp.d = false) : f.d = zeroCode := by
  simp only [laneOk, Bool.and_eq_true] at h
  obtain ⟨⟨⟨⟨⟨⟨⟨⟨⟨⟨-, h⟩, -⟩, -⟩, -⟩, -⟩, -⟩, -⟩, -⟩, -⟩, -⟩ := h
  simpa [hd] using h

/-- LNOP names no register, so nothing is written (R413). -/
theorem lnop_run (h : LaneReady s (.lnop f) f noRoles c) : exec (.lnop f) s = .next (popFinL s f noRoles) ∧ f.d = zeroCode := by
  have hc := legAccess_noRoles h.bank
  subst hc
  refine ⟨?_, ?_⟩
  · show execLnop f s = _
    rw [execLnop]
    exact laneRun_of_ready h _ rfl _ rfl rfl
  · exact laneOk_zeroD (show laneOk (.lnop f) _ f = true from h.legal) rfl

end

end Sys2Proof.Machine

namespace Sys2Proof.Claims

open Sys2Proof.Machine

/-- Settles O39: each instruction's run is its writes, its pops and its end, and the model's Philox rounds are those of R412. -/
theorem laneMiscellany : Obligations.LaneMiscellany := by
  unfold Obligations.LaneMiscellany
  intro s f c n m ctr w draw s' rp rv v idx
  refine ⟨fun hg h => ?_, fun h hk => ?_, fun h hk => ⟨((vqpop_run h).2 hk).1, fun x l hq => ?_⟩,
    fun hk => ⟨fun h => ?_, fun h => ?_⟩, fun x hi hx => ?_, ?_⟩
  · obtain ⟨-, hv, hp, hf⟩ := popFinL_kept (rngWritten s c f) f (rngRoles f)
    refine ⟨_, rng_run h, done_popFinL f (rngRoles f) (laneKey_rngWritten h.bank), lanePure_popFinL f _ ?_, ?_, ?_⟩
    · exact lanePure_lanesWritten s c f _ _ _
    · exact laneWrites_of_eqOn (laneWrites_lanesWritten h.bank _ _ _ hv hp) (fun k hk => rngDraw_eq s f hg hk)
    · exact hf.trans (preds_writeLanes (withLane s c) f.d _ _ _).2
  · have run := lpush_run h
    rw [if_neg (by simp [hk])] at run
    refine ⟨fun hr hq => ?_, fun hr => run.trans (if_pos ?_)⟩
    · rw [if_neg (by simp [hr, hq])] at run
      obtain ⟨-, hv, hp, -⟩ := popFinL_kept _ f rp
      refine ⟨_, run, lanePure_popFinL f rp ⟨rfl, rfl, rfl, rfl⟩, hv.trans (legAccess_kept h.bank).1,
        hp.trans (legAccess_kept h.bank).2, done_popFinL f rp ?_⟩
      exact (congrArg (fun g : Group => { g with q := { g.q with rq := g.q.rq ++ [BitVec.ofNat 64 v] } })
        (laneKey_withLane (ctxKey_legAccess h.bank)) :)
    · simpa using hr
  · refine ⟨_, ((vqpop_run h).2 hk).2 x l hq, lanePure_popFinL f rv (lanePure_lanesWritten s c f n m _), ?_, done_popFinL f rv ?_⟩
    · obtain ⟨-, hv, hp, -⟩ := popFinL_kept (popVQ (lanesWritten s c f n m (fun _ => x.toNat)) 1) f rv
      exact laneWrites_lanesWritten h.bank n m _ hv hp
    · rw [show l = s.g.q.vq.drop 1 by rw [hq]; rfl]
      exact (congrArg (fun g : Group => { g with q := { g.q with vq := g.q.vq.drop 1 } }) (laneKey_lanesWritten h.bank n m _) :)
  · have run := lpush_run h
    rw [if_pos hk] at run
    exact skips run h.bank hk
  · exact skips ((vqpop_run h).1 hk) h.bank hk
  · exact laneGives_of_run (fun c h => rdsr_run h hi hx)
  · refine laneEffect_quiet (fun c h => ?_)
    obtain ⟨run, hd⟩ := lnop_run h
    obtain ⟨hpure, hv, hp, hf⟩ := popFinL_kept s f noRoles
    exact ⟨_, run, done_popFinL f noRoles rfl, hpure, laneWrites_none 1 _ _ hd hv hp, hf⟩

end Sys2Proof.Claims
end

section
/-! PROOFS. A group whose team's counts run (R75, R89, R209, R271). -/
namespace Sys2Proof.Machine

open Sys2Proof.Claims

theorem mem_teamGroups_focus {s : State} (h : s.g.live = true) : s.g ∈ teamGroups s s.g.id.part s.g.id.task s.g.id.team := by
  simp [teamGroups, allGroups, h]

theorem findGroup_focus {s : State} (h : s.g.live = true) : findGroup s s.g.id = some s.g := by simp [findGroup, allGroups, h]

theorem findTeam_focused {s : State} (h : Focused s) : findTeam s s.g.id.part s.g.id.task s.g.id.team = some s.tm := by
  obtain ⟨hl, hp, ht, hi⟩ := h.team
  simp [findTeam, allTeams, hl, hp, ht, hi]

theorem teamOf_focused {s : State} (h : Focused s) : teamOf s s.g.id = s.tm := by rw [teamOf, findTeam_focused h, Option.getD_some]

theorem countsOff_eq_false_iff (s : State) (id : GroupId) : countsOff s id = false ↔
    ∀ g ∈ teamGroups s id.part id.task id.team,
      g.saved = false ∧ g.draining = false ∧ g.halted = false ∧ (coreOf s g.core).testing = [] := by
  simp [countsOff, and_assoc]

section
variable {s : State} (h : Counting s)
include h

theorem counting_group : s.g.saved = false ∧ s.g.draining = false ∧ s.g.halted = false ∧ (coreOf s s.g.core).testing = [] :=
  (countsOff_eq_false_iff s s.g.id).mp h.on s.g (mem_teamGroups_focus h.focused.group)

theorem counting_notHalted : teamHalted s = false := by
  have off := (countsOff_eq_false_iff s s.g.id).mp h.on
  simp only [teamHalted, List.any_eq_false]
  intro g hg
  simp [(off g hg).2.2.1]

theorem counting_onGroup (k : State → Out) : onGroup s k = k s := onGroup_focused h.focused h.named k

/-- Taking an index from DQ leaves the counts running. -/
theorem counting_polled : (polled s).g.trapPend = none ∧ countsOff (polled s) (polled s).g.id = false ∧ (polled s).g.skipS = s.g.skipS := by
  unfold polled
  split
  · obtain ⟨dq, ln, acc, hg⟩ : ∃ dq ln acc, popDQ s.g =
        { s.g with q := { s.g.q with dq := dq }, ln := ln, en := { s.g.en with acc := acc } } :=
      ⟨_, _, _, popDQ_frame s.g⟩
    have off := h.on
    have hl := h.focused.group
    rw [hg]
    refine ⟨h.free, ?_, rfl⟩
    unfold countsOff teamGroups allGroups at off ⊢
    rw [if_pos hl] at off
    rw [if_pos hl]
    rw [List.any_filter, List.any_cons] at off ⊢
    exact off
  · exact ⟨h.free, h.on, rfl⟩

end

end Sys2Proof.Machine
end

section
/-! PROOFS. O51: the deadlock detectors and the watchdogs. -/
namespace Sys2Proof.Machine

open Sys2Proof.Claims

/-! QUEUE_DEADLOCK (R75). -/

/-- QUEUE_DEADLOCK of a group whose counts run, `u` being the group with the index that its lane stream awaits. -/
def queueVerdict (u : State) : Out :=
  if waited u u.g .queueL 64 = false then .next u
  else if u.g.sc.exited then
    if laneRunStall u then .next (takeTrap u (standing u .lane 0x08 0 (det [(0, u.g.sc.spc.toNat)])))
    else (runEndStall u).elim (.next u) (fun g =>
      let v := { u with g := { g with ln := { g.ln with pos := .start } } }
      .next (takeTrap v (standing v .lane 0x08 0 (det [(0, v.g.sc.spc.toNat)]))))
  else if scalarQueueStall u && laneQueueStall u && waited u u.g .queueS 64 then
    .next (takeTrap u (standing u .scalar 0x08 0 (det [(0, u.g.ln.lpc)])))
  else .next u

theorem queueDeadlock_run {s : State} (h : Counting s) (hs : s.g.skipS = false) :
    exec .queueDeadlock s = queueVerdict (polled s) := by
  obtain ⟨-, hd, hh, -⟩ := counting_group h
  obtain ⟨hf, hc, hk⟩ := counting_polled h
  show execQueueDeadlock s = _
  unfold execQueueDeadlock
  rw [counting_onGroup h]
  have hu : (if canIssue s && !s.g.halted && !s.g.draining then { s with g := popDQ s.g } else s) = polled s := by
    simp [polled, hh, hd]
  dsimp only
  rw [hu]
  simp only [hf, hc, hk, hs, Option.isSome_none, Bool.false_or, Bool.not_eq_true']
  unfold queueVerdict
  cases runEndStall (polled s) <;> rfl

/-! CLAIM_DEADLOCK (R89). -/

/-- The living groups of the team on the quad of the group in focus. -/
def quadMates (s : State) : List Group :=
  (teamGroups s s.g.id.part s.g.id.task s.g.id.team).filter (fun h => h.core == s.g.core && h.quad == s.g.quad && !h.killed)

/-- The group waits in CLAIM. -/
def inClaim (s : State) (h : Group) : Bool := s.tm.claims.any (fun c => c.group == h.id.group)

theorem claimDeadlock_takes {s : State} {cl : Claim} (h : Counting s) (hk : s.g.killed = false) (hone : (quadMates s).filter (inClaim s) = [s.g])
    (hw : ∀ g ∈ quadMates s, waitsOn s g = true) (hcl : s.tm.claims.find? (fun c => c.group == s.g.id.group) = some cl) :
    exec .claimDeadlock s = .next (takeTrap s (standing s .scalar 0x07 0 (det [(0, cl.n), (4, blocksFree s)]))) := by
  show execClaimDeadlock s = _
  unfold execClaimDeadlock
  rw [← h.named, findGroup_focus h.focused.group]
  dsimp only
  rw [teamOf_focused h.focused, h.on, hk]
  change (if (false || ((quadMates s).filter (inClaim s)).isEmpty || !(quadMates s).all (waitsOn s) || false) = true then _ else
    Host.Outcome.next (List.foldl _ s ((quadMates s).filter (inClaim s)))) = _
  rw [hone, if_neg (by simp [List.all_eq_true.mpr hw]), List.foldl_cons, List.foldl_nil]
  simp only [focusOn_self s h.focused.group, h.free, hcl]
  rfl

theorem claimDeadlock_waits {s : State} (h : Counting s)
    (hw : (∃ g ∈ quadMates s, waitsOn s g = false) ∨ (quadMates s).filter (inClaim s) = []) : exec .claimDeadlock s = .next s := by
  show execClaimDeadlock s = _
  unfold execClaimDeadlock
  rw [← h.named, findGroup_focus h.focused.group]
  dsimp only
  rw [teamOf_focused h.focused]
  change (if (_ || ((quadMates s).filter (inClaim s)).isEmpty || !(quadMates s).all (waitsOn s) || _) = true then _ else _) = _
  refine if_pos ?_
  rcases hw with ⟨g, hg, hn⟩ | hn
  · have : (quadMates s).all (waitsOn s) = false := List.all_eq_false.mpr ⟨g, hg, by simp [hn]⟩
    simp [this]
  · simp [hn]

/-! STAGE_STARVED (R209). -/

theorem spOf_spWrite (t : Team) (odd : Bool) (a n v : Nat) : spOf (spWrite t odd a n v) odd = mwrite (spOf t odd) a n v := by
  cases odd <;> rfl

/-- Setting STARVED (R207). -/
theorem sbSet_starved {v : Nat} (hv : v < 2 ^ 128) :
    sbSet v 102 1 1 < 2 ^ 128 ∧ fld (sbSet v 102 1 1) 102 1 = 1 ∧ fld (sbSet v 102 1 1) 0 102 = fld v 0 102 := by
  unfold sbSet fld
  omega

/-- The team with STARVED of a stage barrier set. -/
def starvedTeam (t : Team) (k : Bool × Nat) : Team := sbPut t k (sbSet (sbGet t k) 102 1 1)

theorem sbGet_starvedTeam (t : Team) (k : Bool × Nat) : sbGet (starvedTeam t k) k = sbSet (sbGet t k) 102 1 1 := by
  have hv : sbGet t k < 2 ^ 128 := mread_lt _ _ _
  unfold starvedTeam sbPut
  rw [sbGet, spOf_spWrite, mread_mwrite]
  exact Nat.mod_eq_of_lt (sbSet_starved hv).1

theorem stageStarved_run {s : State} {k : Bool × Nat} {ph : Nat} (h : Counting s) (hw : s.g.sc.sbWait = some (k, ph))
    (hk : k.1 = ownSide s) : exec .stageStarved s =
    if fld (sbGet s.tm k) 0 32 ≤ fld (sbGet s.tm k) 32 32 ∨ fld (sbGet s.tm k) 100 1 ≠ ph ∨ waited s s.g .starved s.pt.stageWd.toNat = false
    then .next s
    else .next (takeTrap { s with tm := starvedTeam s.tm k }
      (standing s .scalar 0x09 k.2 (det [(0, fld (sbGet s.tm k) 32 32), (4, fld (sbGet s.tm k) 0 32)]))) := by
  show execStageStarved s = _
  unfold execStageStarved
  rw [counting_onGroup h]
  dsimp only
  rw [hw]
  dsimp only
  have hside : (spSide s.tm s.g.core false == k.1) = true := by rw [hk]; exact beq_self_eq_true _
  rw [h.on, h.free, hside]
  simp only [Option.isSome_none, Bool.false_or, Bool.or_eq_true, decide_eq_true_eq, bne_iff_ne, Bool.not_eq_true', or_assoc]
  rfl

/-! DRAIN_WATCHDOG (R61, R211, R271). -/

theorem teamTested_eq_true_iff (s : State) (id : GroupId) :
    teamTested s id = true ↔ ∃ g ∈ teamGroups s id.part id.task id.team, (coreOf s g.core).testing ≠ [] := by
  simp [teamTested]

theorem drainWatchdog_waits {s : State} (h : Focused s) (hid : s.g.id = s.inp.g)
    (hw : (s.g.draining = false ∧ s.g.halted = false) ∨ teamTested s s.g.id = true ∨ clkSince s s.g.drainAt < s.pt.partWd.toNat ∨
      drainedGroup s s.g = true) : exec .drainWatchdog s = .next s := by
  show execDrainWatchdog s = _
  unfold execDrainWatchdog
  rw [onGroup_focused h hid]
  refine if_pos ?_
  rcases hw with ⟨hd, hh⟩ | ht | hc | hd
  · simp [hd, hh]
  · simp [ht]
  · simp [hc]
  · simp [hd]

/-- The group in focus with its unretired batches faulted (R211). -/
def batchesFaulted (g : Group) : Group :=
  { g with en := { g.en with batches := g.en.batches.map (fun b => if b.retired then b else { b with engine := true }) } }

/-- The machine with the core's queues of the Wheel without the commands of the group in focus. -/
def wheelLeft (s : State) : State :=
  modCore { s with g := batchesFaulted s.g } s.g.core (fun x =>
    { x with wheelQ := x.wheelQ.filter (fun c => c.group != s.g.id), wheelRun := x.wheelRun.filter (fun c => c.group != s.g.id) })

/-- Where the group has no copy and no tile command, giving its work up faults its batches alone. -/
theorem abandonWork_batches {s : State} (hl : s.g.live = true) (hc : s.g.en.copies = []) (ho : ∀ h ∈ s.groups, h.id ≠ s.g.id)
    (hq : ∀ c ∈ (coreOf s s.g.core).wheelQ ++ (coreOf s s.g.core).wheelRun, c.group ≠ s.g.id) : abandonWork s s.g.id = wheelLeft s := by
  have others : ∀ f : Group → Group, modBy (fun h => h.id == s.g.id) f s.groups = s.groups := by
    intro f
    refine (List.map_congr_left (fun y hy => ?_)).trans (List.map_id s.groups)
    exact if_neg (by simpa using ho y hy)
  have batches : modBy (fun b : Batch => !b.retired) (fun b => { b with engine := true }) s.g.en.batches =
      s.g.en.batches.map (fun b => if b.retired then b else { b with engine := true }) := by
    refine List.map_congr_left (fun b _ => ?_)
    cases hb : b.retired
    · simp [hb]
    · simp [hb]
  have mine : ((coreOf s s.g.core).wheelQ ++ (coreOf s s.g.core).wheelRun).filter (fun c => c.group == s.g.id) = [] :=
    List.filter_eq_nil_iff.mpr (fun c hm => by simpa using hq c hm)
  have s0 : modGroup s s.g.id (fun h => { h with en := { h.en with
      batches := modBy (fun b => !b.retired) (fun b : Batch => { b with engine := true }) h.en.batches } }) =
      { s with g := batchesFaulted s.g } := by
    unfold modGroup modGroups batchesFaulted
    simp only [hl, beq_self_eq_true, Bool.and_self, if_true, others, batches]
  unfold abandonWork
  rw [findGroup_focus hl]
  dsimp only
  rw [s0, hc, List.foldl_nil]
  change List.foldl _ (wheelLeft s) (((coreOf s s.g.core).wheelQ ++ (coreOf s s.g.core).wheelRun).filter (fun c => c.group == s.g.id)) = _
  rw [mine]
  rfl

theorem coreOf_wheelLeft {s : State} (hq : ∀ c ∈ (coreOf s s.g.core).wheelQ ++ (coreOf s s.g.core).wheelRun, c.group ≠ s.g.id) (c : Nat) :
    coreOf (wheelLeft s) c = coreOf s c := by
  have keep : ∀ l : List TileCmd, (∀ x ∈ l, x.group ≠ s.g.id) → l.filter (fun c => c.group != s.g.id) = l := fun l hl =>
    List.filter_eq_self.mpr (fun x hx => by simpa using hl x hx)
  rw [wheelLeft, coreOf_modCore]
  · split
    · next hc =>
      have same : coreOf { s with g := batchesFaulted s.g } s.g.core = coreOf s s.g.core := rfl
      rw [hc, same, keep _ (fun x hx => hq x (List.mem_append_left _ hx)), keep _ (fun x hx => hq x (List.mem_append_right _ hx))]
    · rfl
  · exact fun _ => rfl

/-- Without outstanding accesses no stream waits for one. -/
theorem dropWaits_none (s : State) (which : Stream → Bool) (h : s.g.en.acc = []) : dropWaits s which = s := by
  have hs : s = { s with g := { s.g with en := { s.g.en with acc := [], ld := s.g.en.ld - 0 } } } := by rw [← h]; rfl
  unfold dropWaits
  simp only [h, List.filter_nil, List.find?_nil, Option.map_none, Option.getD_none, List.length_nil, dropBy]
  exact hs.symm

/-- The group as the watchdog leaves it: killed, or saved in its handler (R61). -/
def drainEnd (v : State) : State :=
  { v with g := if v.g.killed then { v.g with saved := false, draining := false } else keepFrame v { v.g with saved := true, draining := false } }

theorem drainEnd_eq (v : State) :
    (let g : Group := { v.g with saved := true && !v.g.killed, draining := false };
      { v with g := if g.saved then keepFrame v g else g }) = drainEnd v := by
  unfold drainEnd
  cases v.g.killed <;> rfl

theorem drainWatchdog_saves {s : State} (h : Focused s) (hid : s.g.id = s.inp.g) (hd : s.g.draining = true) (hk : s.g.killed = false)
    (hn : drainedGroup s s.g = false) (hacc : s.g.en.acc = []) (hc : s.g.en.copies = []) (ht : teamTested s s.g.id = false)
    (hw : s.pt.partWd.toNat ≤ clkSince s s.g.drainAt) (ho : ∀ h ∈ s.groups, h.id ≠ s.g.id)
    (hq : ∀ c ∈ (coreOf s s.g.core).wheelQ ++ (coreOf s s.g.core).wheelRun, c.group ≠ s.g.id) :
    exec .drainWatchdog s = .next (drainEnd (takeTrap (wheelLeft s) (standing s .scalar 0x16 0 (det [(0, 1)])))) := by
  show execDrainWatchdog s = _
  unfold execDrainWatchdog
  rw [onGroup_focused h hid, if_neg (by simp [hd, hn, hk, ht, hw]), abandonWork_batches h.group hc ho hq]
  have ha : (wheelLeft s).g.en.acc = [] := hacc
  have code1 : standing s .scalar 0x16 0 (det [(0, 1)]) = ⟨0x16, 0, det [(0, 1)], (wheelLeft s).g.ln.mask, .scalar, false⟩ := rfl
  rw [dropWaits_none _ _ ha, takeTrap_now _ _ ha, code1, hd]
  exact congrArg Host.Outcome.next (drainEnd_eq _)

/-! MARK_STALL_WATCHDOG (R135, R271). -/

theorem markStallWatchdog_run {s : State} (h : Counting s) : exec .markStallWatchdog s =
    .next (if waited s s.g .mark s.pt.partWd.toNat && markWait s then takeTrap s (standing s .scalar 0x16 0 (det [(0, 2)])) else s) := by
  show execMarkStallWatchdog s = _
  unfold execMarkStallWatchdog
  rw [counting_onGroup h, h.on]
  rfl

/-- A MARK that stands under STALL leaves its stream where it is (R135). -/
theorem mark_stuck {s : State} {sa : BitVec 6} (h : Counting s) (hm : MarkStands s (sreg s sa)) (hq : quiet s .scalar = true) :
    stuck movedS s (execMark sa) = true := by
  obtain ⟨b, hb, hp⟩ := hm.policy
  obtain ⟨⟨c, g⟩, us, hus⟩ := List.exists_cons_of_ne_nil hm.waits
  have stays : ∀ t : State, movedS s.g t.g = false → stuck movedS s (fun _ => .next t) = true := fun t ht => by simp [stuck, ht]
  have check : ∃ t, execMark sa s = .next t ∧ movedS s.g t.g = false := by
    unfold execMark userOnly
    simp only [hm.user, hm.legal, hm.moves, hq, Bool.false_eq_true, if_false, Bool.not_true]
    unfold markCheck
    simp only [counting_notHalted h, Bool.false_and, Bool.false_eq_true, if_false]
    split
    · exact ⟨s, rfl, by simp [movedS]⟩
    · rw [hus, hb]
      dsimp only [Option.map_some, Option.getD_some]
      rw [hp]
      exact ⟨_, rfl, by simp [movedS, markSet, countSkip, modPart]⟩
  obtain ⟨t, ht, hs⟩ := check
  simp [stuck, ht, hs]

theorem markWait_eq {s : State} {sa : BitVec 6} (hf : ∃ u, fetchScalar s = .run (.mark sa) u) (hq : quiet s .scalar = true) :
    markWait s = ((s.tk.tt.map (fun b => b.policy == 0)).getD false && stuck movedS s (execMark sa)) := by
  obtain ⟨u, hu⟩ := hf
  simp [markWait, peekS, hu, hq]

/-! ACCESS_WATCHDOG (R271). -/

/-- The group in focus back at its only access, a load of the scalar stream, which is forgotten. -/
def loadGivenUp (s : State) (a : Access) : State :=
  { s with g := { undone s.g a.undo with
      sc := { s.g.sc with spc := BitVec.ofNat 64 a.pc, regs := sputs 0 s.g.sc.regs a.undo.regs },
      en := { s.g.en with acc := [], ld := s.g.en.ld - 1 } } }

theorem dropWaits_load {s : State} {a : Access} (hacc : s.g.en.acc = [a]) (hs : a.stream = .scalar)
    (hk : ∃ n x d, a.kind = .load n x d) : dropWaits s (fun x => x == .scalar) = loadGivenUp s a := by
  obtain ⟨n, x, d, hk⟩ := hk
  have wait : ((fun b : Access => (fun x => x == Stream.scalar) b.stream && waitsOut b) a) = true := by simp [hs, waitsOut, hk]
  have gone : s.g.en.acc.filter (fun b => (fun x => x == Stream.scalar) b.stream && waitsOut b) = [a] := by
    rw [hacc]
    exact List.filter_cons_of_pos wait
  have scalar : [a].find? (fun b => b.stream == Stream.scalar) = some a := List.find?_cons_of_pos (by simp [hs])
  have lane : [a].find? (fun b => b.stream == Stream.lane) = none := by simp [hs]
  have back : backTo s a = { s with g := { undone s.g a.undo with
      sc := { s.g.sc with spc := BitVec.ofNat 64 a.pc, regs := sputs 0 s.g.sc.regs a.undo.regs } } } := by
    unfold backTo
    rw [hs]
    rfl
  have left : dropBy (fun b => (fun x => x == Stream.scalar) b.stream && waitsOut b) s.g.en.acc = [] := by
    rw [hacc]
    exact List.filter_cons_of_neg (by simp [hs, waitsOut, hk])
  unfold dropWaits
  dsimp only
  rw [gone, scalar, lane]
  simp only [Option.map_some, Option.map_none, Option.getD_some, Option.getD_none, back]
  rw [List.filter_cons_of_pos (by rw [hk]), show (undone s.g a.undo).en = s.g.en from rfl, left]
  rfl

theorem accessWatchdog_load {s : State} {a : Access} (h : Counting s) (hw : waited s s.g .accessS s.pt.partWd.toNat = true)
    (hf : s.inp.flag = false) (hi : s.inp.idx = 0) (hacc : s.g.en.acc = [a]) (hs : a.stream = .scalar)
    (hk : ∃ n x d, a.kind = .load n x d) :
    exec .accessWatchdog s = .next (takeTrap (loadGivenUp s a) (standing s .scalar 0x16 0 (det [(0, 3)]))) := by
  have waiting : accessWait s .scalar = true := by
    obtain ⟨n, x, d, hk⟩ := hk
    simp [accessWait, incomplete, hacc, hs, waitsOut, hk]
  show execAccessWatchdog s = _
  unfold execAccessWatchdog
  rw [counting_onGroup h]
  simp only [hf, h.on, h.free, hi]
  rw [if_neg (by simpa using ⟨hw, waiting⟩)]
  simp only [Bool.false_eq_true, if_false, if_true]
  rw [dropWaits_load hacc hs hk, lateTrap_free _ (show (loadGivenUp s a).g.trapPend = none from h.free)]
  rfl

/-! TEAM_TIME_WATCHDOG (R271). -/

theorem clkSince_lt_iff (s : State) (t : Word) (n : Nat) : clkSince s t < n ↔ 6 * (s.dev.gtc - t).toNat < 5 * n := by
  unfold clkSince
  omega

/-- The team in focus has one group, the one in focus, and its counts run. -/
structure LoneTeam (s : State) : Prop where
  focused : Focused s
  named : s.inp.part = s.g.id.part ∧ s.inp.idx = s.g.id.task ∧ s.inp.off = s.g.id.team
  lone : teamGroups s s.g.id.part s.g.id.task s.g.id.team = [s.g]
  kept : s.tm.saved = false ∧ s.g.saved = false ∧ s.g.draining = false ∧ s.g.halted = false
  sound : (coreOf s s.g.core).testing = [] ∧ s.g.killed = false ∧ s.g.ended = false

/-- The team's time counts from now (log 42). -/
def timeRestarted (s u : State) : State :=
  modTeam u s.g.id.part s.g.id.task s.g.id.team (fun x => { x with startGtc := s.dev.gtc })

theorem teamTimeWatchdog_run {s : State} (h : LoneTeam s) (ht : s.tm.kernel.teamtime ≠ 0) : exec .teamTimeWatchdog s =
    if 6 * (s.dev.gtc - s.tm.startGtc).toNat < 5 * s.tm.kernel.teamtime then .next s
    else .next (timeRestarted s (if s.g.trapPend.isSome then { s with g := { s.g with timeUp := true } }
      else takeTrap s (standing s .scalar 0x16 0 (det [(0, 4)])))) := by
  obtain ⟨hp, hi, ho⟩ := h.named
  obtain ⟨htm, hs, hd, hh⟩ := h.kept
  obtain ⟨htest, hk, he⟩ := h.sound
  obtain ⟨-, -, hmt, hmi⟩ := h.focused.team
  show execTeamTimeWatchdog s = _
  unfold execTeamTimeWatchdog
  rw [hp, hi, ho]
  dsimp only
  rw [findTeam_focused h.focused]
  dsimp only
  rw [hmt, hmi, h.lone]
  simp only [htm, hs, hd, hh, htest, ht, clkSince_lt_iff, List.any_cons, List.any_nil, List.foldl_cons, List.foldl_nil,
    focusOn_self s h.focused.group, hk, he, decide_false, bne_self_eq_false,
    Bool.or_false, Bool.false_or, decide_eq_true_eq, Bool.false_eq_true, if_false]
  rfl

theorem teamTimeWatchdog_unlimited {s : State} {tm : Team} (hf : findTeam s s.inp.part s.inp.idx s.inp.off = some tm)
    (h : tm.kernel.teamtime = 0) : exec .teamTimeWatchdog s = .next s := by
  show execTeamTimeWatchdog s = _
  unfold execTeamTimeWatchdog
  dsimp only
  rw [hf]
  exact if_pos (by simp [h])

end Sys2Proof.Machine

namespace Sys2Proof.Claims

open Sys2Proof.Machine

/-- Settles O51: each detector's verdict, as the lemmas above give it, read off case by case. -/
theorem deadlocksAndWatchdogs : Obligations.DeadlocksAndWatchdogs := by
  unfold Obligations.DeadlocksAndWatchdogs
  intro s cl k a sa tm id gs mates u wd claiming code
  refine ⟨fun h hs => ?_, fun h hk hone hw hcl => claimDeadlock_takes h hk hone hw hcl, fun h hw => claimDeadlock_waits h hw,
    fun h ph hw hk => ?_, fun h hid hd hk he hsv hp hacc hc ht hw ho hq => ?_, fun h hid hw => ?_, fun h hf hq => ?_,
    fun h hw hf hi hacc hs hk => accessWatchdog_load h hw hf hi hacc hs hk,
    fun h hp hi ho hone hsv htest hk he hgs hd hh ht => ?_, fun hf h0 => teamTimeWatchdog_unlimited hf h0⟩
  · rw [queueDeadlock_run h hs]
    unfold queueVerdict
    refine ⟨fun hw => if_pos hw, fun hw he hsc hl hws => ?_, fun he hn => ?_, fun hw he => ⟨fun hl => ?_, fun g hl hr => ?_⟩,
      fun he hl hr => ?_⟩
    · rw [if_neg (by simp [u, hw]), if_neg (by simp [u, he]), if_pos (by simp [u, hsc, hl, hws])]
    · by_cases hw : waited u u.g .queueL 64 = false
      · exact if_pos hw
      · rw [if_neg hw, if_neg (by simp [u, he]), if_neg]
        intro hall
        simp only [Bool.and_eq_true] at hall
        obtain ⟨⟨h1, h2⟩, h3⟩ := hall
        rcases hn with hn | hn | hn
        · exact absurd (h1.symm.trans hn) (by decide)
        · exact absurd (h2.symm.trans hn) (by decide)
        · exact absurd (h3.symm.trans hn) (by decide)
    · rw [if_neg (by simp [u, hw]), if_pos he, if_pos hl]
    · rw [if_neg (by simp [u, hw]), if_pos he, if_neg (by simp [u, hl]), hr]
      rfl
    · by_cases hw : waited u u.g .queueL 64 = false
      · exact if_pos hw
      · rw [if_neg hw, if_pos he, if_neg (by simp [u, hl]), hr]
        rfl
  · have run := stageStarved_run h hw hk
    refine ⟨fun hlt hph hwt => ⟨_, run.trans (if_neg ?_), rfl, ?_, ?_⟩, fun hn => run.trans (if_pos hn)⟩
    · rintro (hle | hne | hf)
      · exact absurd hlt (Nat.not_lt.mpr hle)
      · exact hne hph
      · exact absurd (hwt.symm.trans hf) (by decide)
    · exact (congrArg (fun v => fld v 102 1) (sbGet_starvedTeam s.tm k)).trans (sbSet_starved (mread_lt _ _ _)).2.1
    · exact (congrArg (fun v => fld v 0 102) (sbGet_starvedTeam s.tm k)).trans (sbSet_starved (mread_lt _ _ _)).2.2
  · have hn : drainedGroup s s.g = false := by simp [drainedGroup, he, hsv, hp]
    have htt : teamTested s s.g.id = false := by
      rw [Bool.eq_false_iff, ne_eq, teamTested_eq_true_iff]
      exact fun ⟨g, hg, hne⟩ => hne (ht g hg)
    exact ⟨wheelLeft s, _, drainWatchdog_saves h hid hd hk hn hacc hc htt hw ho hq, rfl, coreOf_wheelLeft hq, rfl⟩
  · exact drainWatchdog_waits h hid (hw.imp_right (Or.imp_left (teamTested_eq_true_iff s s.g.id).mpr))
  · have run := markStallWatchdog_run h
    rw [markWait_eq hf hq] at run
    refine ⟨fun hm hw => ?_, fun hn => ?_⟩
    · obtain ⟨b, hb, hp⟩ := hm.policy
      rw [mark_stuck h hm hq, hw, hb] at run
      simpa [hp] using run
    · rcases hn with hn | hn
      · simpa [hn] using run
      · rw [hn] at run
        exact run
  · have run := teamTimeWatchdog_run ⟨h, ⟨hp, hi, ho⟩, hone, ⟨hsv, hgs, hd, hh⟩, htest, hk, he⟩ ht
    refine ⟨fun hlt => run.trans (if_pos hlt), fun hge => ?_⟩
    rw [if_neg (Nat.not_lt.mpr hge)] at run
    refine ⟨fun hn => ?_, fun hn => ?_⟩
    · rw [hn] at run
      exact run
    · rw [if_pos (Option.isSome_iff_ne_none.mpr hn)] at run
      exact run

end Sys2Proof.Claims
end

section
/-! PROOFS. The run lottery (R79 to R81, R317). -/
namespace Sys2Proof.Machine

open Sys2Proof.Claims

/-! The winner of a draw. -/

/-- The sources of a run lottery, from place `k` on, with their tickets. -/
def sourcesFrom (k : Nat) (l : List (Group × Group)) : List (Nat × Nat) :=
  (List.range' k l.length).zip (l.map (fun e => e.1.tickets.toNat))

theorem sourcesFrom_cons (k : Nat) (e : Group × Group) (l : List (Group × Group)) :
    sourcesFrom k (e :: l) = (k, e.1.tickets.toNat) :: sourcesFrom (k + 1) l := rfl

/-- The age of the group at a place of the draw. -/
def ageAt (l : List (Group × Group)) (k : Nat) : Nat := ((l[k]?).map (fun e => e.1.age)).getD 0

section
variable {full pre l : List (Group × Group)} (h : full = pre ++ l)
include h

theorem find_sourcesFrom :
    (((sourcesFrom pre.length l).find? (fun y => decide (64 ≤ ageAt full y.1))).map Prod.fst = none ∧
      l.find? (fun e => decide (64 ≤ e.1.age)) = none) ∨
    ∃ k e, ((sourcesFrom pre.length l).find? (fun y => decide (64 ≤ ageAt full y.1))).map Prod.fst = some k ∧
      full[k]? = some e ∧ l.find? (fun e => decide (64 ≤ e.1.age)) = some e := by
  induction l generalizing pre with
  | nil => exact .inl ⟨rfl, rfl⟩
  | cons e l ih =>
    have here : full[pre.length]? = some e := by simp [h]
    have next := ih (pre := pre ++ [e]) (by simp [h])
    rw [List.length_append, List.length_singleton] at next
    rw [sourcesFrom_cons, List.find?_cons, List.find?_cons]
    simp only [ageAt, here, Option.map_some, Option.getD_some]
    cases decide (64 ≤ e.1.age)
    · exact next
    · exact .inr ⟨pre.length, e, rfl, here, rfl⟩

theorem pickTicket_sourcesFrom (acc r : Nat) (hr : acc ≤ r) :
    (pickTicket (sourcesFrom pre.length l) acc r).bind (fun k => full[k]?) = lotteryPick l (r - acc) := by
  induction l generalizing pre acc with
  | nil => rfl
  | cons e l ih =>
    have here : full[pre.length]? = some e := by simp [h]
    rw [sourcesFrom_cons, pickTicket, lotteryPick]
    by_cases hlt : r < acc + e.1.tickets.toNat
    · rw [if_pos hlt, if_pos (by omega)]
      exact here
    · have next := ih (pre := pre ++ [e]) (acc := acc + e.1.tickets.toNat) (by simp [h]) (by omega)
      rw [List.length_append, List.length_singleton] at next
      rw [if_neg hlt, if_neg (by omega), next, Nat.sub_add_eq]

end

theorem tickets_sourcesFrom (k acc : Nat) (l : List (Group × Group)) :
    (sourcesFrom k l).foldl (fun acc y => acc + y.2) acc = acc + (l.map (fun e => e.1.tickets.toNat)).sum := by
  induction l generalizing k acc with
  | nil => rfl
  | cons e l ih =>
    rw [sourcesFrom_cons, List.foldl_cons, ih, List.map_cons, List.sum_cons]
    omega

/-- The draw of R81 is won by the winner of the lottery. -/
theorem drawWin_eq_lotteryWin (x : BitVec 32) (l : List (Group × Group)) :
    (drawWin x (ageAt l) 64 (sourcesFrom 0 l)).bind (fun k => l[k]?) = lotteryWin x l := by
  have total := tickets_sourcesFrom 0 0 l
  have pick := pickTicket_sourcesFrom (full := l) (pre := []) (l := l) rfl 0
  rw [Nat.zero_add] at total
  unfold drawWin lotteryWin
  dsimp only
  rw [total]
  rcases find_sourcesFrom (full := l) (pre := []) (l := l) rfl with ⟨hs, hl⟩ | ⟨k, e, hs, hk, hl⟩
  · rw [hl]
    have hs' : (sourcesFrom 0 l).find? (fun y => decide (64 ≤ ageAt l y.1)) = none := Option.map_eq_none_iff.mp hs
    rw [hs']
    dsimp only
    split
    · rfl
    · exact pick _ (Nat.zero_le _)
  · rw [hl]
    obtain ⟨y, hy, rfl⟩ := Option.map_eq_some_iff.mp hs
    have hy' : (sourcesFrom 0 l).find? (fun y => decide (64 ≤ ageAt l y.1)) = some y := hy
    rw [hy']
    exact hk

theorem lotteryPick_mem {l : List (Group × Group)} {n : Nat} {e : Group × Group} (h : lotteryPick l n = some e) : e ∈ l := by
  induction l generalizing n with
  | nil => cases h
  | cons y l ih =>
    rw [lotteryPick] at h
    split at h
    · cases h
      exact List.mem_cons_self ..
    · exact List.mem_cons_of_mem _ (ih h)

/-- The winner is of the draw. -/
theorem lotteryWin_mem {x : BitVec 32} {l : List (Group × Group)} {e : Group × Group} (h : lotteryWin x l = some e) : e ∈ l := by
  unfold lotteryWin at h
  dsimp only at h
  split at h
  · next y hy =>
    cases h
    exact List.mem_of_find?_eq_some hy
  · split at h
    · cases h
    · exact lotteryPick_mem h

/-! The run of the winner starts. -/

/-- The groups of a quad that are ready for its lane slot, each with its next run (R79). -/
def readyRuns (s : State) (core quad : Nat) : List (Group × Group) :=
  (quadGroups s core quad).filterMap (fun g => (readyRun s g.id).map (fun r => (g, r)))

/-- The groups of the draw: those without a YIELD mark, if there are any (R81, R317). -/
def drawnOf (ready : List (Group × Group)) : List (Group × Group) :=
  if ready.all (fun e => e.1.yielded) then ready else ready.filter (fun e => !e.1.yielded)

/-- The groups that lose their marks though the draw leaves them out (R317). -/
def leftOut (s : State) (core quad : Nat) : List GroupId :=
  if (readyRuns s core quad).all (fun e => e.1.yielded) then [] else (quadGroups s core quad).map Group.id

/-- The winner with its run. -/
def runGiven (r h : Group) : Group :=
  { h with ln := r.ln, q := r.q, en := { h.en with acc := r.en.acc }, waits := h.waits.filter (fun x => waitStream x.1 != some .lane) }

/-- The machine with the draw made and the winner's run started. -/
def runStarted (s : State) (core quad : Nat) (g r : Group) : State :=
  putQuad (modGroup (modGroups s (fun _ => true) (afterDraw ((drawnOf (readyRuns s core quad)).map (fun y => y.1.id))
    (leftOut s core quad) g.id)) g.id (runGiven r)) core quad
    { quadOf s core quad with x := nextDraw (quadOf s core quad).x, owner := if r.ln.pos = .inRun then some g.id else none }

theorem plain_isEmpty_iff (ready : List (Group × Group)) :
    (ready.filter (fun e => !e.1.yielded)).isEmpty = ready.all (fun e => e.1.yielded) := by
  rw [Bool.eq_iff_iff]
  simp [List.isEmpty_iff, List.filter_eq_nil_iff]

theorem runArbitration_waits {s : State}
    (h : (quadOf s s.inp.core s.inp.idx).owner ≠ none ∨ readyRuns s s.inp.core s.inp.idx = []) : exec .runArbitration s = .next s := by
  show execRunArbitration s = _
  unfold execRunArbitration
  dsimp only
  split
  · rfl
  · next hn =>
    refine if_pos ?_
    rcases h with h | h
    · exact absurd (Option.isSome_iff_ne_none.mpr h) (fun c => hn (by simp [c]))
    · exact List.isEmpty_iff.mpr h

theorem runArbitration_starts {s : State} {g r : Group} (hq : s.inp.idx < 4) (ho : (quadOf s s.inp.core s.inp.idx).owner = none)
    (hw : lotteryWin (nextDraw (quadOf s s.inp.core s.inp.idx).x) (drawnOf (readyRuns s s.inp.core s.inp.idx)) = some (g, r))
    (he : s.inp.ecc ≠ .spill ∨ fills g.ln r.ln = false) :
    exec .runArbitration s = .next (runStarted s s.inp.core s.inp.idx g r) := by
  have some_ready : readyRuns s s.inp.core s.inp.idx ≠ [] := by
    intro hnil
    have := lotteryWin_mem hw
    rw [hnil] at this
    exact absurd this (by simp [drawnOf])
  show execRunArbitration s = _
  unfold execRunArbitration
  dsimp only
  have fold : List.filterMap (fun g => (readyRun s g.id).map (fun r => (g, r))) (quadGroups s s.inp.core s.inp.idx) =
      readyRuns s s.inp.core s.inp.idx := rfl
  have drawn : (if (readyRuns s s.inp.core s.inp.idx).all (fun e => e.1.yielded) = true then readyRuns s s.inp.core s.inp.idx
      else (readyRuns s s.inp.core s.inp.idx).filter (fun e => !e.1.yielded)) = drawnOf (readyRuns s s.inp.core s.inp.idx) := rfl
  have wins := drawWin_eq_lotteryWin (nextDraw (quadOf s s.inp.core s.inp.idx).x) (drawnOf (readyRuns s s.inp.core s.inp.idx))
  rw [hw, sourcesFrom, ← List.range_eq_range'] at wins
  unfold ageAt at wins
  rw [if_neg (by simp [ho, hq]), fold, plain_isEmpty_iff, if_neg (by simpa using some_ready), drawn,
    show xorshift (quadOf s s.inp.core s.inp.idx).x = nextDraw (quadOf s s.inp.core s.inp.idx).x from rfl, wins]
  dsimp only
  rw [if_neg]
  · unfold runStarted
    simp only [beq_iff_eq]
    rfl
  · rcases he with he | he
    · simp [he]
    · simp [he]

/-! The groups after a draw. -/

theorem findGroup_runStarted (s : State) (core quad : Nat) (g r : Group) (id : GroupId) :
    findGroup (runStarted s core quad g r) id = (findGroup s id).map (fun h =>
      let h' := afterDraw ((drawnOf (readyRuns s core quad)).map (fun y => y.1.id)) (leftOut s core quad) g.id h
      if id = g.id then runGiven r h' else h') := by
  have draw_id : ∀ (a b : List GroupId) (c : GroupId) (h : Group), (afterDraw a b c h).id = h.id ∧ (afterDraw a b c h).live = h.live := by
    intro a b c h
    unfold afterDraw
    split
    · exact ⟨rfl, rfl⟩
    · split <;> exact ⟨rfl, rfl⟩
  have drawn : ∀ i, findGroup (modGroups s (fun _ => true) (afterDraw ((drawnOf (readyRuns s core quad)).map (fun y => y.1.id))
      (leftOut s core quad) g.id)) i =
      (findGroup s i).map (afterDraw ((drawnOf (readyRuns s core quad)).map (fun y => y.1.id)) (leftOut s core quad) g.id) := by
    intro i
    rw [findGroup_modGroups _ _ _ (fun h => (draw_id _ _ _ h).1) (fun h => (draw_id _ _ _ h).2)]
    rfl
  have quads : ∀ u v, findGroup (putQuad u core quad v) id = findGroup u id := fun _ _ => findGroup_congr rfl rfl id
  unfold runStarted
  rw [quads, findGroup_modGroup _ _ _ (runGiven r) (fun _ => rfl) (fun _ => rfl), drawn, drawn]
  split
  · next h =>
    subst h
    rw [Option.map_map]
    rfl
  · rfl

section
variable {s : State} {core quad : Nat} {g r h : Group}

/-- The winner has its next run, its age is 0 and its mark is spent (R81, R317). -/
theorem findGroup_winner (hg : (g, r) ∈ drawnOf (readyRuns s core quad)) (hh : findGroup s g.id = some h) :
    findGroup (runStarted s core quad g r) g.id = some (runGiven r { h with age := 0, yielded := false }) := by
  have hid := findGroup_id hh
  have mem : ((drawnOf (readyRuns s core quad)).map (fun y => y.1.id)).contains h.id = true :=
    List.contains_iff_mem.mpr (List.mem_map.mpr ⟨_, hg, hid.symm⟩)
  have won : (h.id == g.id) = true := by simp [hid]
  rw [findGroup_runStarted, hh]
  simp only [Option.map_some, if_true, afterDraw, mem, won]

/-- The others of the draw grow older (R81). -/
theorem findGroup_loser {e : Group × Group} (he : e ∈ drawnOf (readyRuns s core quad)) (hne : e.1.id ≠ g.id)
    (hh : findGroup s e.1.id = some h) :
    findGroup (runStarted s core quad g r) e.1.id = some { h with age := h.age + 1, yielded := false } := by
  have hid := findGroup_id hh
  have mem : ((drawnOf (readyRuns s core quad)).map (fun y => y.1.id)).contains h.id = true :=
    List.contains_iff_mem.mpr (List.mem_map.mpr ⟨_, he, hid.symm⟩)
  have other : (h.id == g.id) = false := by simpa [hid] using hne
  rw [findGroup_runStarted, hh]
  simp only [Option.map_some, if_neg hne, afterDraw, mem, if_true, other, Bool.false_eq_true, if_false]

/-- The groups that the draw leaves out lose their marks (R317). -/
theorem findGroup_leftOut {m : Group} (hy : ∃ e ∈ readyRuns s core quad, e.1.yielded = false) (hm : m ∈ quadGroups s core quad)
    (hout : ∀ e ∈ drawnOf (readyRuns s core quad), e.1.id ≠ m.id) (hg : (g, r) ∈ drawnOf (readyRuns s core quad))
    (hh : findGroup s m.id = some h) :
    findGroup (runStarted s core quad g r) m.id = some { h with yielded := false } := by
  have hid := findGroup_id hh
  have out : ((drawnOf (readyRuns s core quad)).map (fun y => y.1.id)).contains h.id = false := by
    rw [Bool.eq_false_iff, ne_eq, List.contains_iff_mem, List.mem_map]
    rintro ⟨e, he, hid'⟩
    exact hout e he (hid'.trans hid)
  have plain : (readyRuns s core quad).all (fun e => e.1.yielded) = false := by
    obtain ⟨e, he, hye⟩ := hy
    exact List.all_eq_false.mpr ⟨e, he, by simp [hye]⟩
  have left : (leftOut s core quad).contains h.id = true := by
    unfold leftOut
    rw [if_neg (by simp [plain]), List.contains_iff_mem, List.mem_map]
    exact ⟨m, hm, hid.symm⟩
  have other : m.id ≠ g.id := fun e => hout _ hg e.symm
  rw [findGroup_runStarted, hh]
  simp only [Option.map_some, if_neg other, afterDraw, out, Bool.false_eq_true, if_false, left, if_true]

theorem quadOf_runStarted (hq : quad < 4) : quadOf (runStarted s core quad g r) core quad =
    { quadOf s core quad with x := nextDraw (quadOf s core quad).x, owner := if r.ln.pos = .inRun then some g.id else none } :=
  (quadOf_putQuad _ core quad core quad hq hq _).trans (if_pos ⟨rfl, rfl⟩)

end

end Sys2Proof.Machine
end

section
/-! PROOFS. O50: held traps and the debugger's commands (R255, R272, R273). -/
namespace Sys2Proof.Machine

open Sys2Proof.Claims

/-! Groups after a change of some of them. -/

/-- A group after a change was there before it. -/
theorem mem_allGroups_modGroups {s : State} {p : Group → Bool} {f : Group → Group} {h : Group} (hm : h ∈ allGroups (modGroups s p f)) :
    ∃ y ∈ allGroups s, h = if p y then f y else y := by
  have others : h ∈ modBy p f s.groups → ∃ y ∈ s.groups, h = if p y then f y else y := fun hm => by
    obtain ⟨y, hy, rfl⟩ := List.mem_map.mp hm
    exact ⟨y, hy, rfl⟩
  unfold allGroups at hm ⊢
  cases hl : s.g.live
  · simp only [modGroups, hl, Bool.false_and, Bool.false_eq_true, if_false] at hm ⊢
    exact others hm
  · simp only [modGroups, hl, Bool.true_and, if_true] at hm ⊢
    have first : ∀ (c : Bool) (x : Group) (l : List Group), h ∈ (if c = true then x :: l else l) → h = x ∨ h ∈ l := by
      intro c x l
      cases c
      · exact .inr
      · exact List.mem_cons.mp
    rcases first _ _ _ hm with rfl | hm
    · exact ⟨s.g, List.mem_cons_self .., rfl⟩
    · obtain ⟨y, hy, rfl⟩ := others hm
      exact ⟨y, List.mem_cons_of_mem _ hy, rfl⟩

/-- A resident group is there after a change that leaves it resident. -/
theorem mem_modGroups {s : State} {p : Group → Bool} {f : Group → Group} (hf : ∀ g, (f g).live = g.live) {y : Group}
    (hy : y ∈ allGroups s) : (if p y then f y else y) ∈ allGroups (modGroups s p f) := by
  have others : y ∈ s.groups → (if p y then f y else y) ∈ modBy p f s.groups := fun hy => List.mem_map.mpr ⟨y, hy, rfl⟩
  unfold allGroups at hy ⊢
  cases hl : s.g.live
  · simp only [hl, Bool.false_eq_true, if_false] at hy
    simp only [modGroups, hl, Bool.false_and, Bool.false_eq_true, if_false]
    exact others hy
  · have live : (if p s.g then f s.g else s.g).live = true := by
      split
      · rw [hf, hl]
      · exact hl
    simp only [hl, if_true] at hy
    simp only [modGroups, hl, Bool.true_and, live, if_true]
    rcases List.mem_cons.mp hy with rfl | hy
    · exact List.mem_cons_self ..
    · exact List.mem_cons_of_mem _ (others hy)

/-! Held traps (R255). -/

theorem handlerEntry_run {s : State} {t : TrapInfo} (hl : s.g.live = true) (hid : s.g.id = s.inp.g) (ht : s.g.trapPend = some t) :
    exec .handlerEntry s = if s.g.en.acc.isEmpty then .next (enterTrap s t) else .next s := by
  show execHandlerEntry s = _
  unfold execHandlerEntry
  rw [onGroup_live hl hid, ht]

/-- The trap that is entered is held no longer. -/
theorem enterTrap_held (s : State) (t : TrapInfo) : enterTrap { s with g := { s.g with trapPend := none } } t = enterTrap s t := rfl

/-! Debug commands (R272, R273). -/

theorem dbgNames_iff {part w : Nat} {g : Group} : dbgNames part w g = true ↔ debugNamed w part g := by
  simp [dbgNames, debugNamed, fld, bit, and_assoc]

/-- A command that has not been seen starts. -/
theorem dbgEvent_starts {s : State} {p : Partition} {op w : Nat} (h : DebugCmd s s.inp.part p op w) (start : State → Nat → Nat → State) :
    dbgEvent op start s = .next (start s s.inp.part w) := by
  obtain ⟨hw, hn⟩ := h.fresh
  have hop : dbgOp w = op := by
    have := h.op'
    simpa [dbgOp, fld] using this
  unfold dbgEvent
  dsimp only
  rw [h.here, h.word]
  dsimp only
  rw [hw, if_neg (by simp), if_neg hn, if_pos hop]

/-- A partition after a change that keeps its number and whether it exists. -/
theorem findPart_modPart_same {s : State} {n : Nat} {p : Partition} (h : findPart s n = some p) {f : Partition → Partition}
    (hn : ∀ q, (f q).num = q.num) (hs : ∀ q, (f q).state = q.state) : findPart (modPart s n f) n = some (f p) :=
  (partBecomes_modPart h hn (fun q => by rw [hs])).it

theorem findPart_congr {s t : State} (h : t.pt = s.pt ∧ t.parts = s.parts) (n : Nat) : findPart t n = findPart s n := by
  simp only [findPart, allParts, h.1, h.2]

theorem findPart_dbgBegin {s : State} {part : Nat} {p : Partition} (h : findPart s part = some p) (w : Nat) (waits : Bool) :
    findPart (dbgBegin s part w waits) part = some { p with dbgLast := BitVec.ofNat 64 w, dbgWait := waits } :=
  findPart_modPart_same h (fun _ => rfl) (fun _ => rfl)

/-- The partition whose command has completed waits no longer. -/
theorem findPart_dbgDone {s : State} {part : Nat} {p : Partition} (h : findPart s part = some p) :
    ∃ p', findPart (dbgDone s part) part = some p' ∧ p'.dbgWait = false := by
  have written : ∃ q, findPart (ctlWrite s part 0x6008 8 ((ctlRead s part 0x6008 8 + 1) % 2 ^ 64)) part = some q := by
    have stored : ∀ m, findPart { s with mem := m } part = some p := fun _ => (findPart_congr ⟨rfl, rfl⟩ part).trans h
    unfold ctlWrite markDirtyRange
    refine ⟨_, findPart_modPart_same (stored _) (fun q => ?_) (fun q => ?_)⟩
    · dsimp only
      split <;> rfl
    · dsimp only
      split <;> rfl
  obtain ⟨q, hq⟩ := written
  exact ⟨_, findPart_modPart_same hq (fun _ => rfl) (fun _ => rfl), rfl⟩

theorem mem_dbgDone (s : State) (part : Nat) :
    (dbgDone s part).mem = mwrite s.mem (ctlKey part 0x6008) 8 ((ctlRead s part 0x6008 8 + 1) % 2 ^ 64) := rfl

/-- DBG_DONE advances (R272). -/
theorem ctlRead_dbgDone (s : State) (part : Nat) :
    ctlRead (dbgDone s part) part 0x6008 8 = (ctlRead s part 0x6008 8 + 1) % 2 ^ 64 := by
  rw [ctlRead, mem_dbgDone, mread_mwrite]
  exact Nat.mod_eq_of_lt (Nat.mod_lt _ (by decide))

/-- The command's completion writes DBG_DONE alone. -/
theorem mget_dbgDone (s : State) (part : Nat) {a : Nat} (h : a < ctlKey part 0x6008 ∨ ctlKey part 0x6010 ≤ a) :
    mget (dbgDone s part).mem a = mget s.mem a := by
  rw [mem_dbgDone]
  refine mget_mwrite_other _ _ _ _ _ (h.imp_right (fun h => ?_))
  unfold ctlKey physKey at h ⊢
  omega

/-! Halts (R273). -/

theorem debugNamed_of_same {part w : Nat} {g h : Group} (hid : h.id = g.id) (hr : h.role = g.role) (hn : debugNamed w part h) :
    debugNamed w part g := by
  unfold debugNamed at hn ⊢
  rw [← hid, ← hr]
  exact hn

/-- A halt that begins stops the groups that it names, and counts for those that start later. -/
theorem startHalt_halts {s : State} {part : Nat} {p : Partition} (hp : findPart s part = some p) (w : Nat) :
    (startHalt s part w).mem = s.mem ∧
    (∀ g ∈ allGroups (startHalt s part w), debugNamed w part g → g.halted = true) ∧
    findPart (startHalt s part w) part = some { p with
      halts := p.halts ++ [⟨w / 2 ^ 32 % 2 ^ 32, BitVec.ofNat 4 (w / 2 ^ 8 % 2 ^ 4)⟩], dbgLast := BitVec.ofNat 64 w, dbgWait := true } := by
  refine ⟨rfl, fun g hg hn => ?_, findPart_dbgBegin (findPart_modPart_same ((findPart_congr ⟨rfl, rfl⟩ part).trans hp)
    (f := fun p => { p with halts := p.halts ++ [⟨w / 2 ^ 32 % 2 ^ 32, BitVec.ofNat 4 (w / 2 ^ 8 % 2 ^ 4)⟩] })
    (fun _ => rfl) (fun _ => rfl)) w true⟩
  have hg' : g ∈ allGroups (modGroups s (dbgNames part w) (fun g => { g with halted := true, stepping := false, drainAt := s.dev.gtc })) := hg
  obtain ⟨y, hy, rfl⟩ := mem_allGroups_modGroups hg'
  split
  · rfl
  · next hno =>
    rw [if_neg hno] at hn
    exact absurd (dbgNames_iff.mpr hn) hno

/-! Steps (R273). -/

/-- A group whose team's counts start again. -/
def countsRestarted (now : Word) (h : Group) : Group := { h with waits := if h.ended then [(.ended, now)] else [], drainAt := now }

/-- Two groups are of one team. -/
def sameTeam (g h : Group) : Bool := h.id.part == g.id.part && h.id.task == g.id.task && h.id.team == g.id.team

/-- The counts of the teams of some groups start again. -/
def teamsRestarted (s : State) (l : List Group) : State := l.foldl (fun u g => restartTeam u g.id.part g.id.task g.id.team) s

theorem teamsRestarted_frame (l : List Group) (s : State) :
    teamsRestarted s l = { s with g := (teamsRestarted s l).g, groups := (teamsRestarted s l).groups } := by
  induction l generalizing s with
  | nil => rfl
  | cons g l ih => exact ih (restartTeam s g.id.part g.id.task g.id.team)

theorem mem_teamsRestarted (l : List Group) (s : State) {h : Group} (hm : h ∈ allGroups s) :
    (if l.any (fun g => sameTeam g h) then countsRestarted s.dev.gtc h else h) ∈ allGroups (teamsRestarted s l) := by
  induction l generalizing s h with
  | nil => exact hm
  | cons g l ih =>
    have once : (if sameTeam g h then countsRestarted s.dev.gtc h else h) ∈ allGroups (restartTeam s g.id.part g.id.task g.id.team) :=
      mem_modGroups (f := countsRestarted s.dev.gtc) (fun _ => rfl) hm
    have rest := ih (restartTeam s g.id.part g.id.task g.id.team) once
    rw [List.any_cons]
    cases hs : sameTeam g h
    · rw [hs] at rest
      exact rest
    · rw [hs] at rest
      rw [Bool.true_or, if_pos rfl]
      have twice : countsRestarted s.dev.gtc (countsRestarted s.dev.gtc h) = countsRestarted s.dev.gtc h := rfl
      have done : (if l.any (fun g => sameTeam g (countsRestarted s.dev.gtc h)) then countsRestarted s.dev.gtc (countsRestarted s.dev.gtc h)
          else countsRestarted s.dev.gtc h) ∈ allGroups (teamsRestarted (restartTeam s g.id.part g.id.task g.id.team) l) := rest
      rw [twice, ite_self] at done
      exact done

/-- The halted groups that a step names. -/
def stepNames (part w : Nat) (g : Group) : Bool := dbgNames part w g && g.halted && !g.ended

/-- The named groups may run to the end of one run. -/
def stepsAllowed (s : State) (part w : Nat) : State :=
  modGroups s (stepNames part w) (fun g => { g with halted := false, stepping := true })

theorem startStep_eq (s : State) (part w : Nat) :
    startStep s part w = dbgBegin (teamsRestarted (stepsAllowed s part w) ((allGroups s).filter (stepNames part w))) part w true := rfl

/-- A step that begins lets the halted groups that it names run (R273). -/
theorem startStep_steps {s : State} {part : Nat} {p : Partition} (hp : findPart s part = some p) (w : Nat) :
    (startStep s part w).mem = s.mem ∧
    findPart (startStep s part w) part = some { p with dbgLast := BitVec.ofNat 64 w, dbgWait := true } ∧
    ∀ g ∈ allGroups s, debugNamed w part g → g.halted = true → g.ended = false →
      { g with halted := false, stepping := true, waits := [], drainAt := s.dev.gtc } ∈ allGroups (startStep s part w) := by
  rw [startStep_eq]
  refine ⟨?_, findPart_dbgBegin ?_ w true, fun g hg hn hh he => ?_⟩
  · show (teamsRestarted _ _).mem = _
    rw [teamsRestarted_frame]
    rfl
  · rw [teamsRestarted_frame]
    exact (findPart_congr ⟨rfl, rfl⟩ part).trans hp
  · have names : stepNames part w g = true := by simp [stepNames, dbgNames_iff.mpr hn, hh, he]
    have allowed : { g with halted := false, stepping := true } ∈ allGroups (stepsAllowed s part w) := by
      have := mem_modGroups (f := fun g => { g with halted := false, stepping := true }) (fun _ => rfl) (p := stepNames part w) hg
      rwa [if_pos names] at this
    have restarted := mem_teamsRestarted ((allGroups s).filter (stepNames part w)) _ allowed
    rw [if_pos (List.any_eq_true.mpr ⟨g, List.mem_filter.mpr ⟨hg, names⟩, by simp [sameTeam]⟩)] at restarted
    have waits : countsRestarted s.dev.gtc { g with halted := false, stepping := true } =
        { g with halted := false, stepping := true, waits := [], drainAt := s.dev.gtc } := by simp [countsRestarted, he]
    rw [← waits]
    exact restarted

/-! Resumes (R273). -/

/-- The machine with a halted group running again, as it stands, and its team's counts restarted. -/
def runsAgain (s : State) (g : Group) : State :=
  restartTeam (modTeamOf (modGroup s g.id (fun _ => { g with halted := false, stepping := false })) g.id
    (fun t => { t with startGtc := s.dev.gtc })) g.id.part g.id.task g.id.team

/-- Without images a halted group goes on as it stands. -/
theorem resumeGroup_noImage {s : State} {g : Group} (h : ctlRead s g.id.part 0x6010 8 = 0) : resumeGroup s g = runsAgain s g := by
  unfold resumeGroup
  dsimp only
  rw [h, if_pos (by simp)]
  rfl

/-- Every halted group that the command names has the name of one of `l`. -/
def haltedWithin (part w : Nat) (s : State) (l : List Group) : Prop :=
  ∀ h ∈ allGroups s, debugNamed w part h → h.halted = true → ∃ x ∈ l, x.id = h.id

theorem haltedWithin_runsAgain {part w : Nat} {s : State} {g : Group} {l : List Group} (h : haltedWithin part w s (g :: l)) :
    haltedWithin part w (runsAgain s g) l := by
  intro y hy hn hh
  obtain ⟨z, hz, rfl⟩ := mem_allGroups_modGroups hy
  have hz' : z ∈ allGroups (modGroup s g.id (fun _ => { g with halted := false, stepping := false })) := hz
  obtain ⟨v, hv, rfl⟩ := mem_allGroups_modGroups hz'
  by_cases hid : (v.id == g.id) = true
  · rw [if_pos hid] at hh
    exfalso
    split at hh <;> exact absurd hh (by simp)
  · rw [if_neg hid] at hn hh ⊢
    have same : ∀ (c : Bool) (a : List (Wait × Word)) (b : Word),
        (if c = true then ({ v with waits := a, drainAt := b } : Group) else v).id = v.id ∧
        (if c = true then ({ v with waits := a, drainAt := b } : Group) else v).role = v.role ∧
        (if c = true then ({ v with waits := a, drainAt := b } : Group) else v).halted = v.halted := by
      intro c a b
      cases c <;> exact ⟨rfl, rfl, rfl⟩
    obtain ⟨s1, s2, s3⟩ := same _ _ _
    obtain ⟨x, hx, hxid⟩ := h v hv (debugNamed_of_same s1 s2 hn) (s3.symm.trans hh)
    rcases List.mem_cons.mp hx with rfl | hx
    · exact absurd (by simp [hxid]) hid
    · exact ⟨x, hx, hxid.trans s1.symm⟩

/-- The named groups resumed one after the other. -/
theorem foldl_resumeGroup {part w : Nat} (l : List Group) (s : State) (hl : ∀ g ∈ l, g.id.part = part) (h0 : ctlRead s part 0x6010 8 = 0)
    (hw : haltedWithin part w s l) :
    haltedWithin part w (l.foldl resumeGroup s) [] ∧ (l.foldl resumeGroup s).mem = s.mem ∧
      (l.foldl resumeGroup s).pt = s.pt ∧ (l.foldl resumeGroup s).parts = s.parts := by
  induction l generalizing s with
  | nil => exact ⟨hw, rfl, rfl, rfl⟩
  | cons g l ih =>
    have step : resumeGroup s g = runsAgain s g := resumeGroup_noImage (by rw [hl g (List.mem_cons_self ..)]; exact h0)
    rw [List.foldl_cons, step]
    exact ih (runsAgain s g) (fun x hx => hl x (List.mem_cons_of_mem _ hx)) h0 (haltedWithin_runsAgain hw)

/-- The halts of the named roles lifted. -/
def haltsLifted (w : Nat) (p : Partition) : Partition :=
  { p with halts := (p.halts.map (fun h => if h.task = fld w 32 32 then
      { h with roles := h.roles &&& ~~~(BitVec.ofNat 4 (fld w 8 4)) } else h)).filter (fun h => h.roles != 0) }

/-- The groups that a resume lets run. -/
def resumed (s : State) (part w : Nat) : List Group := (allGroups s).filter (fun g => dbgNames part w g && g.halted)

/-- A resume acts at once on the groups that it names, and completes (R272, R273). -/
theorem startResume_resumes {s : State} {part : Nat} {p : Partition} (hp : findPart s part = some p) (w : Nat)
    (h0 : ctlRead s part 0x6010 8 = 0) :
    (∀ g ∈ allGroups (startResume s part w), debugNamed w part g → g.halted = false) ∧
    (∃ p', findPart (startResume s part w) part = some p' ∧ p'.dbgWait = false) ∧
    ctlRead (startResume s part w) part 0x6008 8 = (ctlRead s part 0x6008 8 + 1) % 2 ^ 64 ∧
    ∀ a, a < ctlKey part 0x6008 ∨ ctlKey part 0x6010 ≤ a → mget (startResume s part w).mem a = mget s.mem a := by
  have start : startResume s part w =
      dbgDone (dbgBegin ((resumed s part w).foldl resumeGroup (modPart s part (haltsLifted w))) part w false) part := rfl
  have within : haltedWithin part w (modPart s part (haltsLifted w)) (resumed s part w) := fun h hh hn hhalt =>
    ⟨h, List.mem_filter.mpr ⟨hh, by simp [dbgNames_iff.mpr hn, hhalt]⟩, rfl⟩
  have parts : ∀ g ∈ resumed s part w, g.id.part = part := fun g hg => by
    have := (List.mem_filter.mp hg).2
    rw [Bool.and_eq_true] at this
    exact (dbgNames_iff.mp this.1).1
  obtain ⟨none_left, hmem, hpt, hparts⟩ := foldl_resumeGroup _ (modPart s part (haltsLifted w)) parts h0 within
  have found : findPart ((resumed s part w).foldl resumeGroup (modPart s part (haltsLifted w))) part = some (haltsLifted w p) :=
    (findPart_congr ⟨hpt, hparts⟩ part).trans (findPart_modPart_same hp (fun _ => rfl) (fun _ => rfl))
  have read : ∀ k, ctlRead (dbgBegin ((resumed s part w).foldl resumeGroup (modPart s part (haltsLifted w))) part w false) part k 8 =
      ctlRead s part k 8 := fun k => congrArg (fun m => mread m (ctlKey part k) 8) hmem
  rw [start]
  refine ⟨fun g hg hn => ?_, findPart_dbgDone (findPart_dbgBegin found w false), (ctlRead_dbgDone _ part).trans (by rw [read]), fun a ha => ?_⟩
  · cases hh : g.halted
    · rfl
    · obtain ⟨x, hx, -⟩ := none_left g hg hn hh
      exact absurd hx (List.not_mem_nil)
  · exact (mget_dbgDone _ part ha).trans (congrArg (fun m => mget m a) hmem)

/-! The end of a halt (R273). -/

/-- A halt that has begun is looked at again. -/
theorem debugHalt_again {s : State} {p : Partition} (hp : findPart s s.inp.part = some p) (hw : p.dbgWait = true)
    (hop : p.dbgLast.toNat % 8 = 1) : exec .debugHalt s = .next (dbgFinish s s.inp.part p.dbgLast.toNat) := by
  have op : dbgOp p.dbgLast.toNat = 1 := by simpa [dbgOp, fld] using hop
  show dbgEvent 1 startHalt s = _
  unfold dbgEvent
  dsimp only
  rw [hp]
  dsimp only
  rw [hw, if_pos rfl, if_pos op]

/-- Images are written nowhere without a base (R272). -/
theorem foldl_writeImage_none {part : Nat} (l : List Group) (s : State) (hl : ∀ g ∈ l, g.id.part = part)
    (h0 : ctlRead s part 0x6010 8 = 0) : l.foldl writeImage s = s := by
  induction l with
  | nil => rfl
  | cons g l ih =>
    have step : writeImage s g = s := by
      unfold writeImage
      rw [hl g (List.mem_cons_self ..)]
      exact if_pos h0
    rw [List.foldl_cons, step]
    exact ih (fun x hx => hl x (List.mem_cons_of_mem _ hx))

theorem dbgFinish_waits {s : State} {part w : Nat} {g : Group} (hg : g ∈ allGroups s) (hn : debugNamed w part g)
    (hs : dbgStopped s g = false) : dbgFinish s part w = s := by
  unfold dbgFinish
  refine if_pos ?_
  rw [Bool.not_eq_true', List.all_eq_false]
  exact ⟨g, List.mem_filter.mpr ⟨hg, dbgNames_iff.mpr hn⟩, by simp [hs]⟩

theorem dbgFinish_done {s : State} {part w : Nat} (h0 : ctlRead s part 0x6010 8 = 0)
    (hs : ∀ g ∈ allGroups s, debugNamed w part g → dbgStopped s g = true) : dbgFinish s part w = dbgDone s part := by
  have named : ∀ g ∈ (allGroups s).filter (dbgNames part w), g ∈ allGroups s ∧ debugNamed w part g := fun g hg =>
    ⟨(List.mem_filter.mp hg).1, dbgNames_iff.mp (List.mem_filter.mp hg).2⟩
  have all : ((allGroups s).filter (dbgNames part w)).all (dbgStopped s) = true :=
    List.all_eq_true.mpr (fun g hg => hs g (named g hg).1 (named g hg).2)
  unfold dbgFinish
  dsimp only
  rw [all, if_neg (by simp), foldl_writeImage_none _ s (fun g hg => (named g (List.mem_filter.mp hg).1).2.1) h0]

theorem dbgStopped_not {s : State} {g : Group} (he : g.ended = false) (hh : g.halted = false ∨ g.ln.pos = .inRun) (hs : g.saved = false) :
    dbgStopped s g = false := by
  rcases hh with hh | hp
  · simp [dbgStopped, he, hh]
  · simp [dbgStopped, drainedGroup, he, hs, hp]

end Sys2Proof.Machine

namespace Sys2Proof.Claims

open Sys2Proof.Machine

/-- Settles O50: the draw's winner and what becomes of the groups of the quad, the held trap, and each debug command's effect, as the
lemmas above give them. -/
theorem runLotteryAndDebug : Obligations.RunLotteryAndDebug := by
  unfold Obligations.RunLotteryAndDebug
  intro s p w core quad part ready drawn x noImage
  refine ⟨fun h => runArbitration_waits h, fun hq ho g r hw he => ?_, fun t hl hid ht => ?_, fun h => ?_, fun h h0 => ?_, fun h => ?_,
    fun hp hw hop => ⟨fun ⟨g, hg, hn, he, hh, hs⟩ => ?_, fun h0 hs => ?_⟩⟩
  · have hmem := lotteryWin_mem hw
    refine ⟨_, runArbitration_starts hq ho hw he, rfl, quadOf_runStarted hq, fun h hh => ?_, fun e hd hne h hh => findGroup_loser hd hne hh,
      fun hy m hm hout h hh => findGroup_leftOut hy hm hout hmem hh⟩
    refine (findGroup_winner hmem hh).trans ?_
    have waits : ∀ l : List (Wait × Word), l.filter (fun y => waitStream y.1 != some .lane) =
        l.filter (fun y => decide (waitStream y.1 ≠ some .lane)) := fun l => List.filter_congr (fun y _ => by simp [bne, Bool.beq_eq_decide_eq])
    unfold runGiven
    rw [waits]
  · have run := handlerEntry_run hl hid ht
    refine ⟨fun ha => ?_, fun ha => run.trans (if_neg (by simpa using ha))⟩
    rw [takeTrap_now { s with g := { s.g with trapPend := none } } t ha, enterTrap_held]
    exact run.trans (if_pos (by simp [ha]))
  · obtain ⟨hmem, hhalt, hpart⟩ := startHalt_halts h.here w
    exact ⟨_, _, dbgEvent_starts h startHalt, hmem, hhalt, hpart, rfl, rfl, rfl⟩
  · obtain ⟨hrun, ⟨p', hp', hwait⟩, hdone, hmem⟩ := startResume_resumes h.here w h0
    exact ⟨_, p', dbgEvent_starts h startResume, hrun, hp', hwait, hdone, hmem⟩
  · obtain ⟨hmem, hpart, hstep⟩ := startStep_steps h.here w
    exact ⟨_, _, dbgEvent_starts h startStep, hmem, hpart, rfl, hstep⟩
  · rw [debugHalt_again hp hw hop, dbgFinish_waits hg hn (dbgStopped_not he hh hs)]
  · obtain ⟨p', hp', hwait⟩ := findPart_dbgDone hp
    refine ⟨_, p', debugHalt_again hp hw hop, ?_⟩
    rw [dbgFinish_done h0 hs]
    exact ⟨hp', hwait, ctlRead_dbgDone s part, rfl⟩

end Sys2Proof.Claims
end

section
/-! PROOFS. Accesses on behalf of a calm partition, one without revisions, drops, moves and pre-copy, to a page that no watch covers:
what they keep, and what the L1s hold after them (R109, R149, R181, R335). -/
namespace Sys2Proof.Machine

open Sys2Proof.Claims

/-- A partition whose accesses make no copies and wait for no drop or move. It may have watches, which `QuietPart` rules out: a plain
access is to a page that none of them covers. -/
structure CalmPart (s : State) (part : Nat) (p : Partition) : Prop where
  here : findPart s part = some p
  revs : p.revs = []
  drops : p.drops = []
  moves : p.moves = []
  clean : p.dirtyOn = false

/-- `t` is `s` after an access of the group in focus: group, team, task, partition and remote requests are the same. -/
structure Kept (s t : State) (part : Nat) : Prop where
  group : t.g = s.g
  team : t.tm = s.tm
  task : t.tk = s.tk
  focus : t.pt = s.pt
  here : findPart t part = findPart s part
  remote : t.dev.remote = s.dev.remote ∧ t.dev.poison = s.dev.poison ∧ t.dev.gtc = s.dev.gtc

theorem Kept.refl (s : State) (part : Nat) : Kept s s part := ⟨rfl, rfl, rfl, rfl, rfl, rfl, rfl, rfl⟩

theorem Kept.trans {s t u : State} {part : Nat} (h : Kept s t part) (k : Kept t u part) : Kept s u part :=
  ⟨k.group.trans h.group, k.team.trans h.team, k.task.trans h.task, k.focus.trans h.focus, k.here.trans h.here,
    k.remote.1.trans h.remote.1, k.remote.2.1.trans h.remote.2.1, k.remote.2.2.trans h.remote.2.2⟩

theorem CalmPart.kept {s t : State} {part : Nat} {p : Partition} (c : CalmPart s part p) (h : Kept s t part) : CalmPart t part p :=
  ⟨h.here.trans c.here, c.revs, c.drops, c.moves, c.clean⟩

/-- A change of the L1s, the bytes, the L2, the sc stamps and the free values keeps the rest. -/
theorem kept_of_units {s t : State} (part : Nat)
    (h : t = { s with cores := t.cores, mem := t.mem, free := t.free, dev := { s.dev with l2 := t.dev.l2, sliceM := t.dev.sliceM } }) :
    Kept s t part := by
  rw [h]
  exact ⟨rfl, rfl, rfl, rfl, rfl, rfl, rfl, rfl⟩

theorem l2Touch_kept (s : State) (part prt key n cls evict : Nat) (pinned write : Bool) :
    Kept s (l2Touch s prt key n cls evict pinned write) part := by
  rw [l2Touch_frame]
  exact kept_of_units part rfl

@[simp] theorem l2Touch_cores (s : State) (part key n cls evict : Nat) (pinned write : Bool) :
    (l2Touch s part key n cls evict pinned write).cores = s.cores := by rw [l2Touch_frame]

theorem l1Load_kept (s : State) (part core key evict : Nat) (home : Bool) : Kept s (l1Load s core key evict home) part := by
  rw [l1Load_frame]
  exact kept_of_units part rfl

@[simp] theorem l1Load_mem (s : State) (core key evict : Nat) (home : Bool) : (l1Load s core key evict home).mem = s.mem := by
  rw [l1Load_frame]

theorem l1Miss_kept (s : State) (part core key : Nat) : Kept s (l1Miss s core key) part := by
  unfold l1Miss
  split
  · exact .refl s part
  · exact kept_of_units part rfl

theorem l1Inval_kept (s : State) (part core : Nat) : Kept s (l1Inval s core) part := by
  rw [(l1Inval_spec s core).1]
  exact kept_of_units part rfl

theorem acquireAt_kept (s : State) (part : Nat) (ord : BitVec 2) (scope : Nat) : Kept s (acquireAt s ord scope) part := by
  unfold acquireAt
  split
  · exact l1Inval_kept s part _
  · exact .refl s part

theorem scMark_kept (s : State) (part : Nat) (w : Who) (l : Loc) (ord : BitVec 2) : Kept s (scMark s w l ord) part := by
  unfold scMark
  split
  · exact .refl s part
  · split <;> exact kept_of_units part rfl

@[simp] theorem scMark_mem (s : State) (w : Who) (l : Loc) (ord : BitVec 2) : (scMark s w l ord).mem = s.mem := by
  unfold scMark
  split
  · rfl
  · split <;> rfl

/-- The partition in focus is the one found under its number. -/
theorem findPart_focus {s : State} {p : Partition} (hs : (s.pt.state != 0) = true) (h : findPart s s.pt.num = some p) : s.pt = p := by
  simpa [findPart, allParts, hs] using h

/-- A change of a partition that does nothing to the one found keeps everything. -/
theorem modPart_kept {s : State} {part : Nat} {p : Partition} (hp : findPart s part = some p) {f : Partition → Partition}
    (hf : f p = p) (hn : ∀ p, (f p).num = p.num) (hs : ∀ p, ((f p).state != 0) = (p.state != 0)) : Kept s (modPart s part f) part := by
  refine ⟨rfl, rfl, rfl, ?_, ?_, rfl, rfl, rfl⟩
  · show (if s.pt.state != 0 && s.pt.num == part then f s.pt else s.pt) = s.pt
    split
    · next h =>
      simp only [Bool.and_eq_true, beq_iff_eq] at h
      obtain ⟨hl, rfl⟩ := h
      rw [findPart_focus hl hp, hf]
    · rfl
  · rw [findPart_modPart s part part f hn hs, if_pos rfl, hp, Option.map_some, hf]

section
variable {s : State} {part : Nat} {p : Partition} (c : CalmPart s part p)
include c

theorem findRev_calm (num : Nat) : findRev p num = none := by simp [findRev, c.revs]

theorem writeSide_calm (ctx rev va : Nat) : writeSide p ctx rev va = 0 := by simp [writeSide, findRev_calm c]

theorem parentSides_calm (ctx side va key : Nat) : parentSides s part ctx side va key = [] := by
  simp [parentSides, c.here, c.revs]

/-- Nothing holds back a write of a calm partition (R123, R151, R153). -/
theorem writeGate_calm (ctx rev va key : Nat) (revcap : Bool) : writeGate s part ctx rev va key revcap = none := by
  unfold writeGate
  rw [c.here]
  simp [writeSide_calm c, parentSides_calm c, inTransit, c.moves]

/-- A write of a calm partition makes no copies (R151). -/
theorem prepWrite_calm (task ctx rev va key : Nat) (revcap : Bool) (bits : BitVec 32) :
    prepWrite s part task ctx rev va key revcap bits = .ok key s := by
  unfold prepWrite
  rw [c.here]
  simp only [writeSide_calm c, parentSides_calm c, writeGate_calm c, findRev_calm c, ensureAnc, List.find?_nil, markParent,
    List.foldl_nil]

theorem stampWrite_kept (key len source : Nat) : Kept s (stampWrite s part key len source) part := by
  unfold stampWrite
  refine modPart_kept c.here (if_pos (by simp [latestOpen, c.revs])) (fun p => ?_) (fun p => ?_) <;> (dsimp only; split <;> rfl)

theorem markDirty_kept (key : Nat) : Kept s (markDirty s part key) part := by
  unfold markDirty markDirtyRange
  refine modPart_kept c.here (if_pos (by simp [c.clean])) (fun p => ?_) (fun p => ?_) <;> (dsimp only; split <;> rfl)

end

section
variable {s : State} {w : Who} {p : Partition} (c : CalmPart s w.part p)
include c

theorem readKey_calm (l : Loc) : readKey s w l = l.addr := by
  unfold readKey
  rw [c.here]
  simp [viewKey, viewFrame, findRev_calm c]

theorem behindDrop_calm (va : Nat) : behindDrop s w va = false := by simp [behindDrop, c.here, dropPending, c.drops]

/-- A write to a page that no watch covers changes its bytes and the L1s (R109, R149, R164). -/
theorem performWrite_kept {l : Loc} (hw : l.watched = false) (key n v : Nat) (parentSide publish : Bool) :
    let t := performWrite s w l key n v parentSide publish
    Kept s t w.part ∧ t.mem = physWrite s.mem key n v ∧
      t.cores = (l1Store s s.mem (if w.l1 then some w.core else none) key n v).cores := by
  intro t
  let s1 := l1Store { s with mem := physWrite s.mem key n v } s.mem (if w.l1 then some w.core else none) key n v
  have k1 : Kept s s1 w.part := kept_of_units _ rfl
  have k2 := k1.trans (stampWrite_kept (c.kept k1) key n w.source)
  have k3 := k2.trans (markDirty_kept (c.kept k2) key)
  have ht : t = markDirty (stampWrite s1 w.part key n w.source) w.part key := if_neg (by simp [hw])
  rw [ht]
  exact ⟨k3, rfl, rfl⟩

end

end Sys2Proof.Machine
end

section
/-! PROOFS. A plain access of the group in focus: its checks pass, a load reads what the L1 or the home slice shows, a store and an atomic
write their bytes, and each leaves the L1s as R109 says (R109, R330, R333, R335). -/
namespace Sys2Proof.Machine

open Sys2Proof.Claims

/-! Locating an access (R330). -/

theorem isRemote_below {l : Loc} {n : Nat} (h : l.addr + n ≤ 3 * spaceSize) : isRemote l = false :=
  isRemote_local (by have : 0 < spaceSize := by decide
                     omega)

/-- An address that is no multiple of the size is MISALIGNED, whatever the page (R330). -/
theorem orTrapS_misaligned (s : State) (w : Who) (t : Team) (space a n : Nat) (write read : Bool) (k : Loc → State → Out)
    (h : a % n ≠ 0) : orTrapS s a (locate s w t space a n write read) k = trapS s 0x03 a 0 := by
  have hl : locate s w t space a n write read = .trap 0x03 0 := if_pos (by simpa using h)
  rw [hl]
  rfl

/-- Nothing of the stream is outstanding, so no access of it with ord rel or sc waits (R182). -/
theorem ordWaits_quiet {s : State} {st : Stream} (h : quiet s st = true) (ord : BitVec 2) : ordWaits s st ord = false := by
  simp [ordWaits, h]

/-- With nothing of the stream outstanding a local access waits for no earlier one (R17, R178). -/
theorem overlaps_quiet {s : State} {st : Stream} (h : quiet s st = true) {l : Loc} (hl : isRemote l = false) (n : Nat) :
    overlaps s st [l] n = false := by
  simp only [quiet, Bool.and_eq_true, List.all_eq_true, Bool.or_eq_true, bne_iff_ne] at h
  obtain ⟨hacc, hrem⟩ := h
  have hdue : acquireDue s st = false := by
    simp only [acquireDue, Bool.or_eq_false_iff, List.any_eq_false]
    refine ⟨fun a ha => by simp [hacc a ha], fun r hr => ?_⟩
    rcases hrem r hr with (e | e) | e <;> simp [e]
  have hbusy : remoteBusy s [l] = false := by simp [remoteBusy, hl]
  rw [overlaps, hdue, hbusy, Bool.false_or, Bool.false_or, List.any_eq_false]
  exact fun a ha => by simp [hacc a ha]

/-- The state after a plain load (R109, R111). -/
def loaded (s : State) (l : Loc) (n evict : Nat) (home : Bool) : State :=
  l2Touch (l1Load s s.g.core l.addr evict home) s.g.id.part l.addr n l.cls evict l.t0 false

/-! The L1s after an access (R109). -/

theorem coreOf_congr {s t : State} (h : t.cores = s.cores) (n : Nat) : coreOf t n = coreOf s n := by rw [coreOf, coreOf, h]

/-- An atomic leaves no copy of its sector in the core's L1 (R109). -/
theorem l1Find_l1Miss (s : State) (core key : Nat) : l1Find (l1Miss s core key) core key = none := by
  unfold l1Miss
  split
  · next h => simpa using h
  · rw [l1Find, coreOf_modCore, if_pos rfl]
    · simp
    · exact fun _ => rfl

/-- What a store does to the copies of a core (R109). -/
theorem l1_l1Store (s : State) (b : Memory) (own : Option Nat) (key n x c : Nat) :
    (coreOf (l1Store s b own key n x) c).l1 = (coreOf s c).l1.map (fun e =>
      if inSector e key n then
        { e with old := if own == some c then e.old.map (fun v => l1Patch e.num v key n x)
                        else some (e.old.getD (mread b (32 * e.num) 32)) }
      else e) := by
  unfold coreOf l1Store
  simp only [List.find?_map]
  have hf : ((fun k : Core => k.num == c) ∘ fun k : Core => { k with l1 := k.l1.map (fun e =>
      if inSector e key n then
        { e with old := if own == some k.num then e.old.map (fun v => l1Patch e.num v key n x)
                        else some (e.old.getD (mread b (32 * e.num) 32)) }
      else e) }) = fun k : Core => k.num == c := rfl
  rw [hf]
  cases hc : s.cores.find? (fun k => k.num == c) with
  | none => rfl
  | some k =>
    have hk : k.num = c := by simpa using List.find?_some hc
    simp [hk]

theorem coreOf_l1Load_other (s : State) {core m : Nat} (hm : m ≠ core) (key evict : Nat) (home : Bool) :
    coreOf (l1Load s core key evict home) m = coreOf s m := by
  unfold l1Load
  extract_lets stays rest l
  split
  · rfl
  · rw [coreOf_modCore, if_neg hm]
    exact fun _ => rfl

/-- The sector that has come in is not the one that leaves (R108). -/
theorem mem_l1Fit {s : State} {core keep : Nat} {l : List L1Sector} {e : L1Sector} (he : e ∈ l) (hk : e.num = keep) :
    e ∈ l1Fit s core keep l := by
  unfold l1Fit
  extract_lets lines others
  split
  · exact he
  · split
    · exact he
    · next v hv =>
      have hv' : v ≠ keep / 4 := by simpa using (List.mem_filter.mp (List.mem_of_getElem? hv)).2
      exact List.mem_filter.mpr ⟨he, by simp [hk, Ne.symm hv']⟩

/-- A load with a hint that allocates leaves its sector in the L1 (R109, R111). -/
theorem l1Find_l1Load (s : State) (core key : Nat) {evict : Nat} (h4 : evict ≠ 4) (h6 : evict ≠ 6) :
    (l1Find (l1Load s core key evict false) core key).isSome = true := by
  unfold l1Load
  extract_lets stays rest l
  split
  · next hs =>
    cases hf : l1Find s core key with
    | none => simp [stays, hf] at hs
    | some e => rfl
  · have hl : l = l1Fit s core (key / 32) (⟨key / 32, none⟩ :: rest) := if_neg (by simp [h4, h6])
    rw [l1Find, coreOf_modCore, if_pos rfl, List.find?_isSome]
    · exact ⟨⟨key / 32, none⟩, hl ▸ mem_l1Fit (List.mem_cons_self ..) rfl, by simp⟩
    · exact fun _ => rfl

theorem coreOf_acquireAt_other (s : State) {m : Nat} (hm : m ≠ s.g.core) (ord : BitVec 2) (scope : Nat) :
    coreOf (acquireAt s ord scope) m = coreOf s m := by
  unfold acquireAt
  split
  · exact (l1Inval_spec s s.g.core).2.2 m hm
  · rfl

/-- An acquire brings no sector into the L1. -/
theorem l1Find_acquireAt {s : State} {key : Nat} (h : l1Find s s.g.core key = none) (ord : BitVec 2) (scope : Nat) :
    l1Find (acquireAt s ord scope) s.g.core key = none := by
  unfold acquireAt
  split
  · rw [l1Find, (l1Inval_spec s s.g.core).2.1]
    rfl
  · exact h

/-- A change of a core's clock leaves the L1s and the other cores. -/
theorem coreOf_modClock {s u : State} (h : u.cores = s.cores) (core : Nat) (f : Core → BitVec 48) (m : Nat) :
    (coreOf (modCore u core (fun c => { c with clock := f c })) m).l1 = (coreOf s m).l1 ∧
      (m ≠ core → coreOf (modCore u core (fun c => { c with clock := f c })) m = coreOf s m) := by
  rw [coreOf_modCore u core m (fun c => { c with clock := f c }) (fun _ => rfl), ← coreOf_congr h m]
  split
  · next e => exact ⟨by rw [e], fun hm => absurd e hm⟩
  · exact ⟨rfl, fun _ => rfl⟩

/-- An sc stamp changes the clock of the core that takes it (R184). -/
theorem coreOf_scMark (s : State) (w : Who) (l : Loc) (ord : BitVec 2) (m : Nat) :
    (coreOf (scMark s w l ord) m).l1 = (coreOf s m).l1 ∧ (m ≠ w.core → coreOf (scMark s w l ord) m = coreOf s m) := by
  unfold scMark
  split
  · exact ⟨rfl, fun _ => rfl⟩
  · split
    · unfold scRemote
      exact coreOf_modClock (by rfl) w.core _ m
    · unfold scStamp
      exact coreOf_modClock (by rfl) w.core _ m

theorem l1Scope_wide {s : State} {scope : BitVec 3} (h : wide s scope) : l1Scope s.tm scope.toNat = true := by
  unfold l1Scope
  rcases h with h | ⟨rfl, ht⟩
  · simp [h]
  · simp [ht]

theorem l1Scope_narrow {s : State} {scope : BitVec 3} (h : ¬wide s scope) : l1Scope s.tm scope.toNat = false := by
  rw [Bool.eq_false_iff]
  intro hs
  simp only [l1Scope, Bool.or_eq_true, Bool.and_eq_true, decide_eq_true_eq, beq_iff_eq] at hs
  exact h (hs.imp id (fun ⟨e, ht⟩ => ⟨BitVec.eq_of_toNat_eq e, ht⟩))

/-- An acquire beyond the core leaves its L1 empty (R109). -/
theorem acquireAt_empties (s : State) {ord : BitVec 2} {scope : BitVec 3} (ho : ord = 1 ∨ ord = 3) (h : wide s scope) :
    (coreOf (acquireAt s ord scope.toNat) s.g.core).l1 = [] := by
  rw [acquireAt_wide s ord _ ho (l1Scope_wide h), (l1Inval_spec s s.g.core).2.1]

end Sys2Proof.Machine

namespace Sys2Proof.Claims

open Sys2Proof.Machine

section
variable {s : State} {st : Stream} {a n : Nat} {write : Bool} {l : Loc} (h : Plain s st a n write l)
include h

/-- The partition of a plain access is calm. -/
theorem Plain.calm : ∃ p, CalmPart s (me s).part p := by
  obtain ⟨p, hp, hr, hd, hm, hc⟩ := h.part
  exact ⟨p, hp, hr, hd, hm, hc⟩

theorem Plain.onDevice : isRemote l = false := isRemote_below h.inRange

theorem Plain.reachable : cutOff s l = false := by simp [cutOff, h.onDevice]

theorem Plain.noOverlap : overlaps s st [l] n = false := overlaps_quiet h.done h.onDevice n

theorem Plain.noWait (ord : BitVec 2) : writeWaits s st ord [l] = false := by
  simp [writeWaits, ordWaits_quiet h.done, h.unwatched]

/-- The checks of a plain access pass and give its place (R330). -/
theorem Plain.passes {read : Bool} (hr : (!write) = read) (k : Loc → State → Out) :
    orTrapS s a (locate s (me s) s.tm 0 a n write read) k = k l s := by
  subst hr
  have hg : grantOk s.g.id.part l = true := by simp [grantOk, h.onDevice]
  have ht : locate s (me s) s.tm 0 a n write (!write) =
      granted s.g.id.part (translate s (me s).unit s.g.id.part s.tk.ctx a s.g.sup write (!write)) := by
    unfold locate
    rw [if_neg (by simp [h.aligned])]
    rfl
  have hok : locate s (me s) s.tm 0 a n write (!write) = .ok l s := by
    rw [ht, h.page]
    exact if_pos hg
  rw [hok]
  rfl

/-- An aligned access of 4 or 8 bytes lies within one sector (R110). -/
theorem Plain.oneSector (hn : n = 4 ∨ n = 8) : upperPart l n = none := by
  have hp := h.place
  unfold upperPart toSector
  refine if_pos ?_
  simp only [h.bytes, Bool.false_or, decide_eq_true_eq]
  rcases hn with rfl | rfl <;> omega

/-! Performing a plain access. -/

/-- A plain load reads what the core's L1 shows, or the home slice (R109, R184). -/
theorem Plain.loads (hn : n = 4 ∨ n = 8) (evict : Nat) (home : Bool) :
    loadAt s (me s) l n evict home =
      .ok (if home then mread s.mem l.addr n else l1Read s s.g.core l.addr n) (loaded s l n evict home) := by
  obtain ⟨p, c⟩ := h.calm
  rw [loadAt_one _ _ _ _ _ _ (h.oneSector hn)]
  unfold loadOne
  simp only [h.bytes, readKey_calm c, behindDrop_calm c, h.reachable, h.sound, mindStack_low _ _ _ _ h.inRange, Bool.or_self,
    Bool.false_eq_true, if_false]
  rfl

/-- A plain store writes its bytes and updates or passes by the L1s (R109, R181). -/
theorem Plain.stores (v evict : Nat) :
    ∃ t, storeAt s (me s) l n v evict = .ok () t ∧ Kept s t s.g.id.part ∧ t.mem = mwrite s.mem l.addr n v ∧
      ∀ k, coreOf t k = coreOf (l1Store s s.mem (some s.g.core) l.addr n v) k := by
  obtain ⟨p, c⟩ := h.calm
  have k1 : Kept s (l2Touch s (me s).part l.addr n l.cls evict l.t0 true) (me s).part := l2Touch_kept s _ _ _ _ _ _ _ _
  obtain ⟨k2, hm, hc⟩ := performWrite_kept (c.kept k1) h.unwatched l.addr n v (l.addr == l.addr) false
  refine ⟨_, ?_, k1.trans k2, ?_, fun k => ?_⟩
  · unfold storeAt
    simp only [h.bytes, readKey_calm c, behindDrop_calm c, h.reachable, h.sound, prepWrite_calm c, Bool.or_self, Bool.false_eq_true,
      if_false]
  · rw [hm, l2Touch_mem, physWrite_low _ _ _ _ h.inRange]
  · rw [coreOf, hc, l2Touch_frame]
    rfl

/-- A plain atomic reads its word, writes the new value, if there is one, and misses the L1 (R109, R335). -/
theorem Plain.atomics (f : Nat → Option Nat) (evict : Nat) :
    ∃ t, atomicAt s (me s) l n f evict = .ok (mread s.mem l.addr n) t ∧ Kept s t s.g.id.part ∧
      t.mem = ((f (mread s.mem l.addr n)).map (mwrite s.mem l.addr n)).getD s.mem ∧ l1Find t s.g.core l.addr = none := by
  obtain ⟨p, c⟩ := h.calm
  have hx : peek s (me s) l n = mread s.mem l.addr n := by simp [peek, h.bytes, readKey_calm c]
  have missed : ∀ u, Kept s u (me s).part → Kept s (l1Miss u s.g.core (readKey u (me s) l)) s.g.id.part ∧
      l1Find (l1Miss u s.g.core (readKey u (me s) l)) s.g.core l.addr = none := fun u k =>
    ⟨k.trans (l1Miss_kept u _ _ _), by rw [readKey_calm (c.kept k)]; exact l1Find_l1Miss _ _ _⟩
  unfold atomicAt
  simp only [hx, h.bytes, readKey_calm c, behindDrop_calm c, h.reachable, h.sound, mindStack_low _ _ _ _ h.inRange, Bool.or_self,
    Bool.false_eq_true, if_false]
  cases f (mread s.mem l.addr n) with
  | some y =>
    obtain ⟨t, ht, k, hm, -⟩ := h.stores y evict
    obtain ⟨k1, hf⟩ := missed t k
    exact ⟨_, by simp only [ht, MR.bind]; rfl, k1, (l1Miss_mem _ _ _).trans hm, hf⟩
  | none =>
    obtain ⟨k1, hf⟩ := missed _ (l2Touch_kept s _ (me s).part l.addr n l.cls evict l.t0 false)
    exact ⟨_, by simp only [writeGate_calm c]; rfl, k1, (l1Miss_mem _ _ _).trans (l2Touch_mem _ _ _ _ _ _ _ _), hf⟩

end

end Sys2Proof.Claims

namespace Sys2Proof.Machine

open Sys2Proof.Claims

/-- A result in a register after an access that kept the rest is all that a scalar access does. -/
theorem Kept.scalarAccess {s u : State} {part lo hi : Nat} (k : Kept s u part)
    (hb : ∀ b, b < lo ∨ hi ≤ b → mget u.mem b = mget s.mem b) (sd : BitVec 6) (v : Word) : ScalarAccess s (finS u sd v) sd lo hi where
  others r hr := by
    rw [sreg_finS, if_neg (fun e => hr e.1), sreg, sreg, k.group]
  group := by
    rw [finS_eq, k.group]
  team := k.team
  task := k.task
  part := k.focus
  bytes b hb' := (congrArg (mget · b) (finS_mem u sd v)).trans (hb b hb')
  remote := k.remote

theorem sreg_finS_same (s : State) {sd : BitVec 6} (v : Word) (h : sd ≠ 0) : sreg (finS s sd v) sd = v := by
  rw [sreg_finS, if_pos ⟨rfl, h⟩]

end Sys2Proof.Machine
end

section
/-! PROOFS. O12 and O13: SLD and SST (R109, R111, R330, R333). -/
namespace Sys2Proof.Machine

open Sys2Proof.Claims

theorem l1Find_congr {s t : State} {core : Nat} (h : coreOf t core = coreOf s core) (key : Nat) :
    l1Find t core key = l1Find s core key := by rw [l1Find, l1Find, h]

/-! Encodings (R114, R278). -/

theorem legalS_legal {i : Instr} (s : State) {k : Out} (h : legal i = true) : legalS i s k = k := if_pos h

theorem legalS_illegal {i : Instr} (s : State) (k : Out) (h : legal i = false) :
    ∃ w, legalS i s k = trapS s 0x00 0 (BitVec.ofNat 192 w) :=
  ⟨(encodeScalar i).getD 0, (if_neg (by simp [h])).trans (by simp [badWord, det])⟩

theorem memFieldsOk_load {f : MemFields} : memFieldsOk f false = true ↔ f.size ≠ 3 ∧ f.evict ≠ 7 ∧ f.ord ≠ 2 := by
  simp [memFieldsOk, and_assoc]

theorem memFieldsOk_store {f : MemFields} : memFieldsOk f true = true ↔ f.size ≠ 3 ∧ f.evict ≠ 7 ∧ f.ord ≠ 1 := by
  simp [memFieldsOk, and_assoc]

theorem scalarBytes_eq (size : BitVec 2) : scalarBytes size = if size = 2 then 8 else 4 := by simp [scalarBytes]

theorem scalarBytes_cases (size : BitVec 2) : scalarBytes size = 4 ∨ scalarBytes size = 8 := by
  unfold scalarBytes
  split
  · exact .inr rfl
  · exact .inl rfl

/-! What SLD writes (R333). -/

theorem signed_toNat {n : Nat} (x : BitVec n) : signed n x.toNat = x.toInt := by
  have h : 2 * x.toNat < 2 ^ n ↔ x.toNat < 2 ^ (n - 1) := by
    cases n with
    | zero => simp
    | succ n => rw [Nat.pow_succ, Nat.add_sub_cancel]; omega
  rw [BitVec.toInt_eq_toNat_cond, signed, Nat.mod_eq_of_lt x.isLt]
  simp only [h]

theorem sldValue_eq (size : BitVec 2) (v : Nat) :
    sldValue size v = if size = 1 then (BitVec.ofNat 32 v).signExtend 64 else BitVec.ofNat 64 v := by
  have h : signed 32 v = (BitVec.ofNat 32 v).toInt := by rw [← signed_toNat, BitVec.toNat_ofNat, signed, signed, Nat.mod_mod]
  simp only [sldValue, beq_iff_eq, h]
  rfl

/-! SLD. -/

section
variable {s : State} (sd : BitVec 6) {sa : BitVec 6} {f : MemFields} {l : Loc}

theorem sld_misaligned (hf : memFieldsOk f false = true) (h : (sreg s sa).toNat % scalarBytes f.size ≠ 0) :
    exec (.sld sd sa f) s = trapS s 0x03 (sreg s sa).toNat 0 :=
  (legalS_legal (i := .sld sd sa f) s hf).trans (orTrapS_misaligned s _ _ _ _ _ _ _ _ h)

/-- A plain SLD performs at once. -/
theorem sld_plain (hf : memFieldsOk f false = true) (h : Plain s .scalar (sreg s sa).toNat (scalarBytes f.size) false l)
    (hld : s.g.en.ld < 255) :
    exec (.sld sd sa f) s =
      .next (finS (acquireAt (scMark (loaded s l (scalarBytes f.size) f.evict.toNat (f.ord == 3)) (me s) l f.ord) f.ord f.scope.toNat) sd
        (sldValue f.size (if f.ord == 3 then mread s.mem l.addr (scalarBytes f.size)
          else l1Read s s.g.core l.addr (scalarBytes f.size)))) := by
  have hw : (decide (255 ≤ s.g.en.ld) || ordWaits s .scalar f.ord || overlaps s .scalar [l] (scalarBytes f.size)) = false := by
    simp [hld, ordWaits_quiet h.done, h.noOverlap]
  refine (legalS_legal (i := .sld sd sa f) s hf).trans ((h.passes rfl _).trans ((if_neg (by simp [hw])).trans ?_))
  rw [h.loads (scalarBytes_cases f.size)]
  exact if_neg (by simp [h.now])

end

theorem loaded_kept (s : State) (l : Loc) (n evict : Nat) (home : Bool) (part : Nat) : Kept s (loaded s l n evict home) part :=
  (l1Load_kept s part _ _ _ _).trans (l2Touch_kept _ part _ _ _ _ _ _ _)

/-- A load of the group in focus changes no other core (R109, R184). -/
theorem coreOf_loaded_other (s : State) {m : Nat} (hm : m ≠ s.g.core) (l : Loc) (n evict : Nat) (home : Bool) (ord : BitVec 2)
    (scope : Nat) : coreOf (acquireAt (scMark (loaded s l n evict home) (me s) l ord) ord scope) m = coreOf s m := by
  have k := (loaded_kept s l n evict home 0).trans (scMark_kept _ 0 (me s) l ord)
  calc coreOf (acquireAt (scMark (loaded s l n evict home) (me s) l ord) ord scope) m
      = coreOf (scMark (loaded s l n evict home) (me s) l ord) m := coreOf_acquireAt_other _ (by rwa [k.group]) ord scope
    _ = coreOf (loaded s l n evict home) m := (coreOf_scMark _ (me s) l ord m).2 hm
    _ = coreOf (l1Load s s.g.core l.addr evict home) m := coreOf_congr (l2Touch_cores _ _ _ _ _ _ _ _) m
    _ = coreOf s m := coreOf_l1Load_other s hm _ _ _

end Sys2Proof.Machine

namespace Sys2Proof.Claims

open Sys2Proof.Machine

/-- Settles O12: the load as it performs, with the sector, the stamp and the acquire that follow it. -/
theorem scalarLoad : Obligations.ScalarLoad := by
  unfold Obligations.ScalarLoad
  intro s sd sa f l a n seen ⟨h3, h7, h2⟩
  have hf : memFieldsOk f false = true := memFieldsOk_load.mpr ⟨h3, h7, h2⟩
  have hn : scalarBytes f.size = n := scalarBytes_eq f.size
  refine ⟨fun hm => sld_misaligned sd hf (hn ▸ hm), fun h hld => ?_⟩
  have hrun := sld_plain sd hf (hn ▸ h) hld
  rw [hn] at hrun
  have hseen : (if f.ord == 3 then mread s.mem l.addr n else l1Read s s.g.core l.addr n) = seen l.addr n := by simp [seen]
  have km := (loaded_kept s l n f.evict.toNat (f.ord == 3) 0).trans (scMark_kept _ 0 (me s) l f.ord)
  have ka := km.trans (acquireAt_kept _ 0 f.ord f.scope.toNat)
  have hmem : (acquireAt (scMark (loaded s l n f.evict.toNat (f.ord == 3)) (me s) l f.ord) f.ord f.scope.toNat).mem = s.mem := by
    simp [loaded]
  rw [hseen] at hrun
  refine ⟨_, hrun, ka.scalarAccess (fun b _ => by rw [hmem]) sd _, fun hd => ?_, fun c hc => ?_, fun h0 h4 h6 => ?_, fun h1 hw => ?_,
    fun hold => ?_⟩
  · rw [sreg_finS_same _ _ hd, sldValue_eq]
    split
    · next e =>
      have h4 : n = 4 := if_neg (by rw [e]; decide)
      rw [h4]
    · rfl
  · exact (coreOf_congr rfl c).trans (coreOf_loaded_other s hc l n _ _ _ _)
  · have he : ∀ k : BitVec 3, f.evict ≠ k → f.evict.toNat ≠ k.toNat := fun k h e => h (BitVec.eq_of_toNat_eq e)
    have hs := l1Find_l1Load s s.g.core l.addr (he 4 h4) (he 6 h6)
    rw [h0, acquireAt_none _ _ _ (by decide) (by decide), scMark_plain _ _ _ (by decide)]
    have hc : coreOf (loaded s l n f.evict.toNat false) s.g.core = coreOf (l1Load s s.g.core l.addr f.evict.toNat false) s.g.core :=
      coreOf_congr (l2Touch_cores _ _ _ _ _ _ _ _) _
    exact (congrArg Option.isSome (l1Find_congr hc l.addr)).trans hs
  · have hwide : wide (scMark (loaded s l n f.evict.toNat (f.ord == 3)) (me s) l f.ord) f.scope := by
      rw [wide, km.team]
      exact hw
    have := acquireAt_empties _ (Or.inl h1) hwide
    rw [km.group] at this
    exact this
  · by_cases h3 : f.ord = 3
    · simp [seen, h3]
    · simp only [seen, if_neg h3]
      exact l1Read_home s s.g.core l.addr n hold

end Sys2Proof.Claims
end

section
/-! PROOFS. O13: SST (R109, R114, R278, R330, R333). -/
namespace Sys2Proof.Machine

open Sys2Proof.Claims

/-- A step to the next word is a result in s0, which is discarded (R276). -/
theorem finS_zero (s : State) (v : Word) : finS s 0 v = advS s := rfl

theorem memFieldsOk_store_false {f : MemFields} (h : f.size = 3 ∨ f.evict = 7 ∨ f.ord = 1) : memFieldsOk f true = false := by
  rw [Bool.eq_false_iff, ne_eq, memFieldsOk_store]
  tauto

section
variable {s : State} {sd sa : BitVec 6} {f : MemFields} {l : Loc}

theorem sst_illegal (h : memFieldsOk f true = false) : ∃ w, exec (.sst sd sa f) s = trapS s 0x00 0 (BitVec.ofNat 192 w) :=
  legalS_illegal (i := .sst sd sa f) s _ h

variable (hf : memFieldsOk f true = true)
include hf

theorem sst_misaligned (h : (sreg s sa).toNat % scalarBytes f.size ≠ 0) :
    exec (.sst sd sa f) s = trapS s 0x03 (sreg s sa).toNat 0 :=
  (legalS_legal (i := .sst sd sa f) s hf).trans (orTrapS_misaligned s _ _ _ _ _ _ _ _ h)

/-- A plain SST performs at once. -/
theorem sst_plain (h : Plain s .scalar (sreg s sa).toNat (scalarBytes f.size) true l) (hst : s.g.en.st < 255) :
    let n := scalarBytes f.size
    let d := (sreg s sd).toNat % 2 ^ (8 * n)
    ∃ u, exec (.sst sd sa f) s = .next (advS (acquireAt (scMark u (me s) l f.ord) f.ord f.scope.toNat)) ∧ Kept s u s.g.id.part ∧
      u.mem = mwrite s.mem l.addr n d ∧ ∀ k, coreOf u k = coreOf (l1Store s s.mem (some s.g.core) l.addr n d) k := by
  intro n d
  obtain ⟨u, hu, hk, hm, hc⟩ := h.stores d f.evict.toNat
  have hw : (decide (255 ≤ s.g.en.st) || writeWaits s .scalar f.ord [l] || overlaps s .scalar [l] (scalarBytes f.size)) = false := by
    simp [hst, h.noWait, h.noOverlap]
  refine ⟨u, (legalS_legal (i := .sst sd sa f) s hf).trans ((h.passes rfl _).trans ((if_neg (by simp [hw])).trans ?_)), hk, hm, hc⟩
  rw [hu]
  exact if_neg (by simp [h.now])

end

/-- The copies of a core after a store of the group in focus, by sector (R109). -/
theorem l1_l1Store_own (s : State) (key n x c : Nat) :
    (coreOf (l1Store s s.mem (some s.g.core) key n x) c).l1 = (coreOf s c).l1.map (fun e =>
      if inSector e key n = false then e
      else if c = s.g.core then { e with old := e.old.map (fun v => l1Patch e.num v key n x) }
      else { e with old := some (e.old.getD (mread s.mem (32 * e.num) 32)) }) := by
  rw [l1_l1Store]
  refine List.map_congr_left (fun e _ => ?_)
  cases inSector e key n
  · rfl
  · by_cases hc : c = s.g.core
    · simp [hc]
    · simp [hc, Ne.symm hc]

end Sys2Proof.Machine

namespace Sys2Proof.Claims

open Sys2Proof.Machine

/-- Settles O13: the store as it performs; below sc it takes no stamp, and without acq it acquires nothing. -/
theorem scalarStore : Obligations.ScalarStore := by
  unfold Obligations.ScalarStore
  intro s sd sa f l a n
  have hn : scalarBytes f.size = n := scalarBytes_eq f.size
  refine ⟨fun hbad => sst_illegal (memFieldsOk_store_false hbad), fun ⟨h3, h7, h1⟩ => ?_⟩
  have hf : memFieldsOk f true = true := memFieldsOk_store.mpr ⟨h3, h7, h1⟩
  refine ⟨fun hm => sst_misaligned hf (hn ▸ hm), fun h hst => ?_⟩
  obtain ⟨u, hrun, hk, hm, hc⟩ := sst_plain (sd := sd) hf (hn ▸ h) hst
  rw [hn] at hm hc
  have ka := (hk.trans (scMark_kept _ _ (me s) l f.ord)).trans (acquireAt_kept _ _ f.ord f.scope.toNat)
  have hmem : (acquireAt (scMark u (me s) l f.ord) f.ord f.scope.toNat).mem = mwrite s.mem l.addr n ((sreg s sd).toNat % 2 ^ (8 * n)) := by
    rw [acquireAt_mem, scMark_mem, hm]
  refine ⟨_, hrun, finS_zero _ 0 ▸ ka.scalarAccess (fun b hb => ?_) 0 0, fun r => ?_, ?_, fun c ho => ?_⟩
  · rw [hmem]
    exact mget_mwrite_other _ _ _ _ _ hb
  · rw [sreg_advS, sreg, sreg, ka.group]
  · rw [advS_mem, hmem, mread_mwrite]
    exact Nat.mod_eq_of_lt ((Nat.mod_lt _ (Nat.two_pow_pos _)).trans_eq (Nat.pow_mul 2 8 n))
  · have hlt : f.ord.toNat < 3 := by
      have h4 : f.ord.toNat ≠ 3 := fun e => ho (BitVec.eq_of_toNat_eq e)
      have := f.ord.isLt
      omega
    rw [coreOf_congr (advS_cores _), acquireAt_none _ _ _ h1 ho, scMark_plain _ _ _ hlt, hc]
    exact l1_l1Store_own s l.addr n _ c

end Sys2Proof.Claims
end

section
/-! PROOFS. O14: the scalar atomics (R109, R334, R335). -/
namespace Sys2Proof.Machine

open Sys2Proof.Claims

/-- A plain scalar atomic of code `op` performs at once. -/
theorem atomS_plain {s : State} {sd sa sb : BitVec 6} {f : AtomFields} {l : Loc} {i : Instr} (op : Nat) (hi : legal i = true)
    (h : Plain s .scalar (sreg s sa).toNat 8 true l) :
    let x := mread s.mem l.addr 8
    ∃ u, atomS i op sd sa sb f s =
        .next (finS (acquireAt (scMark u (me s) l f.ord) f.ord f.scope.toNat) sd (BitVec.ofNat 64 x)) ∧ Kept s u s.g.id.part ∧
      u.mem = ((atomNew op 8 x (sreg s sb).toNat (sreg s sd).toNat).map (mwrite s.mem l.addr 8)).getD s.mem ∧
      l1Find u s.g.core l.addr = none := by
  intro x
  obtain ⟨u, hu, hk, hm, hc⟩ := h.atomics (fun x => atomNew op 8 x (sreg s sb).toNat (sreg s sd).toNat) f.evict.toNat
  have hw : (writeWaits s .scalar f.ord [l] || overlaps s .scalar [l] 8) = false := by simp [h.noWait, h.noOverlap]
  refine ⟨u, (legalS_legal s hi).trans ((h.passes rfl _).trans ((if_neg (by simp [hw])).trans
    ((if_neg (by simp [h.onDevice])).trans ?_))), hk, hm, hc⟩
  rw [hu]
  exact if_neg (by simp [h.now])

/-- The 8 bytes at an address are a word. -/
theorem toNat_mread_word (m : Memory) (a : Nat) : (BitVec.ofNat 64 (mread m a 8)).toNat = mread m a 8 :=
  (BitVec.toNat_ofNat _ _).trans (Nat.mod_eq_of_lt (mread_lt _ _ 8))

/-- A word written, or left by a compare that failed, and read back (R335). -/
theorem mread_atomic (m : Memory) (a : Nat) (o : Option Nat) (z : Word) (h : o.getD (mread m a 8) = z.toNat) :
    mread ((o.map (mwrite m a 8)).getD m) a 8 = z.toNat := by
  cases o with
  | none => exact h
  | some y =>
    have hy : y = z.toNat := h
    rw [Option.map_some, Option.getD_some, mread_mwrite, hy]
    exact Nat.mod_eq_of_lt z.isLt

theorem mget_atomic (m : Memory) {a b : Nat} (o : Option Nat) (h : b < a ∨ a + 8 ≤ b) :
    mget ((o.map (mwrite m a 8)).getD m) b = mget m b := by
  cases o with
  | none => rfl
  | some y => exact mget_mwrite_other _ _ _ _ _ h

/-- A sector that the core's L1 does not hold is not there after the stamp and the acquire either. -/
theorem l1Find_performed {s u : State} {key : Nat} (hg : u.g = s.g) (h : l1Find u s.g.core key = none) (w : Who) (l : Loc)
    (ord : BitVec 2) (scope : Nat) : l1Find (acquireAt (scMark u w l ord) ord scope) s.g.core key = none := by
  have hm : (scMark u w l ord).g = s.g := (scMark_kept u 0 w l ord).group.trans hg
  have hs : l1Find (scMark u w l ord) s.g.core key = none := by rwa [l1Find, (coreOf_scMark u w l ord _).1]
  rw [← hm] at hs ⊢
  exact l1Find_acquireAt hs ord scope

/-! The new value of each operation on words (R334). -/

theorem pickBy_decide (p : Prop) [Decidable p] (x y : Nat) : pickBy (decide p) x y = if p then x else y := by simp [pickBy]

section
variable (x y c : Word)

theorem atomNew_add : atomNew 0 8 x.toNat y.toNat c.toNat = some (x + y).toNat := by rw [BitVec.toNat_add]; rfl

theorem atomNew_min : atomNew 1 8 x.toNat y.toNat c.toNat = some (if x.toInt ≤ y.toInt then x else y).toNat := by
  rw [← signed_toNat, ← signed_toNat, apply_ite BitVec.toNat]
  exact congrArg some (pickBy_decide _ _ _)

theorem atomNew_max : atomNew 2 8 x.toNat y.toNat c.toNat = some (if y.toInt ≤ x.toInt then x else y).toNat := by
  rw [← signed_toNat, ← signed_toNat, apply_ite BitVec.toNat]
  exact congrArg some (pickBy_decide _ _ _)

theorem atomNew_cas : (atomNew 12 8 x.toNat y.toNat c.toNat).getD x.toNat = (if x = c then y else x).toNat := by
  show (if x.toNat = c.toNat then some y.toNat else none).getD x.toNat = _
  simp only [← BitVec.toNat_eq]
  split <;> rfl

end

end Sys2Proof.Machine

namespace Sys2Proof.Claims

open Sys2Proof.Machine

/-- An atomic whose new value on words is `new` follows the rule (R334, R335). -/
theorem atomicRule_of {s : State} {sd sa sb : BitVec 6} {f : AtomFields} {l : Loc} {i : Instr} {op : Nat} {new : Word → Word}
    (hx : exec i s = atomS i op sd sa sb f s) (hi : legal i = true) (h : Plain s .scalar (sreg s sa).toNat 8 true l)
    (hnew : ∀ x : Word, (atomNew op 8 x.toNat (sreg s sb).toNat (sreg s sd).toNat).getD x.toNat = (new x).toNat) :
    AtomicRule i s sd l new := by
  obtain ⟨u, hrun, hk, hm, hc⟩ := atomS_plain (sd := sd) (sb := sb) (f := f) op hi h
  have ka := (hk.trans (scMark_kept _ _ (me s) l f.ord)).trans (acquireAt_kept _ _ f.ord f.scope.toNat)
  have hmem := (acquireAt_mem (scMark u (me s) l f.ord) f.ord f.scope.toNat).trans ((scMark_mem u (me s) l f.ord).trans hm)
  refine ⟨_, hx.trans hrun, ka.scalarAccess (fun b hb => ?_) sd _, sreg_finS_same _ _, ?_, ?_⟩
  · rw [hmem, mget_atomic _ _ hb]
  · rw [finS_mem, hmem]
    exact mread_atomic _ _ _ _ (by simpa only [toNat_mread_word] using hnew (BitVec.ofNat 64 (mread s.mem l.addr 8)))
  · exact (l1Find_congr (coreOf_congr rfl _) _).trans (l1Find_performed hk.group hc (me s) l f.ord f.scope.toNat)

/-- Settles O14: each atomic performs at once and follows the rule with its own new value. -/
theorem scalarAtomics : Obligations.ScalarAtomics := by
  unfold Obligations.ScalarAtomics
  intro s sd sa sb f l he h y c
  have hi : (f.evict != 7) = true := bne_iff_ne.mpr he
  have some_getD {op : Nat} {new : Word → Word} (e : ∀ x : Word, atomNew op 8 x.toNat y.toNat c.toNat = some (new x).toNat) (x : Word) :
      (atomNew op 8 x.toNat y.toNat c.toNat).getD x.toNat = (new x).toNat := by rw [e, Option.getD_some]
  refine ⟨atomicRule_of rfl hi h (some_getD fun x => atomNew_add x y c), atomicRule_of rfl hi h (some_getD fun x => atomNew_min x y c),
    atomicRule_of rfl hi h (some_getD fun x => atomNew_max x y c), atomicRule_of rfl hi h (some_getD fun x => ?_),
    atomicRule_of rfl hi h (some_getD fun x => ?_), atomicRule_of rfl hi h (some_getD fun x => ?_),
    atomicRule_of rfl hi h (some_getD fun _ => rfl), atomicRule_of rfl hi h (fun x => atomNew_cas x y c)⟩
  · rw [BitVec.toNat_and]; rfl
  · rw [BitVec.toNat_or]; rfl
  · rw [BitVec.toNat_xor]; rfl

end Sys2Proof.Claims
end

section
/-! PROOFS. O15: FENCE, WAITC and WAITS (R109, R184, R188, R265, R337, R342, R343). -/
namespace Sys2Proof.Machine

open Sys2Proof.Claims

/-! FENCE (R337). -/

section
variable {s : State} {ord : BitVec 2} (scope : BitVec 3)

theorem fence_waits (h : 2 ≤ ord.toNat) (hq : quiet s .scalar = false) : exec (.fence ord scope) s = .next s :=
  if_pos (by simp [ordWaits, h, hq])

theorem fence_acq_waits (h : remoteDue s .scalar = true) : exec (.fence 1 scope) s = .next s := if_pos (by simp [h])

/-- A fence below sc that need not wait is its acquire alone. -/
theorem fence_passes (hw : ordWaits s .scalar ord = false) (hr : ord = 1 → remoteDue s .scalar = false) (h3 : ord ≠ 3) :
    exec (.fence ord scope) s = .next (advS (acquireAt s ord scope.toNat)) := by
  have hwait : ¬(ordWaits s .scalar ord || (ord == 1 && remoteDue s .scalar)) = true := by
    simpa [hw] using hr
  exact (if_neg hwait).trans (if_neg (by simpa using h3))

/-- A fence below sc that need not wait and acquires nothing beyond the core does nothing else. -/
theorem fence_only_advances (hw : ordWaits s .scalar ord = false) (hr : ord = 1 → remoteDue s .scalar = false) (h3 : ord ≠ 3)
    (ha : acquireAt s ord scope.toNat = s) : Becomes (.fence ord scope) s id := by
  rw [Becomes, fence_passes scope hw hr h3, ha]
  rfl

/-- The slice at which a fence of the group in focus takes its sc stamp (R184). -/
def fenceSlice (s : State) : Nat := 64 * dieOf s.g.core + s.g.core % 64

theorem fence_sc (hq : quiet s .scalar = true) :
    exec (.fence 3 scope) s = .next (advS (acquireAt (scStamp s s.g.core (fenceSlice s)) 3 scope.toNat)) :=
  (if_neg (by simp [ordWaits_quiet hq])).trans (if_pos rfl)

end

theorem ordWaits_low (s : State) (st : Stream) {ord : BitVec 2} (h : ord.toNat < 2) : ordWaits s st ord = false := by
  simp [ordWaits, h]

/-- An acquire that reaches no further than the core leaves the L1 (R109). -/
theorem acquireAt_narrow {s : State} (ord : BitVec 2) {scope : BitVec 3} (h : ¬wide s scope) : acquireAt s ord scope.toNat = s :=
  if_neg (by simp [l1Scope_narrow h])

@[simp] theorem acquireAt_dev (s : State) (ord : BitVec 2) (scope : Nat) : (acquireAt s ord scope).dev = s.dev := by
  unfold acquireAt
  split
  · exact l1Inval_dev _ _
  · rfl

theorem clock_acquireAt (s : State) (ord : BitVec 2) (scope m : Nat) : (coreOf (acquireAt s ord scope) m).clock = (coreOf s m).clock := by
  unfold acquireAt
  split
  · obtain ⟨-, hown, hother⟩ := l1Inval_spec s s.g.core
    by_cases hm : m = s.g.core
    · rw [hm, hown]
    · rw [hother m hm]
  · rfl

/-- The stamp that a slice gives a core (R184). -/
def scStampAt (s : State) (core h : Nat) : BitVec 48 := serialMax ((coreOf s core).clock + 1) (sget 0 s.dev.sliceM h + 1)

theorem sliceM_scStamp (s : State) (core h k : Nat) :
    sget 0 (scStamp s core h).dev.sliceM k = if k = h then scStampAt s core h else sget 0 s.dev.sliceM k := sget_sput _ _ _ _ _

theorem clock_scStamp (s : State) (core h : Nat) :
    (coreOf (scStamp s core h) core).clock = serialMax (coreOf s core).clock (scStampAt s core h) := by
  unfold scStamp
  rw [coreOf_modCore, if_pos rfl]
  · rfl
  · exact fun _ => rfl

/-! WAITC (R342). -/

section
variable {s : State} {sa : BitVec 6}

/-- A count is at or below the threshold in byte `k` of a word, or that byte leaves it unconstrained (R342). -/
theorem underThr_iff (x : Word) (k count : Nat) :
    underThr x.toNat k count = true ↔ (x.extractLsb' (8 * k) 8).toNat = 255 ∨ count ≤ (x.extractLsb' (8 * k) 8).toNat := by
  simp [underThr, fld_toNat]

/-- Every counter of the group in focus is at or below its threshold in `x` (R342). -/
def countersUnder (s : State) (x : Word) : Bool :=
  underThr x.toNat 0 s.g.en.ld && underThr x.toNat 1 s.g.en.st && underThr x.toNat 2 s.g.en.cp && underThr x.toNat 3 s.g.en.tl

theorem waitc_wide (h : (sreg s sa).extractLsb' 32 32 ≠ 0) :
    exec (.waitc sa) s = trapS s 0x01 0 (opDetail 3 (sreg s sa).toNat 32) := if_pos ((fld_bne_zero _ _ _).mpr h)

variable (h : (sreg s sa).extractLsb' 32 32 = 0)
include h

theorem waitc_waits (hc : countersUnder s (sreg s sa) = false) : exec (.waitc sa) s = .next s :=
  (if_neg (fun e => (fld_bne_zero _ _ _).mp e h)).trans (if_neg (by rw [← countersUnder, hc]; exact Bool.false_ne_true))

theorem waitc_passes (hc : countersUnder s (sreg s sa) = true) : After (.waitc sa) s
    (if (sreg s sa).extractLsb' 16 8 = 255 ∧ (sreg s sa).extractLsb' 24 8 = 255 then s else l1Inval s s.g.core) := by
  have hall : ∀ lo, (fld (sreg s sa).toNat lo 8 == 0xFF) = true ↔ (sreg s sa).extractLsb' lo 8 = 255 := fun lo => by
    rw [fld_toNat, beq_iff_eq, ← BitVec.toNat_inj]
    rfl
  have hrun : exec (.waitc sa) s = .next (advS (if fld (sreg s sa).toNat 16 8 == 0xFF && fld (sreg s sa).toNat 24 8 == 0xFF then s
      else l1Inval s s.g.core)) := (if_neg (fun e => (fld_bne_zero _ _ _).mp e h)).trans (if_pos hc)
  refine hrun.trans ?_
  simp only [Bool.and_eq_true, hall]
  split
  · rfl
  · rw [advS, l1Inval_g]

end

/-! WAITS (R343). -/

/-- A sound line of HBM or the second tier that reads uncorrectable becomes poisoned (R265). -/
theorem lineCheck_uncorrectable {s : State} (part ctx : Nat) {key : Nat} (va : Nat) (hk : key < 2 * spaceSize)
    (hp : poisoned s key 1 = false) : ∃ u, lineCheck s part ctx key va .uncorrectable = (u, 0x0F) ∧ key / 64 ∈ u.dev.poison := by
  have hs : 0 < spaceSize := by decide
  have hspace : (decide (2 * spaceSize ≤ key) && decide (key < 4 * spaceSize)) = false := by
    rw [decide_eq_false (by omega), Bool.false_and]
  unfold lineCheck
  simp only [hspace, hp, Bool.false_eq_true, if_false, if_neg (show ¬4 * spaceSize ≤ key by omega)]
  exact ⟨_, rfl, List.mem_append_right _ (List.mem_singleton.mpr rfl)⟩

/-- The machine once the outcome of the turn's line check has been taken (R265). -/
def eccTaken (s : State) : State := { s with inp := { s.inp with ecc := .clean } }


section
variable {s : State} {sa : BitVec 6} {l : Loc} (h : Plain s .scalar (sreg s sa).toNat 8 false l)
include h

/-- A plain WAITS comes to the check of its line (R265). -/
theorem waits_reads (sd sb : BitVec 6) :
    exec (.waits sd sa sb) s = orLineS s l (fun s0 => orTrapS s0 (sreg s sa).toNat (loadAt s0 (me s) l 8 0 true) (fun v s2 =>
      if v = (sreg s sb).toNat then stallS s else .next (finS (l1Inval s2 s.g.core) sd (BitVec.ofNat 64 v)))) :=
  (h.passes rfl _).trans (if_neg (by simp [h.noOverlap]))

/-- On a sound line a plain WAITS compares the word at the home slice (R343). -/
theorem waits_compares (sd sb : BitVec 6) (he : s.inp.ecc = .clean) :
    exec (.waits sd sa sb) s =
      if mread s.mem l.addr 8 = (sreg s sb).toNat then .next s
      else .next (finS (l1Inval (loaded s l 8 0 true) s.g.core) sd (BitVec.ofNat 64 (mread s.mem l.addr 8))) := by
  rw [waits_reads h, orLineS, dataLine_clean _ _ _ he]
  dsimp only
  rw [h.loads (.inr rfl)]
  rfl

/-- A line that reads uncorrectable is marked, and is POISON to its reader (R265). -/
theorem waits_poison (sd sb : BitVec 6) (hk : l.addr < 2 * spaceSize) (he : s.inp.ecc = .uncorrectable)
    (hva : s.inp.va / 64 = l.va / 64) :
    ∃ u, exec (.waits sd sa sb) s = trapS u 0x0F l.va 0 ∧ l.addr / 64 ∈ u.dev.poison := by
  obtain ⟨p, c⟩ := h.calm
  have c0 : CalmPart (eccTaken s) (me s).part p := ⟨c.here, c.revs, c.drops, c.moves, c.clean⟩
  obtain ⟨u, hu, hpo⟩ := lineCheck_uncorrectable (s := eccTaken s) (me s).part (me s).ctx l.va hk (poisoned_first h.sound (by decide))
  have hdata : dataLine s (me s) l = (u, 0x0F) := by
    unfold dataLine
    rw [if_neg (by simp [he, h.bytes, hva, behindDrop_calm c]), he, ← eccTaken]
    dsimp only
    rw [readKey_calm c0, hu]
  exact ⟨u, by rw [waits_reads h, orLineS, hdata], hpo⟩

end

end Sys2Proof.Machine

namespace Sys2Proof.Claims

open Sys2Proof.Machine

/-- Settles O15: each instruction's waiting and passing cases; what an acquire leaves of the L1 is `l1Inval_spec`. -/
theorem fencesAndWaits : Obligations.FencesAndWaits := by
  unfold Obligations.FencesAndWaits
  intro s sd sa sb ord scope l x h under all u
  have hall : countersUnder s x = true ↔ all := by
    simp only [countersUnder, Bool.and_eq_true, underThr_iff, all, under, and_assoc]
  refine ⟨l1Inval_spec s s.g.core, fun hp => ?_, fun hw hr => ?_, fence_acq_waits scope, fence_waits scope, fun hq => ?_, waitc_wide,
    fun h0 ha => waitc_passes h0 (hall.mpr ha), fun h0 ha => waitc_waits h0 (by rwa [Bool.eq_false_iff, ne_eq, hall]),
    fun hpl => waits_poison hpl sd sb, fun hpl he => ?_⟩
  · rcases hp with rfl | ⟨rfl, hw, hr⟩ | ⟨rfl, hq⟩
    · exact fence_only_advances scope (ordWaits_low s _ (by decide)) (fun e => absurd e (by decide)) (by decide)
        (acquireAt_none s _ _ (by decide) (by decide))
    · exact fence_only_advances scope (ordWaits_low s _ (by decide)) (fun _ => hr) (by decide) (acquireAt_narrow _ hw)
    · exact fence_only_advances scope (ordWaits_quiet hq _) (fun e => absurd e (by decide)) (by decide)
        (acquireAt_none s _ _ (by decide) (by decide))
  · rw [After, fence_passes scope (ordWaits_low s _ (by decide)) (fun _ => hr) (by decide),
      acquireAt_wide s 1 _ (.inl rfl) (l1Scope_wide hw), advS, l1Inval_g]
  · have hw : wide s scope → wide (scStamp s s.g.core h) scope := id
    refine ⟨_, fence_sc scope hq, ?_, (advS_mem _).trans (acquireAt_mem _ _ _), (acquireAt_kept _ 0 _ _).team, ?_, fun k hk => ?_, ?_,
      fun hwide => acquireAt_empties (scStamp s s.g.core h) (.inr rfl) (hw hwide)⟩
    · rw [advS, acquireAt_g]
      rfl
    · rw [advS_dev, acquireAt_dev, sliceM_scStamp]
      exact if_pos rfl
    · rw [advS_dev, acquireAt_dev, sliceM_scStamp]
      exact if_neg hk
    · exact (clock_acquireAt _ _ _ _).trans (clock_scStamp s s.g.core h)
  · have hk : Kept s (l1Inval (loaded s l 8 0 true) s.g.core) 0 := (loaded_kept s l 8 0 true 0).trans (l1Inval_kept _ 0 _)
    have hmem : (l1Inval (loaded s l 8 0 true) s.g.core).mem = s.mem := by simp [loaded]
    have hword : BitVec.ofNat 64 (mread s.mem l.addr 8) = sreg s sb ↔ mread s.mem l.addr 8 = (sreg s sb).toNat := by
      rw [← BitVec.toNat_inj, toNat_mread_word]
    have hrun := waits_compares hpl sd sb he
    refine ⟨fun hv => hrun.trans (if_pos (hword.mp hv)), fun hv => ⟨_, hrun.trans (if_neg (hv ∘ hword.mpr)),
      hk.scalarAccess (fun b _ => by rw [hmem]) sd _, sreg_finS_same _ _, ?_⟩⟩
    exact (congrArg Core.l1 ((coreOf_congr rfl _).trans (l1Inval_spec (loaded s l 8 0 true) s.g.core).2.1))

end Sys2Proof.Claims
end

section
/-! PROOFS. What the release of instances, the end of holds and a MARK change: the partitions and the marker (R132, R133). -/
namespace Sys2Proof.Machine

open Sys2Proof.Claims

/-- The machine without its partitions. -/
def partless (s : State) : State := { s with pt := noPartition, parts := [] }

theorem partless_foldl {α : Type} (f : State → α → State) (hf : ∀ u x, partless (f u x) = partless u) (l : List α) (s : State) :
    partless (l.foldl f s) = partless s := by
  induction l generalizing s with
  | nil => rfl
  | cons x r ih => exact (ih (f s x)).trans (hf s x)

theorem partless_releaseInst (s : State) (part ctx : Nat) (e : TTEntry) (i : Instance) (waits : Option Nat) :
    partless (releaseInst s part ctx e i waits) = partless s := by
  unfold releaseInst
  split <;> rfl

theorem partless_releaseTeam (s : State) (part task idx lo hi : Nat) :
    partless (releaseTeam s part task idx lo hi) = partless s := by
  unfold releaseTeam
  split
  · split
    · rfl
    · exact partless_foldl _ (fun _ _ => partless_releaseInst _ _ _ _ _ _) _ _
  · rfl

theorem partless_releaseLaunch (s : State) (part task lo hi die : Nat) (team : Option Nat) :
    partless (releaseLaunch s part task lo hi die team) = partless s := by
  unfold releaseLaunch
  split
  · rfl
  · split
    · rfl
    · exact partless_foldl _ (fun _ _ => partless_releaseInst _ _ _ _ _ _) _ _

theorem partless_endHolds (s : State) (part : Nat) (inst : Option Instance) (f : Hold → Bool) :
    partless (endHolds s part inst f) = partless s := by
  unfold endHolds
  split
  · rfl
  · refine partless_foldl _ (fun u h => ?_) _ _
    dsimp only
    split
    · rfl
    · split <;> rfl

theorem partless_launchMoved (s : State) (part task : Nat) (old : Option Nat) (die : Nat) (team : Option Nat) :
    partless (launchMoved s part task old die team) = partless s := by
  unfold launchMoved expireHolds
  refine (partless_endHolds _ _ _ _).trans ?_
  split
  · split
    · exact partless_releaseLaunch _ _ _ _ _ _ _
    · rfl
  · rfl

/-- The machine with the marker of the team in focus at `v`. -/
def atMarker (s : State) (v : Nat) : State := { s with tm := { s.tm with marker := BitVec.ofNat 32 v } }

/-- What the move of a marker does beside the marker is the partitions' (R132, R133). -/
theorem partless_setMarker (s : State) (v : Nat) : partless (setMarker s v) = partless (atMarker s v) :=
  (partless_launchMoved _ _ _ _ _ _).trans (partless_releaseTeam _ _ _ _ _ _)

@[simp] theorem setMarker_g (s : State) (v : Nat) : (setMarker s v).g = s.g := (congrArg State.g (partless_setMarker s v) :)

@[simp] theorem setMarker_tm (s : State) (v : Nat) : (setMarker s v).tm = { s.tm with marker := BitVec.ofNat 32 v } :=
  (congrArg State.tm (partless_setMarker s v) :)

@[simp] theorem setMarker_mem (s : State) (v : Nat) : (setMarker s v).mem = s.mem := (congrArg State.mem (partless_setMarker s v) :)

end Sys2Proof.Machine
end

section
/-! PROOFS. O30: MARK under the three policies (R132, R135, R139, R140, R379). -/
namespace Sys2Proof.Machine

open Sys2Proof.Claims

theorem userOnly_user {s : State} (h : s.g.sup = false) (k : Out) : userOnly s k = k := if_neg (by simp [h])

/-! The limits of a marker value (R379). -/

section
variable {s : State} {v : Word}

theorem markBad_wide (h : v.extractLsb' 32 32 ≠ 0) : markBad s v = some (opDetail 3 v.toNat 32) := if_pos ((fld_bne_zero _ _ _).mpr h)

variable (h : v.extractLsb' 32 32 = 0)
include h

theorem markBad_narrow : markBad s v = if v.toNat < s.tm.marker.toNat then some (opDetail 3 v.toNat 0) else none :=
  if_neg (fun e => (fld_bne_zero _ _ _).mp e h)

theorem markBad_below (hlt : v.toNat < s.tm.marker.toNat) : markBad s v = some (opDetail 3 v.toNat 0) :=
  (markBad_narrow h).trans (if_pos hlt)

theorem markBad_none (hle : s.tm.marker.toNat ≤ v.toNat) : markBad s v = none := (markBad_narrow h).trans (if_neg (Nat.not_lt.mpr hle))

end

/-- A word whose value is a marker's has no bit above 31. -/
theorem narrow_of_marker {v : Word} {m : BitVec 32} (h : v.toNat = m.toNat) : v.extractLsb' 32 32 = 0 := by
  apply BitVec.eq_of_toNat_eq
  rw [BitVec.extractLsb'_toNat, h, Nat.shiftRight_eq_div_pow, Nat.div_eq_of_lt m.isLt]
  rfl

/-! MARK up to its evaluation. -/

section
variable {s : State} {sa : BitVec 6} (hu : s.g.sup = false)
include hu

theorem mark_bad {d : BitVec 192} (hb : markBad s (sreg s sa) = some d) : exec (.mark sa) s = operandTrap s d := by
  refine (userOnly_user hu _).trans ?_
  rw [hb]
  rfl

theorem mark_stands (hv : (sreg s sa).toNat = s.tm.marker.toNat) : Becomes (.mark sa) s (fun g => { g with markStalled := false }) := by
  refine (userOnly_user hu _).trans ?_
  rw [markBad_none (narrow_of_marker hv) hv.ge]
  exact if_pos hv

theorem mark_checks (hn : (sreg s sa).extractLsb' 32 32 = 0) (hlt : s.tm.marker.toNat < (sreg s sa).toNat)
    (hq : quiet s .scalar = true) : exec (.mark sa) s = markCheck s (sreg s sa).toNat := by
  refine (userOnly_user hu _).trans ?_
  rw [markBad_none hn hlt.le]
  exact (if_neg (Nat.ne_of_gt hlt)).trans (if_neg (by simp [hq]))

end

/-! The evaluation of the crossed CHECK instances (R135). -/

/-- The pages that keep a MARK at `v` from being met. -/
def markUnmet (s : State) (v : Nat) : List (Crossed × TTPage) := unmet s (crossedBy s s.tm.marker.toNat v)

/-- One of those pages moves. -/
def markMoving (s : State) (v : Nat) : Bool := (markUnmet s v).any (fun u => inTransit s.pt s.tk.ctx u.2.va)

/-- The machine once a MARK at `v` has been evaluated: SKIP counts the pages that it passed over. -/
def markSeen (s : State) (v : Nat) : State := markSet (countSkip s (crossedSkips s (crossedBy s s.tm.marker.toNat v))) false

/-- The policy of the task in focus, 0 without a timetable (R129). -/
def ttPolicy (s : State) : Nat := (s.tk.tt.map BoundTT.policy).getD 0

/-- What the evaluation of a MARK at `v` leads to. -/
def markOutcome (s : State) (v : Nat) : Out :=
  match markUnmet s v with
  | [] => .next (advS (setMarker (markSeen s v) v))
  | (c, g) :: _ =>
    match ttPolicy s with
    | 1 => trapS (markSeen s v) 0x06 (max g.va c.start) (det [(0, c.idx), (4, c.k), (8, c.mark)])
    | 2 => .next (advS (setMarker (countMiss (markSeen s v)) v))
    | _ => .next (modPart (markSet (markSeen s v) true) s.g.id.part (fun p =>
        if activePart p then { p with moves := stallMoves s (markUnmet s v) ++ p.moves } else p))

section
variable {s : State} {v : Nat}

theorem markCheck_halted_stalled (hh : teamHalted s = true) (hs : s.g.markStalled = true) : markCheck s v = .next s :=
  if_pos (by simp [hh, hs])

theorem markCheck_halted (hh : teamHalted s = true) (hs : s.g.markStalled = false) :
    markCheck s v = .next (advS (setMarker (countSkip s (crossedBy s s.tm.marker.toNat v).length) v)) :=
  (if_neg (by simp [hs])).trans (if_pos hh)

theorem markCheck_waits (hh : teamHalted s = false) (hs : s.g.markStalled = true)
    (hw : markMoving s v = true ∨ activePart s.pt = false) : markCheck s v = .next s := by
  have hw' : (s.g.markStalled && (markMoving s v || !activePart s.pt)) = true := by
    rcases hw with hw | hw <;> simp [hs, hw]
  exact (if_neg (by simp [hh])).trans ((if_neg (by simp [hh])).trans (if_pos hw'))

theorem markCheck_evaluates (hh : teamHalted s = false)
    (hs : s.g.markStalled = false ∨ (markMoving s v = false ∧ activePart s.pt = true)) : markCheck s v = markOutcome s v := by
  have hw : ¬(s.g.markStalled && (markMoving s v || !activePart s.pt)) = true := by
    rcases hs with hs | ⟨hm, ha⟩
    · simp [hs]
    · simp [hm, ha]
  exact (if_neg (by simp [hh])).trans ((if_neg (by simp [hh])).trans (if_neg hw))

theorem markOutcome_met (hm : markUnmet s v = []) : markOutcome s v = .next (advS (setMarker (markSeen s v) v)) := by
  rw [markOutcome, hm]

variable {c : Crossed} {g : TTPage} {r : List (Crossed × TTPage)} (hm : markUnmet s v = (c, g) :: r)
include hm

theorem markOutcome_trap (hp : ttPolicy s = 1) :
    markOutcome s v = trapS (markSeen s v) 0x06 (max g.va c.start) (det [(0, c.idx), (4, c.k), (8, c.mark)]) := by
  rw [markOutcome, hm, hp]
  rfl

theorem markOutcome_log (hp : ttPolicy s = 2) : markOutcome s v = .next (advS (setMarker (countMiss (markSeen s v)) v)) := by
  rw [markOutcome, hm, hp]
  rfl

theorem markOutcome_stall (hp : ttPolicy s = 0) : ∃ f, markOutcome s v = .next (modPart (markSet (markSeen s v) true) s.g.id.part f) := by
  rw [markOutcome, hm, hp]
  exact ⟨_, rfl⟩

end

/-! A MARK that completes (R132). -/

theorem nextWord_advS {s u : State} (h : u.g = s.g) : nextWord s (advS u) := by rw [nextWord, advS, h]

theorem marker_setMarker (u : State) (v : Word) : (advS (setMarker u v.toNat)).tm.marker = v.setWidth 32 := by
  rw [advS_tm, setMarker_tm]
  rfl

theorem mem_setMarker (u : State) (v : Nat) : (advS (setMarker u v)).mem = u.mem := by rw [advS_mem, setMarker_mem]

/-- The group of a MARK that its evaluation lets through. -/
theorem markDone_setMarker {s u : State} (hu : u.g = { s.g with markStalled := false }) (v : Nat) : markDone s (advS (setMarker u v)) := by
  rw [markDone, advS, setMarker_g, hu]

/-! MARK_REEVALUATE (R135). -/

theorem markReevaluate_marks {s u : State} {sa : BitVec 6} (hl : s.g.live = true) (hid : s.g.id = s.inp.g)
    (hf : fetchScalar s = .run (.mark sa) u) : exec .markReevaluate s = exec (.mark sa) u := by
  show execMarkReevaluate s = _
  unfold execMarkReevaluate
  rw [← hid, focusOn_self s hl]
  dsimp only
  rw [hf]
  exact if_neg (by simp [hl])

theorem markReevaluate_elsewhere {s : State} (hl : s.g.live = true) (hid : s.g.id = s.inp.g)
    (hf : ∀ sa u, fetchScalar s ≠ .run (.mark sa) u) : exec .markReevaluate s = .next s := by
  show execMarkReevaluate s = _
  unfold execMarkReevaluate
  rw [← hid, focusOn_self s hl]
  dsimp only
  split
  · rfl
  · split
    · next h => exact absurd h (hf _ _)
    · rfl

end Sys2Proof.Machine

namespace Sys2Proof.Claims

open Sys2Proof.Machine

/-- Settles O30: the limits, then the evaluation case by case; the marker moves by `setMarker`, which writes no register and no byte. -/
theorem markerMoves : Obligations.MarkerMoves := by
  unfold Obligations.MarkerMoves
  intro s sa v m x cs us moving policy
  have met (hu : s.g.sup = false) (hn : v.extractLsb' 32 32 = 0) (hlt : m.toNat < v.toNat) (hq : quiet s .scalar = true)
      (hh : teamHalted s = false) (hs : s.g.markStalled = false ∨ (moving = false ∧ activePart s.pt = true)) (hm : us = []) :
      x = .next (advS (setMarker (markSeen s v.toNat) v.toNat)) :=
    (mark_checks hu hn hlt hq).trans ((markCheck_evaluates hh hs).trans (markOutcome_met hm))
  refine ⟨fun hs => if_pos hs, fun hu hn => mark_bad hu (markBad_wide hn), fun hu hn hlt => mark_bad hu (markBad_below hn hlt),
    fun hu hv => mark_stands hu hv, fun hu hn hlt hq hh => ?_, fun hu hn hlt hq hh hs hw => ?_, fun hu hn hlt hq hh hs => ?_,
    fun s0 f hl hid hf => ?_⟩
  · have run : x = markCheck s v.toNat := mark_checks hu hn hlt hq
    refine ⟨fun hs => run.trans (markCheck_halted_stalled hh hs), fun hs => ⟨_, run.trans (markCheck_halted hh hs),
      nextWord_advS (setMarker_g _ _), marker_setMarker _ v, mem_setMarker _ _, ?_⟩⟩
    rw [advS_tm, setMarker_tm]
    rfl
  · exact (mark_checks hu hn hlt hq).trans (markCheck_waits hh hs hw)
  · have run : x = markOutcome s v.toNat := (mark_checks hu hn hlt hq).trans (markCheck_evaluates hh hs)
    refine ⟨fun hm => ⟨_, met hu hn hlt hq hh hs hm, markDone_setMarker rfl _, marker_setMarker _ v, ?_, mem_setMarker _ _⟩,
      fun c g r hm => ⟨fun hp => ⟨_, run.trans (markOutcome_trap hm hp)⟩,
        fun hp => ⟨_, run.trans (markOutcome_log hm hp), markDone_setMarker rfl _, marker_setMarker _ v, ?_, mem_setMarker _ _⟩,
        fun hp => ?_⟩⟩
    · rw [advS_tm, setMarker_tm]
      rfl
    · rw [advS_tm, setMarker_tm]
      rfl
    · obtain ⟨f, ho⟩ := markOutcome_stall hm hp
      exact ⟨_, run.trans ho, rfl, rfl, rfl⟩
  · subst hf
    refine ⟨fun hf => ?_, markReevaluate_elsewhere hl hid.symm⟩
    have again := markReevaluate_marks hl hid.symm hf
    exact ⟨again, fun hu hn hlt hq hh hs hm => ⟨_, again.trans (met hu hn hlt hq hh hs hm), markDone_setMarker rfl _, marker_setMarker _ v,
      mem_setMarker _ _⟩⟩

end Sys2Proof.Claims
end

section
/-! PROOFS. O31: TTBIND, TTSTAT and TTRESUME (R129, R136, R141, R380, R381). -/
namespace Sys2Proof.Machine

open Sys2Proof.Claims

/-! TTBIND (R129, R380). -/

section
variable {s : State} (sa : BitVec 6) {p : BitVec 2}

theorem ttbind_policy (hu : s.g.sup = false) (hp : p = 3) : exec (.ttbind sa p) s = operandTrap s (opDetail 0 3 8) :=
  (userOnly_user hu _).trans (if_pos (by simp [hp]))

variable (hu : s.g.sup = false) (hp : p ≠ 3)
include hu hp

/-- TTBIND in user mode with a policy code that exists, for a task with a timetable. -/
theorem ttbind_bound {b : BoundTT} (hb : s.tk.tt = some b) : exec (.ttbind sa p) s =
    if b.va == (sreg s sa).toNat && b.policy == p.toNat then .next (advS s) else badState s 0 0 := by
  refine (userOnly_user hu _).trans ((if_neg (by simpa using hp)).trans ?_)
  rw [hb]

variable (hn : s.tk.tt = none) (hq : quiet s .scalar = true)
include hn hq

theorem ttbind_misaligned (ha : (sreg s sa).toNat % 16 ≠ 0) :
    exec (.ttbind sa p) s = operandTrap s (opDetail 3 (sreg s sa).toNat 0) := by
  have hr : readTT s (me s) s.tm (sreg s sa).toNat = .bad s := if_pos (by simpa using ha)
  refine (userOnly_user hu _).trans ((if_neg (by simpa using hp)).trans ?_)
  rw [hn]
  dsimp only
  rw [if_neg (by simp [hq]), hr]
  rfl

theorem ttbind_reads {es : List TTEntry} {u : State} (hr : readTT s (me s) s.tm (sreg s sa).toNat = .ok es u) :
    exec (.ttbind sa p) s = .next (advS (bindTT u s.g.id.part s.g.id.task (sreg s sa).toNat p.toNat es)) := by
  refine (userOnly_user hu _).trans ((if_neg (by simpa using hp)).trans ?_)
  rw [hn]
  dsimp only
  rw [if_neg (by simp [hq]), hr]

end

theorem findTask_focused {s : State} (h : Focused s) : findTask s s.g.id.part s.g.id.task = some s.tk := by
  obtain ⟨hl, hp, hn⟩ := h.task
  simp [findTask, allTasks, hl, hp, hn]

/-- The task in focus with a timetable, and its teams with the slot words of their entries. -/
def taskBound (s : State) (b : BoundTT) (words : Sparse (Option Nat)) (lost : Nat) : State :=
  modTeams (modTask s s.g.id.part s.g.id.task (fun u => { u with tt := some b }))
    (fun x => x.part == s.g.id.part && x.task == s.g.id.task) (fun x => { x with slotWords := words, skips := sat16 x.skips lost })

/-- The rest of a binding is the partitions' (R131, R133). -/
theorem partless_bindTT {s : State} (h : Focused s) (va policy : Nat) (es : List TTEntry) : ∃ launch words lost,
    partless (bindTT s s.g.id.part s.g.id.task va policy es) = partless (taskBound s ⟨va, policy, es, launch⟩ words lost) := by
  unfold bindTT
  rw [findTask_focused h]
  exact ⟨_, _, _, (partless_releaseLaunch _ _ _ _ _ _ _).trans (partless_foldl _ (fun _ _ => partless_releaseTeam _ _ _ _ _ _) _ _)⟩

theorem taskBound_tk {s : State} (h : Focused s) (b : BoundTT) (words : Sparse (Option Nat)) (lost : Nat) :
    (taskBound s b words lost).tk.tt = some b := by
  obtain ⟨hl, hp, hn⟩ := h.task
  have hk : (s.tk.live && (s.tk.part == s.g.id.part && s.tk.num == s.g.id.task)) = true := by simp [hl, hp, hn]
  exact congrArg Task.tt (if_pos hk)

theorem taskBound_marker (s : State) (b : BoundTT) (words : Sparse (Option Nat)) (lost : Nat) :
    (taskBound s b words lost).tm.marker = s.tm.marker := by
  show (if _ then _ else _ : Team).marker = _
  split <;> rfl

/-! TTSTAT (R141, R380). -/

theorem b2n_mul (b : Bool) (k : Nat) : b2n b * k = if b then k else 0 := by cases b <;> simp [b2n]

theorem ttstat_gives (s : State) (sd : BitVec 6) : Gives (.ttstat sd) s sd (BitVec.ofNat 64 (ttPolicy s + (if teamTrapped s then 4 else 0)
    + (if s.tk.tt.isSome then 8 else 0) + 2 ^ 16 * s.tm.skips + 2 ^ 32 * s.tm.short + 2 ^ 48 * s.tm.miss)) := by
  apply gives_finS
  show execTtstat sd s = _
  simp only [execTtstat, b2n_mul, Nat.mul_comm _ (2 ^ _)]
  rfl

/-! TTRESUME (R136, R381). -/

theorem ttresume_elsewhere {s : State} (h : s.g.sup = false ∨ s.g.hidden = none ∨ ∃ h, s.g.hidden = some h ∧ h.trap ≠ 6) :
    exec .ttresume s = operandTrap s (opDetail 4 0 0) := by
  show execTtresume s = _
  unfold execTtresume
  rcases h with h | h | ⟨x, h, hx⟩
  · rw [h]
    rfl
  · rw [h]
    cases s.g.sup <;> rfl
  · rw [h]
    cases s.g.sup
    · rfl
    · exact if_pos (by simpa using hx)

@[simp] theorem freeSlotOwner_tm (s : State) (g : Group) : (freeSlotOwner s g).tm = s.tm := by rw [freeSlotOwner_eq]

theorem foldl_putSreg_spc (l : List (Nat × Word)) (g : Group) : (l.foldl (fun g x => putSreg g x.1 x.2) g).sc.spc = g.sc.spc := by
  induction l generalizing g with
  | nil => rfl
  | cons x r ih => exact (ih _).trans (putSreg_spc g x.1 x.2)

@[simp] theorem leaveHandler_spc (s : State) (h : Hidden) (fr : List Byte) :
    (leaveHandler s h fr).g.sc.spc = BitVec.ofNat 64 (frameFld fr 0 8) := foldl_putSreg_spc _ _

@[simp] theorem leaveHandler_tm (s : State) (h : Hidden) (fr : List Byte) : (leaveHandler s h fr).tm = s.tm := freeSlotOwner_tm s s.g

@[simp] theorem leaveHandler_mem (s : State) (h : Hidden) (fr : List Byte) : (leaveHandler s h fr).mem = s.mem := freeSlotOwner_mem s s.g

/-- The machine after a TTRESUME that leaves the handler for the program behind its MARK at `v`, before the marker moves: the MARK
spends a SKIP of the frame, and MISS counts. -/
def missPassed (s : State) (h : Hidden) (fr : List Byte) : State :=
  countMiss { leaveHandler s h fr with g := { (leaveHandler s h fr).g with skipS := false } }

/-- The marker of a MARK that may stand at its value. -/
def markedAt (s : State) (v : Word) : State := if v.toNat = s.tm.marker.toNat then s else setMarker s v.toNat

section
variable {s s1 : State} {h : Hidden} {l : Loc} (hs : s.g.sup = true) (hh : s.g.hidden = some h) (ht : h.trap = 6)
  (hl : translate s (me s).unit s.g.id.part s.tk.ctx (frameVA s s.g) true false true = .ok l s1)
include hs hh ht hl

theorem ttresume_noMark (hm : markAt s1 (frameFld (mbytes s1.mem l.addr 512) 0 8) = none) :
    exec .ttresume s = operandTrap s (opDetail 4 0 0) := by
  show execTtresume s = _
  unfold execTtresume
  rw [hs, hh]
  dsimp only
  rw [if_neg (by simp [ht]), hl]
  simp only [orTrapS, hm]
  rfl

theorem ttresume_marks {ra : BitVec 6} (hm : markAt s1 (frameFld (mbytes s1.mem l.addr 512) 0 8) = some ra) (hq : handlerQuiet s = true)
    (hd : handlerDue s = false) (hc : quiet s .scalar = true)
    (hb : markBad (leaveHandler s1 h (mbytes s1.mem l.addr 512)) (sreg (leaveHandler s1 h (mbytes s1.mem l.addr 512)) ra) = none) :
    exec .ttresume s = .next (advS (markedAt (missPassed s1 h (mbytes s1.mem l.addr 512))
      (sreg (leaveHandler s1 h (mbytes s1.mem l.addr 512)) ra))) := by
  show execTtresume s = _
  unfold execTtresume
  rw [hs, hh]
  dsimp only
  rw [if_neg (by simp [ht]), hl]
  simp only [orTrapS, hm]
  refine (if_neg (by simp [hq, hd, hc])).trans ?_
  split
  · next hd => exact absurd (hd.symm.trans hb) (Option.some_ne_none _)
  · rfl

end

@[simp] theorem markedAt_g (s : State) (v : Word) : (markedAt s v).g = s.g := by
  unfold markedAt
  split
  · rfl
  · exact setMarker_g s _

@[simp] theorem markedAt_mem (s : State) (v : Word) : (markedAt s v).mem = s.mem := by
  unfold markedAt
  split
  · rfl
  · exact setMarker_mem s _

theorem advS_markedAt_g (s : State) (v : Word) : (advS (markedAt s v)).g = (advS s).g := by
  rw [advS, markedAt_g]
  rfl

theorem markedAt_tm (s : State) (v : Word) : (markedAt s v).tm = { s.tm with marker := v.setWidth 32 } := by
  unfold markedAt
  split
  · next hv =>
    have hm : v.setWidth 32 = s.tm.marker := by
      apply BitVec.eq_of_toNat_eq
      rw [BitVec.toNat_setWidth, hv]
      exact Nat.mod_eq_of_lt s.tm.marker.isLt
    rw [hm]
  · exact setMarker_tm s _

end Sys2Proof.Machine

namespace Sys2Proof.Claims

open Sys2Proof.Machine

/-- Settles O31: a binding is the task's timetable and its teams' slot words; TTRESUME is RETH's restore and then the MARK's move. -/
theorem timetableBinding : Obligations.TimetableBinding := by
  unfold Obligations.TimetableBinding
  intro s sd sa ra p es s1 h l v x fr back policy
  refine ⟨fun hs => if_pos hs, ttbind_policy sa, fun hu hp => ⟨fun b hb => ⟨fun ⟨hva, hpol⟩ => ?_, fun hne => ?_⟩,
      fun hn => ⟨fun ha hq => ttbind_misaligned sa hu hp hn hq ha, fun hq hr hf hg => ?_⟩⟩, ttstat_gives s sd, fun he => ?_,
    fun hs hh ht hl => ⟨ttresume_noMark hs hh ht hl, fun hm hq hd hc hb => ?_⟩⟩
  · exact (ttbind_bound sa hu hp hb).trans (if_pos (by simp [v, hva, hpol]))
  · refine (ttbind_bound sa hu hp hb).trans (if_neg ?_)
    rcases hne with hne | hne <;> simp [v, hne]
  · obtain ⟨launch, words, lost, hk⟩ := partless_bindTT hf v.toNat p.toNat es
    rw [hg] at hk
    exact ⟨_, ⟨v.toNat, p.toNat, es, launch⟩, ttbind_reads sa hu hp hn hq hr, nextWord_advS ((congrArg State.g hk :).trans hg),
      (congrArg State.mem hk :), (congrArg (fun u => u.tm.marker) hk).trans (taskBound_marker s1 _ words lost),
      (congrArg (fun u => u.tk.tt) hk).trans (taskBound_tk hf _ words lost), rfl, rfl, rfl⟩
  · refine ttresume_elsewhere ?_
    rcases he with he | he | ⟨he, hne⟩
    · exact .inl he
    · exact .inr (.inl he)
    · exact .inr (.inr ⟨h, he, hne⟩)
  · refine ⟨_, ttresume_marks hs hh ht hl hm hq hd hc hb, ?_⟩
    simp only [sreg, advS_markedAt_g, advS_tm, markedAt_tm, advS_mem, markedAt_mem]
    refine ⟨rfl, rfl, rfl, ?_, fun r => rfl, rfl, ?_, ?_⟩
    · exact congrArg (· + 4) (leaveHandler_spc s1 h fr)
    · exact congrArg (fun m : Team => min 0xFFFF (m.miss + 1)) (leaveHandler_tm s1 h fr)
    · exact leaveHandler_mem s1 h fr

end Sys2Proof.Claims
end

section
/-! PROOFS. The first copy of a group, its only one: its start, its end, and the lookups after its changes (R196 to R200, R206, R210). -/
namespace Sys2Proof.Machine

open Sys2Proof.Claims

/-! Lookups after a change of what is looked up. -/

theorem find_modBy_key {α : Type} (p : α → Bool) (f : α → α) (hf : ∀ y, p y = true → p (f y) = true) (l : List α) :
    (modBy p f l).find? p = (l.find? p).map f := by
  induction l with
  | nil => rfl
  | cons y r ih =>
    have ih' : (r.map (fun y => if p y then f y else y)).find? p = (r.find? p).map f := ih
    cases hy : p y <;> simp [modBy, hy, hf, ih']

/-- A lookup over an element in focus and a list, after what it finds has been replaced by `t`. -/
theorem find_focus_replaced {α : Type} (live p : α → Bool) {t m : α} (hp : p t = true) (hl : live t = live m) (x : α) (l : List α)
    (h : (if live x then x :: l else l).find? p = some m) :
    (if live (if live x && p x then t else x) then (if live x && p x then t else x) :: modBy p (fun _ => t) l
      else modBy p (fun _ => t) l).find? p = some t := by
  have later (e : l.find? p = some m) : (modBy p (fun _ => t) l).find? p = some t := by
    rw [find_modBy_key _ _ (fun _ _ => hp), e]
    rfl
  cases hx : live x
  · simpa [hx] using later (by simpa [hx] using h)
  · rw [hx, if_pos rfl, List.find?_cons] at h
    cases hy : p x
    · rw [hy] at h
      simpa [hx, hy] using later h
    · rw [hy] at h
      cases h
      simp [hl, hx, hp]

/-- A team after its replacement by one of the same name. -/
theorem findTeam_replaced {s : State} {id : GroupId} {m t : Team} (h : findTeam s id.part id.task id.team = some m)
    (hk : t.part = m.part ∧ t.task = m.task ∧ t.index = m.index) (hl : t.live = m.live) :
    findTeam (modTeamOf s id (fun _ => t)) id.part id.task id.team = some t := by
  obtain ⟨hp, ht, hi⟩ := findTeam_key h
  exact find_focus_replaced (fun m : Team => m.live) (fun m => m.part == id.part && m.task == id.task && m.index == id.team)
    (by simp [hk, hp, ht, hi]) hl s.tm s.teams h

/-- A team after a change that keeps every team's name. -/
theorem findTeam_modTeamOf {s : State} {id : GroupId} {m : Team} (h : findTeam s id.part id.task id.team = some m) (f : Team → Team)
    (hid : ∀ m, (f m).part = m.part ∧ (f m).task = m.task ∧ (f m).index = m.index) (hl : ∀ m, (f m).live = m.live) :
    findTeam (modTeamOf s id f) id.part id.task id.team = some (f m) := by
  obtain ⟨hp, ht, hi⟩ := findTeam_key h
  refine (findTeam_modTeams s _ f hid hl _ _ _).trans ?_
  rw [h]
  simp [hp, ht, hi]

/-- The group with copy `k` changed. -/
def withCopy (k : Nat) (f : Copy → Copy) (g : Group) : Group :=
  { g with en := { g.en with copies := g.en.copies.mapIdx (fun j c => if j = k then f c else c) } }

theorem findGroup_modCopy {s : State} {id : GroupId} {g : Group} (h : findGroup s id = some g) (k : Nat) (f : Copy → Copy) :
    findGroup (modCopy s id k f) id = some (withCopy k f g) := by
  refine (findGroup_modGroup s id id (withCopy k f) (fun _ => rfl) (fun _ => rfl)).trans ?_
  rw [if_pos rfl, h]
  rfl

theorem withCopy_only {g : Group} {c : Copy} (h : g.en.copies = [c]) (f : Copy → Copy) : (withCopy 0 f g).en.copies = [f c] := by
  simp [withCopy, h]

theorem copiesOf_found {s : State} {id : GroupId} {g : Group} (h : findGroup s id = some g) : copiesOf s id = some g.en.copies := by
  rw [copiesOf, h]
  rfl

theorem copiesOf_modCopy {s : State} {id : GroupId} {g : Group} {c : Copy} (h : findGroup s id = some g) (hc : g.en.copies = [c])
    (f : Copy → Copy) : copiesOf (modCopy s id 0 f) id = some [f c] := by
  rw [copiesOf_found (findGroup_modCopy h 0 f), withCopy_only hc]

end Sys2Proof.Machine

namespace Sys2Proof.Claims

open Sys2Proof.Machine

section
variable {s : State} {g : Group} {c : Copy} {tm : Team} (h : FirstCopy s g c tm)
include h

theorem FirstCopy.named : s.inp.g = g.id := (findGroup_id h.here).symm

theorem FirstCopy.found : findGroup s g.id = some g := h.named ▸ h.here

theorem FirstCopy.ofTeam : teamOf s g.id = tm := by rw [teamOf, h.team, Option.getD_some]

theorem FirstCopy.copy : g.en.copies[0]? = some c := by rw [h.only.1]; rfl

end

end Sys2Proof.Claims

namespace Sys2Proof.Machine

open Sys2Proof.Claims

/-! Its start (R196, R200, R206). -/

/-- The copy starts, or its next transfer. -/
def copyBegun (s : State) (id : GroupId) : State := modCopy s id 0 (fun x => { x with started := true, begun := x.begun + 1 })

/-- A copy may start into the slot. -/
def slotTakes (tm : Team) (k : Nat) : Bool := (slotOf tm k).st == .claimed || (slotOf tm k).st == .ready

/-- The slot that a copy fills, if it fills one, as it starts. -/
def slotFills (s : State) (id : GroupId) : Option Nat → State
  | none => s
  | some k => modTeamOf s id (fun u => modSlot u k (fun x => { x with st := .filling }))

section
variable {s : State} {g : Group} {c : Copy} {tm : Team} (h : FirstCopy s g c tm)
include h

theorem copyStart_again (hc : c.started = true) : exec .copyStart s = .next (if moreTransfers tm c then copyBegun s g.id else s) := by
  show execCopyStart s = _
  unfold execCopyStart
  dsimp only
  rw [h.named, h.found, h.only.2]
  dsimp only
  rw [h.copy]
  dsimp only
  rw [if_neg (by simp [h.core]), if_pos hc, h.ofTeam]
  split <;> rfl

theorem copyStart_first (hc : c.started = false) :
    exec .copyStart s = .next (if (copySlot c).all (slotTakes tm) then slotFills (copyBegun s g.id) g.id (copySlot c) else s) := by
  show execCopyStart s = _
  unfold execCopyStart
  dsimp only
  rw [h.named, h.found, h.only.2]
  dsimp only
  rw [h.copy]
  dsimp only
  rw [if_neg (by simp [h.core]), if_neg (by simp [hc]), if_neg (by simp), h.ofTeam]
  cases copySlot c with
  | none => rfl
  | some k =>
    dsimp only [Option.all_some]
    unfold slotTakes
    split <;> rfl

end

theorem slotOf_modSlot (t : Team) (k j : Nat) (f : Slot → Slot) : slotOf (modSlot t k f) j = if j = k then f (slotOf t k) else slotOf t j :=
  sget_sput _ _ _ _ _

/-! Its end (R197 to R200, R206, R210). -/

/-- The group without copy `k` (R197). -/
def withoutCopy (k : Nat) (g : Group) : Group := { g with en := { g.en with cp := g.en.cp - 1, copies := g.en.copies.eraseIdx k } }

theorem findGroup_removeCopy {s : State} {id : GroupId} {g : Group} (h : findGroup s id = some g) (k : Nat) :
    findGroup (removeCopy s id k) id = some (withoutCopy k g) := by
  have lookup (u : State) (hu : findGroup u id = some g) : findGroup (modGroup u id (withoutCopy k)) id = some (withoutCopy k g) := by
    rw [findGroup_modGroup u id id (withoutCopy k) (fun _ => rfl) (fun _ => rfl), if_pos rfl, hu]
    rfl
  unfold removeCopy
  dsimp only
  split
  · exact lookup s h
  · exact lookup _ h

@[simp] theorem removeCopy_mem (s : State) (id : GroupId) (k : Nat) : (removeCopy s id k).mem = s.mem := by
  unfold removeCopy
  dsimp only
  split <;> rfl

/-- The status word of a copy of `n` bytes without a failure (R198). -/
def endWord (excess : Bool) (n : Nat) : Word := BitVec.ofNat 64 (statusWord (if excess then 4 else 0) n)

/-- A copy to a scratchpad that no command follows ends with its status word and nothing else. -/
theorem finishTensor_plain {s : State} {id : GroupId} {g : Group} {c : Copy} (hs : copySlot c = none) (hf : c.follow = none) (k n : Nat) :
    finishTensor s id k g c (if c.excess then 4 else 0) n 0 =
      removeCopy (modGroup s id (fun h => landSreg h c.sup c.dst (endWord c.excess n))) id k := by
  unfold finishTensor endFollow endSlot copyFault
  rw [hf, hs]
  exact if_pos (by cases c.excess <;> rfl)

section
variable {s : State} {g : Group} {c : Copy} {tm : Team} (h : FirstCopy s g c tm) (hc : c.started = true)
include h hc

/-- A tensor copy without a failure ends once every byte has landed; one to global memory publishes as it does (R199). -/
theorem copyEnd_tensor {r : TensorRec} (hk : c.kind = .tensor r) (h0 : c.code = 0) : ∃ publishes, exec .copyEnd s =
    if c.bytes ≠ copyTotal r then .next s
    else if r.kind ≠ 2 then .next (finishTensor s g.id 0 g c (if c.excess then 4 else 0) c.bytes 0) else publishes := by
  show ∃ publishes, execCopyEnd s = _
  unfold execCopyEnd
  dsimp only
  rw [h.named, h.found, h.only.2]
  dsimp only
  rw [h.copy]
  dsimp only
  rw [if_neg (by simp [h.core, hc]), hk]
  dsimp only
  rw [if_neg (by simp [h0])]
  simp only [bne_iff_ne, Bool.not_eq_true', beq_eq_false_iff_ne]
  exact ⟨_, rfl⟩

theorem copyEnd_early {r : TensorRec} (hk : c.kind = .tensor r) (h0 : c.code = 0) (hn : c.bytes ≠ copyTotal r) :
    exec .copyEnd s = .next s := by
  obtain ⟨_, he⟩ := copyEnd_tensor h hc hk h0
  exact he.trans (if_pos hn)

theorem copyEnd_scratch {r : TensorRec} (hk : c.kind = .tensor r) (h0 : c.code = 0) (hn : c.bytes = copyTotal r) (hr : r.kind = 0)
    (hf : c.follow = none) :
    exec .copyEnd s = .next (removeCopy (modGroup s g.id (fun h => landSreg h c.sup c.dst (endWord c.excess c.bytes))) g.id 0) := by
  obtain ⟨_, he⟩ := copyEnd_tensor h hc hk h0
  rw [← finishTensor_plain (g := g) (by simp [copySlot, hk, hr]) hf]
  exact he.trans ((if_neg (by simp [hn])).trans (if_pos (by simp [hr])))

theorem copyEnd_lanes {n sp : Nat} {ls : List LaneCopy} (hk : c.kind = .lanes n sp ls) :
    exec .copyEnd s = if c.lanesDone.length < ls.length then .next s else .next (removeCopy s g.id 0) := by
  show execCopyEnd s = _
  unfold execCopyEnd
  dsimp only
  rw [h.named, h.found, h.only.2]
  dsimp only
  rw [h.copy]
  dsimp only
  rw [if_neg (by simp [h.core, hc]), hk]

end

/-- The group that a copy to a scratchpad has left, outside a handler: its status word is in its register. -/
theorem copyEnd_status {s : State} {g : Group} {c : Copy} {tm : Team} (h : FirstCopy s g c tm) (hd : c.dst ≠ 0) (hn : g.hidden = none) :
    ∃ t, findGroup (removeCopy (modGroup s g.id (fun h => landSreg h c.sup c.dst (endWord c.excess c.bytes))) g.id 0) g.id = some t ∧
      t.en.copies = [] ∧ t.en.cp = g.en.cp - 1 ∧ sregOf t c.dst = endWord c.excess c.bytes ∧
        ∀ k, k ≠ c.dst → sregOf t k = sregOf g k := by
  have hl : landSreg g c.sup c.dst (endWord c.excess c.bytes) = putSreg g c.dst (endWord c.excess c.bytes) := by
    unfold landSreg
    rw [hn]
  have hg : findGroup (modGroup s g.id (fun h => landSreg h c.sup c.dst (endWord c.excess c.bytes))) g.id =
      some (putSreg g c.dst (endWord c.excess c.bytes)) := by
    rw [findGroup_modGroup s _ _ _ (fun g => (landSreg_id g _ _ _).1) (fun g => (landSreg_id g _ _ _).2), if_pos rfl, h.found,
      Option.map_some, hl]
  refine ⟨_, findGroup_removeCopy hg 0, ?_, ?_, ?_, fun k hk => ?_⟩
  · show ((putSreg g c.dst _).en.copies).eraseIdx 0 = []
    rw [putSreg_en, h.only.1]
    rfl
  · show (putSreg g c.dst _).en.cp - 1 = _
    rw [putSreg_en]
  · exact (sregOf_putSreg g c.dst c.dst _ hd).trans (if_pos rfl)
  · exact (sregOf_putSreg g c.dst k _ hd).trans (if_neg hk)

end Sys2Proof.Machine
end

section
/-! PROOFS. The Wheel: a command that waits, one that drops, and one that retires (R223, R224, R230, R231). -/
namespace Sys2Proof.Machine

open Sys2Proof.Claims

/-! A command leaves its group (R210, R227, R231). -/

@[simp] theorem cmdLeaves_tl (c : TileCmd) (d : Bool) (g : Group) : (cmdLeaves c d g).en.tl = g.en.tl - 1 := rfl

@[simp] theorem cmdLeaves_fpstat (c : TileCmd) (d : Bool) (g : Group) :
    (cmdLeaves c d g).fpstat = if c.boundFail then g.fpstat ||| flBound else g.fpstat := rfl

theorem findGroup_cmdDone {s : State} {c : TileCmd} {g : Group} (h : findGroup s c.group = some g) (d : Bool) :
    findGroup (cmdDone s c d) c.group = some (cmdLeaves c d g) := by
  refine (findGroup_modGroup s c.group c.group (cmdLeaves c d) (fun _ => rfl) (fun _ => rfl)).trans ?_
  rw [if_pos rfl, h]
  rfl

@[simp] theorem cmdDone_mem (s : State) (c : TileCmd) (d : Bool) : (cmdDone s c d).mem = s.mem := rfl

@[simp] theorem coreOf_cmdDone (s : State) (c : TileCmd) (d : Bool) (n : Nat) : coreOf (cmdDone s c d) n = coreOf s n := rfl

theorem coreOf_changed (s : State) (n : Nat) (f : Core → Core) (hf : ∀ c, (f c).num = c.num) : coreOf (modCore s n f) n = f (coreOf s n) :=
  (coreOf_modCore s n n f hf).trans (if_pos rfl)

theorem coreOf_popWheel (s : State) (n : Nat) : coreOf (popWheel s n) n = { coreOf s n with wheelQ := (coreOf s n).wheelQ.drop 1 } :=
  coreOf_changed s n _ (fun _ => rfl)

/-- A batch after command `c` has left it. -/
def batchLeft (c : TileCmd) (b : Batch) : Batch := { b with live := b.live - 1, engine := b.engine || false, boundTrap := b.boundTrap || c.boundTrap }

/-- The batch of command `c` retires with a fault. -/
def batchFaults (c : TileCmd) (b : Batch) : Bool := (batchLeft c b).boundTrap || (batchLeft c b).engine

/-- The only batch of a group, after its command `c` has run and left it. -/
theorem cmdLeaves_batches {c : TileCmd} {g : Group} {b : Batch} (hb : g.en.batches = [b]) (hn : b.num = c.batch) :
    (cmdLeaves c false g).en.batches = (retireBatches [batchLeft c b] g.en.lastRet).1 ∧
      (cmdLeaves c false g).en.lastRet = (retireBatches [batchLeft c b] g.en.lastRet).2 := by
  have one : modBy (fun x : Batch => x.num == c.batch) (batchLeft c) g.en.batches = [batchLeft c b] := by simp [modBy, hb, hn]
  exact ⟨congrArg (fun l => (retireBatches l g.en.lastRet).1) one, congrArg (fun l => (retireBatches l g.en.lastRet).2) one⟩

/-! The oldest command of the Wheel (R157, R224, R230). -/

/-- A copy that has not started is still to fill slot `k` of a team. -/
def slotDue (s : State) (id : GroupId) (k : Nat) : Bool :=
  (teamGroups s id.part id.task id.team).any (fun h => h.en.copies.any (fun y => !y.started && copySlot y == some k))

theorem slotDue_iff (s : State) (id : GroupId) (k : Nat) : slotDue s id k = true ↔
    ∃ h ∈ allGroups s, ofTeam h id.part id.task id.team ∧ ∃ y ∈ h.en.copies, y.started = false ∧ copySlot y = some k := by
  simp only [slotDue, teamGroups, ofTeam, List.any_eq_true, List.mem_filter, Bool.and_eq_true, Bool.not_eq_true', beq_iff_eq, and_assoc]

/-- The slots that a command reads and those that it only writes. -/
def slotsOf (t : Team) (c : TileCmd) : List Nat × List Nat := cmdSlots t.kernel.tbase c.op c.word.toNat c.rule.toNat c.fmt.toNat

/-- A command waits for its slots. -/
def slotsPend (s : State) (c : TileCmd) : Bool :=
  let t := teamOf s c.group
  (slotsOf t c).1.any (fun x => (slotOf t x).st == .filling || ((slotOf t x).st == .claimed && slotDue s c.group x))
    || (slotsOf t c).2.any (fun x => (slotOf t x).st == .filling)

/-- A command reads a slot that nothing has filled. -/
def slotsLost (s : State) (c : TileCmd) : Bool :=
  let t := teamOf s c.group
  (slotsOf t c).1.any (fun x => (slotOf t x).st == .claimed || (slotOf t x).st == .free)

/-- The machine after a command has run: what it gave the group and the team, its slots in use, and the command among those that run. -/
def tileRan (s : State) (core : Nat) (c : TileCmd) (g : Group) (t : Team) (chk : Chk) : State :=
  let use := c.slots.foldl (fun u x => modSlot u x (fun y => { y with st := .inUse })) t
  let s1 := modGroup s c.group (fun h => { h with ln := { h.ln with v := g.ln.v } })
  let s2 := modTeamOf s1 c.group (fun u => { u with slots := use.slots, sp0 := use.sp0, sp1 := use.sp1 })
  modCore (popWheel s2 core) core (fun q => { q with wheelRun := q.wheelRun ++ [{ c with boundFail := chk.failed, boundTrap := chk.trap }] })

section
variable {s : State} {c : TileCmd} {q : List TileCmd} {g : Group} (hq : (coreOf s s.inp.core).wheelQ = c :: q) (hg : findGroup s c.group = some g)
include hq hg

theorem tileStart_pends (h : (coreOf s s.inp.core).testing ≠ [] ∨ slotsPend s c = true) : exec .tileCommandStart s = .next s := by
  show execTileCommandStart s = _
  unfold execTileCommandStart
  dsimp only
  rw [hq]
  dsimp only
  rw [hg]
  refine if_pos ?_
  rw [Bool.or_eq_true]
  left
  rw [Bool.or_assoc, Bool.or_eq_true, bne_iff_ne]
  exact h

variable (hc : (coreOf s s.inp.core).testing = []) (hp : slotsPend s c = false) (hr : shadowRoom s s.inp.core c.seq (cmdNeed c) = true)
include hc hp hr

theorem tileStart_ready : exec .tileCommandStart s =
    let e := cmdEcc s c g (slotsOf (teamOf s c.group) c).1 s.inp.ecc s.inp.off
    if slotsLost s c then .next (cmdDone (popWheel s s.inp.core) c true)
    else if e.2 then .next (cmdDone (popWheel e.1 s.inp.core) c true)
    else match runTile e.1 c g (teamOf s c.group) with
      | .fault f => .fault f
      | .stall => .next s
      | .trap _ _ => .next (cmdDone (popWheel s s.inp.core) c true)
      | .ok (g1, t1, chk) s1 => .next (tileRan s1 s.inp.core c g1 t1 chk) := by
  show execTileCommandStart s = _
  unfold execTileCommandStart
  dsimp only
  rw [hq]
  dsimp only
  rw [hg]
  refine (if_neg ?_).trans rfl
  rw [hr, Bool.not_true, Bool.or_false, Bool.or_assoc, hc]
  exact fun h => Bool.noConfusion (hp.symm.trans h)

theorem tileStart_drops (hl : slotsLost s c = true) : exec .tileCommandStart s = .next (cmdDone (popWheel s s.inp.core) c true) :=
  (tileStart_ready hq hg hc hp hr).trans (if_pos hl)

theorem tileStart_runs (hl : slotsLost s c = false)
    (he : cmdEcc s c g (slotsOf (teamOf s c.group) c).1 s.inp.ecc s.inp.off = (s, false)) {g1 : Group} {t1 : Team} {chk : Chk} {s1 : State}
    (hrun : runTile s c g (teamOf s c.group) = .ok (g1, t1, chk) s1) :
    exec .tileCommandStart s = .next (tileRan s1 s.inp.core c g1 t1 chk) := by
  rw [tileStart_ready hq hg hc hp hr, he]
  dsimp only
  rw [if_neg (by simp [hl]), if_neg (by simp), hrun]

end

theorem shadowRoom_none (s : State) (core num : Nat) : shadowRoom s core num 0 = true := by simp [shadowRoom]

theorem tileStart_empty {s : State} (h : (coreOf s s.inp.core).wheelQ = []) : exec .tileCommandStart s = .next s := by
  show execTileCommandStart s = _
  unfold execTileCommandStart
  dsimp only
  rw [h]

/-! The retirement of a running command (R223, R227, R231). -/

theorem tileRetire_none {s : State} (h : (coreOf s s.inp.core).wheelRun = [] ∨ (coreOf s s.inp.core).testing ≠ []) :
    exec .tileCommandRetire s = .next s := by
  show execTileCommandRetire s = _
  unfold execTileCommandRetire
  dsimp only
  by_cases ht : (coreOf s s.inp.core).testing = []
  · rw [if_neg (by simp [ht]), h.resolve_right (not_not_intro ht)]
    rfl
  · exact if_pos (bne_iff_ne.mpr ht)

/-- The machine with no command running at a core. -/
def runCleared (s : State) (core : Nat) : State := modCore s core (fun k => { k with wheelRun := k.wheelRun.eraseIdx s.inp.idx })

theorem tileRetire_only {s : State} {c : TileCmd} (hr : (coreOf s s.inp.core).wheelRun = [c]) (ht : (coreOf s s.inp.core).testing = [])
    (hi : s.inp.idx = 0) : exec .tileCommandRetire s = .next (cmdDone (runCleared s s.inp.core) c false) := by
  show execTileCommandRetire s = _
  unfold execTileCommandRetire
  dsimp only
  rw [if_neg (by simp [ht]), hr, runCleared, hi]
  rfl

theorem wheelRun_runCleared {s : State} {core : Nat} {c : TileCmd} (hr : (coreOf s core).wheelRun = [c]) (hi : s.inp.idx = 0) :
    (coreOf (runCleared s core) core).wheelRun = [] := by
  have hc : coreOf (runCleared s core) core = { coreOf s core with wheelRun := (coreOf s core).wheelRun.eraseIdx s.inp.idx } :=
    coreOf_changed s core _ (fun _ => rfl)
  rw [hc, hr, hi]
  rfl

theorem slotsPend_iff {s : State} {c : TileCmd} {t : Team} (ht : teamOf s c.group = t) : slotsPend s c = true ↔
    (∃ k ∈ (slotsOf t c).1 ++ (slotsOf t c).2, (slotOf t k).st = .filling) ∨
      ∃ k ∈ (slotsOf t c).1, (slotOf t k).st = .claimed ∧ slotDue s c.group k = true := by
  unfold slotsPend
  rw [ht]
  simp only [Bool.or_eq_true, List.any_eq_true, beq_iff_eq, Bool.and_eq_true, List.mem_append]
  constructor
  · rintro (⟨k, hk, hf | hd⟩ | ⟨k, hk, hf⟩)
    · exact .inl ⟨k, .inl hk, hf⟩
    · exact .inr ⟨k, hk, hd⟩
    · exact .inl ⟨k, .inr hk, hf⟩
  · rintro (⟨k, hk | hk, hf⟩ | ⟨k, hk, hd⟩)
    · exact .inl ⟨k, hk, .inl hf⟩
    · exact .inr ⟨k, hk, hf⟩
    · exact .inl ⟨k, hk, .inr hd⟩

theorem slotsLost_iff {s : State} {c : TileCmd} {t : Team} (ht : teamOf s c.group = t) : slotsLost s c = true ↔
    ∃ k ∈ (slotsOf t c).1, (slotOf t k).st = .claimed ∨ (slotOf t k).st = .free := by
  unfold slotsLost
  rw [ht]
  simp only [List.any_eq_true, Bool.or_eq_true, beq_iff_eq]

/-- The oldest command drops: it leaves the Wheel and its group, and no byte changes. -/
theorem tileDropped {s : State} {c : TileCmd} {q : List TileCmd} {g : Group} (hq : (coreOf s s.inp.core).wheelQ = c :: q)
    (hg : findGroup s c.group = some g) :
    let t := cmdDone (popWheel s s.inp.core) c true
    (coreOf t s.inp.core).wheelQ = q ∧ (coreOf t s.inp.core).wheelRun = (coreOf s s.inp.core).wheelRun ∧
      findGroup t c.group = some (cmdLeaves c true g) ∧ t.mem = s.mem := by
  refine ⟨?_, ?_, findGroup_cmdDone hg true, cmdDone_mem ..⟩
  · rw [coreOf_cmdDone, coreOf_popWheel, hq]
    rfl
  · rw [coreOf_cmdDone, coreOf_popWheel]

/-- What becomes of a batch's entry when its last command has run (R231): an open batch stays, a closed one retires. -/
theorem retireBatches_left {c : TileCmd} {b : Batch} (hl : b.live = 1) (hr : b.retired = false) (last : BitVec 16) :
    retireBatches [batchLeft c b] last =
      if b.closed then (if batchFaults c b then [{ batchLeft c b with retired := true, slots := [] }] else [], BitVec.ofNat 16 b.num)
      else ([batchLeft c b], last) := by
  have hlive : (batchLeft c b).live = 0 := by simp [batchLeft, hl]
  have hret : (batchLeft c b).retired = false := hr
  have hclosed : (batchLeft c b).closed = b.closed := rfl
  cases hb : b.closed
  · simp [retireBatches, hret, hclosed, hb]
  · simp only [retireBatches, hret, hclosed, hb, hlive]
    rw [if_neg Bool.false_ne_true]
    unfold batchFaults
    cases (batchLeft c b).boundTrap || (batchLeft c b).engine <;> rfl

end Sys2Proof.Machine
end

section
/-! PROOFS. The start of TZERO and of a TEDGE that writes an edge to the scratchpad (R223, R230, R358, R364). -/
namespace Sys2Proof.Machine

open Sys2Proof.Claims

/-! Lists of bytes in memory. -/

theorem mget_mputs (m : Memory) (a : Nat) (bs : List Byte) {j : Nat} (hj : j < bs.length) : mget (mputs m a bs) (a + j) = bs[j] := by
  induction bs generalizing m a j with
  | nil => exact absurd hj (Nat.not_lt_zero j)
  | cons x r ih =>
    cases j with
    | zero => exact (mget_mputs_other (mput m a x) (a + 1) r a (by omega)).trans ((mget_mput _ _ _ _).trans (if_pos rfl))
    | succ j =>
      rw [List.length_cons] at hj
      have := ih (mput m a x) (a + 1) (j := j) (by omega)
      rwa [Nat.add_assoc, Nat.add_comm 1 j] at this

@[simp] theorem length_mbytes (m : Memory) (a n : Nat) : (mbytes m a n).length = n := by
  induction n generalizing a with
  | zero => rfl
  | succ n ih => exact congrArg (· + 1) (ih (a + 1))

theorem getElem_mbytes (m : Memory) (a n : Nat) {j : Nat} (hj : j < (mbytes m a n).length) : (mbytes m a n)[j] = mget m (a + j) := by
  induction n generalizing a j with
  | zero => exact absurd hj (Nat.not_lt_zero j)
  | succ n ih =>
    cases j with
    | zero => rfl
    | succ j =>
      rw [length_mbytes] at hj
      refine (ih (a + 1) (j := j) (by simp; omega)).trans ?_
      rw [Nat.add_assoc, Nat.add_comm 1 j]

/-! The machine after a command has run. -/

section
variable {s : State} {c : TileCmd} {g g1 : Group} {t m : Team} {chk : Chk}

@[simp] theorem tileRan_mem (s : State) (core : Nat) (c : TileCmd) (g : Group) (t : Team) (chk : Chk) :
    (tileRan s core c g t chk).mem = s.mem := rfl

theorem coreOf_tileRan (s : State) (n : Nat) (c : TileCmd) (g : Group) (t : Team) (chk : Chk) :
    coreOf (tileRan s n c g t chk) n = { coreOf s n with
      wheelQ := (coreOf s n).wheelQ.drop 1, wheelRun := (coreOf s n).wheelRun ++ [{ c with boundFail := chk.failed, boundTrap := chk.trap }] } := by
  unfold tileRan
  dsimp only
  rw [coreOf_changed _ _ _ (fun _ => by rfl), coreOf_popWheel]
  rfl

theorem findGroup_tileRan (hg : findGroup s c.group = some g) (n : Nat) :
    findGroup (tileRan s n c g1 t chk) c.group = some { g with ln := { g.ln with v := g1.ln.v } } := by
  refine (findGroup_modGroup s c.group c.group (fun h => { h with ln := { h.ln with v := g1.ln.v } }) (fun _ => rfl) (fun _ => rfl)).trans ?_
  rw [if_pos rfl, hg]
  rfl

/-- The team with the slots in use. -/
def slotsUsed (t : Team) (l : List Nat) : Team := l.foldl (fun u x => modSlot u x (fun y => { y with st := .inUse })) t

theorem findTeam_tileRan (hm : findTeam s c.group.part c.group.task c.group.team = some m) (n : Nat) :
    findTeam (tileRan s n c g1 t chk) c.group.part c.group.task c.group.team =
      some { m with slots := (slotsUsed t c.slots).slots, sp0 := (slotsUsed t c.slots).sp0, sp1 := (slotsUsed t c.slots).sp1 } :=
  findTeam_modTeamOf (s := modGroup s c.group (fun h => { h with ln := { h.ln with v := g1.ln.v } })) hm
    (fun u => { u with slots := (slotsUsed t c.slots).slots, sp0 := (slotsUsed t c.slots).sp0, sp1 := (slotsUsed t c.slots).sp1 })
    (fun _ => ⟨rfl, rfl, rfl⟩) (fun _ => rfl)

end

/-! TZERO (R358). -/

/-- Elements of a tile set to zero, by number. -/
def tileZeroed (k : Nat) (l : List Nat) (g : Group) : Group := l.foldl (fun h n => tilePut h k (n / 32) (n % 32) 0) g

theorem tileGet_tilePut_zero (g : Group) (k i j i' j' : Nat) :
    tileGet (tilePut g k i j 0) k i' j' =
      if 64 * (tileReg g k i' j').1 + (tileReg g k i' j').2 = 64 * (tileReg g k i j).1 + (tileReg g k i j).2 then 0 else tileGet g k i' j' := by
  have hput : tileGet (tilePut g k i j 0) k i' j' = (sget (0 : BitVec 32) (sput 0 g.ln.v (64 * (tileReg g k i j).1 + (tileReg g k i j).2)
      (BitVec.ofNat 32 0)) (64 * (tileReg g k i' j').1 + (tileReg g k i' j').2)).toNat := rfl
  rw [hput, sget_sput]
  split <;> rfl

theorem tileGet_tileZeroed_kept (k : Nat) (l : List Nat) {g : Group} {i j : Nat} (h : tileGet g k i j = 0) :
    tileGet (tileZeroed k l g) k i j = 0 := by
  induction l generalizing g with
  | nil => exact h
  | cons n r ih =>
    refine ih ?_
    rw [tileGet_tilePut_zero, h]
    exact ite_self 0

theorem tileGet_tileZeroed (k : Nat) (l : List Nat) (g : Group) {n : Nat} (hn : n ∈ l) :
    tileGet (tileZeroed k l g) k (n / 32) (n % 32) = 0 := by
  induction l generalizing g with
  | nil => exact absurd hn List.not_mem_nil
  | cons x r ih =>
    rcases List.mem_cons.mp hn with rfl | hr
    · exact tileGet_tileZeroed_kept k r ((tileGet_tilePut_zero ..).trans (if_pos rfl))
    · exact ih _ hr

theorem tileZeroed_shape (k : Nat) (l : List Nat) (g : Group) : (tileZeroed k l g).bnd = g.bnd ∧ (tileZeroed k l g).width = g.width := by
  induction l generalizing g with
  | nil => exact ⟨rfl, rfl⟩
  | cons n r ih => exact ih _

theorem tileGet_congr {g h : Group} (hb : h.bnd = g.bnd) (hw : h.width = g.width) (hv : h.ln.v = g.ln.v) (k i j : Nat) :
    tileGet h k i j = tileGet g k i j := by
  unfold tileGet tileReg vget
  rw [hb, hw, hv]

/-- The group that has taken the registers of a zeroed tile. -/
def tookZeroed (k : Nat) (l : List Nat) (g : Group) : Group := { g with ln := { g.ln with v := (tileZeroed k l g).ln.v } }

@[simp] theorem tookZeroed_en (k : Nat) (l : List Nat) (g : Group) : (tookZeroed k l g).en = g.en := rfl

theorem tileGet_tookZeroed (k : Nat) (l : List Nat) (g : Group) {n : Nat} (hn : n ∈ l) : tileGet (tookZeroed k l g) k (n / 32) (n % 32) = 0 := by
  obtain ⟨hbnd, hwidth⟩ := tileZeroed_shape k l g
  exact (tileGet_congr (g := tileZeroed k l g) (h := tookZeroed k l g) hbnd.symm hwidth.symm rfl k _ _).trans (tileGet_tileZeroed k l g hn)

theorem tileStart_tzero {s : State} {c : TileCmd} {g : Group} {q : List TileCmd} (hq : (coreOf s s.inp.core).wheelQ = c :: q)
    (hg : findGroup s c.group = some g) (hc : (coreOf s s.inp.core).testing = []) (hop : c.op = .tzero) :
    exec .tileCommandStart s =
      .next (tileRan s s.inp.core c (tileZeroed (fld c.word.toNat 0 4) (List.range 1024) g) (teamOf s c.group) ⟨false, false⟩) := by
  have hsl : slotsOf (teamOf s c.group) c = ([], []) := by
    unfold slotsOf cmdSlots
    rw [hop]
  have hspans : cmdSpans c = [] := by
    unfold cmdSpans
    rw [hop]
  have hneed : cmdNeed c = 0 := by
    unfold cmdNeed
    rw [hspans]
    split <;> rfl
  refine tileStart_runs hq hg hc ?_ ?_ ?_ ?_ ?_
  · simp [slotsPend, hsl]
  · rw [hneed]
    exact shadowRoom_none _ _ _
  · simp [slotsLost, hsl]
  · unfold cmdEcc
    rw [hspans, hsl]
    rfl
  · unfold runTile
    rw [hop]
    rfl

/-! TEDGE from a slot to the scratchpad (R364). -/

theorem spOf_spPut (t : Team) (core : Nat) {a : Nat} (ha : a < 2 ^ 20) (bs : List Byte) :
    spOf (spPut t core a bs) (spSide t core false) = mputs (spOf t (spSide t core false)) a bs := by
  unfold spPut spOf
  rw [decide_eq_false (Nat.not_le.mpr ha), Nat.mod_eq_of_lt ha]
  split <;> rfl

@[simp] theorem spPut_slots (t : Team) (core a : Nat) (bs : List Byte) : (spPut t core a bs).slots = t.slots := by
  unfold spPut
  split <;> rfl

theorem slotOf_congr {t u : Team} (h : u.slots = t.slots) (k : Nat) : slotOf u k = slotOf t k := by rw [slotOf, slotOf, h]

/-- The bytes that a TEDGE moves out of slot `k`. -/
def edgeBytes (t : Team) (k w : Nat) : List Byte := mbytes (slotOf t k).data (256 * fld w 4 6) (256 * (fld w 10 6 + 1))

/-- The team after a TEDGE has written the edge. -/
def edgeWritten (t : Team) (core k : Nat) (c : TileCmd) : Team := spPut t core c.arg.toNat (edgeBytes t k c.word.toNat)

end Sys2Proof.Machine

namespace Sys2Proof.Claims

open Sys2Proof.Machine

section
variable {s : State} {core k : Nat} {g : Group} {tm : Team} {w : TileCmd} (h : EdgeWaits s core g tm w k)
include h

theorem EdgeWaits.toScratchpad : fld w.word.toNat 0 4 = k ∧ bit w.word.toNat 16 = true ∧ bit w.word.toNat 17 = false := by
  obtain ⟨-, hk, hw, -⟩ := h.word
  unfold fld bit
  rw [beq_iff_eq, beq_eq_false_iff_ne]
  omega

theorem EdgeWaits.ofTeam : teamOf s w.group = tm := by rw [teamOf, h.team, Option.getD_some]

theorem EdgeWaits.reads : slotsOf tm w = ([k], []) := by
  obtain ⟨hk, hw, -⟩ := h.toScratchpad
  unfold slotsOf cmdSlots
  rw [h.word.1]
  dsimp only
  rw [if_pos hw, hk]

theorem EdgeWaits.noSpan : cmdSpans w = [] := by
  obtain ⟨-, -, hw⟩ := h.toScratchpad
  unfold cmdSpans
  rw [h.word.1]
  exact if_neg (by simp [hw])

theorem EdgeWaits.noNeed : cmdNeed w = 0 := by
  unfold cmdNeed
  rw [h.noSpan]
  split <;> rfl

theorem EdgeWaits.noError (off : Nat) : cmdEcc s w g [k] s.inp.ecc off = (s, false) := by
  unfold cmdEcc
  rw [h.noSpan, h.clean]
  rfl

theorem EdgeWaits.runs : runTile s w g tm = .ok (g, edgeWritten tm g.core k w, ⟨false, false⟩) s := by
  obtain ⟨hk, hw, hg⟩ := h.toScratchpad
  unfold runTile
  rw [h.word.1]
  dsimp only
  rw [hk, if_pos hw, hg]
  rfl

theorem tileStart_tedge (hcore : core = s.inp.core) (hk : (slotOf tm k).st = .ready ∨ (slotOf tm k).st = .inUse) :
    exec .tileCommandStart s = .next (tileRan s core w g (edgeWritten tm g.core k w) ⟨false, false⟩) := by
  subst hcore
  obtain ⟨hq, -, hc⟩ := h.wheel
  have ready : (slotOf tm k).st ≠ .filling ∧ (slotOf tm k).st ≠ .claimed ∧ (slotOf tm k).st ≠ .free := by
    rcases hk with e | e <;> simp [e]
  obtain ⟨hfill, hclaim, hfree⟩ := ready
  refine tileStart_runs hq h.here.1 hc ?_ ?_ ?_ ?_ ?_
  · simp [slotsPend, h.ofTeam, h.reads, hfill, hclaim]
  · rw [h.noNeed]
    exact shadowRoom_none _ _ _
  · simp [slotsLost, h.ofTeam, h.reads, hclaim, hfree]
  · rw [h.ofTeam, h.reads]
    exact h.noError _
  · rw [h.ofTeam]
    exact h.runs

theorem EdgeWaits.slots (j : Nat) : slotOf (slotsUsed (edgeWritten tm g.core k w) w.slots) j =
    if j = k then { slotOf tm k with st := .inUse } else slotOf tm j := by
  obtain ⟨-, -, -, hs⟩ := h.word
  rw [hs]
  refine (slotOf_modSlot (edgeWritten tm g.core k w) k j (fun y => { y with st := .inUse })).trans ?_
  unfold edgeWritten
  rw [slotOf_congr (spPut_slots ..), slotOf_congr (spPut_slots ..)]

theorem EdgeWaits.bytes {j : Nat} (hj : j < 256 * (fld w.word.toNat 10 6 + 1)) :
    mget (spOf (slotsUsed (edgeWritten tm g.core k w) w.slots) (spSide tm g.core false)) (w.arg.toNat + j) =
      mget (slotOf tm k).data (256 * fld w.word.toNat 4 6 + j) := by
  obtain ⟨-, -, -, hs⟩ := h.word
  have hp : w.arg.toNat < 2 ^ 20 := Nat.lt_of_lt_of_le (Nat.lt_add_of_pos_right (by omega)) h.place
  rw [hs]
  refine (congrArg (fun m => mget m (w.arg.toNat + j)) (spOf_spPut tm g.core hp _)).trans ?_
  have hlen : j < (edgeBytes tm k w.word.toNat).length := by rwa [edgeBytes, length_mbytes]
  exact (mget_mputs _ _ _ hlen).trans (getElem_mbytes _ _ _ hlen)

end

end Sys2Proof.Claims
end

section
/-! PROOFS. What an engine reads: bytes of sound pages, the beats and elements of a box (R203, R206). -/
namespace Sys2Proof.Machine

open Sys2Proof.Claims

/-- A byte that an engine may read: its page is resident and local, its line sound. -/
structure SoundByte (s : State) (w : Who) (va : Nat) (l : Loc) : Prop where
  page : translate s w.unit w.part w.ctx va w.sup false true = .ok l s
  low : l.addr < 4 * spaceSize
  sound : poisoned s l.addr 1 = false

theorem SoundByte.withL2 {s : State} {w : Who} {va : Nat} {l : Loc} (h : SoundByte s w va l) (v : List L2Line) :
    SoundByte (withL2 s v) w va l := ⟨translate_withL2 v h.page, h.low, h.sound⟩

/-- `n` bytes in a row that an engine may read. -/
def SoundBytes (s : State) (w : Who) (l : Nat → Loc) (va n : Nat) : Prop :=
  va + n ≤ 2 ^ 64 ∧ ∀ j, j < n → SoundByte s w (va + j) (l (va + j))

theorem SoundBytes.withL2 {s : State} {w : Who} {l : Nat → Loc} {va n : Nat} (h : SoundBytes s w l va n) (v : List L2Line) :
    SoundBytes (withL2 s v) w l va n := ⟨h.1, fun j hj => (h.2 j hj).withL2 v⟩

theorem quiet_withL2 {s : State} {part : Nat} {p : Partition} (q : QuietPart s part p) (v : List L2Line) : QuietPart (withL2 s v) part p :=
  ⟨q.here, q.still⟩

/-- The bytes in memory from `va` on. -/
def bytesAt (m : Memory) (l : Nat → Loc) (va n : Nat) : List Byte := (List.range n).map (fun j => mget m (l (va + j)).addr)

theorem bytesAt_succ (m : Memory) (l : Nat → Loc) (va n : Nat) : bytesAt m l va (n + 1) = mget m (l va).addr :: bytesAt m l (va + 1) n := by
  unfold bytesAt
  rw [List.range_succ_eq_map, List.map_cons, List.map_map]
  refine congrArg (List.cons _) (List.map_congr_left fun j _ => ?_)
  rw [Function.comp, Nat.succ_eq_add_one, Nat.add_assoc, Nat.add_comm 1 j]

section
variable {s : State} {w : Who} {p : Partition} {l : Nat → Loc} {va n : Nat}

theorem engBytes_sound (q : QuietPart s w.part p) (h : SoundBytes s w l va n) : engBytes s w n va = .ok (bytesAt s.mem l va n) s := by
  induction n generalizing va with
  | zero => rfl
  | succ n ih =>
    obtain ⟨hv, hb⟩ := h
    have h0 : SoundByte s w va (l va) := hb 0 (Nat.succ_pos n)
    have hr := ih (va := va + 1) ⟨by omega, fun j hj => by
      have := hb (j + 1) (by omega)
      rwa [show va + (j + 1) = va + 1 + j by omega] at this⟩
    unfold engBytes
    simp only [Nat.mod_eq_of_lt (show va < 2 ^ 64 by omega), h0.page, granted_local _ h0.low, MR.bind, readKey_quiet q, behindDrop_quiet q,
      cutOff_local s _ h0.low, h0.sound, hr, Bool.or_self, Bool.false_eq_true, if_false, bytesAt_succ]

/-- The lines read change in the L2 alone (R111). -/
theorem engTouch_sound (evict : Nat) (hn : 0 < n) (h : SoundBytes s w l va n) : ∃ v, engTouch s w evict n va = withL2 s v := by
  refine foldl_withL2 _ s _ (fun x hx v => ?_)
  obtain ⟨j, hj, rfl⟩ : ∃ j, j < n ∧ x = va + j := by
    simp only [List.mem_cons, List.mem_filter, List.mem_map, List.mem_range] at hx
    rcases hx with rfl | ⟨⟨j, hj, rfl⟩, -⟩
    · exact ⟨0, hn, rfl⟩
    · exact ⟨j, hj, rfl⟩
  obtain ⟨hv, hb⟩ := h
  rw [Nat.mod_eq_of_lt (by omega), ((hb j hj).withL2 v).page]
  exact l2Touch_withL2 _ _ _ _ _ _ _ _

theorem engRead_sound (q : QuietPart s w.part p) (evict : Nat) (hn : 0 < n) (h : SoundBytes s w l va n) :
    ∃ v, engRead s w evict n va = .ok (bytesAt s.mem l va n) (withL2 s v) := by
  obtain ⟨v, hv⟩ := engTouch_sound evict hn h
  refine ⟨v, ?_⟩
  unfold engRead
  rw [engBytes_sound q h, MR.bind, if_neg (by omega), hv]

end

/-! Beats and elements (R203, R206). -/

/-- The number that source beat `b` holds. -/
def beatValue (m : Memory) (l : Nat → Loc) (b : Nat) : Nat := bytesNat (bytesAt m l (16 * b) 16)

/-- Beats that have been read: each holds what memory holds, and those in `bs` are among them. -/
structure BeatsGot (m : Memory) (l : Nat → Loc) (bs : List Nat) (got : List (Nat × Nat)) : Prop where
  right : ∀ x ∈ got, x.2 = beatValue m l x.1
  all : ∀ b ∈ bs, got.any (fun x => x.1 == b) = true

theorem BeatsGot.append {m : Memory} {l : Nat → Loc} {as bs : List Nat} {got got' : List (Nat × Nat)} (h : BeatsGot m l as got)
    (h' : BeatsGot m l bs got') (sub : ∀ x ∈ got, x ∈ got') : BeatsGot m l (as ++ bs) got' := by
  refine ⟨h'.right, fun b hb => (List.mem_append.mp hb).elim (fun ha => ?_) (h'.all b)⟩
  obtain ⟨x, hx, e⟩ := List.any_eq_true.mp (h.all b ha)
  exact List.any_eq_true.mpr ⟨x, sub x hx, e⟩

section
variable {s : State} {w : Who} {p : Partition} {l : Nat → Loc} (q : QuietPart s w.part p) (t : Team) {r : TensorRec} (hr : r.kind = 0)
  (evict : Nat)
include q hr

theorem visitBeats_sound (va : Nat) (bs : List Nat) (h : ∀ b ∈ bs, SoundBytes s w l (16 * b) 16) (v : Visit) (x : List L2Line)
    (hv : BeatsGot s.mem l [] v.got) :
    ∃ got x', visitBeats w t r evict none va bs v (withL2 s x) = .ok { v with got := got } (withL2 s x') ∧ BeatsGot s.mem l bs got ∧
      ∀ y ∈ v.got, y ∈ got := by
  induction bs generalizing v x with
  | nil => exact ⟨v.got, x, rfl, hv, fun _ hy => hy⟩
  | cons b bs ih =>
    have hbs : ∀ b ∈ bs, SoundBytes s w l (16 * b) 16 := fun y hy => h y (List.mem_cons_of_mem b hy)
    unfold visitBeats
    by_cases hb : v.got.any (fun x => x.1 == b) = true
    · rw [if_pos hb]
      obtain ⟨got, x', he, hg, sub⟩ := ih hbs v x hv
      exact ⟨got, x', he, BeatsGot.append (as := [b]) ⟨hv.right, by simpa using hb⟩ hg sub, sub⟩
    · obtain ⟨x1, hread⟩ := engRead_sound (quiet_withL2 q x) evict (by decide) ((h b (List.mem_cons_self ..)).withL2 x)
      have now : BeatsGot s.mem l [b] ((b, beatValue s.mem l b) :: v.got) :=
        ⟨fun y hy => (List.mem_cons.mp hy).elim (fun e => by rw [e]) (hv.right y), by simp⟩
      obtain ⟨got, x', he, hg, sub⟩ := ih hbs { v with got := (b, beatValue s.mem l b) :: v.got } x1 ⟨now.right, by simp⟩
      rw [if_neg hb, if_neg (by simp), if_neg (by simp [hr]), hread]
      exact ⟨got, x', he, now.append hg sub, fun y hy => sub y (List.mem_cons_of_mem _ hy)⟩

theorem visitElems_sound (els : List Elem) (h : ∀ b ∈ els.flatMap (elemBeats r), SoundBytes s w l (16 * b) 16) (v : Visit) (x : List L2Line)
    (hv : BeatsGot s.mem l [] v.got) (hf : v.fail = none) :
    ∃ got x', visitElems w t r evict none none els v (withL2 s x) = .ok { v with got := got } (withL2 s x') ∧
      BeatsGot s.mem l (els.flatMap (elemBeats r)) got ∧ ∀ y ∈ v.got, y ∈ got := by
  induction els generalizing v x with
  | nil => exact ⟨v.got, x, rfl, hv, fun _ hy => hy⟩
  | cons e els ih =>
    rw [List.flatMap_cons] at h ⊢
    obtain ⟨got1, x1, he1, hg1, sub1⟩ := visitBeats_sound q t hr evict e.gva (elemBeats r e)
      (fun b hb => h b (List.mem_append_left _ hb)) v x hv
    obtain ⟨got, x', he, hg, sub⟩ := ih (fun b hb => h b (List.mem_append_right _ hb)) { v with got := got1 } x1 ⟨hg1.right, by simp⟩ hf
    have unbound : (if e.inside then (boundCheck (fmtOf r.fmt) none (elemValue r got1 e)).2 else ⟨false, false⟩) =
        (⟨false, false⟩ : Chk) := by
      split <;> rfl
    unfold visitElems
    rw [he1]
    dsimp only
    rw [unbound, if_neg (by simp [hf]), if_neg (by simp), Bool.or_false]
    exact ⟨got, x', he, hg1.append hg sub, fun y hy => sub y (sub1 y hy)⟩

end

/-! The values of elements. -/

theorem fld_bytesNat (bs : List Byte) {i : Nat} (hi : i < bs.length) : fld (bytesNat bs) (8 * i) 8 = bs[i].toNat := by
  induction bs generalizing i with
  | nil => exact absurd hi (Nat.not_lt_zero i)
  | cons b r ih =>
    have hb : b.toNat < 256 := b.isLt
    cases i with
    | zero =>
      show (b.toNat + 256 * bytesNat r) / 2 ^ 0 % 2 ^ 8 = b.toNat
      omega
    | succ i =>
      have hr : i < r.length := Nat.lt_of_succ_lt_succ hi
      show (b.toNat + 256 * bytesNat r) / 2 ^ (8 * (i + 1)) % 2 ^ 8 = r[i].toNat
      rw [show 8 * (i + 1) = 8 + 8 * i by ring, Nat.pow_add, ← Nat.div_div_eq_div_mul,
        show (b.toNat + 256 * bytesNat r) / 2 ^ 8 = bytesNat r by omega]
      exact ih hr

theorem beatValue_byte (m : Memory) (l : Nat → Loc) (a : Nat) : fld (beatValue m l (a / 16)) (8 * (a % 16)) 8 = (mget m (l a).addr).toNat := by
  have hi : a % 16 < (bytesAt m l (16 * (a / 16)) 16).length := by simp [bytesAt]; omega
  rw [beatValue, fld_bytesNat _ hi]
  simp [bytesAt, Nat.div_add_mod]

/-- The value in the beats read is the one in memory. -/
theorem gotValue_right {m : Memory} {l : Nat → Loc} {got : List (Nat × Nat)} {bs : List Nat} (h : BeatsGot m l bs got) (n : Nat) {a : Nat}
    (ha : a + n ≤ 2 ^ 64) (hb : ∀ j, j < n → (a + j) / 16 ∈ bs) : gotValue got a n = bytesNat (bytesAt m l a n) := by
  induction n generalizing a with
  | zero => rfl
  | succ n ih =>
    have here : ((got.find? (fun x => x.1 == a / 16)).map Prod.snd).getD 0 = beatValue m l (a / 16) := by
      cases hf : got.find? (fun x => x.1 == a / 16) with
      | none =>
        have := List.find?_eq_none.mp hf
        obtain ⟨x, hx, e⟩ := List.any_eq_true.mp (h.all _ (hb 0 (Nat.succ_pos n)))
        exact absurd e (this x hx)
      | some x =>
        have e : x.1 = a / 16 := by simpa using List.find?_some hf
        exact e ▸ h.right x (List.mem_of_find?_eq_some hf)
    have hr := ih (a := a + 1) (by omega) (fun j hj => by
      have := hb (j + 1) (by omega)
      rwa [show a + (j + 1) = a + 1 + j by omega] at this)
    unfold gotValue
    rw [Nat.mod_eq_of_lt (show a < 2 ^ 64 by omega), here, beatValue_byte, hr, bytesAt_succ]
    rfl

end Sys2Proof.Machine
end

section
/-! PROOFS. A tensor copy of one row of 16 F32 elements side by side: where its elements lie, and the beat that it lands (R203, R206, R208). -/
namespace Sys2Proof.Claims

open Sys2Proof.Machine

/-- Element `k` of the row. -/
def rowElem (r : TensorRec) (k : Nat) : Elem := ⟨true, r.base + 4 * k, 4 * k⟩

section
variable {r : TensorRec} (h : RowCopy r)
include h

theorem RowCopy.size : copyElem r.fmt = 4 ∧ boxRows r = 1 := by
  obtain ⟨-, hfmt, -⟩ := h.kind
  constructor
  · rw [hfmt]
    rfl
  · unfold boxRows boxSize
    rw [h.dims]
    rfl

theorem RowCopy.elem {k : Nat} (hk : k < 16) : elemAt r (boxIdx r.dims k) = rowElem r k := by
  obtain ⟨-, -, hbase⟩ := h.place
  obtain ⟨-, -, -, hswz, -⟩ := h.kind
  have inside : (decide ((0 : Int) ≤ k) && decide ((k : Int) < 16)) = true := by simp; omega
  unfold elemAt rowElem
  rw [h.dims, h.size.1, hswz]
  simp only [boxIdx, Nat.mod_eq_of_lt hk, List.zip_cons_cons, List.zip_nil_right, List.map_cons, List.map_nil, List.foldl_cons,
    List.foldl_nil, linear, swizzle, if_true, Int.zero_add, Nat.cast_ofNat, inside, Bool.true_or, List.all_cons, List.all_nil,
    Bool.and_self, wrapN, Nat.zero_mul, Nat.zero_add, Int.mul_one, Elem.mk.injEq, true_and]
  constructor
  · omega
  · simp [Nat.mul_comm]

theorem RowCopy.row : rowElems r 0 = (List.range 16).map (rowElem r) := by
  unfold rowElems
  rw [h.dims]
  dsimp only
  rw [← h.dims]
  refine List.map_congr_left fun k hk => ?_
  rw [Nat.zero_mul, Nat.zero_add]
  exact h.elem (List.mem_range.mp hk)

theorem RowCopy.source (k : Nat) : elemSrc r (rowElem r k) = some (r.base + 4 * k) := by
  unfold elemSrc
  rw [h.kind.1]
  rfl

theorem RowCopy.bytes {k : Nat} (hk : k < 16) : elemBytes r (rowElem r k) = (List.range 4).map (fun j => r.dest + 4 * k + j) := by
  obtain ⟨-, hdest, -⟩ := h.place
  unfold elemBytes elemDest
  rw [h.size.1, h.kind.1]
  refine (if_neg (by simp)).trans (List.map_congr_left fun j hj => ?_)
  have := List.mem_range.mp hj
  exact Nat.mod_eq_of_lt (show r.dest + 4 * k + j < 2 ^ 64 by omega)

theorem RowCopy.beats (k : Nat) : elemBeats r (rowElem r k) = srcBeats (r.base + 4 * k) 4 := by
  unfold elemBeats
  rw [h.source, h.size.1]

/-- The beats that the row reads lie in the blocks of 16 bytes that hold it. -/
theorem RowCopy.beats_in {k b : Nat} (hk : k < 16) (hb : b ∈ elemBeats r (rowElem r k)) :
    r.base / 16 * 16 ≤ 16 * b ∧ 16 * b + 16 ≤ (r.base + 79) / 16 * 16 := by
  obtain ⟨-, -, hbase⟩ := h.place
  rw [h.beats] at hb
  obtain ⟨i, hi, rfl⟩ := List.mem_map.mp hb
  have := List.mem_range.mp hi
  omega

/-- The beat of each byte of an element is among them. -/
theorem RowCopy.beats_all {k j : Nat} (hk : k < 16) (hj : j < 4) : (r.base + 4 * k + j) / 16 ∈ elemBeats r (rowElem r k) := by
  obtain ⟨-, -, hbase⟩ := h.place
  rw [h.beats]
  refine List.mem_map.mpr ⟨(r.base + 4 * k + j) / 16 - (r.base + 4 * k) / 16, List.mem_range.mpr ?_, ?_⟩ <;> omega

theorem RowCopy.beatElems : beatElems r 0 (r.dest / 64) = (List.range 16).map (fun k => (k, rowElem r k)) := by
  obtain ⟨halign, -, -⟩ := h.place
  have numbered : ((rowElems r 0).zipIdx).map (fun x => (0 * (rowElems r 0).length + x.2, x.1)) =
      (List.range 16).map (fun k => (k, rowElem r k)) := by
    rw [h.row]
    rfl
  unfold Machine.beatElems
  dsimp only
  rw [numbered]
  refine List.filter_eq_self.mpr fun x hx => ?_
  obtain ⟨k, hk, rfl⟩ := List.mem_map.mp hx
  have hk := List.mem_range.mp hk
  rw [h.bytes hk]
  refine List.any_eq_true.mpr ⟨r.dest + 4 * k + 0, List.mem_map.mpr ⟨0, by simp, rfl⟩, ?_⟩
  rw [beq_iff_eq]
  omega

/-- The elements that a visit from the start up to the last of the row reads. -/
theorem RowCopy.todo : (List.range 16).map (fun n => elemAt r (boxIdx r.dims (0 + n))) = (List.range 16).map (rowElem r) := by
  refine List.map_congr_left fun k hk => ?_
  rw [Nat.zero_add]
  exact h.elem (List.mem_range.mp hk)

end

end Sys2Proof.Claims
end

section
/-! PROOFS. The bytes that the beat of a row lands, and what they leave in the scratchpad (R203, R208). -/
namespace Sys2Proof.Machine

open Sys2Proof.Claims

theorem ofNat_bytesNat (bs : List Byte) {j : Nat} (hj : j < bs.length) : BitVec.ofNat 8 (bytesNat bs / 2 ^ (8 * j)) = bs[j] :=
  BitVec.eq_of_toNat_eq ((BitVec.toNat_ofNat ..).trans (fld_bytesNat bs hj))

/-- Four bytes for each of 16 elements are 64 bytes. -/
theorem range_rows {α : Type} (f : Nat → α) : (List.range 16).flatMap (fun k => (List.range 4).map (fun j => f (4 * k + j))) =
    (List.range 64).map f :=
  rfl

/-- What an element lands of destination block `blk`. -/
def elemOut (r : TensorRec) (got : List (Nat × Nat)) (blk : Nat) (x : Nat × Elem) : List (Nat × Nat × Byte) :=
  ((elemBytes r x.2).zipIdx.filter (fun p => p.1 / 64 == blk)).map (fun p =>
    (x.1, p.1, BitVec.ofNat 8 (elemValue r got x.2 / 2 ^ (8 * p.2))))

theorem beatOut_unbound (r : TensorRec) (got : List (Nat × Nat)) (blk : Nat) (els : List (Nat × Elem)) :
    beatOut r none got blk els = els.flatMap (elemOut r got blk) := by
  unfold beatOut boundCheck
  simp only [ite_self]
  rfl

end Sys2Proof.Machine

namespace Sys2Proof.Claims

open Sys2Proof.Machine

section
variable {r : TensorRec} (h : RowCopy r) {m : Memory} {l : Nat → Loc} {got : List (Nat × Nat)}
  (hg : BeatsGot m l (((List.range 16).map (rowElem r)).flatMap (elemBeats r)) got)
include h hg

theorem RowCopy.value {k : Nat} (hk : k < 16) : elemValue r got (rowElem r k) = bytesNat (bytesAt m l (r.base + 4 * k) 4) := by
  obtain ⟨-, -, hbase⟩ := h.place
  unfold elemValue
  rw [h.source, h.size.1]
  exact gotValue_right hg 4 (by omega) fun j hj =>
    List.mem_flatMap.mpr ⟨rowElem r k, List.mem_map.mpr ⟨k, List.mem_range.mpr hk, rfl⟩, h.beats_all hk hj⟩

theorem RowCopy.elemOut {k : Nat} (hk : k < 16) : (elemOut r got (r.dest / 64) (k, rowElem r k)).map (fun p => (p.2.1, p.2.2)) =
    (List.range 4).map (fun j => (r.dest + (4 * k + j), mget m (l (r.base + (4 * k + j))).addr)) := by
  obtain ⟨halign, -, -⟩ := h.place
  have numbered : ((List.range 4).map (fun j => r.dest + 4 * k + j)).zipIdx = (List.range 4).map (fun j => (r.dest + 4 * k + j, j)) := rfl
  have within : ∀ p ∈ (List.range 4).map (fun j => (r.dest + 4 * k + j, j)), (p.1 / 64 == r.dest / 64) = true := by
    intro p hp
    obtain ⟨j, hj, rfl⟩ := List.mem_map.mp hp
    have := List.mem_range.mp hj
    rw [beq_iff_eq]
    omega
  unfold Machine.elemOut
  rw [h.bytes hk, numbered, List.filter_eq_self.mpr within, h.value hg hk, List.map_map, List.map_map]
  refine List.map_congr_left fun j hj => ?_
  have hj : j < (bytesAt m l (r.base + 4 * k) 4).length := by simpa [bytesAt] using hj
  simp only [Function.comp, ofNat_bytesNat _ hj]
  simp [bytesAt, Nat.add_assoc]

theorem RowCopy.out : (beatOut r none got (r.dest / 64) ((List.range 16).map (fun k => (k, rowElem r k)))).map (fun p => (p.2.1, p.2.2)) =
    (List.range 64).map (fun j => (r.dest + j, mget m (l (r.base + j)).addr)) := by
  rw [beatOut_unbound, List.flatMap_map, List.map_flatMap]
  refine (List.flatMap_congr fun k hk => ?_).trans (range_rows _)
  exact h.elemOut hg (List.mem_range.mp hk)

end

end Sys2Proof.Claims

namespace Sys2Proof.Machine

open Sys2Proof.Claims

/-! A list of bytes put into a scratchpad one by one. -/

theorem spPut_nil (t : Team) (core a : Nat) : spPut t core a [] = t := by
  unfold spPut
  split <;> rfl

theorem spPut_cons (t : Team) (core : Nat) {a : Nat} (b : Byte) {bs : List Byte} (h : a + (bs.length + 1) ≤ 2 ^ 20) :
    spPut (spPut t core a [b]) core (a + 1) bs = spPut t core a (b :: bs) := by
  cases bs with
  | nil => exact spPut_nil _ _ _
  | cons x r =>
    rw [List.length_cons] at h
    have low : decide (2 ^ 20 ≤ a) = false ∧ decide (2 ^ 20 ≤ a + 1) = false := by
      constructor <;> exact decide_eq_false (by omega)
    unfold spPut
    rw [low.1, low.2, Nat.mod_eq_of_lt (show a < 2 ^ 20 by omega), Nat.mod_eq_of_lt (show a + 1 < 2 ^ 20 by omega)]
    cases hside : spSide t core false
    · rw [if_neg Bool.false_ne_true, if_neg Bool.false_ne_true, if_neg]
      · rfl
      · exact fun e => Bool.noConfusion (hside.symm.trans e)
    · rw [if_pos rfl, if_pos rfl, if_pos]
      · rfl
      · exact hside

theorem foldl_spPut (core : Nat) (f : Nat → Byte) (n : Nat) {a : Nat} (h : a + n ≤ 2 ^ 20) (t : Team) :
    ((List.range n).map (fun j => (a + j, f j))).foldl (fun u p => spPut u core p.1 [p.2]) t = spPut t core a ((List.range n).map f) := by
  induction n generalizing a f t with
  | zero => exact (spPut_nil t core a).symm
  | succ n ih =>
    have next : (List.range n).map ((fun j => (a + j, f j)) ∘ Nat.succ) = (List.range n).map (fun j => (a + 1 + j, f (j + 1))) :=
      List.map_congr_left fun j _ => by simp [Nat.add_comm, Nat.add_left_comm]
    rw [List.range_succ_eq_map, List.map_cons, List.map_map, List.foldl_cons, next, ih (fun j => f (j + 1)) (by omega), List.map_cons,
      List.map_map]
    exact spPut_cons t core (f 0) (by simpa using h)

end Sys2Proof.Machine
end

section
/-! PROOFS. A stage barrier that counts a landed beat, and its phase (R207, R208). -/
namespace Sys2Proof.Machine

open Sys2Proof.Claims

/-! A field of a number replaced. -/

/-- The replaced bits with the parts of the number above and below them. -/
theorem sbSet_parts (v lo len x : Nat) :
    sbSet v lo len x = v / 2 ^ (lo + len) * 2 ^ (lo + len) + x % 2 ^ len * 2 ^ lo + v % 2 ^ lo := by
  have hlow := Nat.div_add_mod v (2 ^ lo)
  have hmid := Nat.div_add_mod (v / 2 ^ lo) (2 ^ len)
  rw [Nat.div_div_eq_div_mul, ← Nat.pow_add] at hmid
  have split : v = v / 2 ^ (lo + len) * 2 ^ (lo + len) + fld v lo len * 2 ^ lo + v % 2 ^ lo := by
    unfold fld
    calc v = 2 ^ lo * (2 ^ len * (v / 2 ^ (lo + len)) + v / 2 ^ lo % 2 ^ len) + v % 2 ^ lo := by rw [hmid, hlow]
      _ = _ := by rw [Nat.pow_add]; ring
  unfold sbSet
  omega

section
variable (v lo len x : Nat)

theorem sbSet_low : sbSet v lo len x % 2 ^ lo = v % 2 ^ lo := by
  rw [sbSet_parts, Nat.pow_add, show v / (2 ^ lo * 2 ^ len) * (2 ^ lo * 2 ^ len) + x % 2 ^ len * 2 ^ lo + v % 2 ^ lo =
    v % 2 ^ lo + 2 ^ lo * (v / (2 ^ lo * 2 ^ len) * 2 ^ len + x % 2 ^ len) by ring, Nat.add_mul_mod_self_left, Nat.mod_mod]

/-- The replaced bits and those above them. -/
theorem sbSet_div : sbSet v lo len x / 2 ^ lo = v / 2 ^ (lo + len) * 2 ^ len + x % 2 ^ len := by
  rw [sbSet_parts, Nat.pow_add, show v / (2 ^ lo * 2 ^ len) * (2 ^ lo * 2 ^ len) + x % 2 ^ len * 2 ^ lo + v % 2 ^ lo =
    v % 2 ^ lo + 2 ^ lo * (v / (2 ^ lo * 2 ^ len) * 2 ^ len + x % 2 ^ len) by ring, Nat.add_mul_div_left _ _ (Nat.two_pow_pos lo),
    Nat.div_eq_of_lt (Nat.mod_lt _ (Nat.two_pow_pos lo)), Nat.zero_add]

theorem sbSet_high : sbSet v lo len x / 2 ^ (lo + len) = v / 2 ^ (lo + len) := by
  rw [Nat.pow_add, ← Nat.div_div_eq_div_mul, sbSet_div, Nat.mul_comm, Nat.mul_add_div (Nat.two_pow_pos len),
    Nat.div_eq_of_lt (Nat.mod_lt _ (Nat.two_pow_pos len)), Nat.add_zero, Nat.pow_add]

theorem fld_sbSet_same : fld (sbSet v lo len x) lo len = x % 2 ^ len := by
  unfold fld
  rw [sbSet_div, Nat.mul_comm, Nat.mul_add_mod, Nat.mod_mod]

theorem fld_sbSet_other {a n : Nat} (h : a + n ≤ lo ∨ lo + len ≤ a) : fld (sbSet v lo len x) a n = fld v a n := by
  rcases h with h | h
  · rw [← fld_mod _ h, sbSet_low, fld_mod _ h]
  · rw [← fld_div _ h, sbSet_high, fld_div _ h]

theorem sbSet_lt {n : Nat} (hv : v < 2 ^ n) (h : lo + len ≤ n) : sbSet v lo len x < 2 ^ n := by
  obtain ⟨d, rfl⟩ := Nat.exists_eq_add_of_le h
  rw [Nat.add_comm, Nat.pow_add] at hv ⊢
  rw [← Nat.div_lt_iff_lt_mul (Nat.two_pow_pos _), sbSet_high, Nat.div_lt_iff_lt_mul (Nat.two_pow_pos _)]
  exact hv

end

/-! The 128 bits of a stage barrier. -/

theorem sbGet_lt (t : Team) (k : Bool × Nat) : sbGet t k < 2 ^ 128 := mread_lt _ _ _

theorem sbGet_sbPut (t : Team) (k : Bool × Nat) {v : Nat} (hv : v < 2 ^ 128) : sbGet (sbPut t k v) k = v := by
  unfold sbPut
  rw [sbGet, spOf_spWrite, mread_mwrite]
  exact Nat.mod_eq_of_lt hv

theorem mget_sbPut_other (t : Team) (k : Bool × Nat) (v : Nat) {a : Nat} (h : a < k.2 ∨ k.2 + 16 ≤ a) :
    mget (spOf (sbPut t k v) k.1) a = mget (spOf t k.1) a := by
  unfold sbPut
  rw [spOf_spWrite, mget_mwrite_other _ _ _ _ _ h]

/-- The bits of a stage barrier once `m` bytes more have arrived, as far as there is room (R208). -/
def sbArrived (v m : Nat) : Nat := sbSet v 32 32 (fld v 32 32 + min m (fld v 0 32 - fld v 32 32))

theorem sbArrived_lt {v : Nat} (hv : v < 2 ^ 128) (m : Nat) : sbArrived v m < 2 ^ 128 := sbSet_lt _ _ _ _ hv (by decide)

theorem fld_sbArrived_same (v m : Nat) : fld (sbArrived v m) 32 32 = fld v 32 32 + min m (fld v 0 32 - fld v 32 32) := by
  have h0 : fld v 0 32 < 2 ^ 32 := Nat.mod_lt _ (by decide)
  have h1 : fld v 32 32 < 2 ^ 32 := Nat.mod_lt _ (by decide)
  exact (fld_sbSet_same ..).trans (Nat.mod_eq_of_lt (by omega))

theorem fld_sbArrived_other (v m : Nat) {a n : Nat} (h : a + n ≤ 32 ∨ 64 ≤ a) : fld (sbArrived v m) a n = fld v a n :=
  fld_sbSet_other _ _ _ _ h

/-- The bits of a stage barrier whose phase completes (R208). -/
def sbCompleted (v : Nat) (over' : Bool) : Nat :=
  sbSet (sbSet (sbSet (sbSet (sbSet v 0 32 0) 32 32 0) 80 16 0) 100 1 (1 - fld v 100 1)) 101 1 (b2n over')

theorem sbCompleted_lt {v : Nat} (hv : v < 2 ^ 128) (over' : Bool) : sbCompleted v over' < 2 ^ 128 := by
  unfold sbCompleted
  iterate 5 refine sbSet_lt _ _ _ _ ?_ (by decide)
  exact hv

theorem fld_sbCompleted (v : Nat) (over' : Bool) :
    fld (sbCompleted v over') 0 32 = 0 ∧ fld (sbCompleted v over') 32 32 = 0 ∧ fld (sbCompleted v over') 80 16 = 0 ∧
      fld (sbCompleted v over') 64 16 = fld v 64 16 ∧ fld (sbCompleted v over') 100 1 = 1 - fld v 100 1 ∧
      fld (sbCompleted v over') 101 1 = b2n over' := by
  have hphase : (1 - fld v 100 1) % 2 ^ 1 = 1 - fld v 100 1 := Nat.mod_eq_of_lt (by omega)
  have hover : b2n over' % 2 ^ 1 = b2n over' := by cases over' <;> rfl
  unfold sbCompleted
  simp (disch := decide) only [fld_sbSet_same, fld_sbSet_other, hphase, hover, Nat.zero_mod, and_self]

theorem sbGet_sbComplete (t : Team) (k : Bool × Nat) : sbGet (sbComplete t k) k = sbCompleted (sbGet t k) (t.excess.contains k) :=
  sbGet_sbPut t k (sbCompleted_lt (sbGet_lt t k) _)

theorem mget_sbComplete_other (t : Team) (k : Bool × Nat) {a : Nat} (h : a < k.2 ∨ k.2 + 16 ≤ a) :
    mget (spOf (sbComplete t k) k.1) a = mget (spOf t k.1) a := mget_sbPut_other t k _ h

/-! A landed beat (R208). -/

/-- Excess bytes have arrived among `m`. -/
def sbOver (t : Team) (k : Bool × Nat) (m : Nat) : Bool := decide (fld (sbGet t k) 0 32 - fld (sbGet t k) 32 32 < m)

/-- The team once `m` bytes have arrived at a stage barrier, before its phase is tested. -/
def beatArrived (t : Team) (k : Bool × Nat) (m : Nat) : Team :=
  let t1 := sbPut t k (sbArrived (sbGet t k) m)
  if sbOver t k m && !t1.excess.contains k then { t1 with excess := k :: t1.excess } else t1

theorem sbBeat_eq (t : Team) (k : Bool × Nat) (m : Nat) : sbBeat t k m = (sbTest (beatArrived t k m) k, sbOver t k m) := rfl

section
variable (t : Team) (k : Bool × Nat) (m : Nat)

theorem beatArrived_sides : spOf (beatArrived t k m) = spOf (sbPut t k (sbArrived (sbGet t k) m)) := by
  unfold beatArrived
  dsimp only
  split <;> rfl

theorem sbGet_beatArrived : sbGet (beatArrived t k m) k = sbArrived (sbGet t k) m := by
  rw [sbGet, beatArrived_sides]
  exact sbGet_sbPut t k (sbArrived_lt (sbGet_lt t k) m)

/-- What a barrier's count leaves of a team: its name, whether it is resident, its killed groups. -/
def teamKey (t : Team) : Nat × Nat × Nat × Bool × Nat := (t.part, t.task, t.index, t.live, t.killed)

theorem teamKey_sbPut (v : Nat) : teamKey (sbPut t k v) = teamKey t := by
  unfold sbPut spWrite
  split <;> rfl

theorem sbPut_excess (v : Nat) : (sbPut t k v).excess = t.excess := by
  unfold sbPut spWrite
  split <;> rfl

theorem teamKey_beatArrived : teamKey (beatArrived t k m) = teamKey t := by
  have := teamKey_sbPut t k (sbArrived (sbGet t k) m)
  unfold beatArrived
  dsimp only
  split <;> exact this

theorem teamKey_sbTest : teamKey (sbTest t k) = teamKey t := by
  unfold sbTest
  split
  · exact teamKey_sbPut t k _
  · rfl

theorem beatArrived_excess : (beatArrived t k m).excess.contains k = (sbOver t k m || t.excess.contains k) := by
  unfold beatArrived
  dsimp only
  rw [sbPut_excess]
  cases ho : sbOver t k m
  · simp [sbPut_excess]
  · by_cases he : k ∈ t.excess <;> simp [sbPut_excess, he]

theorem mget_sbBeat_other {a : Nat} (h : a < k.2 ∨ k.2 + 16 ≤ a) : mget (spOf (sbBeat t k m).1 k.1) a = mget (spOf t k.1) a := by
  have harr : mget (spOf (beatArrived t k m) k.1) a = mget (spOf t k.1) a := by
    rw [beatArrived_sides]
    exact mget_sbPut_other t k _ h
  rw [sbBeat_eq]
  unfold sbTest
  split
  · exact (mget_sbComplete_other _ k h).trans harr
  · exact harr

variable {t} (hk : t.killed = 0)
include hk

theorem sbDone_beatArrived : sbDone (beatArrived t k m) k = true ↔ fld (sbGet t k) 80 16 = fld (sbGet t k) 64 16 ∧
    fld (sbGet t k) 32 32 + min m (fld (sbGet t k) 0 32 - fld (sbGet t k) 32 32) = fld (sbGet t k) 0 32 := by
  have hkilled : (beatArrived t k m).killed = 0 := (congrArg (fun x => x.2.2.2.2) (teamKey_beatArrived t k m)).trans hk
  unfold sbDone
  dsimp only
  rw [sbGet_beatArrived, hkilled, fld_sbArrived_same, fld_sbArrived_other _ _ (by decide), fld_sbArrived_other _ _ (by decide),
    fld_sbArrived_other _ _ (by decide)]
  simp only [bne_self_eq_false, Bool.false_or, Bool.and_eq_true, beq_iff_eq]
  exact and_comm

/-- The beat counts at its barrier (R208). -/
theorem sbBeat_counts : BeatCounted t (sbBeat t k m).1 k.1 k.2 m := by
  have hexc : ((sbOver t k m || t.excess.contains k) = true) ↔ (fld (sbGet t k) 0 32 - fld (sbGet t k) 32 32 < m ∨ k ∈ t.excess) := by
    simp [sbOver]
  rw [sbBeat_eq]
  by_cases hd : sbDone (beatArrived t k m) k = true
  · have hget : sbGet (sbTest (beatArrived t k m) k) k = sbCompleted (sbArrived (sbGet t k) m) (sbOver t k m || t.excess.contains k) := by
      rw [sbTest, if_pos hd, sbGet_sbComplete, sbGet_beatArrived, beatArrived_excess]
    obtain ⟨h0, h32, h80, h64, h100, h101⟩ := fld_sbCompleted (sbArrived (sbGet t k) m) (sbOver t k m || t.excess.contains k)
    rw [← hget] at h0 h32 h80 h64 h100 h101
    refine (if_pos ((sbDone_beatArrived k m hk).mp hd)).mpr ⟨h100.trans ?_, h101.trans ?_, h80, h32, h0, h64.trans ?_⟩
    · rw [fld_sbArrived_other _ _ (by decide)]
      rfl
    · exact if_congr hexc rfl rfl
    · exact fld_sbArrived_other _ _ (by decide)
  · have hget : sbGet (sbTest (beatArrived t k m) k) k = sbArrived (sbGet t k) m := by
      rw [sbTest, if_neg hd, sbGet_beatArrived]
    have h32 := fld_sbArrived_same (sbGet t k) m
    have h0 := fld_sbArrived_other (sbGet t k) m (a := 0) (n := 32) (by decide)
    have h64 := fld_sbArrived_other (sbGet t k) m (a := 64) (n := 64) (by decide)
    rw [← hget] at h32 h0 h64
    exact (if_neg (fun e => hd ((sbDone_beatArrived k m hk).mpr e))).mpr ⟨h32, h0, h64⟩

end

end Sys2Proof.Machine
end

section
/-! PROOFS. The beat of a tensor copy: one that does not land, and the row of 16 F32 elements that does (R203 to R208). -/
namespace Sys2Proof.Machine

open Sys2Proof.Claims

section
variable {s : State} {g : Group} {c : Copy} {tm : Team} (h : FirstCopy s g c tm) {r : TensorRec} (hk : c.kind = .tensor r)
include h hk

theorem copyBeatLand_tensor (hc : c.started = true) (h0 : c.code = 0) : exec .copyBeatLand s =
    landTensor s g.id 0 g c r s.inp.off s.inp.size s.inp.flag s.inp.va s.inp.ecc := by
  show execCopyBeatLand s = _
  unfold execCopyBeatLand
  dsimp only
  rw [h.named, h.found, h.only.2]
  dsimp only
  rw [h.copy]
  dsimp only
  rw [if_neg (by simp [h.core, hc]), hk]
  exact if_neg (by simp [h0])

/-- A copy that has not started or has failed lands no beat. -/
theorem copyBeatLand_idle (hi : c.started = false ∨ c.code ≠ 0) : exec .copyBeatLand s = .next s := by
  show execCopyBeatLand s = _
  unfold execCopyBeatLand
  dsimp only
  rw [h.named, h.found, h.only.2]
  dsimp only
  rw [h.copy]
  dsimp only
  by_cases hc : c.started = true
  · rw [if_neg (by simp [h.core, hc]), hk]
    exact if_pos (by simpa [hc] using hi)
  · exact if_pos (by simp [hc])

end

/-- No element of a row lands in a block that none of its bytes lies in. -/
theorem beatElems_none {r : TensorRec} {row blk : Nat} (h : blk ∉ ((rowElems r row).flatMap (elemBytes r)).map (· / 64)) :
    beatElems r row blk = [] := by
  unfold beatElems
  refine List.filter_eq_nil_iff.mpr fun x hx hany => h ?_
  obtain ⟨y, hy, rfl⟩ := List.mem_map.mp hx
  obtain ⟨a, ha, e⟩ := List.any_eq_true.mp hany
  have helem : y.1 ∈ rowElems r row := by
    obtain ⟨-, -, hy⟩ := List.mem_zipIdx hy
    rw [hy]
    exact List.getElem_mem _
  exact List.mem_map.mpr ⟨a, List.mem_flatMap.mpr ⟨y.1, helem, ha⟩, by simpa using e⟩

theorem landTensor_none {s : State} {id : GroupId} {k : Nat} {g : Group} {c : Copy} {r : TensorRec} {row blk : Nat} (va : Nat) (ecc : Ecc)
    (h : beatElems r row blk = []) : landTensor s id k g c r row blk false va ecc = .next s := by
  unfold landTensor
  dsimp only
  rw [h]
  exact if_pos (by simp)

/-! The beat that lands. -/

/-- A copy once its visit has read the beats `got` up to element `top`. -/
def copyVisited (got : List (Nat × Nat)) (top : Nat) (c : Copy) : Copy := { c with got := got, visited := top }

/-- A copy to a scratchpad once a beat of `m` bytes has landed. -/
def copyLanded (row blk m : Nat) (exc : Bool) (c : Copy) : Copy :=
  { c with landed := c.landed ++ [beatId row blk], bytes := c.bytes + m, excess := c.excess || exc }

/-- The team of core `core` once bytes have landed at `a` of its scratchpad and are counted at the barrier `bar`, and whether there was
excess. -/
def beatTeam (t : Team) (core a : Nat) (bs : List Byte) (bar : Option Nat) : Team × Bool := countBeat (spPut t core a bs) core bar bs.length

/-- A beat of `n` bytes in a row lands in a scratchpad. -/
theorem landBeat_scratch {s : State} {id : GroupId} {k : Nat} {g : Group} {c : Copy} {r : TensorRec} {row blk a n : Nat}
    {out : List (Nat × Nat × Byte)} {f : Nat → Byte} (hr : r.kind = 0)
    (ho : out.map (fun p => (p.2.1, p.2.2)) = (List.range n).map (fun j => (a + j, f j))) (ha : a + n ≤ 2 ^ 20) :
    let x := beatTeam (teamOf s id) g.core a ((List.range n).map f) c.barrier
    landBeat s id k g c r row blk out = .next (modCopy (modTeamOf s id (fun _ => x.1)) id k (copyLanded row blk n x.2)) := by
  have hn : out.length = n := by simpa using congrArg List.length ho
  unfold landBeat
  dsimp only
  rw [if_neg (by simp [hr]), if_neg (by simp [hr]), if_pos hr, ho, foldl_spPut g.core f n ha, hn]
  unfold beatTeam
  rw [List.length_map, List.length_range]
  rfl

section
variable {r : TensorRec} (hrow : RowCopy r) {s : State} {g : Group} {c : Copy} {p : Partition} {l : Nat → Loc}
  (q : QuietPart s g.id.part p) (hb : c.bound = none ∧ c.visited = 0 ∧ c.got = [] ∧ c.landed = [])
  (hs : ∀ a, r.base / 16 * 16 ≤ a → a < (r.base + 79) / 16 * 16 → SoundByte s (copyWho s g c) a (l a))
include hrow q hb hs

/-- The row is read, and its beat lands what memory holds. -/
theorem landTensor_row (va : Nat) : ∃ got x, landTensor s g.id 0 g c r 0 (r.dest / 64) false va .clean =
    let t := beatTeam (teamOf s g.id) g.core r.dest (bytesAt s.mem l r.base 64) c.barrier
    .next (modCopy (modTeamOf (modCopy (withL2 s x) g.id 0 (copyVisited got 16)) g.id (fun _ => t.1)) g.id 0
      (copyLanded 0 (r.dest / 64) 64 t.2)) := by
  obtain ⟨hbound, hvis, hgot, hland⟩ := hb
  obtain ⟨-, hdest, hbase⟩ := hrow.place
  have sound : ∀ b ∈ ((List.range 16).map (rowElem r)).flatMap (elemBeats r), SoundBytes s (copyWho s g c) l (16 * b) 16 := by
    intro b hb
    obtain ⟨e, he, hbe⟩ := List.mem_flatMap.mp hb
    obtain ⟨k, hk, rfl⟩ := List.mem_map.mp he
    obtain ⟨hlo, hhi⟩ := hrow.beats_in (List.mem_range.mp hk) hbe
    exact ⟨by omega, fun j hj => hs _ (by omega) (by omega)⟩
  obtain ⟨got, x, hvisit, hg, -⟩ := visitElems_sound (w := copyWho s g c) q (teamOf s g.id) hrow.kind.1 c.evict _ sound ⟨[], false, none⟩
    s.dev.l2 ⟨by simp, by simp⟩ rfl
  have hvisit : visitElems (copyWho s g c) (teamOf s g.id) r c.evict none none ((List.range 16).map (rowElem r)) ⟨[], false, none⟩ s =
    .ok ⟨got, false, none⟩ (withL2 s x) := hvisit
  refine ⟨got, x, ?_⟩
  unfold landTensor
  dsimp only
  rw [hrow.size.2, hrow.beatElems, if_neg (by simp [hland]), if_pos (by simp), hvis, hbound, hgot]
  dsimp only
  have htop : ((((List.range 16).map (fun k => (k, rowElem r k))).getLast?.map Prod.fst).getD 0) + 1 - 0 = 16 := rfl
  rw [if_neg Bool.false_ne_true, htop, hrow.todo]
  rw [hvisit]
  exact landBeat_scratch hrow.kind.1 (hrow.out hg) hdest

end

/-! The team that the beat leaves. -/

theorem mread_eq_of_bytes {m m' : Memory} {a n : Nat} (h : ∀ b, a ≤ b → b < a + n → mget m b = mget m' b) : mread m a n = mread m' a n := by
  induction n generalizing a with
  | zero => rfl
  | succ n ih =>
    unfold mread
    rw [h a (Nat.le_refl a) (by omega), ih (a := a + 1) (fun b hlo hhi => h b (by omega) (by omega))]

theorem spPut_keeps (t : Team) (core a : Nat) (bs : List Byte) :
    teamKey (spPut t core a bs) = teamKey t ∧ (spPut t core a bs).excess = t.excess ∧ (spPut t core a bs).twin = t.twin := by
  unfold spPut
  split <;> exact ⟨rfl, rfl, rfl⟩

/-- A barrier counts a beat by its own bits and by whether it holds excess bytes. -/
theorem BeatCounted_congr {t u v : Team} {odd : Bool} {a m : Nat} (hg : sbGet u (odd, a) = sbGet t (odd, a)) (he : u.excess = t.excess)
    (h : BeatCounted u v odd a m) : BeatCounted t v odd a m := by
  have hg : mread (spOf u odd) a 16 = mread (spOf t odd) a 16 := hg
  simp only [BeatCounted, hg, he] at h ⊢
  exact h

theorem barKey_low (t : Team) (core : Nat) {b : Nat} (hb : b < 2 ^ 20) : barKey t core b = (spSide t core false, b) := by
  unfold barKey
  rw [decide_eq_false (Nat.not_le.mpr hb), Nat.mod_eq_of_lt hb]

section
variable (t : Team) (core : Nat) {a : Nat} {bs : List Byte}

theorem teamKey_beatTeam (bar : Option Nat) : teamKey (beatTeam t core a bs bar).1 = teamKey t := by
  have hput := (spPut_keeps t core a bs).1
  unfold beatTeam countBeat
  cases bar with
  | none => exact hput
  | some b => exact (teamKey_sbTest _ _).trans ((teamKey_beatArrived _ _ _).trans hput)

theorem sbGet_spPut {b : Nat} (ha : a < 2 ^ 20) (hd : b + 16 ≤ a ∨ a + bs.length ≤ b) :
    sbGet (spPut t core a bs) (spSide t core false, b) = sbGet t (spSide t core false, b) := by
  unfold sbGet
  rw [spOf_spPut t core ha]
  exact mread_eq_of_bytes fun x hlo hhi => mget_mputs_other _ _ _ _ (by dsimp only at *; omega)

variable {b : Nat} (hb : b + 16 ≤ 2 ^ 20)
include hb

theorem beatTeam_some : beatTeam t core a bs (some b) = sbBeat (spPut t core a bs) (spSide t core false, b) bs.length := by
  have hkey : barKey (spPut t core a bs) core b = (spSide t core false, b) := by
    rw [barKey_low _ _ (by omega), spSide, (spPut_keeps t core a bs).2.2]
    rfl
  unfold beatTeam countBeat
  dsimp only
  rw [hkey]

variable (ha : a < 2 ^ 20) (hd : b + 16 ≤ a ∨ a + bs.length ≤ b)
include ha hd

theorem beatTeam_counts (hk : t.killed = 0) :
    BeatCounted t (beatTeam t core a bs (some b)).1 (spSide t core false) b bs.length ∧
      (beatTeam t core a bs (some b)).2 = sbOver t (spSide t core false, b) bs.length := by
  have hget := sbGet_spPut t core ha hd
  obtain ⟨hkey, hexc, -⟩ := spPut_keeps t core a bs
  have hkilled : (spPut t core a bs).killed = 0 := (congrArg (fun x => x.2.2.2.2) hkey).trans hk
  rw [beatTeam_some t core hb]
  refine ⟨BeatCounted_congr hget hexc (sbBeat_counts _ _ hkilled), ?_⟩
  rw [sbBeat_eq, sbOver, hget]
  rfl

end

/-- The bytes that a beat lands stay when it has been counted. -/
theorem beatTeam_bytes (t : Team) (core : Nat) {a j : Nat} {bs : List Byte} (bar : Option Nat) (ha : a + bs.length ≤ 2 ^ 20)
    (hb : ∀ b, bar = some b → b + 16 ≤ 2 ^ 20 ∧ (b + 16 ≤ a ∨ a + bs.length ≤ b)) (hj : j < bs.length) :
    mget (spOf (beatTeam t core a bs bar).1 (spSide t core false)) (a + j) = bs[j] := by
  have hput : mget (spOf (spPut t core a bs) (spSide t core false)) (a + j) = bs[j] := by
    rw [spOf_spPut t core (by omega)]
    exact mget_mputs _ _ _ hj
  cases bar with
  | none => exact hput
  | some b =>
    obtain ⟨hlow, hdis⟩ := hb b rfl
    rw [beatTeam_some t core hlow]
    exact (mget_sbBeat_other (spPut t core a bs) (spSide t core false, b) bs.length (by dsimp only; omega)).trans hput


end Sys2Proof.Machine
end

section
/-! PROOFS. The engines' steps: copies and tile commands from start to end, and a stalled MARK again (R135, R196 to R231). -/
namespace Sys2Proof.Claims

open Sys2Proof.Machine

/-! The row of 16 F32 elements once its beat has landed. -/

/-- The machine once the beat of copy 0 of group `id` has landed: its visit, the team `v`, and what it counts. -/
def beatDone (s : State) (id : GroupId) (x : List L2Line) (v : Team) (visit land : Copy → Copy) : State :=
  modCopy (modTeamOf (modCopy (withL2 s x) id 0 visit) id (fun _ => v)) id 0 land

/-- The team that the row's beat leaves, and whether there was excess. -/
def rowTeam (s : State) (g : Group) (c : Copy) (tm : Team) (r : TensorRec) (l : Nat → Loc) : Team × Bool :=
  beatTeam tm g.core r.dest (bytesAt s.mem l r.base 64) c.barrier

section
variable {s : State} {g : Group} {c : Copy} {tm : Team} (h : FirstCopy s g c tm) (x : List L2Line) (visit land : Copy → Copy)
include h

theorem copiesOf_beatDone (v : Team) : copiesOf (beatDone s g.id x v visit land) g.id = some [land (visit c)] :=
  copiesOf_modCopy (s := modTeamOf (modCopy (withL2 s x) g.id 0 visit) g.id (fun _ => v))
    (findGroup_modCopy (s := withL2 s x) h.found 0 visit) (withCopy_only h.only.1 visit) land

theorem findTeam_beatDone {v : Team} (hv : teamKey v = teamKey tm) :
    findTeam (beatDone s g.id x v visit land) g.id.part g.id.task g.id.team = some v := by
  simp only [teamKey, Prod.mk.injEq] at hv
  obtain ⟨hp, ht, hi, hl, -⟩ := hv
  exact findTeam_replaced (s := modCopy (withL2 s x) g.id 0 visit) h.team ⟨hp, ht, hi⟩ hl

end

/-! The clauses that name what a copy leaves. -/

theorem sbOver_word (t : Team) (odd : Bool) (a m : Nat) : sbOver t (odd, a) m =
    decide (mread (spOf t odd) a 16 % 2 ^ 32 - mread (spOf t odd) a 16 / 2 ^ 32 % 2 ^ 32 < m) := by
  unfold sbOver sbGet fld
  rw [Nat.pow_zero, Nat.div_one]

section
variable {s : State} {g : Group} {c : Copy} {tm : Team} (h : FirstCopy s g c tm)
include h

/-- A copy that takes its slot leaves it filling. -/
theorem copyStart_fills (hc : c.started = false) {k : Nat} (hk : copySlot c = some k)
    (hst : (slotOf tm k).st = .claimed ∨ (slotOf tm k).st = .ready) :
    ∃ t v, exec .copyStart s = .next t ∧ copiesOf t g.id = some [{ c with started := true, begun := c.begun + 1 }] ∧
      findTeam t g.id.part g.id.task g.id.team = some v ∧ (slotOf v k).st = .filling ∧ ∀ j, j ≠ k → slotOf v j = slotOf tm j := by
  have takes : (copySlot c).all (slotTakes tm) = true := by
    rw [hk]
    simpa [slotTakes] using hst
  refine ⟨_, modSlot tm k (fun x => { x with st := .filling }), (copyStart_first h hc).trans (congrArg _ (if_pos takes)), ?_, ?_, ?_, ?_⟩
  · rw [hk]
    exact copiesOf_modCopy h.found h.only.1 _
  · rw [hk]
    exact findTeam_modTeamOf (s := copyBegun s g.id) h.team _ (fun _ => ⟨rfl, rfl, rfl⟩) (fun _ => rfl)
  · rw [slotOf_modSlot, if_pos rfl]
  · intro j hj
    rw [slotOf_modSlot, if_neg hj]

/-- A slot that is filling, in use or free keeps a copy from starting. -/
theorem copyStart_blocked (hc : c.started = false) {k : Nat} (hk : copySlot c = some k)
    (hst : (slotOf tm k).st = .filling ∨ (slotOf tm k).st = .inUse ∨ (slotOf tm k).st = .free) : exec .copyStart s = .next s := by
  refine (copyStart_first h hc).trans (congrArg _ (if_neg ?_))
  rw [hk]
  rcases hst with e | e | e <;> simp [slotTakes, e]

theorem copyBeatLand_row (hc : c.started = true) (h0 : c.code = 0) {r : TensorRec} (hk : c.kind = .tensor r) (hland : c.landed = [])
    (hrow : RowCopy r) (hbound : c.bound = none) (hflag : s.inp.flag = false) (hvis : c.visited = 0) (hgot : c.got = [])
    (hbar : ∀ b, c.barrier = some b → b + 16 ≤ 2 ^ 20 ∧ tm.killed = 0 ∧ (b + 16 ≤ r.dest ∨ r.dest + 64 ≤ b)) (hoff : s.inp.off = 0)
    (hsize : s.inp.size = r.dest / 64) (hecc : s.inp.ecc = .clean) {p : Partition} (q : QuietPart s g.id.part p) {l : Nat → Loc}
    (hs : ∀ a, r.base / 16 * 16 ≤ a → a < (r.base + 79) / 16 * 16 → SoundByte s (copyWho s g c) a (l a)) :
    ∃ t v d, exec .copyBeatLand s = .next t ∧ t.mem = s.mem ∧ copiesOf t g.id = some [d] ∧ d.bytes = c.bytes + 64 ∧
      d.landed = [beatId 0 (r.dest / 64)] ∧ findTeam t g.id.part g.id.task g.id.team = some v ∧
      (c.barrier = none → d.excess = c.excess) ∧
      (∀ b, c.barrier = some b → BeatCounted tm v (spSide tm g.core false) b 64 ∧
        let word := mread (spOf tm (spSide tm g.core false)) b 16
        d.excess = (c.excess || decide (word % 2 ^ 32 - word / 2 ^ 32 % 2 ^ 32 < 64))) ∧
      ∀ j, j < 64 → mget (spOf v (spSide tm g.core false)) (r.dest + j) = mget s.mem (l (r.base + j)).addr := by
  obtain ⟨-, hdest, -⟩ := hrow.place
  obtain ⟨got, x, hl⟩ := landTensor_row hrow q ⟨hbound, hvis, hgot, hland⟩ hs s.inp.va
  have hlen : (bytesAt s.mem l r.base 64).length = 64 := by simp [bytesAt]
  rw [h.ofTeam] at hl
  have hexec : exec .copyBeatLand s = .next (beatDone s g.id x (rowTeam s g c tm r l).1 (copyVisited got 16)
      (copyLanded 0 (r.dest / 64) 64 (rowTeam s g c tm r l).2)) := by
    rw [copyBeatLand_tensor h hk hc h0, hoff, hsize, hflag, hecc]
    exact hl
  refine ⟨_, _, _, hexec, rfl, copiesOf_beatDone h x _ _ _, rfl, ?_, findTeam_beatDone h x _ _ (teamKey_beatTeam tm g.core c.barrier),
    ?_, ?_, ?_⟩
  · show c.landed ++ _ = _
    rw [hland]
    rfl
  · intro hb
    show (c.excess || (rowTeam s g c tm r l).2) = _
    rw [rowTeam, hb]
    exact Bool.or_false _
  · intro b hb
    obtain ⟨hlow, hk0, hd⟩ := hbar b hb
    rw [rowTeam, hb]
    obtain ⟨hcount, hover⟩ := beatTeam_counts tm g.core hlow (show r.dest < 2 ^ 20 by omega) (by rw [hlen]; exact hd) hk0
      (bs := bytesAt s.mem l r.base 64)
    rw [hlen] at hcount hover
    exact ⟨hcount, congrArg (c.excess || ·) (hover.trans (sbOver_word _ _ _ _))⟩
  · intro j hj
    refine (beatTeam_bytes tm g.core c.barrier (by rw [hlen]; exact hdest) (fun b hb => ?_) (by rw [hlen]; exact hj)).trans ?_
    · obtain ⟨hlow, -, hd⟩ := hbar b hb
      rw [hlen]
      exact ⟨hlow, hd⟩
    · simp [bytesAt]

end

end Sys2Proof.Claims
end

section
/-! PROOFS. The tile commands' clauses, and the engines' steps together (R135, R196 to R231). -/
namespace Sys2Proof.Claims

open Sys2Proof.Machine

/-- A command that finds a slot it reads claimed, with nothing to fill it, drops (R230). -/
theorem tileStart_dropped {s : State} {w : TileCmd} {q : List TileCmd} {g : Group} {tm : Team} (hq : (coreOf s s.inp.core).wheelQ = w :: q)
    (hg : findGroup s w.group = some g) (ht : teamOf s w.group = tm) (hc : (coreOf s s.inp.core).testing = [])
    (hfill : ∀ k ∈ (slotsOf tm w).1 ++ (slotsOf tm w).2, (slotOf tm k).st ≠ .filling)
    (hdue : ∀ k ∈ (slotsOf tm w).1, slotDue s w.group k = false) (hl : ∃ k ∈ (slotsOf tm w).1, (slotOf tm k).st = .claimed)
    (hn : cmdNeed w = 0) : exec .tileCommandStart s = .next (cmdDone (popWheel s s.inp.core) w true) := by
  obtain ⟨k, hk, hst⟩ := hl
  refine tileStart_drops hq hg hc (Bool.eq_false_iff.mpr fun hp => ?_) (by rw [hn]; exact shadowRoom_none _ _ _)
    ((slotsLost_iff ht).mpr ⟨k, hk, .inl hst⟩)
  rcases (slotsPend_iff ht).mp hp with ⟨j, hj, e⟩ | ⟨j, hj, -, e⟩
  · exact hfill j hj e
  · exact Bool.noConfusion ((hdue j hj).symm.trans e)

/-- What a TEDGE to the scratchpad leaves (R230, R364). -/
theorem tileStart_edge {s : State} {g : Group} {tm : Team} {w : TileCmd} {k : Nat} (h : EdgeWaits s s.inp.core g tm w k)
    (hk : (slotOf tm k).st = .ready ∨ (slotOf tm k).st = .inUse) :
    ∃ t v w', exec .tileCommandStart s = .next t ∧ (coreOf t s.inp.core).wheelQ = [] ∧ (coreOf t s.inp.core).wheelRun = [w'] ∧
      w'.group = w.group ∧ w'.batch = w.batch ∧ w'.slots = [k] ∧ t.mem = s.mem ∧
      findTeam t w.group.part w.group.task w.group.team = some v ∧ (slotOf v k).st = .inUse ∧ (slotOf v k).data = (slotOf tm k).data ∧
      (∀ j, j ≠ k → slotOf v j = slotOf tm j) ∧ ∀ j, j < 256 * (w.word.toNat / 2 ^ 10 % 64 + 1) →
        mget (spOf v (spSide tm g.core false)) (w.arg.toNat + j) = mget (slotOf tm k).data (256 * (w.word.toNat / 2 ^ 4 % 64) + j) := by
  obtain ⟨hq, hr, -⟩ := h.wheel
  obtain ⟨-, -, -, hslots⟩ := h.word
  have hkept := h.slots
  refine ⟨_, _, { w with boundFail := false, boundTrap := false }, tileStart_tedge h rfl hk, ?_, ?_, rfl, rfl, hslots, tileRan_mem ..,
    findTeam_tileRan h.team _, ?_, ?_, ?_, fun j hj => h.bytes hj⟩
  · rw [coreOf_tileRan, hq]
    rfl
  · rw [coreOf_tileRan, hr]
    rfl
  · exact (congrArg Slot.st (hkept k)).trans (by rw [if_pos rfl])
  · exact (congrArg Slot.data (hkept k)).trans (by rw [if_pos rfl])
  · exact fun j hj => (hkept j).trans (if_neg hj)

/-- What TZERO leaves (R358). -/
theorem tileStart_zeroed {s : State} {w : TileCmd} {g : Group} (hq : (coreOf s s.inp.core).wheelQ = [w])
    (hc : (coreOf s s.inp.core).testing = []) (hr : (coreOf s s.inp.core).wheelRun = []) (hg : findGroup s w.group = some g) (hop : w.op = .tzero) :
    ∃ t h w', exec .tileCommandStart s = .next t ∧ (coreOf t s.inp.core).wheelQ = [] ∧ (coreOf t s.inp.core).wheelRun = [w'] ∧
      w'.group = w.group ∧ w'.batch = w.batch ∧ w'.boundFail = false ∧ findGroup t w.group = some h ∧ h.en = g.en ∧ t.mem = s.mem ∧
      ∀ i j, i < 32 → j < 32 → tileGet h (w.word.toNat % 16) i j = 0 := by
  have hexec := tileStart_tzero hq hg hc hop
  rw [show fld w.word.toNat 0 4 = w.word.toNat % 16 by simp [fld]] at hexec
  refine ⟨_, tookZeroed (w.word.toNat % 16) (List.range 1024) g, { w with boundFail := false, boundTrap := false },
    hexec, ?_, ?_, rfl, rfl, rfl, ?_, tookZeroed_en .., rfl, fun i j hi hj => ?_⟩
  · rw [coreOf_tileRan, hq]
    rfl
  · rw [coreOf_tileRan, hr]
    rfl
  · exact findGroup_tileRan hg _
  · have hz := tileGet_tookZeroed (w.word.toNat % 16) (List.range 1024) g (n := 32 * i + j) (List.mem_range.mpr (by omega))
    rwa [show (32 * i + j) / 32 = i by omega, show (32 * i + j) % 32 = j by omega] at hz

/-- What the retirement of the only command of a batch leaves (R227, R231). -/
theorem tileRetire_batch {s : State} {w : TileCmd} {g : Group} {b : Batch} (hr : (coreOf s s.inp.core).wheelRun = [w])
    (hc : (coreOf s s.inp.core).testing = []) (hi : s.inp.idx = 0) (hg : findGroup s w.group = some g) (hb : g.en.batches = [b])
    (hn : b.num = w.batch) (hl : b.live = 1) (hret : b.retired = false) :
    ∃ t h, exec .tileCommandRetire s = .next t ∧ (coreOf t s.inp.core).wheelRun = [] ∧ findGroup t w.group = some h ∧
      h.en.tl = g.en.tl - 1 ∧ h.fpstat = (if w.boundFail then g.fpstat ||| (0x20 : BitVec 6) else g.fpstat) ∧ t.mem = s.mem ∧
      (b.closed = false → h.en.lastRet = g.en.lastRet ∧ ∃ b', h.en.batches = [b'] ∧ b'.num = b.num ∧ b'.live = 0) ∧
      (b.closed = true → h.en.lastRet = BitVec.ofNat 16 b.num ∧
        (b.engine = false → b.boundTrap = false → w.boundTrap = false → h.en.batches = []) ∧
        (w.boundTrap = true → ∃ b', h.en.batches = [b'] ∧ b'.boundTrap = true ∧ b'.retired = true ∧ b'.slots = [])) := by
  obtain ⟨hbs, hlast⟩ := cmdLeaves_batches hb hn
  rw [retireBatches_left hl hret] at hbs hlast
  refine ⟨_, cmdLeaves w false g, tileRetire_only hr hc hi, wheelRun_runCleared hr hi, findGroup_cmdDone (s := runCleared s _) hg false,
    cmdLeaves_tl .., cmdLeaves_fpstat .., cmdDone_mem .., fun ho => ?_, fun hcl => ?_⟩
  · rw [hbs, hlast, ho]
    exact ⟨rfl, batchLeft w b, rfl, rfl, by simp [batchLeft, hl]⟩
  · rw [hbs, hlast, hcl]
    refine ⟨rfl, fun he hbt hwt => ?_, fun hwt => ?_⟩
    · rw [if_pos rfl, if_neg (by simp [batchFaults, batchLeft, he, hbt, hwt])]
    · have hfault : batchFaults w b = true := by simp [batchFaults, batchLeft, hwt]
      rw [if_pos rfl, if_pos hfault]
      exact ⟨_, rfl, by simp [batchLeft, hwt], rfl, rfl⟩

/-- Settles O55: each clause from the lemma that says what its step does; the beat of a row by reading memory, landing it and counting it. -/
theorem engineSteps : Obligations.EngineSteps := by
  unfold Obligations.EngineSteps
  intro s g c tm r w sa u p l
  refine ⟨fun h hid hf => markReevaluate_marks h.group hid hf, ?_, ?_, ?_, ?_, ?_, ?_, ?_, ?_, tileStart_empty, tileRetire_none, ?_,
    fun k h hk => tileStart_edge h hk, fun hq hc hr hg hop _ => tileStart_zeroed hq hc hr hg hop,
    fun hr hc hi hg b hb hn hl hret => tileRetire_batch hr hc hi hg hb hn hl hret⟩
  case refine_1 =>
    intro h hc hk
    refine ⟨copyBegun s g.id, (copyStart_first h hc).trans ?_, copiesOf_modCopy h.found h.only.1 _, rfl⟩
    rw [hk]
    rfl
  case refine_2 => exact fun h hc k hk => ⟨copyStart_blocked h hc hk, copyStart_fills h hc hk⟩
  case refine_3 =>
    refine fun h hc => ⟨fun hm => ?_, fun hm => ⟨copyBegun s g.id, ?_, copiesOf_modCopy h.found h.only.1 _, rfl⟩⟩ <;>
      rw [copyStart_again h hc, hm]
    · rfl
    · rfl
  case refine_4 =>
    intro h hflag hidle hk
    by_cases hi : c.started = false ∨ c.code ≠ 0
    · exact copyBeatLand_idle h hk hi
    · obtain ⟨hc, h0⟩ := not_or.mp hi
      rw [copyBeatLand_tensor h hk (by simpa using hc) (not_not.mp h0), hflag]
      exact landTensor_none _ _ (beatElems_none ((or_assoc.mpr hidle).resolve_left hi))
  case refine_5 =>
    intro h hc h0 hk hland hrow hbound hflag hvis hgot hbar hoff hsize hecc q hs
    have hlow : (3 : Nat) * spaceSize ≤ 4 * spaceSize := by omega
    refine copyBeatLand_row h hc h0 hk hland hrow hbound hflag hvis hgot hbar hoff hsize hecc q fun a hlo hhi => ?_
    obtain ⟨hpage, -, haddr, hsound⟩ := hs a hlo hhi
    exact ⟨hpage, Nat.lt_of_lt_of_le haddr hlow, hsound⟩
  case refine_6 => exact fun h hc hk _ h0 hn => copyEnd_early h hc hk h0 hn
  case refine_7 =>
    intro h hc hk hf hr h0 hn hd hh
    obtain ⟨t, hfound, hcs, hcp, hword, hother⟩ := copyEnd_status h hd hh
    exact ⟨_, t, copyEnd_scratch h hc hk h0 hn hr hf, hfound, hcs, hcp, hword, hother, removeCopy_mem _ _ _⟩
  case refine_8 =>
    refine fun h hc _ n sp ls hk => ⟨fun hl => (copyEnd_lanes h hc hk).trans (if_pos hl), fun hl => ?_⟩
    refine ⟨_, withoutCopy 0 g, (copyEnd_lanes h hc hk).trans (if_neg (Nat.not_lt.mpr hl)), findGroup_removeCopy h.found 0, ?_, rfl,
      removeCopy_mem _ _ _⟩
    show g.en.copies.eraseIdx 0 = []
    rw [h.only.1]
    rfl
  case refine_9 =>
    intro q hq hg hid ht
    have hteam : teamOf s w.group = tm := by rw [teamOf, ht, Option.getD_some]
    simp only [hid, ← slotDue_iff]
    refine ⟨fun hw => tileStart_pends hq hg (hw.imp_right (slotsPend_iff hteam).mpr), fun hc hfill hdue hl hn => ?_⟩
    obtain ⟨hwq, hwr, hgrp, hmem⟩ := tileDropped hq hg
    exact ⟨_, _, tileStart_dropped hq hg hteam hc hfill (fun k hk => Bool.eq_false_iff.mpr (hdue k hk)) hl hn, hwq, hwr, hgrp, rfl, hmem⟩

end Sys2Proof.Claims
end

section
/-! PROOFS. O28: EXIT and the implicit joins of a task's last group (R156, R312). -/
namespace Sys2Proof.Machine

open Sys2Proof.Claims

section
variable {s : State}

/-- Supervisor mode refuses the instructions of R370. -/
theorem userOnly_supervisor (h : s.g.sup = true) (k : Out) : userOnly s k = operandTrap s (opDetail 4 0 0) := if_pos h

/-- The group in focus has executed EXIT, and its team's barriers are looked at again (R312, R338). -/
def exited (s : State) : State :=
  teamBars { s with g := { s.g with sc := { s.g.sc with exited := true, fmtPend := none } } } s.g.id.part s.g.id.task s.g.id.team

theorem canIssueS_exited : canIssueS (exited s) = false := by
  have h : (exited s).g.sc.exited = true := rfl
  simp [canIssueS, h]

variable (hs : s.g.sup = false)
include hs

/-- A group that is not the task's last leaves children to the last one (R156). -/
theorem exit_notLast (hl : lastGroup s = false) : exec .exit s = .next (exited s) :=
  (userOnly_user hs _).trans (if_pos (by simp [hl]))

theorem exit_childless (h : lastGroup s = false ∨ openChildren s s.g.id.part s.tk.num = []) : exec .exit s = .next (exited s) := by
  cases hl : lastGroup s with
  | false => exact exit_notLast hs hl
  | true =>
    refine (userOnly_user hs _).trans ((if_neg (by simp [hl])).trans ?_)
    rw [h.resolve_left (by simp [hl])]
    rfl

/-- The task's last group looks at its oldest open child (R156). -/
theorem exit_child {r : Revision} {l : List Revision} (hl : lastGroup s = true)
    (hc : openChildren s s.g.id.part s.tk.num = r :: l) :
    exec .exit s = if r.state = 2 && !merging s.pt then joinEnded s r (fun s1 => .next s1) else stallS s := by
  refine (userOnly_user hs _).trans ((if_neg (by simp [hl])).trans ?_)
  rw [hc]

/-- The last group waits for a child that has not ended, and for a join of the partition that has begun (R156). -/
theorem exit_waits {r : Revision} {l : List Revision} (hl : lastGroup s = true) (hc : openChildren s s.g.id.part s.tk.num = r :: l)
    (hw : r.state ≠ 2 ∨ ∃ q ∈ s.pt.revs, q.state = 3) : exec .exit s = .next s := by
  have hm : (r.state = 2 && !merging s.pt) = false := by
    rcases hw with h | h
    · simp [h]
    · have : merging s.pt = true := by simpa [merging] using h
      simp [this]
  rw [exit_child hs hl hc, hm]
  exact if_neg Bool.false_ne_true

end

end Sys2Proof.Machine

namespace Sys2Proof.Claims

open Sys2Proof Sys2Proof.Machine

/-- Settles O28: EXIT by the mode, and by the open children of the last group. -/
theorem exitEndsScalarStream : Obligations.ExitEndsScalarStream := by
  unfold Obligations.ExitEndsScalarStream
  refine fun s => ⟨fun h => userOnly_supervisor h _, fun hs h => ?_, fun r l hs hl hc hw => exit_waits hs hl hc hw⟩
  exact ⟨_, exit_childless hs h, rfl, rfl, rfl, rfl, rfl, canIssueS_exited⟩

end Sys2Proof.Claims
end

section
/-! PROOFS. Revisions under the operations that change them (R147, R151 to R155), and a join of a child without copies (R153). -/
namespace Sys2Proof.Machine

open Sys2Proof.Claims

/-- A lookup that only one element of the list meets. -/
theorem find_only {α : Type} {p : α → Bool} {l : List α} {r : α} (hr : r ∈ l) (hp : p r = true)
    (hu : ∀ x ∈ l, p x = true → x = r) : l.find? p = some r := by
  cases hf : l.find? p with
  | none => exact absurd hp (List.find?_eq_none.mp hf r hr)
  | some x => rw [hu x (List.mem_of_find?_eq_some hf) (List.find?_some hf)]

/-! The partition in focus. -/

section
variable {s : State} {part : Nat} (h : s.pt.state ≠ 0 ∧ s.pt.num = part)
include h

theorem findPart_pt : findPart s part = some s.pt := by
  obtain ⟨hs, hn⟩ := h
  simp [findPart, allParts, hs, hn]

theorem modRev_pt (num : Nat) (f : Revision → Revision) :
    (modRev s part num f).pt = { s.pt with revs := modBy (fun r => r.num == num) f s.pt.revs } := modPart_focus _ h

theorem findRev_modRev (num : Nat) (f : Revision → Revision) (hf : ∀ r, (f r).num = r.num) :
    findRev (modRev s part num f).pt num = (findRev s.pt num).map f := by
  rw [modRev_pt h]
  exact find_modBy_key _ f (fun r hr => by rw [hf]; exact hr) _

end

@[simp] theorem modRev_g (s : State) (part num : Nat) (f : Revision → Revision) : (modRev s part num f).g = s.g := rfl
@[simp] theorem modRev_mem (s : State) (part num : Nat) (f : Revision → Revision) : (modRev s part num f).mem = s.mem := rfl

/-- What the count of pool frames leaves of the partition in focus: its place, its time and its revisions (R152, R158). -/
theorem poolUse_pt (s : State) (part up down : Nat) :
    (poolUse s part up down).pt = { s.pt with dirty := (poolUse s part up down).pt.dirty } := by
  unfold poolUse ctlWrite markDirtyRange modPart
  dsimp only
  split
  · split <;> rfl
  · rfl

theorem findRev_poolUse (s : State) (part up down num : Nat) : findRev (poolUse s part up down).pt num = findRev s.pt num := by
  rw [poolUse_pt]
  rfl

/-! A revision without copies: step 1 of its join takes no frame, the merge fills none, and the publish closes it (R153). -/

section
variable {r : Revision} (hg : r.grans = [])
include hg

theorem childDirty_bare : childDirty r = [] := by rw [childDirty, hg, List.filter_nil]

theorem joinStart_bare (s : State) (w : Who) (by' : Option GroupId) :
    joinStart s w r by' = .ok (modRev s w.part r.num (fun q => { q with state := 3, joiner := by' })) := by
  unfold joinStart
  rw [childDirty_bare hg]
  rfl

theorem joinMerge_bare (s : State) (part : Nat) : joinMerge s part r = s := by
  unfold joinMerge
  cases findPart s part with
  | none => rfl
  | some p => rw [hg]; rfl

theorem joinPublish_bare {s : State} {w : Who} {p : Partition} (hp : findPart s w.part = some p) :
    joinPublish s w r = closeRev s w.part r.num 4 (joinWord (ptime s p) (if r.killed then 1 else 0)) := by
  unfold joinPublish
  rw [hp, hg]
  rfl

end

/-- A revision once its join has published (R153). -/
def closedWith (state word : Nat) (r : Revision) : Revision := { r with state := state, word := BitVec.ofNat 64 word, grans := [] }

/-- The close of a revision without copies gives no frame back (R153). -/
theorem closeRev_bare {s : State} {part num : Nat} {p : Partition} (hp : findPart s part = some p)
    (hg : ∀ r ∈ p.revs, r.num = num → r.grans = []) (state word : Nat) :
    closeRev s part num state word = poolUse (modRev s part num (closedWith state word)) part 0 0 := by
  have hmine : (p.revs.filter (fun r => r.num == num)).flatMap revFrames = [] :=
    List.flatMap_eq_nil_iff.mpr (fun r hr => by
      obtain ⟨hm, hn⟩ := List.mem_filter.mp hr
      rw [revFrames, hg r hm (by simpa using hn)]
      rfl)
  unfold closeRev
  rw [hp]
  dsimp only
  rw [hmine]
  rfl

/-- A join that is not deferred runs to its end at once: reserved, merged, published (R153). -/
theorem joinEnded_runs {s s1 : State} {r r1 : Revision} {p : Partition} (hk : r.discard = false ∨ r.killed = false)
    (hd : s.defer = false) (hst : joinStart s (me s) r (some s.g.id) = .ok s1) (hp : findPart s1 s.g.id.part = some p)
    (hr : findRev p r.num = some r1) (done : State → Out) :
    joinEnded s r done = done (joinPublish (joinMerge s1 s.g.id.part r1) (me s1) r1) := by
  have hnot : ¬(r.discard && r.killed) = true := by rcases hk with e | e <;> simp [e]
  unfold joinEnded
  rw [if_neg hnot, hst]
  dsimp only
  rw [if_neg (by simp [hd]), hp, Option.bind_some, hr]

/-! The join of such a child by the group in focus. -/

/-- The revision while the join of a group holds it (R153 step 1). -/
def reservedBy (id : GroupId) (r : Revision) : Revision := { r with state := 3, joiner := some id }

/-- The group in focus has reserved the revision for its join. -/
def reserved (s : State) (r : Revision) : State := modRev s s.g.id.part r.num (reservedBy s.g.id)

/-- The result word of the join of a child by the group in focus (R155). -/
def ownWord (s : State) (r : Revision) : Nat := joinWord (ptime s s.pt) (if r.killed then 1 else 0)

/-- The join has published and closed the revision (R153 step 4). -/
def published (s : State) (r : Revision) : State := closeRev (reserved s r) s.g.id.part r.num 4 (ownWord s r)

section
variable {s : State} {r : Revision} (h : s.pt.state ≠ 0 ∧ s.pt.num = s.g.id.part)
include h

theorem reserved_place : (reserved s r).pt.state ≠ 0 ∧ (reserved s r).pt.num = s.g.id.part := by
  rw [reserved, modRev_pt h]
  exact h

theorem reserved_time : ptime (reserved s r) (reserved s r).pt = ptime s s.pt := by
  rw [reserved, ptime, modRev_pt h]
  rfl

variable (hu : ∀ x ∈ s.pt.revs, x.num = r.num → x = r)
include hu

theorem findRev_reserved (hr : r ∈ s.pt.revs) : findRev (reserved s r).pt r.num = some (reservedBy s.g.id r) := by
  have hfound : findRev s.pt r.num = some r := find_only hr (beq_self_eq_true _) (fun x hx hn => hu x hx (by simpa using hn))
  rw [reserved, findRev_modRev h r.num (reservedBy s.g.id) (fun _ => rfl), hfound]
  rfl

variable (hg : r.grans = [])
include hg

theorem published_eq : published s r =
    poolUse (modRev (reserved s r) s.g.id.part r.num (closedWith 4 (ownWord s r))) s.g.id.part 0 0 := by
  refine closeRev_bare (findPart_pt (reserved_place h)) (fun x hx hn => ?_) 4 _
  rw [reserved, modRev_pt h] at hx
  obtain ⟨y, hy, rfl⟩ := List.mem_map.mp hx
  split at hn
  · rw [if_pos ‹_›]
    exact (congrArg Revision.grans (hu y hy hn)).trans hg
  · rw [if_neg ‹_›]
    exact (congrArg Revision.grans (hu y hy hn)).trans hg

theorem published_place : (published s r).pt.state ≠ 0 ∧ (published s r).pt.num = s.g.id.part := by
  rw [published_eq h hu hg, poolUse_pt, modRev_pt (reserved_place h)]
  exact reserved_place h

theorem published_g : (published s r).g = s.g := by
  rw [published_eq h hu hg]
  rfl

variable (hr : r ∈ s.pt.revs)
include hr

theorem findRev_published :
    findRev (published s r).pt r.num = some (closedWith 4 (ownWord s r) (reservedBy s.g.id r)) := by
  rw [published_eq h hu hg, findRev_poolUse, findRev_modRev (reserved_place h) r.num (closedWith 4 (ownWord s r)) (fun _ => rfl),
    findRev_reserved h hu hr]
  rfl

theorem joinEnded_bare (hk : r.discard = false ∨ r.killed = false) (hd : s.defer = false) (done : State → Out) :
    joinEnded s r done = done (published s r) := by
  have hp := findPart_pt (reserved_place (r := r) h)
  have hbare : (reservedBy s.g.id r).grans = [] := hg
  rw [joinEnded_runs hk hd (joinStart_bare hg s (me s) _) hp (findRev_reserved h hu hr), joinMerge_bare hbare,
    joinPublish_bare hbare hp]
  exact congrArg (fun t => done (closeRev (reserved s r) s.g.id.part r.num 4 (joinWord t _))) (reserved_time h)

end

end Sys2Proof.Machine
end

section
/-! PROOFS. O26: JOIN and JOINTRY (R155, R156, R373). -/
namespace Sys2Proof.Machine

open Sys2Proof.Claims

/-- A result of an instruction whose other effects leave the streams, the queues and the engines of the group in focus as they are. -/
theorem writesS_finS {s u : State} (hsc : u.g.sc = s.g.sc) (hln : u.g.ln = s.g.ln) (hq : u.g.q = s.g.q) (hen : u.g.en = s.g.en)
    (hsup : u.g.sup = s.g.sup) (sd : BitVec 6) (v : Word) : WritesS s (finS u sd v) sd v := by
  have hrest := finS_eq u sd v
  have hreg : ∀ r, sreg u r = sreg s r := fun r => by simp only [sreg, sregOf, hsc]
  refine ⟨fun h => by rw [sreg_finS, if_pos ⟨rfl, h⟩], fun r hr => ?_, by rw [finS_spc, hsc], ?_, ?_, ?_, ?_⟩
  · rw [sreg_finS, if_neg (fun e => hr e.1), hreg]
  all_goals rw [hrest]; assumption

/-- An acquire beyond the core leaves no line in its L1 (R109). -/
theorem l1_l1Inval (s : State) (n : Nat) : (coreOf (l1Inval s n) n).l1 = [] := by
  rw [(l1Inval_spec s n).2.1]

theorem waitJoin_eq (s : State) (r : Revision) : waitJoin s r = joinWaits s r := by
  unfold waitJoin joinWaits
  cases hj : s.g.joinWait with
  | some x => exact congrArg (fun j => Host.Outcome.next { s with g := { s.g with joinWait := j } }) hj
  | none => rfl

/-- A join that has closed the revision returns to its group, an acquire at scope dev (R155). -/
def joinFinish (s : State) (sd : BitVec 6) (r : Revision) (s1 : State) : Out :=
  let s2 := setJoin s1 none
  match (findPart s2 s.g.id.part).bind (fun p => findRev p r.num) with
  | none => .next s2
  | some r1 => .next (finS (modRev (l1Inval s2 s.g.core) s.g.id.part r.num (fun x => { x with joiner := none })) sd r1.word)

/-- JOIN and JOINTRY are one instruction but for a child that runs (R373). -/
theorem exec_joins {s : State} {sd sa : BitVec 6} {i : Instr} (hi : i ∈ [Instr.join sd sa, .jointry sd sa]) :
    ∃ wait, exec i s = joinBy s sd sa wait := by
  simp only [List.mem_cons, List.not_mem_nil, or_false] at hi
  rcases hi with rfl | rfl
  · exact ⟨true, rfl⟩
  · exact ⟨false, rfl⟩

/-- The high half of a handle's register (R373). -/
theorem fld_high (v : Word) : fld v.toNat 32 32 = v.toNat / 2 ^ 32 := Nat.mod_eq_of_lt (by have := v.isLt; omega)

section
variable {s : State} {sd sa : BitVec 6} {wait : Bool} (hs : s.g.sup = false)
include hs

theorem joinBy_wide (h : (sreg s sa).toNat / 2 ^ 32 ≠ 0) :
    joinBy s sd sa wait = operandTrap s (opDetail 3 (sreg s sa).toNat 32) :=
  (userOnly_user hs _).trans (if_pos (by rw [fld_high]; simpa using h))

section
variable (hn : (sreg s sa).toNat / 2 ^ 32 = 0)
include hn

theorem joinBy_stranger (h : (sreg s sa).toNat = 0 ∨ ∀ x ∈ s.pt.revs, x.num = (sreg s sa).toNat → x.parent ≠ s.tk.num) :
    joinBy s sd sa wait = operandTrap s (opDetail 3 (sreg s sa).toNat 0) := by
  have hnone : myChild s (sreg s sa).toNat = none := List.find?_eq_none.mpr (fun x hx => by
    rcases h with h | h
    · simp [h]
    · simpa using fun e _ => h x hx e)
  refine (userOnly_user hs _).trans ((if_neg (by rw [fld_high, hn]; simp)).trans ?_)
  rw [hnone]
  rfl

variable {r : Revision} (hr : myChild s (sreg s sa).toNat = some r)
include hr

/-- What a handle of a child does, by the child's state. -/
theorem joinBy_child : joinBy s sd sa wait =
    if r.state = 1 then if wait then waitJoin s r else .next (finS s sd 0)
    else if r.state = 3 then waitJoin s r
    else if 4 ≤ r.state then joinReturn (setJoin s none) sd r
    else if joinBehind s then waitJoin s r
    else joinEnded s r (joinFinish s sd r) := by
  refine (userOnly_user hs _).trans ((if_neg (by rw [fld_high, hn]; simp)).trans ?_)
  rw [hr]
  rfl

theorem joinBy_waits (h : r.state = 3 ∨ (r.state = 2 ∧ joinBehind s = true)) : joinBy s sd sa wait = joinWaits s r := by
  rw [joinBy_child hs hn hr, ← waitJoin_eq]
  rcases h with h | ⟨h, hb⟩
  · simp [h]
  · simp [h, hb]

theorem joinBy_closed (h : 4 ≤ r.state) : joinBy s sd sa wait = joinReturn (setJoin s none) sd r := by
  rw [joinBy_child hs hn hr, if_neg (by omega), if_neg (by omega), if_pos h]

theorem joinBy_ended (h : r.state = 2) (hb : joinBehind s = false) :
    joinBy s sd sa wait = joinEnded s r (joinFinish s sd r) := by
  rw [joinBy_child hs hn hr]
  simp [h, hb]

end

end

/-- A closed child whose word another join or an earlier return has had (R155). -/
theorem joinReturn_again {s : State} {r : Revision} (sd : BitVec 6) (h : r.joiner ≠ some s.g.id) : joinReturn s sd r =
    .next (finS (l1Inval s s.g.core) sd (BitVec.ofNat 64 (7 + r.word.toNat / 65536 * 65536))) :=
  if_neg (by simpa using h)

/-- A closed child whose word the group itself is still to get (R155, R156). -/
theorem joinReturn_own {s : State} {r : Revision} (sd : BitVec 6) (h : r.joiner = some s.g.id) : joinReturn s sd r =
    .next (finS (modRev (l1Inval s s.g.core) s.g.id.part r.num (fun x => { x with joiner := none })) sd r.word) :=
  if_pos (by simp [h])

theorem joinFinish_found {s s1 : State} {p : Partition} {r r1 : Revision} (sd : BitVec 6)
    (hp : findPart s1 s.g.id.part = some p) (hr : findRev p r.num = some r1) : joinFinish s sd r s1 =
    .next (finS (modRev (l1Inval (setJoin s1 none) s.g.core) s.g.id.part r.num (fun x => { x with joiner := none })) sd r1.word) := by
  have hp' : findPart (setJoin s1 none) s.g.id.part = some p := hp
  unfold joinFinish
  dsimp only
  rw [hp', Option.bind_some, hr]

theorem myChild_only {s : State} {h : Nat} {r : Revision} (h0 : h ≠ 0) (hr : r ∈ s.pt.revs) (hn : r.num = h)
    (hp : r.parent = s.tk.num) (hu : ∀ x ∈ s.pt.revs, x.num = h → x = r) : myChild s h = some r :=
  find_only hr (by simp [h0, hn, hp]) (fun x hx he => hu x hx (by
    simp only [Bool.and_eq_true, beq_iff_eq] at he
    exact he.1.1))

end Sys2Proof.Machine

namespace Sys2Proof.Claims

open Sys2Proof Sys2Proof.Machine

/-- The join of an ended child without copies, by the group in focus (R153 to R155). -/
theorem joinsEnded {s : State} {r : Revision} (sd : BitVec 6) (hf : Focused s) (hr : r ∈ s.pt.revs)
    (hu : ∀ x ∈ s.pt.revs, x.num = r.num → x = r) (hg : r.grans = []) (hk : r.discard = false ∨ r.killed = false)
    (hd : s.defer = false) : ∃ t, joinEnded s r (joinFinish s sd r) = .next t ∧
      WritesS s t sd (BitVec.ofNat 64 (ownWord s r)) ∧ t.g.joinWait = none ∧ (coreOf t s.g.core).l1 = [] ∧
      ∃ r', findRev t.pt r.num = some r' ∧ r'.state = 4 ∧ r'.joiner = none ∧ r'.word = BitVec.ofNat 64 (ownWord s r) := by
  have hplace := published_place hf.part hu hg
  have hgroup := published_g hf.part hu hg
  have hfound := findRev_published hf.part hu hg hr
  refine ⟨_, (joinEnded_bare hf.part hu hg hr hk hd _).trans (joinFinish_found sd (findPart_pt hplace) hfound), ?_, ?_, ?_, ?_⟩
  · apply writesS_finS <;> simp only [modRev_g, l1Inval_g, setJoin, hgroup]
  · rw [finS_eq]
    simp only [modRev_g, l1Inval_g, setJoin]
  · exact l1_l1Inval (setJoin (published s r) none) s.g.core
  · have hpt : (l1Inval (setJoin (published s r) none) s.g.core).pt = (published s r).pt := by
      rw [(l1Inval_spec _ _).1]
      rfl
    have hclosed := findRev_modRev (by rw [hpt]; exact hplace) r.num (fun x => { x with joiner := none }) (fun _ => rfl)
    rw [hpt, hfound] at hclosed
    exact ⟨_, hclosed, rfl, rfl, rfl⟩

/-- Settles O26: each clause by the child's state; the join of an ended child without copies takes no frame, so it runs to its end. -/
theorem joinsOfChildren : Obligations.JoinsOfChildren := by
  unfold Obligations.JoinsOfChildren
  intro s sd sa r i hi
  obtain ⟨wait, hexec⟩ := exec_joins (s := s) hi
  rw [hexec]
  refine ⟨fun h => userOnly_supervisor h _, fun hs h => joinBy_wide hs h, fun hs hn h => joinBy_stranger hs hn h, ?_⟩
  intro hs hn h0 hr hnum hp hu
  have hc := myChild_only h0 hr hnum hp hu
  refine ⟨fun h => ⟨?_, gives_finS ?_⟩, fun h => joinBy_waits hs hn hc h, fun h hj => ?_, fun h hj => ?_, fun h hb hg hk hd hf => ?_⟩
  · exact (joinBy_child (wait := true) hs hn hc).trans ((if_pos h).trans (waitJoin_eq s r))
  · exact (joinBy_child (wait := false) hs hn hc).trans (if_pos h)
  · exact ⟨_, (joinBy_closed hs hn hc h).trans (joinReturn_again sd hj), scalarResult_finS _ sd _⟩
  · refine ⟨_, (joinBy_closed hs hn hc h).trans (joinReturn_own sd hj), ?_, ?_, ?_⟩
    · apply writesS_finS <;> simp only [modRev_g, l1Inval_g, setJoin]
    · simp only [finS_mem, modRev_mem, l1Inval_mem, setJoin]
    · exact l1_l1Inval (setJoin s none) s.g.core
  · have hword : ownWord s r = 1 + (if r.killed then 2 else 0) + (ptime s s.pt).toNat % 2 ^ 48 * 2 ^ 16 := by
      unfold ownWord joinWord
      split <;> rfl
    rw [← hnum] at hu
    rw [joinBy_ended hs hn hc h hb, ← hword, ← hnum]
    exact joinsEnded sd hf hr hu hg hk hd

end Sys2Proof.Claims
end

section
/-! PROOFS. O25: FORK, the numbers it gives out, and the revision and the task that it creates (R142 to R146, R159, R372, R387). -/
namespace Sys2Proof.Machine

open Sys2Proof.Claims

/-! Numbers of revisions (R159). -/

/-- A number that a new revision may take. -/
def freeRevNum (p : Partition) (m : Nat) : Prop := m ≠ 0 ∧ ∀ q ∈ p.revs, revOpen q = true → q.num ≠ m

/-- The search goes round the numbers of 32 bits: it ends at a free one, or every number that it has passed is taken. -/
theorem nextRevNum_free_or (p : Partition) (k n : Nat) :
    freeRevNum p (nextRevNum p k n) ∨ ∀ i, i < k → ¬freeRevNum p ((n + i) % 2 ^ 32) := by
  induction k generalizing n with
  | zero => exact .inr (fun i hi => absurd hi (Nat.not_lt_zero i))
  | succ k ih =>
    unfold nextRevNum
    dsimp only
    split
    · next htaken =>
      refine (ih (n % 2 ^ 32 + 1)).imp_right (fun h i hi => ?_)
      cases i with
      | zero =>
        rintro ⟨h0, hfree⟩
        simp only [Bool.or_eq_true, decide_eq_true_eq, List.any_eq_true, Bool.and_eq_true, beq_iff_eq] at htaken
        rcases htaken with hz | ⟨q, hq, ho, hm⟩
        · exact h0 hz
        · exact hfree q hq ho hm
      | succ i =>
        have hnext : (n + (i + 1)) % 2 ^ 32 = (n % 2 ^ 32 + 1 + i) % 2 ^ 32 := by omega
        rw [hnext]
        exact h i (by omega)
    · next hfree =>
      simp only [Bool.or_eq_true, decide_eq_true_eq, List.any_eq_true, Bool.and_eq_true, beq_iff_eq, not_or, not_exists,
        not_and] at hfree
      exact .inl ⟨hfree.1, fun q hq ho => hfree.2 q hq ho⟩

/-- The numbers that a new revision may not take: 0 and those of the open revisions. -/
def takenRevNums (p : Partition) : List Nat := 0 :: (p.revs.filter revOpen).map Revision.num

theorem freeRevNum_of_not_taken {p : Partition} {m : Nat} (h : m ∉ takenRevNums p) : freeRevNum p m :=
  ⟨fun h0 => h (h0 ▸ List.mem_cons_self ..),
    fun q hq ho hm => h (List.mem_cons_of_mem _ (List.mem_map.mpr ⟨q, List.mem_filter.mpr ⟨hq, ho⟩, hm⟩))⟩

theorem card_takenRevNums (p : Partition) : (takenRevNums p).toFinset.card ≤ (p.revs.filter revOpen).length + 1 :=
  (List.toFinset_card_le _).trans_eq (by rw [takenRevNums, List.length_cons, List.length_map])

/-- Among as many numbers in a row as there are taken ones and one more, one is free: the search does not end before (R159). -/
theorem nextRevNum_free (p : Partition) (n : Nat) (h : (p.revs.filter revOpen).length < 4096) :
    freeRevNum p (nextRevNum p (p.revs.length + 2) n) := by
  refine (nextRevNum_free_or p _ n).resolve_right (fun hall => ?_)
  have hle := List.length_filter_le revOpen p.revs
  have hcard : (takenRevNums p).toFinset.card < (Finset.range ((p.revs.filter revOpen).length + 2)).card := by
    rw [Finset.card_range]
    exact Nat.lt_succ_of_le (card_takenRevNums p)
  have hmaps : ∀ i ∈ Finset.range ((p.revs.filter revOpen).length + 2), (n + i) % 2 ^ 32 ∈ (takenRevNums p).toFinset := by
    intro i hi
    rw [Finset.mem_range] at hi
    by_contra hnot
    exact hall i (by omega) (freeRevNum_of_not_taken (fun hm => hnot (List.mem_toFinset.mpr hm)))
  obtain ⟨i, hi, j, hj, hne, heq⟩ := Finset.exists_ne_map_eq_of_card_lt_of_maps_to hcard hmaps
  rw [Finset.mem_range] at hi hj
  omega

/-! Numbers of tasks (R387). -/

theorem taskFrom_congr {s t : State} (h : allTasks t = allTasks s) (part k n : Nat) : taskFrom t part k n = taskFrom s part k n := by
  induction k generalizing n with
  | zero => rfl
  | succ k ih =>
    have hf : ∀ m, findTask t part m = findTask s part m := fun m => by rw [findTask, h, findTask]
    simp only [taskFrom, hf, ih]

theorem freshTask_congr {s t : State} {p q : Partition} (h : allTasks t = allTasks s) (hnum : q.num = p.num)
    (hnext : q.nextTask = p.nextTask) : freshTask t q = freshTask s p := by
  unfold freshTask
  rw [hnum, hnext, h, taskFrom_congr h]

/-- The number that stands next is taken where no task has it. -/
theorem freshTask_next {s : State} {p : Partition} (h0 : p.nextTask ≠ 0) (hlt : p.nextTask < 2 ^ 32)
    (hn : findTask s p.num p.nextTask = none) : freshTask s p = p.nextTask := by
  unfold freshTask taskFrom
  dsimp only
  rw [Nat.mod_eq_of_lt hlt]
  exact if_neg (by simp [h0, hn])

/-! What FORK creates (R146). -/

/-- The number of the next revision of the partition in focus. -/
def newRevNum (s : State) : Nat := nextRevNum s.pt (s.pt.revs.length + 2) s.pt.nextRev

/-- The descriptor's range of indices is empty. -/
def emptyFork (b : List Byte) : Bool := decide (frameFld b 0x0C 4 ≤ frameFld b 0x08 4)

/-- The revision of a descriptor, of the task in focus. -/
def newRev (s : State) (b : List Byte) : Revision :=
  { num := newRevNum s, ctx := s.tk.ctx, child := if emptyFork b then 0 else freshTask s s.pt, parent := s.tk.num
    parentRev := s.tk.rev, regions := (List.range (frameFld b 0x18 1)).map (regionOf b), grans := []
    state := if emptyFork b then 2 else 1, discard := bit (frameFld b 0x19 1) 0, killed := false, word := 0, joiner := none
    waiting := false }

/-- The partition with the new revision in place of a closed one of its number (R159). -/
def withNewRev (s : State) (b : List Byte) (p : Partition) : Partition :=
  { p with revs := dropBy (fun r => r.num == newRevNum s) p.revs ++ [newRev s b], nextRev := (newRevNum s + 1) % 2 ^ 32 }

/-- The child task of a descriptor. -/
def newTask (s : State) (k : Kernel) (b : List Byte) : Task :=
  { noTask with
    live := true, part := s.pt.num, num := freshTask s s.pt, ctx := s.tk.ctx, source := 1, kernel := k, arg := frameFld b 0x10 8
    lo := frameFld b 0x08 4, hi := frameFld b 0x0C 4, tickets := s.tk.tickets, chain := s.tk.chain, rev := newRevNum s
    revDepth := s.tk.revDepth + 1, parent := s.tk.num, left := frameFld b 0x0C 4 - frameFld b 0x08 4 }

/-- The partition with a task more at the end of QF (R48, R146, R387). -/
def withForked (num : Nat) (p : Partition) : Partition := { p with nextTask := num % (2 ^ 32 - 1) + 1, qf := p.qf ++ [num] }

theorem enqueueTask_fork {s : State} {part : Nat} {p : Partition} (h : findPart s part = some p) (t : Task) :
    enqueueTask s part t true = addTask (modPart s part (withForked (freshTask s p)))
      { t with live := true, part := part, num := freshTask s p, left := t.hi - t.lo } := by
  unfold enqueueTask
  rw [h]
  rfl

theorem findRev_withNewRev (s : State) (b : List Byte) (p : Partition) :
    findRev (withNewRev s b p) (newRevNum s) = some (newRev s b) := by
  have hnone : (dropBy (fun r => r.num == newRevNum s) p.revs).find? (fun r => r.num == newRevNum s) = none :=
    List.find?_eq_none.mpr (fun r hr => by simpa using (List.mem_filter.mp hr).2)
  unfold findRev withNewRev
  rw [List.find?_append, hnone, Option.none_or]
  exact List.find?_cons_of_pos (beq_self_eq_true _)

section
variable {s : State} (h : s.pt.state ≠ 0 ∧ s.pt.num = s.g.id.part)
include h

/-- A child without indices has ended at once: it is a revision alone (R146). -/
theorem makeFork_empty (k : Kernel) {b : List Byte} (he : emptyFork b = true) :
    makeFork s k b = (modPart s s.pt.num (withNewRev s b), newRevNum s) := by
  unfold makeFork
  rw [findPart_pt h]
  exact congrArg (·, newRevNum s) (if_pos he)

/-- A child with indices is a task at the end of QF (R146). -/
theorem makeFork_task (k : Kernel) {b : List Byte} (he : emptyFork b = false) :
    makeFork s k b = (addTask (modPart (modPart s s.pt.num (withNewRev s b)) s.pt.num (withForked (freshTask s s.pt)))
      (newTask s k b), newRevNum s) := by
  have hpt : (modPart s s.pt.num (withNewRev s b)).pt = withNewRev s b s.pt := modPart_focus _ ⟨h.1, rfl⟩
  have hfound : findPart (modPart s s.pt.num (withNewRev s b)) s.pt.num = some (withNewRev s b s.pt) := by
    rw [findPart_pt (by rw [hpt]; exact ⟨h.1, rfl⟩), hpt]
  have hnum : freshTask (modPart s s.pt.num (withNewRev s b)) (withNewRev s b s.pt) = freshTask s s.pt :=
    freshTask_congr rfl rfl rfl
  unfold makeFork
  rw [findPart_pt h]
  refine congrArg (·, newRevNum s) ((if_neg (Bool.eq_false_iff.mp he)).trans ((enqueueTask_fork hfound _).trans ?_))
  rw [hnum]
  rfl

/-- What a fork leaves of the group, the bytes, the revisions, QF and the tasks (R146). -/
theorem makeFork_creates (k : Kernel) (b : List Byte) : ∃ u, makeFork s k b = (u, newRevNum s) ∧ u.g = s.g ∧ u.mem = s.mem ∧
    findRev u.pt (newRevNum s) = some (newRev s b) ∧
    u.pt.qf = s.pt.qf ++ (if emptyFork b then [] else [freshTask s s.pt]) ∧
    u.tasks = s.tasks ++ (if emptyFork b then [] else [newTask s k b]) := by
  have hrev : (modPart s s.pt.num (withNewRev s b)).pt = withNewRev s b s.pt := modPart_focus _ ⟨h.1, rfl⟩
  cases he : emptyFork b with
  | true =>
    refine ⟨_, makeFork_empty h k he, rfl, rfl, ?_, ?_, (List.append_nil _).symm⟩
    · rw [hrev, findRev_withNewRev]
    · rw [hrev]
      exact (List.append_nil _).symm
  | false =>
    have hpt : (modPart (modPart s s.pt.num (withNewRev s b)) s.pt.num (withForked (freshTask s s.pt))).pt =
        withForked (freshTask s s.pt) (withNewRev s b s.pt) := by
      rw [modPart_focus _ (by rw [hrev]; exact ⟨h.1, rfl⟩), hrev]
    refine ⟨_, makeFork_task h k he, rfl, rfl, (congrArg (findRev · _) hpt).trans (findRev_withNewRev s b s.pt), ?_, rfl⟩
    exact (congrArg Partition.qf hpt :)

end

/-! FORK (R372). -/

/-- FORK once it has read its descriptor `b` and its kernel. -/
def forkChecked (s s2 : State) (sd : BitVec 6) (a : Nat) (b : List Byte) (k : Kernel) : Out :=
  match forkBad b with
  | some (off, n) => trapS s 0x01 0 (structDetail (frameFld b off n) off 0 a)
  | none =>
    if 8 ≤ s.tk.revDepth then badState s 0x020 32
    else if 4096 ≤ (s2.pt.revs.filter revOpen).length then trapS s 0x0D 0 (poolDetail 0 3)
    else .next (finS (makeFork s2 k b).1 sd (BitVec.ofNat 64 (makeFork s2 k b).2))

section
variable {s : State} {sa : BitVec 6} (sd : BitVec 6) (hs : s.g.sup = false)
include hs

theorem fork_misaligned (ha : (sreg s sa).toNat % 64 ≠ 0) :
    exec (.fork sd sa) s = operandTrap s (opDetail 3 (sreg s sa).toNat 0) :=
  (userOnly_user hs _).trans (if_pos (by simpa using ha))

theorem fork_reads {s1 s2 : State} {b : List Byte} {k : Kernel} (ha : (sreg s sa).toNat % 64 = 0) (hq : quiet s .scalar = true)
    (hw : getWords s (me s) s.tm 16 (sreg s sa).toNat = .ok b s1) (hk : getKernel s1 (me s1) s1.tm (frameFld b 0 8) = .ok k s2) :
    exec (.fork sd sa) s = forkChecked s s2 sd (sreg s sa).toNat b k := by
  refine (userOnly_user hs _).trans ((if_neg (by simp [ha])).trans ((if_neg (by simp [hq])).trans ?_))
  rw [hw]
  dsimp only
  rw [hk]
  rfl

end

section
variable {s s2 : State} {b : List Byte} (sd : BitVec 6) (a : Nat) (k : Kernel)

theorem forkChecked_bad {off n : Nat} (hb : forkBad b = some (off, n)) :
    forkChecked s s2 sd a b k = operandTrap s (structDetail (frameFld b off n) off 0 a) := by
  unfold forkChecked
  rw [hb]
  rfl

variable (hb : forkBad b = none)
include hb

theorem forkChecked_deep (hd : 8 ≤ s.tk.revDepth) : forkChecked s s2 sd a b k = operandTrap s (opDetail 4 0x020 32) := by
  unfold forkChecked
  rw [hb]
  exact if_pos hd

theorem forkChecked_full (hd : s.tk.revDepth < 8) (hn : 4096 ≤ (s2.pt.revs.filter revOpen).length) :
    forkChecked s s2 sd a b k = trapS s 0x0D 0 (poolDetail 0 3) := by
  unfold forkChecked
  rw [hb]
  exact (if_neg (Nat.not_le.mpr hd)).trans (if_pos hn)

theorem forkChecked_forks (hd : s.tk.revDepth < 8) (hn : (s2.pt.revs.filter revOpen).length < 4096) :
    forkChecked s s2 sd a b k = .next (finS (makeFork s2 k b).1 sd (BitVec.ofNat 64 (makeFork s2 k b).2)) := by
  unfold forkChecked
  rw [hb]
  exact (if_neg (Nat.not_le.mpr hd)).trans (if_neg (Nat.not_le.mpr hn))

end

end Sys2Proof.Machine

namespace Sys2Proof.Claims

open Sys2Proof Sys2Proof.Machine

/-- Settles O25: the checks in their order, then the revision and, where it has indices, the child task. -/
theorem forkCreatesChild : Obligations.ForkCreatesChild := by
  unfold Obligations.ForkCreatesChild
  intro s sd sa b k s1 s2
  refine ⟨fun h => userOnly_supervisor h _, fun hs ha => fork_misaligned sd hs ha, fun hs ha hq hw hk => ?_⟩
  rw [fork_reads sd hs ha hq hw hk]
  refine ⟨fun off n hb => forkChecked_bad sd _ k hb, fun hb => ⟨fun hd => forkChecked_deep sd _ k hb hd,
    fun hd hn => forkChecked_full sd _ k hb hd hn, fun hd hn hf => ?_⟩⟩
  rw [forkChecked_forks sd _ k hb hd hn]
  obtain ⟨u, hfork, hg, hmem, hfound, hqf, htasks⟩ := makeFork_creates hf.part k b
  obtain ⟨h0, hfree⟩ := nextRevNum_free s2.pt s2.pt.nextRev hn
  rw [hfork]
  refine ⟨_, newRev s2 b, rfl, ?_, hmem, hfound, h0, hfree, rfl, rfl, rfl, rfl, rfl, rfl, fun hle => ?_, fun hlt => ?_⟩
  · apply writesS_finS <;> rw [hg]
  · have he : emptyFork b = true := decide_eq_true hle
    rw [he] at hqf htasks
    exact ⟨by simp [newRev, he], hqf.trans (List.append_nil _), htasks.trans (List.append_nil _)⟩
  · have he : emptyFork b = false := decide_eq_false (Nat.not_le.mpr hlt)
    have hchild : (newRev s2 b).child = freshTask s2 s2.pt := by simp [newRev, he]
    rw [he] at hqf htasks
    rw [hchild]
    refine ⟨by simp [newRev, he], hqf, fun hnz hsmall hnew => freshTask_next hnz hsmall (by rw [hf.part.2]; exact hnew), newTask s2 k b,
      htasks, rfl, hf.part.2, rfl, rfl, rfl, rfl, rfl, rfl, rfl, rfl, rfl, rfl, rfl⟩

end Sys2Proof.Claims
end

section
/-! PROOFS. O54: JOIN_MERGE and the JOIN of a debug-halted group (R153, R389). -/
namespace Sys2Proof.Claims

open Sys2Proof Sys2Proof.Machine

/-- A child of task 1, which has ended without a copy of any granule. -/
def endedChild : Revision :=
  { num := 3, ctx := 1, child := 2, parent := 1, parentRev := 0, regions := [⟨0x20000, 1, 0, 5⟩], grans := [], state := 2, discard := false
    killed := false, word := 0, joiner := none, waiting := false }

/-- The group of task 1 is halted by the debugger while its JOIN waits for the child (R156, R273). -/
def haltedJoining : Group := { noGroup with live := true, id := ⟨1, 1, 0, 0⟩, halted := true, joinWait := some (0, 3) }

/-- The child has ended meanwhile, and the Merge Unit has its turn on it. -/
def childEnded : State :=
  { State.reset with
    g := haltedJoining
    tm := { noTeam with live := true, part := 1, task := 1 }
    tk := { noTask with live := true, part := 1, num := 1, ctx := 1, left := 1, started := true }
    pt := { noPartition with num := 1, state := 2, run := true, revs := [endedChild] }
    inp := { noInputs with part := 1, idx := 3 } }

/-- JOIN_MERGE begins the join for the halted group (R389). -/
theorem joinMerge_childEnded : exec .joinMerge childEnded = .next (reserved childEnded endedChild) := by rfl

/-- Refutes O54: its third clause says that JOIN_MERGE does nothing to a revision that does not merge yet. In `childEnded` the revision has
ended and the JOIN of a debug-halted group waits for it: R389 lets that join proceed, and JOIN_MERGE begins it. -/
theorem not_mergeAndJoinSteps : ¬ Obligations.MergeAndJoinSteps := by
  unfold Obligations.MergeAndJoinSteps
  intro h
  obtain ⟨-, -, hidle, -⟩ := h childEnded childEnded.pt endedChild noTask
  obtain ⟨hnothing, -⟩ := hidle rfl rfl (by decide)
  rw [joinMerge_childEnded] at hnothing
  injection hnothing with hsame
  have hstate : [3] = [2] := congrArg (fun t : State => t.pt.revs.map Revision.state) hsame
  cases hstate

end Sys2Proof.Claims
end

section
/-! PROOFS. Watch entries under the operations that change them (R160, R162, R163), and what marking pages as WATCHED leaves. -/
namespace Sys2Proof.Machine

open Sys2Proof.Claims

/-! The list of entries. -/

theorem findWatch_congr {p q : Partition} (h : p.watches = q.watches) (j : Nat) : findWatch p j = findWatch q j := by
  rw [findWatch, findWatch, h]

/-- The partition with one entry more. -/
def withWatch (w : WatchEntry) (p : Partition) : Partition := { p with watches := p.watches ++ [w] }

/-- The partition with entry `idx` FREE. -/
def withoutWatch (idx : Nat) (p : Partition) : Partition := { p with watches := p.watches.filter (fun x => x.idx != idx) }

theorem findWatch_withWatch_same {p : Partition} {w : WatchEntry} (hn : findWatch p w.idx = none) (hs : w.state ≠ 0) :
    findWatch (withWatch w p) w.idx = some w := by
  have hn' : p.watches.find? (fun x => x.idx == w.idx && x.state != 0) = none := hn
  simp [findWatch, withWatch, List.find?_append, hn', hs]

theorem findWatch_withWatch_other (p : Partition) {w : WatchEntry} {j : Nat} (h : j ≠ w.idx) :
    findWatch (withWatch w p) j = findWatch p j := by
  simp [findWatch, withWatch, List.find?_append, Ne.symm h]

theorem findWatch_withoutWatch_same (idx : Nat) (p : Partition) : findWatch (withoutWatch idx p) idx = none := by
  refine List.find?_eq_none.mpr fun x hx => ?_
  obtain ⟨-, hne⟩ := List.mem_filter.mp hx
  simpa using fun e : x.idx = idx => absurd e (by simpa using hne)

theorem findWatch_withoutWatch_other (p : Partition) {idx j : Nat} (h : j ≠ idx) :
    findWatch (withoutWatch idx p) j = findWatch p j := by
  rw [findWatch, withoutWatch, List.find?_filter]
  refine congrArg (List.find? · p.watches) (funext fun x => Bool.eq_iff_iff.mpr ?_)
  by_cases hx : x.idx = j
  · simp [hx, h]
  · simp [hx]

/-- A change of the only element under its index. -/
theorem findWatch_modWatch {s : State} {part idx : Nat} {w : WatchEntry} (h : s.pt.state ≠ 0 ∧ s.pt.num = part)
    (hw : findWatch s.pt idx = some w) (hu : ∀ x ∈ s.pt.watches, x.idx = idx → x = w) (f : WatchEntry → WatchEntry)
    (hi : (f w).idx = w.idx) (hs : (f w).state ≠ 0) : findWatch (modWatch s part idx f).pt idx = some (f w) := by
  have hmem : w ∈ s.pt.watches := List.mem_of_find?_eq_some hw
  have hidx : w.idx = idx := by
    have := List.find?_some hw
    simp only [Bool.and_eq_true, beq_iff_eq] at this
    exact this.1
  rw [modWatch, modPart_focus _ h]
  refine find_only (List.mem_map.mpr ⟨w, hmem, by simp [hidx]⟩) (by simp [hi, hidx, hs]) fun x hx hp => ?_
  obtain ⟨y, hy, rfl⟩ := List.mem_map.mp hx
  by_cases hk : y.idx = idx
  · obtain rfl := hu y hy hk
    exact if_pos (by simp [hk])
  · simp [hk] at hp

/-- The lowest FREE entry is one of the 512 (R160, R162). -/
theorem freeEntry_some {p : Partition} {idx : Nat} (h : freeEntry p = some idx) : idx < 512 ∧ findWatch p idx = none := by
  unfold freeEntry at h
  have hp := List.find?_some h
  exact ⟨List.mem_range.mp (List.mem_of_find?_eq_some h), by simpa using hp⟩

/-! Pages marked as WATCHED or no longer so (R162, R163). -/

/-- `t` is `s` but for page tables, TLBs and what else the marking of pages touches: the group, the task, the entries and the place of the
partition in focus are the same. -/
structure Marked (s t : State) : Prop where
  group : t.g = s.g
  task : t.tk = s.tk
  state : t.pt.state = s.pt.state
  num : t.pt.num = s.pt.num
  watches : t.pt.watches = s.pt.watches

theorem marked_setWatched (s : State) (part ctx : Nat) (on : Bool) (l : Leaf) : Marked s (setWatched s part ctx on l) := by
  unfold setWatched modPart
  dsimp only
  split <;> exact ⟨rfl, rfl, rfl, rfl, rfl⟩

/-- The pages of `ls` marked. -/
def markPages (part ctx : Nat) (on : Bool) (s : State) (ls : List Leaf) : State :=
  ls.foldl (fun u l => setWatched u part ctx on l) s

theorem marked_markPages (part ctx : Nat) (on : Bool) (ls : List Leaf) (s : State) : Marked s (markPages part ctx on s ls) := by
  induction ls generalizing s with
  | nil => exact ⟨rfl, rfl, rfl, rfl, rfl⟩
  | cons l r ih =>
    have h := marked_setWatched s part ctx on l
    have k := ih (setWatched s part ctx on l)
    exact ⟨k.group.trans h.group, k.task.trans h.task, k.state.trans h.state, k.num.trans h.num, k.watches.trans h.watches⟩

theorem Marked.focus {s t : State} {part : Nat} (h : Marked s t) (hp : s.pt.state ≠ 0 ∧ s.pt.num = part) :
    t.pt.state ≠ 0 ∧ t.pt.num = part := by rwa [h.state, h.num]

end Sys2Proof.Machine
end

section
/-! PROOFS. WATCH (R161, R162, R371, R377). -/
namespace Sys2Proof.Machine

open Sys2Proof.Claims

section
variable {s : State} {sa : BitVec 6} (sd : BitVec 6)

theorem watch_misaligned (ha : (sreg s sa).toNat % 64 ≠ 0) :
    exec (.watch sd sa) s = operandTrap s (opDetail 3 (sreg s sa).toNat 0) := if_pos (by simpa using ha)

variable {s1 : State} {b : List Byte} (ha : (sreg s sa).toNat % 64 = 0) (hq : quiet s .scalar = true)
  (hw : getWords s (me s) s.tm 8 (sreg s sa).toNat = .ok b s1)
include ha hq hw

theorem watch_badField {off n : Nat} (hb : watchBad b = some (off, n)) :
    exec (.watch sd sa) s = operandTrap s (structDetail (frameFld b off (min n 8)) off 1 (sreg s sa).toNat) := by
  refine (if_neg (by simp [ha])).trans ((if_neg (by simp [hq])).trans ?_)
  rw [hw]
  dsimp only
  rw [hb]
  rfl

/-- With a descriptor and a kernel that pass their checks and no fabric page in the range, WATCH arms its entry. -/
theorem watch_arms {s2 : State} {k : Kernel} (hb : watchBad b = none)
    (hk : getKernel s1 (me s1) s1.tm (frameFld b 0x20 8) = .ok k s2)
    (hf : ∀ p ∈ rangePages s2 s.g.id.part s.tk.ctx (frameFld b 0 8) (frameFld b 8 1), ∀ l, p.2 = some l → bit l.pte 63 = false) :
    exec (.watch sd sa) s = armWatch s2 sd b k (frameFld b 0 8) (frameFld b 8 1) := by
  have hfabric : (rangePages s2 s.g.id.part s.tk.ctx (frameFld b 0 8) (frameFld b 8 1)).any
      (fun p => (p.2.map (fun l => bit l.pte 63)).getD false) = false := by
    refine List.any_eq_false.mpr fun p hp => ?_
    cases hl : p.2 with
    | none => simp
    | some l => simp [hf p hp l hl]
  refine (if_neg (by simp [ha])).trans ((if_neg (by simp [hq])).trans ?_)
  rw [hw]
  dsimp only
  rw [hb]
  dsimp only
  rw [hk]
  exact if_neg (by simp [hfabric])

end

/-- The machine once an entry is armed on `pages` (R162). -/
def armed (s : State) (pages : List (Nat × Option Leaf)) (part ctx : Nat) (w : WatchEntry) : State :=
  modPart (markPages part ctx true s (pages.filterMap Prod.snd)) part (withWatch w)

section
variable {s s1 : State} (sd : BitVec 6) (b : List Byte) (k : Kernel) {va log2 : Nat}
  (hr : readPages (me s) s (rangePages s s.g.id.part s.tk.ctx va log2) = .ok none s1)
include hr

theorem armWatch_full (hn : freeEntry s1.pt = none) :
    armWatch s sd b k va log2 = .next (finS s1 sd (BitVec.allOnes 64)) := by
  simp only [armWatch, hr, orTrapS, hn]

theorem armWatch_free {idx : Nat} (hn : freeEntry s1.pt = some idx)
    (hu : rangeInUse s1 s.g.id.part s.tk.ctx va (va + 2 ^ log2) = false) :
    armWatch s sd b k va log2 =
      .next (finS (armed s1 (rangePages s s.g.id.part s.tk.ctx va log2) s.g.id.part s.tk.ctx (watchOf b k idx s.tk.ctx)) sd
        (BitVec.ofNat 64 idx)) := by
  simp only [armWatch, hr, orTrapS, hn]
  exact if_neg (by simp [hu])

end

section
variable {s : State} (pages : List (Nat × Option Leaf)) {part : Nat} (ctx : Nat) {w : WatchEntry}

variable (h : s.pt.state ≠ 0 ∧ s.pt.num = part)
include h

theorem findWatch_armed (j : Nat) : findWatch (armed s pages part ctx w).pt j = findWatch (withWatch w s.pt) j := by
  have hm := marked_markPages part ctx true (pages.filterMap Prod.snd) s
  rw [armed, modPart_focus _ (hm.focus h)]
  exact findWatch_congr (congrArg (· ++ [w]) hm.watches) j

/-- An entry armed where the lowest FREE one was, with a result in `sd`: every other entry is as before (R162). -/
theorem armed_fills (hn : freeEntry s.pt = some w.idx) (hs : w.state ≠ 0) (sd : BitVec 6) (v : Word) :
    let t := finS (armed s pages part ctx w) sd v
    WritesS s t sd v ∧ w.idx < 512 ∧ findWatch s.pt w.idx = none ∧ findWatch t.pt w.idx = some w ∧
      ∀ j, j ≠ w.idx → findWatch t.pt j = findWatch s.pt j := by
  obtain ⟨hlt, hfree⟩ := freeEntry_some hn
  have hg : (armed s pages part ctx w).g = s.g := (marked_markPages part ctx true _ s).group
  refine ⟨writesS_finS (congrArg Group.sc hg) (congrArg Group.ln hg) (congrArg Group.q hg) (congrArg Group.en hg)
    (congrArg Group.sup hg) sd v, hlt, hfree, ?_, fun j hj => ?_⟩
  · exact (findWatch_armed pages ctx h w.idx).trans (findWatch_withWatch_same hfree hs)
  · exact (findWatch_armed pages ctx h j).trans (findWatch_withWatch_other s.pt hj)

end

end Sys2Proof.Machine
end

section
/-! PROOFS. UNWATCH, WARM and WSTAT of an entry (R160, R163, R172, R377). -/
namespace Sys2Proof.Machine

open Sys2Proof.Claims

/-! The entry that an instruction names. -/

section
variable {s : State} {sa : BitVec 6} (free : Bool) (k : Nat → Option WatchEntry → Out)

theorem entryArg_wide (h : (sreg s sa).extractLsb' 9 55 ≠ 0) :
    entryArg s sa free k = operandTrap s (opDetail 3 (sreg s sa).toNat 9) := if_pos ((fld_bne_zero _ _ _).mpr h)

variable (h : (sreg s sa).extractLsb' 9 55 = 0)
include h

theorem entryArg_foreign {w : WatchEntry} (hw : findWatch s.pt (sreg s sa).toNat = some w) (hs : s.g.sup = false)
    (hc : w.ctx ≠ s.tk.ctx) : entryArg s sa free k = operandTrap s (opDetail 4 (sreg s sa).toNat 0) := by
  refine (if_neg ((fld_bne_zero _ _ _).not.mpr (not_not.mpr h))).trans ?_
  rw [hw]
  exact if_pos (by simp [hs, hc])

theorem entryArg_free (hw : findWatch s.pt (sreg s sa).toNat = none) :
    entryArg s sa free k = if free then k (sreg s sa).toNat none else operandTrap s (opDetail 4 (sreg s sa).toNat 0) := by
  refine (if_neg ((fld_bne_zero _ _ _).not.mpr (not_not.mpr h))).trans ?_
  rw [hw]
  rfl

end

theorem entryArg_entry {s : State} {sa : BitVec 6} {w : WatchEntry} (free : Bool) (k : Nat → Option WatchEntry → Out)
    (he : EntryOf s sa w) : entryArg s sa free k = k (sreg s sa).toNat (some w) := by
  obtain ⟨h, hw, -, hown⟩ := he
  refine (if_neg ((fld_bne_zero _ _ _).not.mpr (not_not.mpr h))).trans ?_
  rw [hw]
  refine if_neg ?_
  obtain hs | hc := hown
  · simp [hs]
  · simp [hc]

/-- The three instructions find their entry by `entryArg`. -/
theorem exec_entryArg {sd sa : BitVec 6} {i : Instr} (hi : i ∈ [Instr.unwatch sa, .warm sa, .wstat sd sa]) (s : State) :
    ∃ free k, exec i s = entryArg s sa free k := by
  simp only [List.mem_cons, List.not_mem_nil, or_false] at hi
  obtain rfl | rfl | rfl := hi
  · exact ⟨false, _, by show execUnwatch sa s = _; rw [execUnwatch]⟩
  · exact ⟨false, _, by show execWarm sa s = _; rw [execWarm]⟩
  · exact ⟨true, _, by show execWstat sd sa s = _; rw [execWstat]⟩

/-! UNWATCH (R163). -/

/-- The task with its trigger closed. -/
def shutTrig (t : Task) : Task := { t with trig := t.trig.map (fun r => { r with isOpen := false }) }

/-- The machine once entry `idx` is FREE, its triggers closed and the pages of `ls` no longer WATCHED. -/
def unwatched (s : State) (ls : List Leaf) (part ctx idx : Nat) : State :=
  modPart (modTasks (markPages part ctx false s ls)
    (fun t => t.part == part && (t.trig.map (fun r => r.entry == idx)).getD false) shutTrig) part (withoutWatch idx)

theorem unwatch_frees {s : State} {sa : BitVec 6} {w : WatchEntry} (he : EntryOf s sa w)
    (hu : rangeInUse s s.g.id.part w.ctx w.va (w.va + 2 ^ w.log2) = false) :
    ∃ ls, exec (.unwatch sa) s = .next (advS (unwatched s ls s.g.id.part w.ctx (sreg s sa).toNat)) := by
  show ∃ ls, execUnwatch sa s = _
  rw [execUnwatch, entryArg_entry false _ he]
  exact ⟨_, if_neg (by simp [hu])⟩

theorem unwatched_g (s : State) (ls : List Leaf) (part ctx idx : Nat) : (unwatched s ls part ctx idx).g = s.g :=
  (marked_markPages part ctx false ls s).group

theorem findWatch_unwatched {s : State} {part : Nat} (h : s.pt.state ≠ 0 ∧ s.pt.num = part) (ls : List Leaf) (ctx idx j : Nat) :
    findWatch (unwatched s ls part ctx idx).pt j = findWatch (withoutWatch idx s.pt) j := by
  have hm := marked_markPages part ctx false ls s
  have hpt : (unwatched s ls part ctx idx).pt = withoutWatch idx (markPages part ctx false s ls).pt := modPart_focus _ (hm.focus h)
  rw [hpt]
  exact findWatch_congr (congrArg (List.filter _) hm.watches) j

theorem unwatched_trig {s : State} {part : Nat} (h : s.tk.live = true ∧ s.tk.part = part) (ls : List Leaf) (ctx : Nat) {idx : Nat}
    {r : TrigRec} (hr : s.tk.trig = some r) (hi : r.entry = idx) :
    (unwatched s ls part ctx idx).tk.trig = some { r with isOpen := false } := by
  obtain ⟨hl, hp⟩ := h
  have hm := marked_markPages part ctx false ls s
  have htk : (unwatched s ls part ctx idx).tk = shutTrig (markPages part ctx false s ls).tk :=
    if_pos (by simp [hm.task, hl, hp, hr, hi])
  rw [htk, hm.task]
  exact congrArg (Option.map _) hr

/-! WARM (R163). -/

/-- An entry with an empty rate window. -/
def freshWindow (w : WatchEntry) : WatchEntry := { w with winStart := 0, winCount := 0 }

/-- An entry ARMED again, with nothing held. -/
def rearmed (w : WatchEntry) : WatchEntry := { w with state := 1, reason := 0, winStart := 0, winCount := 0, held := [] }

section
variable {s : State} {sa : BitVec 6} {w : WatchEntry} (he : EntryOf s sa w)
include he

theorem warm_armed (hs : w.state = 1) :
    exec (.warm sa) s = .next (advS (modWatch s s.g.id.part (sreg s sa).toNat freshWindow)) := by
  show execWarm sa s = _
  rw [execWarm, entryArg_entry false _ he]
  exact if_pos hs

theorem warm_disarmed (hs : w.state = 2) (hh : w.held = []) :
    exec (.warm sa) s = .next (advS (modWatch s s.g.id.part (sreg s sa).toNat rearmed)) := by
  show execWarm sa s = _
  rw [execWarm, entryArg_entry false _ he]
  refine (if_neg (by simp [hs])).trans ?_
  rw [hh]
  rfl

theorem findWatch_warm (hf : Focused s) (f : WatchEntry → WatchEntry) (hi : (f w).idx = w.idx) (hs : (f w).state ≠ 0) :
    findWatch (advS (modWatch s s.g.id.part (sreg s sa).toNat f)).pt (sreg s sa).toNat = some (f w) := by
  obtain ⟨-, hw, hu, -⟩ := he
  exact findWatch_modWatch hf.part hw hu f hi hs

/-! WSTAT (R172). -/

theorem wstat_entry (sd : BitVec 6) : Gives (.wstat sd sa) s sd (BitVec.ofNat 64 (w.state + 4 * w.reason
    + 2 ^ 16 * (openTrigs s s.g.id.part (sreg s sa).toNat).length + (if w.held = [] then 0 else 2 ^ 23) + 2 ^ 32 * w.created)) := by
  apply gives_finS
  show execWstat sd sa s = _
  rw [execWstat, entryArg_entry true _ he]
  have hh : b2n (!w.held.isEmpty) * 2 ^ 23 = if w.held = [] then 0 else 2 ^ 23 := by
    rw [b2n_mul]
    cases w.held with
    | nil => simp
    | cons r l => simp
  dsimp only
  rw [hh, Nat.mul_comm w.reason 4, Nat.mul_comm _ (2 ^ 16), Nat.mul_comm w.created]

end

theorem wstat_free {s : State} {sa : BitVec 6} (sd : BitVec 6) (h : (sreg s sa).extractLsb' 9 55 = 0)
    (hw : findWatch s.pt (sreg s sa).toNat = none) : Gives (.wstat sd sa) s sd 0 := by
  apply gives_finS
  show execWstat sd sa s = _
  rw [execWstat, entryArg_free true _ h hw]
  rfl

theorem unwatch_free {s : State} {sa : BitVec 6} (h : (sreg s sa).extractLsb' 9 55 = 0)
    (hw : findWatch s.pt (sreg s sa).toNat = none) : exec (.unwatch sa) s = operandTrap s (opDetail 4 (sreg s sa).toNat 0) := by
  show execUnwatch sa s = _
  rw [execUnwatch, entryArg_free false _ h hw]
  rfl

theorem warm_free {s : State} {sa : BitVec 6} (h : (sreg s sa).extractLsb' 9 55 = 0)
    (hw : findWatch s.pt (sreg s sa).toNat = none) : exec (.warm sa) s = operandTrap s (opDetail 4 (sreg s sa).toNat 0) := by
  show execWarm sa s = _
  rw [execWarm, entryArg_free false _ h hw]
  rfl

end Sys2Proof.Machine
end

section
/-! PROOFS. TRIGREC and TRIGACK (R168, R170, R378). -/
namespace Sys2Proof.Machine

open Sys2Proof.Claims

/-! TRIGREC (R170). -/

/-- The words of a trigger record, in R170's order. -/
theorem trigRecWord_of_getElem? {r : TrigRec} {k : Nat} {v : Word}
    (h : [BitVec.ofNat 64 (min r.depth 31 + r.entry * 2 ^ 16 + (if r.merged then 2 ^ 25 else 0) + (if r.rearm then 2 ^ 26 else 0)
      + r.count * 2 ^ 32), BitVec.ofNat 64 r.addr, r.first, r.latest, r.stamp1, r.stamp2][k]? = some v) :
    k < 6 ∧ trigRecWord r k = v := by
  refine ⟨(List.getElem?_eq_some_iff.mp h).1, ?_⟩
  match k with
  | 0 =>
    simp only [trigRecWord, b2n_mul]
    exact Option.some.inj h
  | 1 | 2 | 3 | 4 | 5 => exact Option.some.inj h
  | n + 6 => cases h

section
variable {s : State} (sd : BitVec 6) {k : BitVec 6}

theorem trigrec_beyond (h : 6 ≤ k.toNat) : exec (.trigrec sd k) s = operandTrap s (opDetail 0 k.toNat 8) := if_pos h

theorem trigrec_none (h : k.toNat < 6) (hr : s.tk.trig = none) : Gives (.trigrec sd k) s sd 0 := by
  apply gives_finS
  refine (if_neg (by omega)).trans ?_
  rw [hr]

theorem trigrec_some {r : TrigRec} (h : k.toNat < 6) (hr : s.tk.trig = some r) : exec (.trigrec sd k) s =
    .next (finS { s with tk := { s.tk with trig := some { r with since := 0 } } } sd (trigRecWord r k.toNat)) := by
  refine (if_neg (by omega)).trans ?_
  rw [hr]

end

/-! TRIGACK (R168). -/

section
variable {s : State} (hf : Focused s)
include hf

/-- Without an open trigger there is nothing to close. -/
theorem trigack_idle (h : ∀ r, s.tk.trig = some r → r.isOpen = false) : Becomes .trigack s id := by
  refine congrArg (fun u => Host.Outcome.next (advS u)) (?_ : closeTrig s s.g.id.part s.g.id.task true = s)
  unfold closeTrig
  rw [findTask_focused hf, Option.bind_some]
  cases hr : s.tk.trig with
  | none => rfl
  | some r => exact if_pos (by simp [h r hr])

/-- The task with trigger `r`, closed. -/
def trigClosed (r : TrigRec) (t : Task) : Task := { t with trig := some { r with isOpen := false } }

/-- An open trigger that has absorbed nothing since it was read closes without a re-trigger. -/
theorem trigack_read {r : TrigRec} (hr : s.tk.trig = some r) (ho : r.isOpen = true) (hs : r.since = 0) : exec .trigack s =
    .next (advS (modTask s s.g.id.part s.g.id.task (trigClosed r))) := by
  refine congrArg (fun u => Host.Outcome.next (advS u)) (?_ : closeTrig s s.g.id.part s.g.id.task true = _)
  unfold closeTrig
  rw [findTask_focused hf, Option.bind_some, hr]
  exact (if_neg (by simp [ho])).trans (if_neg (by simp [hs]))

theorem modTask_tk (f : Task → Task) : (modTask s s.g.id.part s.g.id.task f).tk = f s.tk := by
  obtain ⟨hl, hp, hn⟩ := hf.task
  exact if_pos (by simp [hl, hp, hn])

end

end Sys2Proof.Machine
end

section
/-! PROOFS. O29: WATCH, UNWATCH, WARM, TRIGREC, TRIGACK and WSTAT. -/
namespace Sys2Proof.Claims

open Sys2Proof Sys2Proof.Machine

/-- Settles O29: WATCH by its checks and its arming, the instructions on an entry by what `entryArg` finds, the trigger record word by word,
and TRIGACK by the close of the trigger of the task in focus. -/
theorem watchesAndTriggers : Obligations.WatchesAndTriggers := by
  unfold Obligations.WatchesAndTriggers
  refine ⟨fun s sd sa b k s1 s2 s3 w => ⟨watch_misaligned sd, fun ha hq hw => ⟨fun off n => watch_badField sd ha hq hw, ?_⟩,
      fun i hi => ?_, fun h hw => ?_, fun he hf => ?_⟩, fun s sd k r => ?_⟩
  · intro hb hk hg htk hfabric hr hg3
    rw [hg, htk] at hfabric
    have run := watch_arms sd ha hq hw hb hk hfabric
    refine ⟨fun hn => ⟨_, run.trans (armWatch_full sd b k hr hn), writesS_finS rfl rfl rfl rfl rfl sd _, rfl, rfl⟩,
      fun idx hf3 hn hu => ?_⟩
    have hp : s3.pt.state ≠ 0 ∧ s3.pt.num = s2.g.id.part := by
      rw [hg, ← hg3]
      exact hf3.part
    have harm := armWatch_free sd b k hr hn (by rw [hg, htk]; exact hu)
    rw [← htk]
    exact ⟨_, run.trans harm, armed_fills _ s2.tk.ctx (w := watchOf b k idx s2.tk.ctx) hp hn (by decide : (1 : Nat) ≠ 0) sd _⟩
  · obtain ⟨free, act, hrun⟩ := exec_entryArg hi s
    exact ⟨fun h => hrun.trans (entryArg_wide free act h), fun h hw hs hc => hrun.trans (entryArg_foreign free act h hw hs hc)⟩
  · exact ⟨wstat_free sd h hw, unwatch_free h hw, warm_free h hw⟩
  · refine ⟨fun hu => ?_, fun hs => ?_, fun hs hh => ?_, wstat_entry he sd⟩
    · obtain ⟨ls, hrun⟩ := unwatch_frees he hu
      exact ⟨_, hrun, nextWord_advS (unwatched_g _ _ _ _ _),
        (findWatch_unwatched hf.part ls _ _ _).trans (findWatch_withoutWatch_same _ _),
        fun j hj => (findWatch_unwatched hf.part ls _ _ _).trans (findWatch_withoutWatch_other _ hj),
        fun r hr hi => unwatched_trig ⟨hf.task.1, hf.task.2.1⟩ ls w.ctx hr hi⟩
    · exact ⟨_, warm_armed he hs, nextWord_advS rfl, rfl, findWatch_warm he hf freshWindow rfl (by simp [freshWindow, hs])⟩
    · exact ⟨_, warm_disarmed he hs hh, nextWord_advS rfl, rfl, findWatch_warm he hf rearmed rfl (by decide : (1 : Nat) ≠ 0)⟩
  · refine ⟨trigrec_beyond sd, trigrec_none sd, fun v hv hr => ?_, fun hf h => ?_, fun hf hr ho hs => ?_⟩
    · obtain ⟨hk, hword⟩ := trigRecWord_of_getElem? hv
      rw [← hword]
      exact ⟨_, trigrec_some sd hk hr, scalarResult_finS _ sd _⟩
    · refine trigack_idle hf fun r' hr' => ?_
      obtain hn | ⟨hr, ho⟩ := h
      · exact absurd (hn.symm.trans hr') (by simp)
      · obtain rfl := Option.some.inj (hr.symm.trans hr')
        exact ho
    · exact ⟨_, trigack_read hf hr ho hs, nextWord_advS rfl, modTask_tk hf (trigClosed r), rfl, rfl, rfl⟩

end Sys2Proof.Claims
end

section
/-! PROOFS. O58, the canonical form of memory (R181, R331, log 3). The rules: writes keep the form, a state has the form when its memory
has, and what each kind of answer must hold (`Keeps`) so that its caller has the form again. -/
namespace Sys2Proof.Machine

open Sys2Proof

/-- A state of the same bytes keeps the form. -/
theorem memOk_set {s : State} {g : Group} {tm : Team} {tk : Task} {pt : Partition} {groups : List Group} {teams : List Team}
    {tasks : List Task} {parts : List Partition} {cores : List Core} {dev : Device} {agenda : List Turn} {tick free : Nat} {defer : Bool}
    {inp : Inputs} (h : MemOk s) :
    MemOk { g := g, tm := tm, tk := tk, pt := pt, groups := groups, teams := teams, tasks := tasks, parts := parts, cores := cores,
            dev := dev, mem := s.mem, agenda := agenda, tick := tick, free := free, defer := defer, inp := inp } := h

theorem memOk_mputs {s : State} {key : Nat} {bs : List Byte} (h : MemOk s) : MemOk { s with mem := mputs s.mem key bs } :=
  wf_mputs _ _ _ h

/-- Writes of eight bytes each, one for every element of a list. -/
theorem wf_foldl_mwrite {m : Memory} {at' : Nat → Nat} {v : Memory → Nat → Nat} {l : List Nat} (h : m.wf = true) :
    Memory.wf (l.foldl (fun m k => mwrite m (at' k) 8 (v m k)) m) = true := by
  induction l generalizing m with
  | nil => exact h
  | cons k r ih => exact ih (wf_mwrite m (at' k) 8 (v m k) h)

/-- Writes of one byte each, one for every element of a list. -/
theorem wf_foldl_mput {α : Type} {m : Memory} {at' : α → Nat} {v : α → Byte} {l : List α} (h : m.wf = true) :
    Memory.wf (l.foldl (fun m c => mput m (at' c) (v c)) m) = true := by
  induction l generalizing m with
  | nil => exact h
  | cons c r ih => exact ih (wf_mput m (at' c) (v c) h)

theorem memOk_ite {c : Prop} [Decidable c] {a b : State} (ha : MemOk a) (hb : MemOk b) : MemOk (if c then a else b) := by
  split
  · exact ha
  · exact hb

theorem memOk_foldl {α : Type} {f : State → α → State} {s : State} {l : List α} (h : MemOk s)
    (hf : ∀ u x, MemOk u → MemOk (f u x)) : MemOk (l.foldl f s) := by
  induction l generalizing s with
  | nil => exact h
  | cons x r ih => exact ih (hf s x h)

theorem memOk_fst {α : Type} {p : State × α} {s : State} {a : α} (h : MemOk p.1) (e : p = (s, a)) : MemOk s := by
  subst e
  exact h

theorem memOk_snd {α : Type} {p : α × State} {s : State} {a : α} (h : MemOk p.2) (e : p = (a, s)) : MemOk s := by
  subst e
  exact h

/-- What an optional answer holds, where it is there. -/
inductive OptKeeps {α : Type} (p : α → Prop) : Option α → Prop
  | none : OptKeeps p none
  | some {a : α} (h : p a) : OptKeeps p (some a)

theorem OptKeeps.of_some {α : Type} {p : α → Prop} {o : Option α} {a : α} (h : OptKeeps p o) (e : o = Option.some a) : p a := by
  subst e
  cases h
  assumption

theorem OptKeeps.map {α β : Type} {p : β → Prop} {f : α → β} {o : Option α} (hf : ∀ a, p (f a)) : OptKeeps p (o.map f) := by
  cases o with
  | none => exact .none
  | some a => exact .some (hf a)

theorem memOk_getD {o : Option State} {s : State} (ho : OptKeeps MemOk o) (h : MemOk s) : MemOk (o.getD s) := by
  cases ho with
  | none => exact h
  | some ht => exact ht

/-- What a memory operation answers keeps the form. -/
inductive MR.Keeps {α : Type} : MR α → Prop
  | ok {a : α} {s : State} (h : MemOk s) : MR.Keeps (.ok a s)
  | trap {n : Nat} {d : BitVec 192} : MR.Keeps (.trap n d)
  | stall : MR.Keeps .stall
  | fault {f : Fault} : MR.Keeps (.fault f)

theorem MR.Keeps.of_ok {α : Type} {x : MR α} {a : α} {s : State} (h : MR.Keeps x) (e : x = .ok a s) : MemOk s := by
  subst e
  cases h
  assumption

theorem MR.keeps_bind {α β : Type} {x : MR α} {k : α → State → MR β} (hx : MR.Keeps x) (hk : ∀ a u, MemOk u → MR.Keeps (k a u)) :
    MR.Keeps (x.bind k) := by
  cases hx with
  | ok h => exact hk _ _ h
  | trap => exact .trap
  | stall => exact .stall
  | fault => exact .fault

/-- What the meaning of an instruction answers keeps the form. -/
inductive Out.Keeps : Out → Prop
  | next {s : State} (h : MemOk s) : Out.Keeps (.next s)
  | fault {f : Fault} : Out.Keeps (.fault f)
  | refused {r : Refusal} : Out.Keeps (.refused r)

theorem Out.Keeps.of_next {x : Out} {s : State} (h : Out.Keeps x) (e : x = .next s) : MemOk s := by
  subst e
  cases h
  assumption

/-- The preparation of a write keeps the form. -/
inductive Prep.Keeps : Prep → Prop
  | ok {k : Nat} {s : State} (h : MemOk s) : Prep.Keeps (.ok k s)
  | trap {t : RevTrap} : Prep.Keeps (.trap t)
  | stall : Prep.Keeps .stall

theorem Prep.Keeps.of_ok {x : Prep} {k : Nat} {s : State} (h : Prep.Keeps x) (e : x = .ok k s) : MemOk s := by
  subst e
  cases h
  assumption

/-- A fetch keeps the form. -/
inductive Fetched.Keeps : Fetched → Prop
  | stop {s : State} (h : MemOk s) : Fetched.Keeps (.stop s)
  | fault {f : Fault} : Fetched.Keeps (.fault f)
  | run {i : Instr} {s : State} (h : MemOk s) : Fetched.Keeps (.run i s)

theorem Fetched.Keeps.of_stop {x : Fetched} {s : State} (h : Fetched.Keeps x) (e : x = .stop s) : MemOk s := by
  subst e
  cases h
  assumption

theorem Fetched.Keeps.of_run {x : Fetched} {i : Instr} {s : State} (h : Fetched.Keeps x) (e : x = .run i s) : MemOk s := by
  subst e
  cases h
  assumption

/-- A step over lanes keeps the form. -/
inductive LR.Keeps {α : Type} : LR α → Prop
  | ok {l : List (Nat × α)} {fails : List LaneFail} {s : State} (h : MemOk s) : LR.Keeps (.ok l fails s)
  | stall : LR.Keeps .stall
  | fault {f : Fault} : LR.Keeps (.fault f)

theorem LR.Keeps.of_ok {α : Type} {x : LR α} {l : List (Nat × α)} {fails : List LaneFail} {s : State} (h : LR.Keeps x)
    (e : x = .ok l fails s) : MemOk s := by
  subst e
  cases h
  assumption

/-- A served request keeps the form. -/
inductive Served.Keeps : Served → Prop
  | done {s : State} (h : MemOk s) : Served.Keeps (.done s)
  | wait : Served.Keeps .wait
  | fault {f : Fault} : Served.Keeps (.fault f)

theorem Served.Keeps.of_done {x : Served} {s : State} (h : Served.Keeps x) (e : x = .done s) : MemOk s := by
  subst e
  cases h
  assumption

/-- A read of words keeps the form. -/
inductive Got.Keeps : Got → Prop
  | ok {bs : List Byte} {s : State} (h : MemOk s) : Got.Keeps (.ok bs s)
  | absent {a : Nat} {d : BitVec 192} : Got.Keeps (.absent a d)
  | bad {s : State} (h : MemOk s) : Got.Keeps (.bad s)
  | stall : Got.Keeps .stall
  | fault {f : Fault} : Got.Keeps (.fault f)

theorem Got.Keeps.of_ok {x : Got} {bs : List Byte} {s : State} (h : Got.Keeps x) (e : x = .ok bs s) : MemOk s := by
  subst e
  cases h
  assumption

theorem Got.Keeps.of_bad {x : Got} {s : State} (h : Got.Keeps x) (e : x = .bad s) : MemOk s := by
  subst e
  cases h
  assumption

/-- A read of a kernel descriptor keeps the form. -/
inductive GotKernel.Keeps : GotKernel → Prop
  | ok {k : Kernel} {s : State} (h : MemOk s) : GotKernel.Keeps (.ok k s)
  | bad {off value : Nat} {s : State} (h : MemOk s) : GotKernel.Keeps (.bad off value s)
  | stall : GotKernel.Keeps .stall
  | fault {f : Fault} : GotKernel.Keeps (.fault f)

theorem GotKernel.Keeps.of_ok {x : GotKernel} {k : Kernel} {s : State} (h : GotKernel.Keeps x) (e : x = .ok k s) : MemOk s := by
  subst e
  cases h
  assumption

theorem GotKernel.Keeps.of_bad {x : GotKernel} {off value : Nat} {s : State} (h : GotKernel.Keeps x)
    (e : x = .bad off value s) : MemOk s := by
  subst e
  cases h
  assumption

/-- The preparation of a join keeps the form. -/
inductive JoinPrep.Keeps : JoinPrep → Prop
  | ok {s : State} (h : MemOk s) : JoinPrep.Keeps (.ok s)
  | trap {t : RevTrap} : JoinPrep.Keeps (.trap t)
  | stall : JoinPrep.Keeps .stall
  | fault {f : Fault} : JoinPrep.Keeps (.fault f)

theorem JoinPrep.Keeps.of_ok {x : JoinPrep} {s : State} (h : JoinPrep.Keeps x) (e : x = .ok s) : MemOk s := by
  subst e
  cases h
  assumption

/-- A read of a timetable keeps the form. -/
inductive GotTT.Keeps : GotTT → Prop
  | ok {es : List TTEntry} {s : State} (h : MemOk s) : GotTT.Keeps (.ok es s)
  | absent {a : Nat} {d : BitVec 192} : GotTT.Keeps (.absent a d)
  | bad {s : State} (h : MemOk s) : GotTT.Keeps (.bad s)
  | field {value off : Nat} : GotTT.Keeps (.field value off)
  | stall : GotTT.Keeps .stall
  | fault {f : Fault} : GotTT.Keeps (.fault f)

theorem GotTT.Keeps.of_ok {x : GotTT} {es : List TTEntry} {s : State} (h : GotTT.Keeps x) (e : x = .ok es s) : MemOk s := by
  subst e
  cases h
  assumption

theorem GotTT.Keeps.of_bad {x : GotTT} {s : State} (h : GotTT.Keeps x) (e : x = .bad s) : MemOk s := by
  subst e
  cases h
  assumption

/-- The draw of a task keeps the form. -/
inductive Taken.Keeps : Taken → Prop
  | task {n : Nat} {s : State} (h : MemOk s) : Taken.Keeps (.task n s)
  | none {s : State} (h : MemOk s) : Taken.Keeps (.none s)
  | fault {f : Fault} : Taken.Keeps (.fault f)

theorem Taken.Keeps.of_task {x : Taken} {n : Nat} {s : State} (h : Taken.Keeps x) (e : x = .task n s) : MemOk s := by
  subst e
  cases h
  assumption

theorem Taken.Keeps.of_none {x : Taken} {s : State} (h : Taken.Keeps x) (e : x = .none s) : MemOk s := by
  subst e
  cases h
  assumption

end Sys2Proof.Machine
end

section
/-! PROOFS. The form of memory under the accessors of groups, teams, tasks, partitions and cores and under a change of focus: none writes
a byte. -/
namespace Sys2Proof.Machine

open Sys2Proof

theorem memOk_modGroups {s : State} {p : Group → Bool} {f : Group → Group} (h : MemOk s) : MemOk (modGroups s p f) := h

theorem memOk_modGroup {s : State} {id : GroupId} {f : Group → Group} (h : MemOk s) : MemOk (modGroup s id f) := h

theorem memOk_modTeams {s : State} {p : Team → Bool} {f : Team → Team} (h : MemOk s) : MemOk (modTeams s p f) := h

theorem memOk_modTeam {s : State} {part task idx : Nat} {f : Team → Team} (h : MemOk s) : MemOk (modTeam s part task idx f) := h

theorem memOk_modTeamOf {s : State} {id : GroupId} {f : Team → Team} (h : MemOk s) : MemOk (modTeamOf s id f) := h

theorem memOk_modTasks {s : State} {p : Task → Bool} {f : Task → Task} (h : MemOk s) : MemOk (modTasks s p f) := h

theorem memOk_modTask {s : State} {part num : Nat} {f : Task → Task} (h : MemOk s) : MemOk (modTask s part num f) := h

theorem memOk_modPart {s : State} {num : Nat} {f : Partition → Partition} (h : MemOk s) : MemOk (modPart s num f) := h

theorem memOk_addTask {s : State} {t : Task} (h : MemOk s) : MemOk (addTask s t) := h

theorem memOk_modCore {s : State} {n : Nat} {f : Core → Core} (h : MemOk s) : MemOk (modCore s n f) := h

theorem memOk_l1Inval {s : State} {n : Nat} (h : MemOk s) : MemOk (l1Inval s n) := memOk_ite h (memOk_modCore h)

theorem memOk_l1Flush {s : State} (h : MemOk s) : MemOk (l1Flush s) := h

theorem memOk_l1Drop {s : State} {key n : Nat} (h : MemOk s) : MemOk (l1Drop s key n) := h

theorem memOk_putQuad {s : State} {c q : Nat} {v : Quad} (h : MemOk s) : MemOk (putQuad s c q v) := h

theorem memOk_unfocus {s : State} (h : MemOk s) : MemOk (unfocus s) := h

theorem memOk_focusOn {s : State} {id : GroupId} (h : MemOk s) : MemOk (focusOn s id) := by
  unfold focusOn
  split
  · exact h
  · split
    · exact h
    · extract_lets u isT isK
      have hu : MemOk u := memOk_unfocus h
      exact memOk_set hu

end Sys2Proof.Machine
end

section
/-! PROOFS. The form of memory under address translation (R103 to R120): a walk writes A and D bits, the units write their pages. -/
namespace Sys2Proof.Machine

open Sys2Proof

theorem memOk_markDirtyRange {s : State} {part key n : Nat} (h : MemOk s) : MemOk (markDirtyRange s part key n) := h

theorem memOk_partPuts {s : State} {part key : Nat} {bs : List Byte} (h : MemOk s) : MemOk (partPuts s part key bs) :=
  memOk_markDirtyRange (wf_mputs _ _ _ h)

theorem memOk_ctlWrite {s : State} {part off n v : Nat} (h : MemOk s) : MemOk (ctlWrite s part off n v) :=
  memOk_markDirtyRange (wf_mwrite _ _ _ _ h)

theorem memOk_markDirty {s : State} {part key : Nat} (h : MemOk s) : MemOk (markDirty s part key) := h

theorem memOk_tlbFill {s : State} {part u : Nat} {e : TlbEntry} (h : MemOk s) : MemOk (tlbFill s part u e) := memOk_modPart h

theorem memOk_fillTlb {s : State} {u part ctx : Nat} {l : Leaf} {write : Bool} (h : MemOk s) : MemOk (fillTlb s u part ctx l write).1 := by
  unfold fillTlb
  extract_lets a d path s1
  have h1 : MemOk s1 := memOk_ite h (memOk_markDirtyRange (wf_mwrite _ _ _ _ h))
  exact memOk_tlbFill (memOk_modPart h1)

theorem keeps_failOrWait {s : State} {part ctx va num : Nat} {detail : BitVec 192} :
    MR.Keeps (failOrWait s part ctx va num detail) := by
  unfold failOrWait
  split
  · exact .stall
  · exact .trap

theorem keeps_walkFill {s : State} {u part ctx va : Nat} {sup write read : Bool} (h : MemOk s) :
    MR.Keeps (walkFill s u part ctx va sup write read) := by
  unfold walkFill
  split
  · exact keeps_failOrWait
  · exact .fault
  · split
    · exact keeps_failOrWait
    · split
      · next e3 =>
          extract_lets loc
          split
          · exact .ok (memOk_fst (memOk_fillTlb h) e3)
          · exact .fault

theorem keeps_translate {s : State} {u part ctx va : Nat} {sup write read : Bool} (h : MemOk s) :
    MR.Keeps (translate s u part ctx va sup write read) := by
  unfold translate
  split
  · exact .trap
  · split
    · exact .ok h
    · split
      · exact keeps_failOrWait
      · split
        · split
          · exact keeps_walkFill h
          · split
            · exact keeps_failOrWait
            · extract_lets loc
              split
              · exact .ok (memOk_ite h (memOk_tlbFill h))
              · exact .fault
        · exact keeps_walkFill h

theorem keeps_supWrite {s : State} {part va : Nat} {bs : List Byte} (h : MemOk s) : OptKeeps MemOk (supWrite s part va bs) := by
  unfold supWrite
  split
  · next e => exact .some (memOk_partPuts ((keeps_translate h).of_ok e))
  · exact .none

end Sys2Proof.Machine
end

section
/-! PROOFS. The form of memory under event records (R37, R38, R262 to R264). -/
namespace Sys2Proof.Machine

open Sys2Proof

theorem memOk_sendMsix {s : State} {p : Partition} {vec : Nat} (h : MemOk s) : MemOk (sendMsix s p vec) := h

theorem memOk_loseRecord {s : State} {part : Nat} (h : MemOk s) : MemOk (loseRecord s part) := h

theorem memOk_postEvent {s : State} {part : Nat} {e : EventRec} {force : Bool} (h : MemOk s) : MemOk (postEvent s part e force) := by
  unfold postEvent
  split
  · exact h
  · extract_lets n rec' fills
    split
    · next s1 _ e2 =>
        have h1 : MemOk s1 := by
          refine memOk_fst ?_ e2
          split
          · exact memOk_loseRecord h
          · split
            · exact memOk_loseRecord h
            · split
              · exact memOk_loseRecord h
              · next e2 => exact memOk_modPart ((keeps_supWrite h).of_some e2)
        exact memOk_ite (memOk_sendMsix h1) h1

theorem memOk_stackSeen {s : State} {id : GroupId} {key n : Nat} (h : MemOk s) : MemOk (stackSeen s id key n) := by
  unfold stackSeen
  split
  · exact h
  · split
    · exact h
    · split
      · exact h
      · exact memOk_postEvent (memOk_modGroup h)

end Sys2Proof.Machine
end

section
/-! PROOFS. The form of memory under the Watch Unit (R160 to R174). -/
namespace Sys2Proof.Machine

open Sys2Proof

theorem memOk_modWatch {s : State} {part idx : Nat} {f : WatchEntry → WatchEntry} (h : MemOk s) : MemOk (modWatch s part idx f) := h

theorem memOk_disarm {s : State} {part : Nat} {w : WatchEntry} {reason depth addr die : Nat} (h : MemOk s) :
    MemOk (disarm s part w reason depth addr die) := by
  unfold disarm
  extract_lets s1 d
  have h1 : MemOk s1 := memOk_modWatch h
  exact memOk_postEvent h1

theorem memOk_enqueueTask {s : State} {part : Nat} {t : Task} {fork : Bool} (h : MemOk s) : MemOk (enqueueTask s part t fork) := by
  unfold enqueueTask
  split
  · exact h
  · extract_lets num s1
    have h1 : MemOk s1 := memOk_modPart h
    exact memOk_addTask h1

theorem memOk_createTrig {s : State} {part idx : Nat} {r : TrigRec} {addr die : Nat} (h : MemOk s) :
    MemOk (createTrig s part idx r addr die).1 := by
  unfold createTrig
  split
  · exact h
  · split
    · exact h
    · extract_lets win cnt s1
      have h1 : MemOk s1 := memOk_modWatch h
      split
      · exact memOk_disarm h
      · exact memOk_enqueueTask h1

theorem memOk_watchEvent {s : State} {part idx : Nat} {e : WEvent} {depth source die : Nat} (h : MemOk s) :
    MemOk (watchEvent s part idx e depth source die) := by
  unfold watchEvent
  split
  · exact h
  · split
    · exact h
    · split
      · exact h
      · extract_lets key stamp opens found o n
        clear_value o
        split
        · split
          · exact h
          · split
            · extract_lets s1
              have h1 : MemOk s1 := memOk_modTask h
              exact memOk_disarm h1
            · extract_lets fresh r1
              exact memOk_modTask h
        · exact memOk_ite (memOk_disarm h) (memOk_createTrig h)

theorem memOk_watchWrite {s : State} {part : Nat} {m0 : Memory} {key len depth source : Nat} {publish : Bool} (h : MemOk s) :
    MemOk (watchWrite s part m0 key len depth source publish) := by
  unfold watchWrite
  split
  · exact h
  · refine memOk_foldl h fun acc w hacc => ?_
    split
    · exact hacc
    · extract_lets evs evs'
      exact memOk_foldl hacc (fun _ _ ha => memOk_watchEvent ha)

theorem memOk_retrigger {s : State} {part : Nat} {r : TrigRec} (h : MemOk s) : MemOk (retrigger s part r) := by
  unfold retrigger
  split
  · exact h
  · extract_lets hold
    have hhold : ∀ {u}, MemOk u → MemOk (hold u) := fun hu => memOk_modWatch hu
    split
    · exact hhold h
    · split
      · next e1 =>
          have h1 := memOk_fst (memOk_createTrig h) e1
          exact memOk_ite h1 (hhold h1)

theorem memOk_closeTrig {s : State} {part num : Nat} {re : Bool} (h : MemOk s) : MemOk (closeTrig s part num re) := by
  unfold closeTrig
  split
  · exact h
  · split
    · exact h
    · extract_lets s1
      have h1 : MemOk s1 := memOk_modTask h
      exact memOk_ite (memOk_retrigger h1) h1

end Sys2Proof.Machine
end

section
/-! PROOFS. The form of memory under the end of groups and tasks and the actions of the severity matrix (R35, R42, R132, R153, R262 to
R268). -/
namespace Sys2Proof.Machine

open Sys2Proof

theorem memOk_noteCool {s : State} {part : Nat} (h : MemOk s) : MemOk (noteCool s part) := h

theorem memOk_teamBars {s : State} {part task idx : Nat} (h : MemOk s) : MemOk (teamBars s part task idx) := memOk_modTeam h

theorem memOk_freeSlotOwner {s : State} {g : Group} (h : MemOk s) : MemOk (freeSlotOwner s g) := memOk_ite (memOk_putQuad h) h

theorem memOk_settleSlots {s : State} {part task idx : Nat} (h : MemOk s) : MemOk (settleSlots s part task idx) := memOk_modTeam h

theorem memOk_killGroup {s : State} {id : GroupId} (h : MemOk s) : MemOk (killGroup s id) := by
  unfold killGroup
  split
  · exact h
  · split
    · exact h
    · extract_lets filled s0 s1 s2 s3 s4
      have h0 : MemOk s0 := memOk_modPart (memOk_modGroup h)
      have h1 : MemOk s1 := memOk_modGroup h0
      have h2 : MemOk s2 := memOk_modTeamOf h1
      have h3 : MemOk s3 := memOk_modCore h2
      have h4 : MemOk s4 := memOk_freeSlotOwner (memOk_modTask h3)
      exact memOk_teamBars h4

theorem memOk_writeCompl {s : State} {part va code : Nat} (h : MemOk s) : MemOk (writeCompl s part va code) := by
  unfold writeCompl
  split
  · exact h
  · exact memOk_getD (keeps_supWrite h) h

theorem memOk_poolPush {s : State} {part : Nat} {l : List Nat} (h : MemOk s) : MemOk (poolPush s part l) := by
  induction l generalizing s with
  | nil => exact h
  | cons f r ih =>
    unfold poolPush
    extract_lets top base
    split
    · exact ih h
    · next e => exact ih (memOk_ctlWrite ((keeps_supWrite h).of_some e))

theorem memOk_poolUse {s : State} {part up down : Nat} (h : MemOk s) : MemOk (poolUse s part up down) := memOk_ctlWrite h

theorem memOk_closeRev {s : State} {part num state word : Nat} (h : MemOk s) : MemOk (closeRev s part num state word) := by
  unfold closeRev
  split
  · exact h
  · extract_lets mine others fr close s1
    have h1 : MemOk s1 := memOk_modPart h
    exact memOk_poolPush (memOk_poolUse h1)

theorem memOk_rewritePage {s : State} {part ctx : Nat} {l : Leaf} {f : Nat → Nat → Nat} (h : MemOk s) :
    MemOk (rewritePage s part ctx l f) := by
  unfold rewritePage
  split
  extract_lets n mem
  have hm : mem.wf = true := wf_foldl_mwrite h
  exact memOk_modPart (memOk_markDirtyRange hm)

theorem memOk_setTier {s : State} {part ctx va tier : Nat} (h : MemOk s) : MemOk (setTier s part ctx va tier) := by
  unfold setTier
  split
  · exact h
  · split
    · extract_lets line0 unpin s1 src
      have h1 : MemOk s1 := memOk_rewritePage h
      exact memOk_set h1

theorem memOk_endHolds {s : State} {part : Nat} {inst : Option Instance} {f : Hold → Bool} (h : MemOk s) :
    MemOk (endHolds s part inst f) := by
  unfold endHolds
  split
  · exact h
  · extract_lets gone s1
    have h1 : MemOk s1 := memOk_modPart h
    refine memOk_foldl h1 fun u h' hu => ?_
    extract_lets still
    split
    · exact hu
    · split
      · exact memOk_ite (memOk_modPart hu) hu

theorem memOk_finishTask {s : State} {part num : Nat} (h : MemOk s) : MemOk (finishTask s part num) := by
  unfold finishTask
  split
  · exact h
  · split
    · exact h
    · extract_lets isPin s0 s1 s2 s3 s4 own endRev
      have h0 : MemOk s0 := memOk_modPart h
      have h1 : MemOk s1 := memOk_endHolds h0
      have h2 : MemOk s2 := memOk_poolPush h1
      have h3 : MemOk s3 := memOk_closeTrig h2
      have h4 : MemOk s4 := memOk_modTask h3
      exact memOk_modPart h4

theorem memOk_cancelTasks {s : State} {part : Nat} {f : Task → Bool} (h : MemOk s) : MemOk (cancelTasks s part f) := by
  unfold cancelTasks
  extract_lets nums hit gs s1 saved isSaved stays noShare savedTeam s2 keep s3 resident s4
  have h1 : MemOk s1 := memOk_foldl h (fun _ _ h1 => memOk_killGroup h1)
  have h2 : MemOk s2 := memOk_set h1
  have h3 : MemOk s3 := memOk_modPart h2
  have h4 : MemOk s4 := memOk_modTasks h3
  exact memOk_foldl (memOk_noteCool h4) (fun _ _ hu => memOk_finishTask hu)

theorem memOk_completeLaunch {s : State} {part complVA code : Nat} {msix : Bool} {vec : Nat} (h : MemOk s) :
    MemOk (completeLaunch s part complVA code msix vec) := by
  unfold completeLaunch
  extract_lets s1
  have h1 : MemOk s1 := memOk_writeCompl h
  split
  · exact h1
  · exact memOk_ite (memOk_sendMsix h1) h1

theorem memOk_resetRecords {s : State} {part : Nat} {q : Queue} {n k : Nat} (h : MemOk s) : MemOk (resetRecords s part q n k) := by
  induction n generalizing s k with
  | zero => exact h
  | succ n ih =>
    unfold resetRecords
    exact ih (memOk_completeLaunch h)

theorem memOk_resetPart {s : State} {part : Nat} (h : MemOk s) : MemOk (resetPart s part) := by
  unfold resetPart
  extract_lets launches shut s0 s1 s2 s3 s4 qs s5
  have h0 : MemOk s0 := memOk_modTasks h
  have h1 : MemOk s1 := memOk_modPart h0
  have h2 : MemOk s2 := memOk_cancelTasks h1
  have h3 : MemOk s3 := memOk_foldl h2 (fun _ _ hu => memOk_completeLaunch hu)
  have h4 : MemOk s4 := memOk_modTasks h3
  have h5 : MemOk s5 := by
    unfold s5
    refine memOk_foldl h4 fun u e hu => ?_
    extract_lets q
    split
    · exact hu
    · extract_lets n u1 q1
      have hu1 : MemOk u1 := memOk_resetRecords hu
      exact memOk_modPart hu1
  exact memOk_modPart h5

theorem memOk_doAction {s : State} {part action : Nat} {victims : List GroupId} {ctx : Nat} (h : MemOk s) :
    MemOk (doAction s part action victims ctx) :=
  memOk_ite (memOk_foldl h (fun _ _ h1 => memOk_killGroup h1)) (memOk_ite (memOk_cancelTasks h) (memOk_ite (memOk_resetPart h) h))

theorem memOk_severity {s : State} {part cls atLeast : Nat} {e : EventRec} {victims : List GroupId} (h : MemOk s) :
    MemOk (severity s part cls atLeast e victims) := by
  unfold severity
  split
  · exact h
  · extract_lets a ty s1
    have h1 : MemOk s1 := memOk_ite (memOk_postEvent h) h
    exact memOk_doAction h1

theorem memOk_severityUnit {s : State} {part cls source ctx addr : Nat} {victims : List GroupId} (h : MemOk s) :
    MemOk (severityUnit s part cls source ctx addr victims) := memOk_severity h

end Sys2Proof.Machine
end

section
/-! PROOFS. The form of memory under the copies that a revision's write makes first (R142 to R156). -/
namespace Sys2Proof.Machine

open Sys2Proof

theorem memOk_modRev {s : State} {part num : Nat} {f : Revision → Revision} (h : MemOk s) : MemOk (modRev s part num f) := h

theorem keeps_drawFrame {s : State} {part task : Nat} (h : MemOk s) : OptKeeps (fun x => MemOk x.2) (drawFrame s part task) := by
  unfold drawFrame
  split
  · exact .some (memOk_poolUse (memOk_modTask h))
  · extract_lets top
    split
    · exact .none
    · split
      · exact .none
      · exact .some (memOk_poolUse (memOk_ctlWrite h))

theorem memOk_copyGran {s : State} {part src dst : Nat} (h : MemOk s) : MemOk (copyGran s part src dst) := by
  unfold copyGran
  extract_lets s1 src'
  have h1 : MemOk s1 := memOk_l1Drop (memOk_partPuts h)
  exact memOk_set h1

theorem memOk_shareAnc {s : State} {part : Nat} {rs : List (Revision × Nat)} {f : Nat} (h : MemOk s) : MemOk (shareAnc s part rs f) :=
  memOk_foldl h (fun _ _ hu => memOk_modRev hu)

theorem keeps_ensureAnc {s : State} {part task : Nat} {rs : List (Revision × Nat)} {src : Nat} (h : MemOk s) :
    Prep.Keeps (ensureAnc s part task rs src) := by
  unfold ensureAnc
  split
  · exact .ok h
  · split
    · exact .ok (memOk_shareAnc h)
    · split
      · exact .trap
      · next e2 => exact .ok (memOk_shareAnc (memOk_copyGran ((keeps_drawFrame h).of_some e2)))

theorem memOk_markParent {s : State} {part : Nat} {rs : List (Revision × Nat)} {bits : BitVec 32} (h : MemOk s) :
    MemOk (markParent s part rs bits) := memOk_foldl h (fun _ _ hu => memOk_modRev hu)

theorem keeps_writeGate {s : State} {part ctx rev va key : Nat} {revcap : Bool} :
    OptKeeps Prep.Keeps (writeGate s part ctx rev va key revcap) := by
  unfold writeGate
  split
  · exact .none
  · extract_lets side rs
    split
    · exact .some .stall
    · split
      · exact .some .stall
      · split
        · exact .some .trap
        · exact .none

theorem keeps_prepWrite_shareFirst {s : State} {part task : Nat} {rs : List (Revision × Nat)} {r : Revision} {ctx va key cur : Nat}
    (h : MemOk s) : Prep.Keeps (prepWrite.shareFirst s part task rs r ctx va key cur) := by
  unfold prepWrite.shareFirst
  split
  · exact .ok (memOk_shareAnc h)
  · extract_lets up
    exact keeps_ensureAnc h

theorem keeps_prepWrite {s : State} {part task ctx rev va key : Nat} {revcap : Bool} {bits : BitVec 32} (h : MemOk s) :
    Prep.Keeps (prepWrite s part task ctx rev va key revcap bits) := by
  unfold prepWrite
  split
  · exact .ok h
  · extract_lets side rs cur dirty
    have hdirty : ∀ {u}, MemOk u → MemOk (dirty u) := fun hu => memOk_modRev hu
    split
    · next e1 => exact keeps_writeGate.of_some e1
    · split
      · split
        · split
          · next e5 => exact .ok (hdirty (memOk_markParent ((keeps_ensureAnc h).of_ok e5)))
          · exact keeps_ensureAnc h
        · split
          · next e4 =>
              split
              · exact .trap
              · next e5 =>
                  extract_lets s3
                  have h1 := (keeps_prepWrite_shareFirst h).of_ok e4
                  have h3 : MemOk s3 := memOk_modRev (memOk_copyGran ((keeps_drawFrame (memOk_markParent h1)).of_some e5))
                  exact .ok (hdirty h3)
          · exact keeps_prepWrite_shareFirst h
      · split
        · next e2 => exact .ok (memOk_markParent ((keeps_ensureAnc h).of_ok e2))
        · exact keeps_ensureAnc h

theorem memOk_stampWrite {s : State} {part key len source : Nat} (h : MemOk s) : MemOk (stampWrite s part key len source) := h

end Sys2Proof.Machine
end

section
/-! PROOFS. The form of memory under loads, stores and atomics at a location (R103 to R112, R164, R184, R265, R333 to R335, R424,
R428). -/
namespace Sys2Proof.Machine

open Sys2Proof

theorem memOk_scStamp {s : State} {core n : Nat} (h : MemOk s) : MemOk (scStamp s core n) := by
  unfold scStamp
  extract_lets l m st src s1
  have h1 : MemOk s1 := memOk_set h
  exact memOk_modCore h1

theorem memOk_l2Fill {s : State} {part line : Nat} {bits dirty : BitVec 4} {cls level : Nat} {pinned : Bool} (h : MemOk s) :
    MemOk (l2Fill s part line bits dirty cls level pinned) := by
  unfold l2Fill
  extract_lets p die src put same own ownC excess o
  have hput : ∀ {a}, MemOk (put a) := memOk_set h
  clear_value o
  split
  · exact hput
  · split
    · exact h
    · exact hput

theorem memOk_l2Touch {s : State} {part key n cls evict : Nat} {pinned write : Bool} (h : MemOk s) :
    MemOk (l2Touch s part key n cls evict pinned write) := by
  unfold l2Touch
  extract_lets line bits dirty src
  split
  · exact h
  · split
    · extract_lets y
      exact memOk_set h
    · split
      · exact h
      · exact memOk_l2Fill h

theorem memOk_l2Demote {s : State} {key evict : Nat} (h : MemOk s) : MemOk (l2Demote s key evict) := by
  unfold l2Demote
  split
  · exact h
  · extract_lets low src
    exact memOk_set h

theorem memOk_lineCheck {s : State} {part ctx key va : Nat} {ecc : Ecc} (h : MemOk s) : MemOk (lineCheck s part ctx key va ecc).1 := by
  unfold lineCheck
  extract_lets poison s1
  have hpoison : ∀ {u}, MemOk u → MemOk (poison u) := fun hu => memOk_set hu
  have h1 : MemOk s1 := memOk_modPart h
  split
  · exact h
  · split
    · exact h
    · split
      · split
        · exact hpoison h
        · exact hpoison h
        · exact h
      · split
        · exact h
        · exact h
        · exact memOk_severityUnit h
        · exact hpoison (memOk_severityUnit h)
        · exact hpoison (memOk_severityUnit h1)
        · split
          · exact h
          · extract_lets s1'
            have hs1' : MemOk s1' := memOk_severityUnit h
            exact memOk_severityUnit hs1'

theorem memOk_unitLine {s : State} {part ctx key va source : Nat} {ecc : Ecc} (h : MemOk s) :
    MemOk (unitLine s part ctx key va source ecc).1 := by
  unfold unitLine
  split
  · split
    · exact h
    · split
      · exact h
      · extract_lets s1 src
        have h1 : MemOk s1 := memOk_severityUnit h
        exact memOk_set h1
  · exact memOk_lineCheck h

theorem memOk_clearPoison {s : State} {key n : Nat} (h : MemOk s) : MemOk (clearPoison s key n) := h

theorem keeps_granted {part : Nat} {x : MR Loc} (hx : MR.Keeps x) : MR.Keeps (granted part x) := by
  unfold granted
  refine MR.keeps_bind hx fun _ _ h => ?_
  split
  · exact .ok h
  · exact .trap

theorem keeps_locate {s : State} {w : Who} {t : Team} {space addr n : Nat} {write read : Bool} (h : MemOk s) :
    MR.Keeps (locate s w t space addr n write read) := by
  unfold locate
  split
  · exact .trap
  · split
    · split
      · exact .ok h
      · exact .trap
    · split
      · split
        · exact .trap
        · split
          · exact .trap
          · exact keeps_granted (keeps_translate h)
      · exact keeps_granted (keeps_translate h)

theorem memOk_l1Load {s : State} {core key evict : Nat} {home : Bool} (h : MemOk s) : MemOk (l1Load s core key evict home) :=
  memOk_ite h (memOk_modCore h)

theorem memOk_l1Miss {s : State} {core key : Nat} (h : MemOk s) : MemOk (l1Miss s core key) := memOk_ite h (memOk_modCore h)

theorem memOk_l1Store {s : State} {before : Memory} {own : Option Nat} {key n x : Nat} (h : MemOk s) :
    MemOk (l1Store s before own key n x) := h

theorem memOk_acquireAt {s : State} {ord : BitVec 2} {scope : Nat} (h : MemOk s) : MemOk (acquireAt s ord scope) :=
  memOk_ite (memOk_l1Inval h) h

theorem memOk_dataLine {s : State} {w : Who} {l : Loc} (h : MemOk s) : MemOk (dataLine s w l).1 := by
  unfold dataLine
  split
  · exact h
  · extract_lets src u
    have hu : MemOk u := memOk_set h
    exact memOk_lineCheck hu

theorem memOk_mindStack {s : State} {w : Who} {key n : Nat} (h : MemOk s) : MemOk (mindStack s w key n) := memOk_ite (memOk_stackSeen h) h

theorem keeps_loadOne {s : State} {w : Who} {l : Loc} {n evict : Nat} {home : Bool} (h : MemOk s) :
    MR.Keeps (loadOne s w l n evict home) := by
  unfold loadOne
  split
  · exact .ok h
  · extract_lets key
    split
    · exact .stall
    · split
      · exact .trap
      · split
        · exact .ok (memOk_mindStack (memOk_l2Touch (memOk_l1Load h)))
        · exact .ok (memOk_l2Touch h)

theorem keeps_loadAt {s : State} {w : Who} {l : Loc} {n evict : Nat} {home : Bool} (h : MemOk s) :
    MR.Keeps (loadAt s w l n evict home) := by
  unfold loadAt
  split
  · exact keeps_loadOne h
  · extract_lets k
    exact MR.keeps_bind (keeps_loadOne h) (fun _ _ h1 => MR.keeps_bind (keeps_loadOne h1) (fun _ _ h2 => .ok h2))

theorem memOk_performWrite {s : State} {w : Who} {l : Loc} {key n v : Nat} {parentSide publish : Bool} (h : MemOk s) :
    MemOk (performWrite s w l key n v parentSide publish) := by
  unfold performWrite
  extract_lets s1 s2
  have h1 : MemOk s1 := memOk_l1Store (wf_physWrite _ _ _ _ h)
  have h2 : MemOk s2 := memOk_markDirty (memOk_stampWrite h1)
  exact memOk_ite (memOk_watchWrite h2) h2

theorem keeps_storeAt {s : State} {w : Who} {l : Loc} {n v evict : Nat} (h : MemOk s) : MR.Keeps (storeAt s w l n v evict) := by
  unfold storeAt
  split
  · exact .ok (memOk_modTeamOf h)
  · extract_lets key0
    split
    · exact .stall
    · split
      · exact .trap
      · split
        · exact .stall
        · exact .trap
        · next e => exact .ok (memOk_performWrite (memOk_l2Touch ((keeps_prepWrite h).of_ok e)))

theorem keeps_atomicAt {s : State} {w : Who} {l : Loc} {n : Nat} {f : Nat → Option Nat} {evict : Nat} (h : MemOk s) :
    MR.Keeps (atomicAt s w l n f evict) := by
  unfold atomicAt
  extract_lets x miss s0
  have hmiss : ∀ {u}, MemOk u → MemOk (miss u) := fun hu => memOk_ite (memOk_l1Miss hu) hu
  have h0 : MemOk s0 := memOk_mindStack h
  split
  · split
    · exact MR.keeps_bind (keeps_storeAt h) (fun _ _ h1 => .ok h1)
    · exact .ok h
  · split
    · exact .stall
    · split
      · exact .trap
      · split
        · exact MR.keeps_bind (keeps_storeAt h0) (fun _ _ h1 => .ok (hmiss h1))
        · split
          · exact .trap
          · exact .stall
          · exact .ok (hmiss (memOk_l2Touch h0))

end Sys2Proof.Machine
end

section
/-! PROOFS. The form of memory under scalar registers, traps and the fetch (R76 to R80, R92, R93, R254 to R259). -/
namespace Sys2Proof.Machine

open Sys2Proof

theorem memOk_setS {s : State} {r : BitVec 6} {v : Word} (h : MemOk s) : MemOk (setS s r v) := h

theorem memOk_advS {s : State} (h : MemOk s) : MemOk (advS s) := h

theorem memOk_jumpS {s : State} {a : Word} (h : MemOk s) : MemOk (jumpS s a) := h

theorem memOk_finS {s : State} {r : BitVec 6} {v : Word} (h : MemOk s) : MemOk (finS s r v) := h

theorem memOk_escalate {s : State} {num addr : Nat} {detail : BitVec 192} (h : MemOk s) : MemOk (escalate s num addr detail) :=
  memOk_severity h

theorem memOk_enterTrap {s : State} {t : TrapInfo} (h : MemOk s) : MemOk (enterTrap s t) := by
  unfold enterTrap
  extract_lets src g hs fva spc s0 fr
  have h0 : MemOk s0 := memOk_set h
  split
  · exact memOk_escalate h0
  · split
    · next e =>
        extract_lets s2 src' tm s3
        have h2 : MemOk s2 := memOk_freeSlotOwner (memOk_l1Drop (memOk_partPuts ((keeps_translate h0).of_ok e)))
        have h3 : MemOk s3 := memOk_set h2
        exact memOk_ite (memOk_postEvent (memOk_set h3)) h3
    · exact memOk_set h
    · exact memOk_escalate h0

theorem memOk_takeTrap {s : State} {t : TrapInfo} (h : MemOk s) : MemOk (takeTrap s t) := memOk_ite (memOk_enterTrap h) (memOk_set h)

theorem keeps_trapS {s : State} {num addr : Nat} {detail : BitVec 192} (h : MemOk s) : Out.Keeps (trapS s num addr detail) :=
  .next (memOk_takeTrap h)

theorem keeps_trapNextS {s : State} {num addr : Nat} {detail : BitVec 192} (h : MemOk s) : Out.Keeps (trapNextS s num addr detail) :=
  .next (memOk_takeTrap h)

theorem keeps_trapL {s : State} {m : BitVec 64} {num addr : Nat} {detail : BitVec 192} (h : MemOk s) :
    Out.Keeps (trapL s m num addr detail) := .next (memOk_takeTrap h)

theorem keeps_badField {s : State} {value pos : Nat} (h : MemOk s) : Out.Keeps (badField s value pos) := keeps_trapS h

theorem keeps_badReg {s : State} {v : Word} {pos : Nat} (h : MemOk s) : Out.Keeps (badReg s v pos) := keeps_trapS h

theorem keeps_badState {s : State} {value pos : Nat} (h : MemOk s) : Out.Keeps (badState s value pos) := keeps_trapS h

theorem keeps_userOnly {s : State} {k : Out} (h : MemOk s) (hk : Out.Keeps k) : Out.Keeps (userOnly s k) := by
  unfold userOnly
  split
  · exact keeps_badState h
  · exact hk

theorem keeps_stallS {s : State} (h : MemOk s) : Out.Keeps (stallS s) := .next h

theorem keeps_orTrapS {α : Type} {s : State} {addr : Nat} {x : MR α} {k : α → State → Out} (h : MemOk s) (hx : MR.Keeps x)
    (hk : ∀ {a u}, MemOk u → Out.Keeps (k a u)) : Out.Keeps (orTrapS s addr x k) := by
  unfold orTrapS
  split
  · exact hk (hx.of_ok rfl)
  · exact keeps_trapS h
  · exact keeps_stallS h
  · exact .fault

theorem keeps_orLineS {s : State} {l : Loc} {k : State → Out} (h : MemOk s) (hk : ∀ {u}, MemOk u → Out.Keeps (k u)) :
    Out.Keeps (orLineS s l k) := by
  unfold orLineS
  split
  · next e => exact hk (memOk_fst (memOk_dataLine h) e)
  · next e => exact keeps_trapS (memOk_fst (memOk_dataLine h) e)

theorem keeps_fetchWord {s : State} {va : Nat} (h : MemOk s) : MR.Keeps (fetchWord s va) := by
  unfold fetchWord
  split
  · exact .trap
  · refine MR.keeps_bind (keeps_translate h) fun _ _ h1 => ?_
    extract_lets key
    split
    · exact .trap
    · exact .ok h1

theorem keeps_fetchTriple {s : State} {k : Nat} (h : MemOk s) : MR.Keeps (fetchTriple s k) := by
  unfold fetchTriple
  split
  · split
    · exact .ok h
    · extract_lets a
      refine MR.keeps_bind (keeps_fetchWord h) fun _ _ h1 => ?_
      exact MR.keeps_bind (keeps_fetchWord h1) fun _ _ h2 => MR.keeps_bind (keeps_fetchWord h2) fun _ _ h3 => .ok h3

theorem memOk_finL {s : State} {f : LaneFields} (h : MemOk s) : MemOk (finL s f) := by
  unfold finL
  split
  · extract_lets s1 step src
    have h1 : MemOk s1 := memOk_freeSlotOwner h
    exact memOk_set h1
  · exact memOk_set h

theorem memOk_finBranch {s : State} {next : Nat} (h : MemOk s) : MemOk (finBranch s next) := by
  unfold finBranch
  extract_lets s1 step src
  have h1 : MemOk s1 := memOk_freeSlotOwner h
  exact memOk_set h1

theorem keeps_stallL {s : State} (h : MemOk s) : Out.Keeps (stallL s) := .next h

theorem memOk_fetchLine {s : State} {va : Nat} (h : MemOk s) : MemOk (fetchLine s va).1 := by
  unfold fetchLine
  split
  · exact h
  · split
    · next e => exact memOk_dataLine ((keeps_translate h).of_ok e)
    · exact h

theorem keeps_fetchTrap {s : State} {st : Stream} {num addr : Nat} {d : BitVec 192} (h : MemOk s) :
    Fetched.Keeps (fetchTrap s st num addr d) := .stop (memOk_takeTrap h)

theorem keeps_fetchScalar {s : State} (h : MemOk s) : Fetched.Keeps (fetchScalar s) := by
  unfold fetchScalar
  split
  · exact .stop h
  · split
    · exact .stop (memOk_advS (memOk_set h))
    · extract_lets a
      split
      · next e1 =>
          have h1 := memOk_fst (memOk_fetchLine h) e1
          split
          · exact keeps_fetchTrap h1
          · split
            · exact keeps_fetchTrap h1
            · exact .stop h1
            · exact .fault
            · next e2 =>
                have h2 := (keeps_fetchWord h1).of_ok e2
                split
                · exact .stop h2
                · split
                  · split
                    · exact .run h2
                    · exact .stop h2
                  · split
                    · exact .run h2
                    · exact .stop h2

theorem keeps_fetchLane {s : State} (h : MemOk s) : Fetched.Keeps (fetchLane s) := by
  unfold fetchLane
  split
  · exact .stop (memOk_ite (memOk_set h) h)
  · extract_lets a
    split
    · next s1 _ e1 =>
        have h1 : MemOk s1 := by
          refine memOk_fst ?_ e1
          split
          · exact memOk_fetchLine h
          · exact h
        split
        · exact keeps_fetchTrap h1
        · split
          · exact keeps_fetchTrap h1
          · exact .stop h1
          · exact .fault
          · next e2 =>
              have h2 := (keeps_fetchTriple h1).of_ok e2
              split
              · exact .run h2
              · exact .stop h2
          · next e2 =>
              have h2 := (keeps_fetchTriple h1).of_ok e2
              split
              · exact .stop h2
              · split
                · split
                  · exact .run h2
                  · exact .stop h2
                · split
                  · exact .stop h2
                  · exact .run h2

theorem keeps_fetchInstr {s : State} {st : Stream} (h : MemOk s) : Fetched.Keeps (fetchInstr s st) := by
  unfold fetchInstr
  split
  · exact keeps_fetchTrap (memOk_set h)
  · split
    · exact keeps_fetchScalar h
    · exact keeps_fetchLane h

theorem memOk_leaveHandler {s : State} {hs : Hidden} {fr : List Byte} (h : MemOk s) : MemOk (leaveHandler s hs fr) := by
  unfold leaveHandler
  extract_lets flags midrun g1 stream src src' g2 freed
  have hfreed : MemOk freed := memOk_freeSlotOwner h
  exact memOk_set hfreed

end Sys2Proof.Machine
end

section
/-! PROOFS. The form of memory under the issue, the register writes and the end of a lane instruction (R99 to R101, R279 to R286). -/
namespace Sys2Proof.Machine

open Sys2Proof

theorem memOk_popVQ {s : State} {n : Nat} (h : MemOk s) : MemOk (popVQ s n) := h

theorem memOk_writeLanes {s : State} {code : BitVec 9} {n : Nat} {m : BitVec 64} {v : Nat → Nat} (h : MemOk s) :
    MemOk (writeLanes s code n m v) := memOk_ite (memOk_set h) h

theorem memOk_writePred {s : State} {k : Nat} {m : BitVec 64} {v : Nat → Bool} (h : MemOk s) : MemOk (writePred s k m v) := by
  unfold writePred
  split
  · exact h
  · extract_lets on old src src'
    exact memOk_set h

theorem memOk_freeVal {s : State} (h : MemOk s) : MemOk (freeVal s).2 := memOk_set h

theorem keeps_laneRun {s : State} {i : Instr} {f : LaneFields} {op : Nat} {r : Roles} {extra : Option BadOp}
    {k : State → BitVec 64 → Nat × Nat × Nat → Out} (h : MemOk s) (hk : ∀ {u a b}, MemOk u → Out.Keeps (k u a b)) :
    Out.Keeps (laneRun s i f op r extra k) := by
  unfold laneRun
  split
  · exact keeps_trapL h
  · split
    · exact keeps_stallL h
    · split
      · split
        · next e2 => exact keeps_trapL (memOk_snd (memOk_freeVal h) e2)
      · exact hk (memOk_set h)

theorem memOk_popFinL {s : State} {f : LaneFields} {r : Roles} (h : MemOk s) : MemOk (popFinL s f r) :=
  memOk_finL (memOk_ite h (memOk_popVQ h))

end Sys2Proof.Machine
end

section
/-! PROOFS. The form of memory under the elementwise lane computation and the conversions (R98, R243, R246, R390, R399 to R402). -/
namespace Sys2Proof.Machine

open Sys2Proof

theorem memOk_raiseFl {s : State} {fl : Fl} (h : MemOk s) : MemOk (raiseFl s fl) := h

theorem keeps_withFlags {s : State} {f : LaneFields} {m : BitVec 64} {fl : Nat → Fl} {k : State → Out} (h : MemOk s)
    (hk : ∀ {u}, MemOk u → Out.Keeps (k u)) : Out.Keeps (withFlags s f m fl k) := by
  unfold withFlags
  extract_lets all lanes s1
  have h1 : MemOk s1 := memOk_raiseFl h
  split
  · exact hk h1
  · exact keeps_trapL h1

theorem keeps_execElem {s : State} {i : Instr} {f : LaneFields} {code : Nat} {b c fl : Bool} {op : State → Nat → Nat → Nat → Nat → FR}
    (h : MemOk s) : Out.Keeps (execElem s i f code b c fl op) := by
  unfold execElem
  extract_lets n r
  split
  · refine keeps_laneRun h (fun h1 => ?_)
    extract_lets res
    exact keeps_withFlags h1 (fun h2 => .next (memOk_popFinL (memOk_writeLanes h2)))

theorem keeps_execConv {s : State} {i : Instr} {f : LaneFields} {code : Nat} {r : Roles} {nd na : Nat} {fl : Bool} {extra : Option BadOp}
    {op : Env → Nat → Nat → Nat → FR} (h : MemOk s) : Out.Keeps (execConv s i f code r nd na fl extra op) := by
  unfold execConv
  refine keeps_laneRun h (fun h1 => ?_)
  extract_lets lit res
  exact keeps_withFlags h1 (fun h2 => .next (memOk_popFinL (memOk_writeLanes h2)))

theorem keeps_execCvt {f : LaneFields} {s : State} (h : MemOk s) : Out.Keeps (execCvt f s) := by
  unfold execCvt
  extract_lets src dst
  exact keeps_execConv h

theorem keeps_execCvti {f : LaneFields} {s : State} (h : MemOk s) : Out.Keeps (execCvti f s) := by
  unfold execCvti
  extract_lets fmt nf wide uns bits ni toFloat nd na
  exact keeps_execConv h

theorem keeps_execUnpack {f : LaneFields} {s : State} (h : MemOk s) : Out.Keeps (execUnpack f s) := by
  unfold execUnpack
  extract_lets k e
  exact keeps_execConv h

end Sys2Proof.Machine
end

section
/-! PROOFS. The form of memory under what the engines share (R154, R157, R165, R199, R203) and the host's access (R28 to R36, R39). -/
namespace Sys2Proof.Machine

open Sys2Proof

theorem memOk_raiseUE {s : State} {part core structure' ctx addr : Nat} {victims : List GroupId} (h : MemOk s) :
    MemOk (raiseUE s part core structure' ctx addr victims) := memOk_modCore (memOk_severityUnit h)

theorem memOk_freeOrder {α : Type} {s : State} {l : List α} (h : MemOk s) : MemOk (freeOrder s l).2 := by
  unfold freeOrder
  split
  · exact h
  · extract_lets code
    exact memOk_set h

theorem keeps_engBytes {s : State} {w : Who} {n a : Nat} (h : MemOk s) : MR.Keeps (engBytes s w n a) := by
  induction n generalizing s a with
  | zero => exact .ok h
  | succ n ih =>
    unfold engBytes
    refine MR.keeps_bind (keeps_granted (keeps_translate h)) fun _ _ h1 => ?_
    extract_lets key
    split
    · exact .stall
    · split
      · exact .trap
      · exact MR.keeps_bind (ih h1) fun _ _ h2 => .ok h2

theorem memOk_beatsEcc {s : State} {w : Who} {beats : List Nat} {at' : Nat} {ecc : Ecc} (h : MemOk s) :
    MemOk (beatsEcc s w beats at' ecc).1 := by
  unfold beatsEcc
  split
  · exact h
  · split
    · next e2 =>
        split
        · exact (keeps_translate h).of_ok e2
        · split
          · next e4 => exact memOk_fst (memOk_lineCheck ((keeps_translate h).of_ok e2)) e4
    · exact h

theorem memOk_engTouch {s : State} {w : Who} {evict n a : Nat} (h : MemOk s) : MemOk (engTouch s w evict n a) := by
  unfold engTouch
  extract_lets starts
  refine memOk_foldl h fun u x hu => ?_
  split
  · next e => exact memOk_l2Touch ((keeps_translate hu).of_ok e)
  · exact hu

theorem keeps_engRead {s : State} {w : Who} {evict n a : Nat} (h : MemOk s) : MR.Keeps (engRead s w evict n a) :=
  MR.keeps_bind (keeps_engBytes h) (fun _ _ h1 => .ok (memOk_ite h1 (memOk_engTouch h1)))

theorem keeps_engLocs {s : State} {w : Who} {l : List Byte} {a : Nat} (h : MemOk s) : MR.Keeps (engLocs s w l a) := by
  induction l generalizing s a with
  | nil => exact .ok h
  | cons b r ih =>
    unfold engLocs
    exact MR.keeps_bind (keeps_granted (keeps_translate h)) fun _ _ h1 => MR.keeps_bind (ih h1) fun _ _ h2 => .ok h2

theorem keeps_pubPrep {s : State} {w : Who} {l : List Loc} (h : MemOk s) : MR.Keeps (pubPrep s w l) := by
  induction l generalizing s with
  | nil => exact .ok h
  | cons l r ih =>
    unfold pubPrep
    split
    · exact .stall
    · split
      · exact .stall
      · split
        · exact .stall
        · exact .trap
      · next e => exact ih ((keeps_prepWrite h).of_ok e)

theorem memOk_pubByte {w : Who} {source : Nat} {s : State} {e : Loc × Byte} (h : MemOk s) : MemOk (pubByte w source s e) := by
  unfold pubByte
  extract_lets key s1
  have h1 : MemOk s1 := memOk_ite h (memOk_stampWrite h)
  exact memOk_markDirty (wf_physPut _ _ _ h1)

theorem keeps_publish {s : State} {w : Who} {source evict : Nat} {sh : List (Loc × Byte)} (h : MemOk s) :
    MR.Keeps (publish s w source evict sh) := by
  unfold publish
  split
  · exact .stall
  · split
    · exact .trap
    · extract_lets reps
      refine MR.keeps_bind (keeps_pubPrep h) fun _ _ h1 => ?_
      extract_lets m0 s2 keys whole src s3
      have h2 : MemOk s2 := memOk_foldl h1 (fun _ _ h2 => memOk_pubByte h2)
      have h3 : MemOk s3 := memOk_set h2
      refine .ok (memOk_foldl h3 fun u l hu => ?_)
      extract_lets key u1
      have hu1 : MemOk u1 := memOk_l2Touch hu
      exact memOk_ite (memOk_watchWrite hu1) hu1

theorem memOk_barFault {s : State} {p : Partition} {va : Nat} (h : MemOk s) : MemOk (barFault s p va) := memOk_postEvent h

theorem keeps_locPieces {w : Who} {write : Bool} {s : State} {l : List (Nat × List Byte)} (h : MemOk s) :
    MR.Keeps (locPieces w write s l) := by
  induction l generalizing s with
  | nil => exact .ok h
  | cons x r ih =>
    unfold locPieces
    exact MR.keeps_bind (keeps_granted (keeps_translate h)) fun _ _ h1 => MR.keeps_bind (ih h1) fun _ _ h2 => .ok h2

theorem keeps_storePieces {w : Who} {s : State} {l : List (Loc × List Byte)} (h : MemOk s) : MR.Keeps (storePieces w s l) := by
  induction l generalizing s with
  | nil => exact .ok h
  | cons x r ih =>
    unfold storePieces
    exact MR.keeps_bind (keeps_storeAt h) fun _ _ h1 => ih h1

theorem keeps_barWrite {s : State} {p : Partition} {off : Nat} {data : List Byte} (h : MemOk s) : MR.Keeps (barWrite s p off data) := by
  unfold barWrite
  extract_lets w va
  split
  · next s0 _ e =>
      have h0 : MemOk s0 := by
        refine memOk_fst ?_ e
        split
        · exact h
        · exact memOk_beatsEcc h
      split
      · exact .ok (memOk_barFault h0)
      · split
        · next e1 => exact .ok ((MR.keeps_bind (keeps_locPieces h0) (fun _ _ h1 => keeps_storePieces h1)).of_ok e1)
        · split
          · exact .stall
          · exact .ok (memOk_barFault h0)
        · exact .stall
        · exact .fault

theorem memOk_postWrite {s : State} {part off : Nat} {data : List Byte} (h : MemOk s) : MemOk (postWrite s part off data) := h

theorem keeps_execBar2Write {s : State} (h : MemOk s) : Out.Keeps (execBar2Write s) := by
  unfold execBar2Write
  split
  · exact .next h
  · split
    · exact .next h
    · split
      · next e3 => exact .next (memOk_modPart ((keeps_barWrite h).of_ok e3))
      · exact .next h
      · exact .next h
      · exact .fault
    · exact .next (memOk_postWrite h)
    · split
      · next e3 => exact .next ((keeps_barWrite h).of_ok e3)
      · exact .next h
      · exact .next (memOk_postWrite h)
      · exact .fault

theorem memOk_hostRead {s : State} {b : List Byte} (h : MemOk s) : MemOk (hostRead s b) := h

theorem keeps_execBar2Read {s : State} (h : MemOk s) : Out.Keeps (execBar2Read s) := by
  unfold execBar2Read
  split
  · exact .next h
  · split
    · exact .next h
    · extract_lets w va n fail
      have hfail : ∀ {u}, MemOk u → Out.Keeps (fail u) := fun hu => .next (memOk_hostRead (memOk_barFault hu))
      split
      · next s0 _ e1 =>
          have h0 : MemOk s0 := by
            refine memOk_fst ?_ e1
            split
            · exact h
            · exact memOk_beatsEcc h
          split
          · exact hfail h0
          · split
            · next e2 => exact .next (memOk_hostRead ((keeps_engRead h0).of_ok e2))
            · exact hfail h0
            · exact .next h
            · exact .fault

theorem memOk_modQueue {s : State} {part k : Nat} {f : Queue → Queue} (h : MemOk s) : MemOk (modQueue s part k f) := h

theorem memOk_launchError {s : State} {part q va off kind addr : Nat} (h : MemOk s) : MemOk (launchError s part q va off kind addr) :=
  memOk_postEvent h

theorem memOk_stopQueue {s : State} {part k bits : Nat} (h : MemOk s) : MemOk (stopQueue s part k bits) := h

theorem memOk_wakeQueue {s : State} {part k : Nat} (h : MemOk s) : MemOk (wakeQueue s part k) := by
  unfold wakeQueue
  split
  · exact h
  · extract_lets q tail s1 src e'
    have h1 : MemOk s1 := memOk_modQueue h
    split
    · exact h
    · split
      · exact memOk_ite (memOk_launchError (memOk_stopQueue h)) h
      · exact memOk_ite (memOk_postEvent (memOk_stopQueue h1)) h1

theorem keeps_mailbox {s : State} {cmd : Nat} {k : State → State × Nat} (h : MemOk s) (hk : ∀ {u}, MemOk u → MemOk (k u).1) :
    Out.Keeps (mailbox s cmd k) := by
  unfold mailbox
  split
  · exact .next h
  · split
    · exact .next (memOk_set h)
    · exact .next (memOk_set (hk h))

theorem memOk_onState {s : State} {allowed : List Nat} {k : Partition → State × Nat} (h : MemOk s) (hk : ∀ {a}, MemOk (k a).1) :
    MemOk (onState s allowed k).1 := by
  unfold onState
  split
  · exact h
  · split
    · exact hk
    · exact h

end Sys2Proof.Machine
end

section
/-! PROOFS. The form of memory under scalar arithmetic, immediates and branches (R308 to R310, R318 to R323). -/
namespace Sys2Proof.Machine

open Sys2Proof

theorem keeps_aluS {s : State} {sd sa sb : BitVec 6} {f : Word → Word → Word} (h : MemOk s) : Out.Keeps (aluS s sd sa sb f) :=
  .next (memOk_finS h)

theorem keeps_aluS1 {s : State} {sd sa : BitVec 6} {f : Word → Word} (h : MemOk s) : Out.Keeps (aluS1 s sd sa f) := .next (memOk_finS h)

theorem keeps_badWord {s : State} {w : Nat} (h : MemOk s) : Out.Keeps (badWord s w) := keeps_trapS h

theorem keeps_legalS {i : Instr} {s : State} {k : Out} (h : MemOk s) (hk : Out.Keeps k) : Out.Keeps (legalS i s k) := by
  unfold legalS
  split
  · exact hk
  · exact keeps_badWord h

theorem keeps_execSshi {sd sa : BitVec 6} {imm : BitVec 14} {s : State} (h : MemOk s) : Out.Keeps (execSshi sd sa imm s) :=
  keeps_legalS h (keeps_aluS1 h)

theorem keeps_execSlui {sd : BitVec 6} {imm : BitVec 20} {s : State} (h : MemOk s) : Out.Keeps (execSlui sd imm s) := .next (memOk_finS h)

theorem keeps_execSpcadd {sd : BitVec 6} {imm : BitVec 20} {s : State} (h : MemOk s) : Out.Keeps (execSpcadd sd imm s) :=
  .next (memOk_finS h)

theorem keeps_execSbr {cond : BitVec 3} {sa : BitVec 6} {off : BitVec 17} {s : State} (h : MemOk s) : Out.Keeps (execSbr cond sa off s) :=
  keeps_legalS h (.next (memOk_ite (memOk_jumpS h) (memOk_advS h)))

theorem keeps_execSjal {sd : BitVec 6} {imm : BitVec 20} {s : State} (h : MemOk s) : Out.Keeps (execSjal sd imm s) :=
  .next (memOk_jumpS (memOk_setS h))

theorem keeps_execSjalr {sd sa : BitVec 6} {imm : BitVec 14} {s : State} (h : MemOk s) : Out.Keeps (execSjalr sd sa imm s) := by
  unfold execSjalr
  extract_lets t
  split
  · exact keeps_trapS h
  · exact .next (memOk_jumpS (memOk_setS h))

end Sys2Proof.Machine
end

section
/-! PROOFS. The form of memory under SLD, SST, the scalar and the remote atomics (R18, R197, R331, R334). -/
namespace Sys2Proof.Machine

open Sys2Proof

theorem memOk_scRemote {s : State} {core : Nat} (h : MemOk s) : MemOk (scRemote s core) := memOk_modCore (memOk_set h)

theorem memOk_scMark {s : State} {w : Who} {l : Loc} {ord : BitVec 2} (h : MemOk s) : MemOk (scMark s w l ord) :=
  memOk_ite h (memOk_ite (memOk_scRemote h) (memOk_scStamp h))

theorem memOk_putRequest {s : State} {r : RemoteReq} (h : MemOk s) : MemOk (putRequest s r) := memOk_ite h (memOk_set h)

theorem memOk_issueRemote {s : State} {r : RemoteReq} (h : MemOk s) : MemOk (issueRemote s r) := by
  unfold issueRemote
  extract_lets s1 src
  have h1 : MemOk s1 := memOk_modCore h
  exact memOk_putRequest (memOk_set h1)

theorem memOk_sendRemote {s : State} {st : Stream} {lane : Nat} {l : Loc} {n op : Nat} {result : Bool} {dst y c pc : Nat}
    {ord : BitVec 2} {scope : BitVec 3} (h : MemOk s) : MemOk (sendRemote s st lane l n op result dst y c pc ord scope) :=
  memOk_issueRemote h

theorem memOk_deferAcc {s : State} {a : Access} (h : MemOk s) : MemOk (deferAcc s a) := h

theorem memOk_countAcc {s : State} {ld st : Nat} (h : MemOk s) : MemOk (countAcc s ld st) := h

theorem keeps_execSld {sd sa : BitVec 6} {f : MemFields} {s : State} (h : MemOk s) : Out.Keeps (execSld sd sa f s) := by
  unfold execSld
  refine keeps_legalS h ?_
  extract_lets a n
  refine keeps_orTrapS h (keeps_locate h) (fun h1 => ?_)
  split
  · exact keeps_stallS h
  · refine keeps_orTrapS h (keeps_loadAt h1) (fun h2 => ?_)
    split
    · exact .next (memOk_advS (memOk_countAcc (memOk_deferAcc h1)))
    · exact .next (memOk_finS (memOk_acquireAt (memOk_scMark h2)))

theorem keeps_execSst {sd sa : BitVec 6} {f : MemFields} {s : State} (h : MemOk s) : Out.Keeps (execSst sd sa f s) := by
  unfold execSst
  refine keeps_legalS h ?_
  extract_lets a n d
  refine keeps_orTrapS h (keeps_locate h) (fun h1 => ?_)
  split
  · exact keeps_stallS h
  · refine keeps_orTrapS h (keeps_storeAt h1) (fun h2 => ?_)
    split
    · exact .next (memOk_advS (memOk_countAcc (memOk_deferAcc h1)))
    · exact .next (memOk_advS (memOk_acquireAt (memOk_scMark h2)))

theorem keeps_atomS {i : Instr} {op : Nat} {sd sa sb : BitVec 6} {f : AtomFields} {s : State} (h : MemOk s) :
    Out.Keeps (atomS i op sd sa sb f s) := by
  unfold atomS
  refine keeps_legalS h ?_
  extract_lets a y c
  refine keeps_orTrapS h (keeps_locate h) (fun h1 => ?_)
  split
  · exact keeps_stallS h
  · split
    · split
      · exact keeps_stallS h
      · exact .next (memOk_advS (memOk_sendRemote h1))
    · refine keeps_orTrapS h (keeps_atomicAt h1) (fun h2 => ?_)
      split
      · exact .next (memOk_advS (memOk_deferAcc h1))
      · exact .next (memOk_finS (memOk_acquireAt (memOk_scMark h2)))

theorem keeps_execSaadd {sd sa sb : BitVec 6} {f : AtomFields} {s : State} (h : MemOk s) : Out.Keeps (execSaadd sd sa sb f s) :=
  keeps_atomS h

theorem keeps_execSamin {sd sa sb : BitVec 6} {f : AtomFields} {s : State} (h : MemOk s) : Out.Keeps (execSamin sd sa sb f s) :=
  keeps_atomS h

theorem keeps_execSamax {sd sa sb : BitVec 6} {f : AtomFields} {s : State} (h : MemOk s) : Out.Keeps (execSamax sd sa sb f s) :=
  keeps_atomS h

theorem keeps_execSaand {sd sa sb : BitVec 6} {f : AtomFields} {s : State} (h : MemOk s) : Out.Keeps (execSaand sd sa sb f s) :=
  keeps_atomS h

theorem keeps_execSaor {sd sa sb : BitVec 6} {f : AtomFields} {s : State} (h : MemOk s) : Out.Keeps (execSaor sd sa sb f s) := keeps_atomS h

theorem keeps_execSaxor {sd sa sb : BitVec 6} {f : AtomFields} {s : State} (h : MemOk s) : Out.Keeps (execSaxor sd sa sb f s) :=
  keeps_atomS h

theorem keeps_execSaswp {sd sa sb : BitVec 6} {f : AtomFields} {s : State} (h : MemOk s) : Out.Keeps (execSaswp sd sa sb f s) :=
  keeps_atomS h

theorem keeps_execSacas {sd sa sb : BitVec 6} {f : AtomFields} {s : State} (h : MemOk s) : Out.Keeps (execSacas sd sa sb f s) :=
  keeps_atomS h

end Sys2Proof.Machine
end

section
/-! PROOFS. The form of memory under SYS, special registers and QUE (R311 to R317, R324 to R328, R386 to R388). -/
namespace Sys2Proof.Machine

open Sys2Proof

theorem keeps_execNop {s : State} (h : MemOk s) : Out.Keeps (execNop s) := .next (memOk_advS h)

theorem keeps_execTrap {a : BitVec 6} {s : State} (h : MemOk s) : Out.Keeps (execTrap a s) := by
  unfold execTrap
  split
  · extract_lets fva
    split
    · next e2 =>
        extract_lets fr
        exact .next (memOk_escalate ((keeps_translate h).of_ok e2))
    · exact keeps_trapS h
    · exact keeps_stallS h
    · exact .fault
  · exact .next (memOk_escalate h)
  · exact keeps_trapNextS h

theorem memOk_takeIndet {s : State} {r : RemoteReq} {st : Stream} {code : Nat} (h : MemOk s) : MemOk (takeIndet s r st code) :=
  memOk_takeTrap h

theorem memOk_replayReq {s : State} {st : Stream} (h : MemOk s) : MemOk (replayReq s st) := by
  unfold replayReq
  split
  · exact h
  · extract_lets now r1 src
    exact memOk_ite (memOk_takeIndet h) (memOk_putRequest (memOk_set h))

theorem memOk_againReq {s : State} (h : MemOk s) : MemOk (againReq s) := by
  unfold againReq
  split
  · exact h
  · extract_lets core now src s1
    have h1 : MemOk s1 := memOk_set h
    exact memOk_issueRemote h1

theorem keeps_execReth {a : BitVec 6} {s : State} (h : MemOk s) : Out.Keeps (execReth a s) := by
  unfold execReth
  split
  · exact keeps_badField h
  · split
    · split
      · exact keeps_badState h
      · split
        · exact keeps_stallS h
        · split
          · exact keeps_stallS h
          · extract_lets fva
            refine keeps_orTrapS h (keeps_translate h) (fun h1 => ?_)
            extract_lets fr s0 s2 st
            have h0 : MemOk s0 := memOk_leaveHandler h1
            have h2 : MemOk s2 := memOk_ite (memOk_teamBars h0) h0
            exact .next (memOk_ite h2 (memOk_ite (memOk_replayReq h2) (memOk_againReq h2)))
    · exact keeps_badState h

theorem keeps_setFmt {s : State} {v : Word} (h : MemOk s) : Out.Keeps (setFmt s v) := by
  unfold setFmt
  split
  · exact keeps_badReg h
  · split
    · exact keeps_stallS h
    · extract_lets f src src'
      exact .next (memOk_advS (memOk_set h))

theorem keeps_execGetfmt {sd : BitVec 6} {s : State} (h : MemOk s) : Out.Keeps (execGetfmt sd s) := .next (memOk_finS h)

theorem keeps_execRdtime {sd : BitVec 6} {s : State} (h : MemOk s) : Out.Keeps (execRdtime sd s) := .next (memOk_finS h)

theorem keeps_execYield {s : State} (h : MemOk s) : Out.Keeps (execYield s) := .next (memOk_advS (memOk_set h))

theorem keeps_execSsrr {sd : BitVec 6} {idx : BitVec 14} {s : State} (h : MemOk s) : Out.Keeps (execSsrr sd idx s) := by
  unfold execSsrr
  split
  · exact keeps_badField h
  · exact .next (memOk_finS h)

theorem keeps_execSsrw {sa : BitVec 6} {idx : BitVec 14} {s : State} (h : MemOk s) : Out.Keeps (execSsrw sa idx s) := by
  unfold execSsrw
  extract_lets v k src src'
  split
  · exact keeps_badField h
  · split
    · exact keeps_setFmt h
    · split
      · exact .next (memOk_advS (memOk_set h))
      · split
        · exact .next (memOk_advS (memOk_set h))
        · split
          · exact .next (memOk_advS (memOk_set h))
          · split
            · exact .next (memOk_advS (memOk_set h))
            · split
              · exact .next (memOk_advS (memOk_set h))
              · exact .next (memOk_advS h)

theorem keeps_execDispatch {sa : BitVec 6} {s : State} (h : MemOk s) : Out.Keeps (execDispatch sa s) := by
  unfold execDispatch
  extract_lets v src src' src''
  split
  · exact keeps_badReg h
  · split
    · exact keeps_stallS h
    · exact .next (memOk_advS (memOk_set h))

theorem keeps_pushVQ {s : State} {vs : List Word} (h : MemOk s) : Out.Keeps (pushVQ s vs) := by
  unfold pushVQ
  split
  · exact keeps_stallS h
  · exact .next (memOk_advS (memOk_set h))

theorem keeps_execRqpop {sd : BitVec 6} {s : State} (h : MemOk s) : Out.Keeps (execRqpop sd s) := by
  unfold execRqpop
  split
  · exact keeps_stallS h
  · exact .next (memOk_finS (memOk_set h))

theorem keeps_execQstat {sd : BitVec 6} {s : State} (h : MemOk s) : Out.Keeps (execQstat sd s) := .next (memOk_finS h)

theorem keeps_execQdrain {s : State} (h : MemOk s) : Out.Keeps (execQdrain s) := by
  unfold execQdrain
  split
  · exact .next (memOk_advS h)
  · exact keeps_stallS h

end Sys2Proof.Machine
end

section
/-! PROOFS. The form of memory under fences, barriers, stage barriers and waits (R207 to R209, R336 to R343). -/
namespace Sys2Proof.Machine

open Sys2Proof

theorem keeps_execFence {ord : BitVec 2} {scope : BitVec 3} {s : State} (h : MemOk s) : Out.Keeps (execFence ord scope s) := by
  unfold execFence
  split
  · exact keeps_stallS h
  · split
    · exact .next (memOk_advS (memOk_acquireAt (memOk_scStamp h)))
    · exact .next (memOk_advS (memOk_acquireAt h))

theorem memOk_clearBar {s : State} (h : MemOk s) : MemOk (clearBar s) := h

theorem memOk_waitBar {s : State} {k : Option Nat} {gen : BitVec 32} (h : MemOk s) : MemOk (waitBar s k gen) := h

theorem keeps_barReturn {s : State} {sd : BitVec 6} {gen : BitVec 32} (h : MemOk s) : Out.Keeps (barReturn s sd gen) :=
  .next (memOk_finS (memOk_acquireAt (memOk_clearBar h)))

theorem keeps_barArrive {s : State} {sd : BitVec 6} {k : Option Nat} {n : Nat} (h : MemOk s) : Out.Keeps (barArrive s sd k n) := by
  unfold barArrive
  extract_lets b b1 b2 s1 arrive
  have h1 : MemOk s1 := memOk_set h
  have harrive : Out.Keeps arrive := by
    unfold arrive
    split
    · exact keeps_stallS h
    · split
      · exact keeps_barReturn h1
      · exact .next (memOk_waitBar h1)
  split
  · split
    · split
      · exact keeps_stallS h
      · exact keeps_barReturn h
    · exact harrive
  · exact harrive

theorem keeps_execBar {sd : BitVec 6} {s : State} (h : MemOk s) : Out.Keeps (execBar sd s) := keeps_barArrive h

theorem keeps_execBarn {sd sa a : BitVec 6} {s : State} (h : MemOk s) : Out.Keeps (execBarn sd sa a s) := by
  unfold execBarn
  extract_lets n b
  split
  · exact keeps_badField h
  · split
    · exact keeps_badReg h
    · exact keeps_barArrive h

theorem keeps_locSB {s : State} {a : Nat} (h : MemOk s) : MR.Keeps (locSB s a) := keeps_locate h

theorem keeps_execSbinit {sa sb : BitVec 6} {s : State} (h : MemOk s) : Out.Keeps (execSbinit sa sb s) := by
  unfold execSbinit
  extract_lets a n
  split
  · exact keeps_badReg h
  · refine keeps_orTrapS h (keeps_locSB h) (fun h1 => ?_)
    extract_lets k t
    split
    · exact keeps_badState h
    · split
      · exact keeps_stallS h
      · exact .next (memOk_advS (memOk_set h1))

theorem keeps_execSbexp {sa sb : BitVec 6} {s : State} (h : MemOk s) : Out.Keeps (execSbexp sa sb s) := by
  unfold execSbexp
  extract_lets a n
  split
  · exact keeps_badReg h
  · refine keeps_orTrapS h (keeps_locSB h) (fun h1 => ?_)
    extract_lets k v
    split
    · exact keeps_stallS h
    · exact .next (memOk_advS (memOk_set h1))

theorem keeps_execSbarr {sa : BitVec 6} {s : State} (h : MemOk s) : Out.Keeps (execSbarr sa s) := by
  unfold execSbarr
  extract_lets a
  refine keeps_orTrapS h (keeps_locSB h) (fun h1 => ?_)
  extract_lets k v
  split
  · exact keeps_stallS h
  · exact .next (memOk_advS (memOk_set h1))

theorem keeps_execSbwait {sd sa a : BitVec 6} {s : State} (h : MemOk s) : Out.Keeps (execSbwait sd sa a s) := by
  unfold execSbwait
  split
  · exact keeps_badField h
  · extract_lets a'
    refine keeps_orTrapS h (keeps_locSB h) (fun h1 => ?_)
    extract_lets k waits t v src src' mark s2
    have hmark : ∀ {a}, MemOk (mark a) := memOk_set h1
    have h2 : MemOk s2 := memOk_l1Inval hmark
    split
    · exact .next hmark
    · split
      · exact keeps_trapNextS (memOk_setS h2)
      · exact .next (memOk_finS h2)

theorem keeps_execWaitc {sa : BitVec 6} {s : State} (h : MemOk s) : Out.Keeps (execWaitc sa s) := by
  unfold execWaitc
  extract_lets v e
  split
  · exact keeps_badReg h
  · split
    · exact .next (memOk_advS (memOk_ite h (memOk_l1Inval h)))
    · exact keeps_stallS h

theorem keeps_execWaits {sd sa sb : BitVec 6} {s : State} (h : MemOk s) : Out.Keeps (execWaits sd sa sb s) := by
  unfold execWaits
  extract_lets a
  refine keeps_orTrapS h (keeps_locate h) (fun h1 => ?_)
  split
  · exact keeps_stallS h
  · refine keeps_orLineS h1 (fun h0 => ?_)
    refine keeps_orTrapS h0 (keeps_loadAt h0) (fun h2 => ?_)
    split
    · exact keeps_stallS h
    · exact .next (memOk_finS (memOk_l1Inval h2))

end Sys2Proof.Machine
end

section
/-! PROOFS. The form of memory under tile commands (R212, R230 to R233, R346 to R364). -/
namespace Sys2Proof.Machine

open Sys2Proof

theorem memOk_cmdDone {s : State} {c : TileCmd} {dropped : Bool} (h : MemOk s) : MemOk (cmdDone s c dropped) :=
  memOk_settleSlots (memOk_modGroup h)

theorem keeps_issueTile {s : State} {op : TileOp} {word arg : Word} {fails : List Fail} (h : MemOk s) :
    Out.Keeps (issueTile s op word arg fails) := by
  unfold issueTile
  extract_lets c ts wait s1 src
  have h1 : MemOk s1 := memOk_modCore h
  split
  · exact keeps_trapS h
  · split
    · exact keeps_stallS h
    · exact .next (memOk_advS (memOk_set h1))

theorem keeps_cmdLoad {s : State} {w : Who} {t : Team} {glob : Bool} {a n : Nat} (h : MemOk s) : MR.Keeps (cmdLoad s w t glob a n) := by
  unfold cmdLoad
  split
  · exact keeps_engRead h
  · exact .ok h

theorem keeps_pieceLocs {s : State} {w : Who} {l : List (Nat × List Byte)} (h : MemOk s) : MR.Keeps (pieceLocs s w l) := by
  induction l generalizing s with
  | nil => exact .ok h
  | cons p r ih =>
    unfold pieceLocs
    exact MR.keeps_bind (keeps_engLocs h) fun _ _ h1 => MR.keeps_bind (ih h1) fun _ _ h2 => .ok h2

theorem keeps_cmdStore {s : State} {w : Who} {t : Team} {glob : Bool} {pieces : List (Nat × List Byte)} (h : MemOk s) :
    MR.Keeps (cmdStore s w t glob pieces) := by
  unfold cmdStore
  split
  · exact MR.keeps_bind (keeps_pieceLocs h) (fun _ _ h1 => MR.keeps_bind (keeps_publish h1) (fun _ _ h2 => .ok h2))
  · exact .ok h

theorem keeps_runTile {s : State} {c : TileCmd} {g : Group} {t : Team} (h : MemOk s) : MR.Keeps (runTile s c g t) := by
  unfold runTile
  extract_lets w a src who clean recs x x' k at' n
  split
  · exact .ok h
  · exact .ok h
  · exact .ok h
  · exact .ok h
  · exact .ok h
  · refine MR.keeps_bind (keeps_cmdLoad h) fun _ _ h1 => ?_
    extract_lets arr at'' el
    exact .ok h1
  · split
    · exact MR.keeps_bind (keeps_cmdStore h) (fun _ _ h1 => .ok h1)
  · split
    · exact MR.keeps_bind (keeps_cmdStore h) (fun _ _ h1 => .ok h1)
  · split
    · exact MR.keeps_bind (keeps_cmdStore h) (fun _ _ h1 => .ok h1)
    · exact MR.keeps_bind (keeps_cmdLoad h) (fun _ _ h1 => .ok h1)

theorem memOk_popWheel {s : State} {core : Nat} (h : MemOk s) : MemOk (popWheel s core) := h

theorem memOk_cmdEcc {s : State} {c : TileCmd} {g : Group} {rd : List Nat} {ecc : Ecc} {off : Nat} (h : MemOk s) :
    MemOk (cmdEcc s c g rd ecc off).1 := by
  unfold cmdEcc
  extract_lets src who va
  split
  · split
    · next e1 =>
        split
        · next e3 => exact memOk_fst (memOk_lineCheck ((keeps_translate h).of_ok e1)) e3
    · exact h
  · split
    · exact memOk_raiseUE h
    · exact h

end Sys2Proof.Machine
end

section
/-! PROOFS. The form of memory under copies and prefetches (R196 to R211, R348 to R350). -/
namespace Sys2Proof.Machine

open Sys2Proof

theorem memOk_readBeats {s : State} {a : Nat} (h : MemOk s) : MemOk (readBeats s a) := memOk_set h

theorem memOk_endRec {s : State} (h : MemOk s) : MemOk (endRec s) := h

theorem keeps_withRec {s : State} {v : Word} {k : List Byte → State → Out} (h : MemOk s) (hk : ∀ {a u}, MemOk u → Out.Keeps (k a u)) :
    Out.Keeps (withRec s v k) := by
  unfold withRec
  split
  · exact keeps_stallS h
  · split
    · exact .next (memOk_readBeats h)
    · exact hk (memOk_endRec h)

theorem memOk_addCopy {s : State} {c : Copy} (h : MemOk s) : MemOk (addCopy s c) := h

theorem keeps_orTrapF {s : State} {fails : List Fail} {k : Out} (h : MemOk s) (hk : Out.Keeps k) : Out.Keeps (orTrapF s fails k) := by
  unfold orTrapF
  split
  · exact keeps_trapS h
  · exact hk

theorem keeps_execTcopy {sd sa sb : BitVec 6} {s : State} (h : MemOk s) : Out.Keeps (execTcopy sd sa sb s) := by
  unfold execTcopy
  extract_lets v bar barBad
  split
  · exact keeps_orTrapF h (keeps_stallS h)
  · refine keeps_withRec h (fun hu => ?_)
    refine keeps_orTrapF hu ?_
    split
    · exact keeps_stallS h
    · exact .next (memOk_advS (memOk_addCopy hu))

theorem keeps_execTcopyx {sd sa sb : BitVec 6} {s : State} (h : MemOk s) : Out.Keeps (execTcopyx sd sa sb s) := by
  unfold execTcopyx
  extract_lets v w
  split
  · exact keeps_orTrapF h (keeps_stallS h)
  · refine keeps_withRec h (fun hu => ?_)
    extract_lets r c u1
    have hu1 : MemOk u1 := memOk_addCopy hu
    refine keeps_orTrapF hu ?_
    split
    · exact keeps_stallS h
    · exact .next (memOk_advS (memOk_set hu1))

theorem keeps_visitBeats {w : Who} {t : Team} {r : TensorRec} {evict : Nat} {bad : Option Nat} {va : Nat} {l : List Nat} {v : Visit}
    {s : State} (h : MemOk s) : MR.Keeps (visitBeats w t r evict bad va l v s) := by
  induction l generalizing v s with
  | nil => exact .ok h
  | cons b l ih =>
    unfold visitBeats
    split
    · exact ih h
    · split
      · exact .ok h
      · split
        · exact .fault
        · exact .stall
        · exact .ok h
        · next e =>
            refine ih (MR.Keeps.of_ok ?_ e)
            split
            · exact .ok h
            · exact keeps_engRead h

theorem keeps_visitElems {w : Who} {t : Team} {r : TensorRec} {evict : Nat} {b : Option BoundLatch} {bad : Option Nat} {l : List Elem}
    {v : Visit} {s : State} (h : MemOk s) : MR.Keeps (visitElems w t r evict b bad l v s) := by
  induction l generalizing v s with
  | nil => exact .ok h
  | cons x l ih =>
    unfold visitElems
    split
    · next e =>
        have h1 := (keeps_visitBeats h).of_ok e
        split
        · exact .ok h1
        · extract_lets k
          split
          · exact .ok h1
          · exact ih h1
    · exact keeps_visitBeats h

theorem memOk_modCopy {s : State} {id : GroupId} {k : Nat} {f : Copy → Copy} (h : MemOk s) : MemOk (modCopy s id k f) := h

theorem memOk_failCopy {s : State} {id : GroupId} {k code addr : Nat} (h : MemOk s) : MemOk (failCopy s id k code addr) := h

theorem memOk_raiseBound {s : State} {id : GroupId} {on : Bool} (h : MemOk s) : MemOk (raiseBound s id on) := memOk_ite (memOk_modGroup h) h

theorem keeps_execCopyStart {s : State} (h : MemOk s) : Out.Keeps (execCopyStart s) := by
  unfold execCopyStart
  extract_lets id t st ready mark
  have hmark : MemOk mark := memOk_modCopy h
  split
  · exact .next h
  · split
    · exact .next h
    · extract_lets before blocks
      split
      · exact .next h
      · split
        · split
          · exact .next hmark
          · exact .next h
        · split
          · exact .next h
          · split
            · exact .next hmark
            · split
              · exact .next (memOk_modTeamOf hmark)
              · exact .next h

theorem keeps_landBeat {s : State} {id : GroupId} {k : Nat} {g : Group} {c : Copy} {r : TensorRec} {row blk : Nat}
    {out : List (Nat × Nat × Byte)} (h : MemOk s) : Out.Keeps (landBeat s id k g c r row blk out) := by
  unfold landBeat
  extract_lets m done bytes t t1
  have hdone : ∀ {u a b}, MemOk u → MemOk (done u a b) := fun hu => memOk_modCopy hu
  split
  · exact .next h
  · split
    · split
      · exact .fault
      · exact .next h
      · exact .next (memOk_failCopy h)
      · next e1 => exact .next (hdone ((keeps_pieceLocs h).of_ok e1))
    · split
      · exact .next (hdone (memOk_modTeamOf h))

theorem keeps_landTensor {s : State} {id : GroupId} {k : Nat} {g : Group} {c : Copy} {r : TensorRec} {row blk : Nat} {ahead : Bool}
    {va : Nat} {ecc : Ecc} (h : MemOk s) : Out.Keeps (landTensor s id k g c r row blk ahead va ecc) := by
  unfold landTensor
  extract_lets els w top todo
  split
  · exact .next h
  · split
    · next s0 _ e =>
        have h0 : MemOk s0 := by
          refine memOk_fst ?_ e
          split
          · exact h
          · exact memOk_beatsEcc h
        split
        · exact .fault
        · exact .next h
        · exact .next h
        · next e1 =>
            extract_lets s3
            have h3 : MemOk s3 := memOk_modCopy (memOk_raiseBound ((keeps_visitElems h0).of_ok e1))
            split
            · exact .next (memOk_failCopy h3)
            · split
              · exact .next h3
              · exact keeps_landBeat h3

theorem memOk_copyFault {s : State} {g : Group} {code addr : Nat} (h : MemOk s) : MemOk (copyFault s g code addr) := by
  unfold copyFault
  split
  · exact h
  · extract_lets s1 src rec'
    have h1 : MemOk s1 := memOk_modGroup h
    exact memOk_severity h1

theorem keeps_laneSrcBytes {s : State} {w : Who} {t : Team} {evict : Nat} {x : LaneCopy} {n : Nat} (h : MemOk s) :
    MR.Keeps (laneSrcBytes s w t evict x n) := by
  unfold laneSrcBytes
  split
  · exact .ok h
  · exact keeps_engRead h

theorem keeps_transferRead {w : Who} {t : Team} {evict n : Nat} {bad : Option Nat} {l : List LaneCopy} {s : State} (h : MemOk s) :
    MR.Keeps (transferRead w t evict n bad l s) := by
  induction l generalizing s with
  | nil => exact .ok h
  | cons x r ih =>
    unfold transferRead
    extract_lets one
    have hone : MR.Keeps one := by
      unfold one
      split
      · exact .ok h
      · split
        · exact .fault
        · exact .stall
        · exact .ok h
        · next e => exact .ok ((keeps_laneSrcBytes h).of_ok e)
    exact MR.keeps_bind hone fun _ _ h1 => MR.keeps_bind (ih h1) fun _ _ h2 => .ok h2

theorem memOk_laneEnds {s : State} {id : GroupId} {k : Nat} {g : Group} {c : Copy} {lane code bytes addr : Nat} (h : MemOk s) :
    MemOk (laneEnds s id k g c lane code bytes addr) := by
  unfold laneEnds
  extract_lets s1 s2
  have h1 : MemOk s1 := memOk_modGroup h
  have h2 : MemOk s2 := memOk_modCopy h1
  exact memOk_copyFault h2

theorem keeps_landTransfer {s : State} {id : GroupId} {k : Nat} {g : Group} {c : Copy} {l : List LaneCopy} {n : Nat}
    {put : State → List (Nat × List Byte) → MR Unit} (h : MemOk s) (hput : ∀ {u a}, MemOk u → MR.Keeps (put u a)) :
    Out.Keeps (landTransfer s id k g c l n put) := by
  unfold landTransfer
  extract_lets w t
  split
  · next s0 _ e =>
      have h0 : MemOk s0 := by
        refine memOk_fst ?_ e
        split
        · exact h
        · exact memOk_beatsEcc h
      split
      · exact .fault
      · exact .next h
      · exact .next h
      · next e1 =>
          extract_lets good ends
          have hends : ∀ {u a}, MemOk u → Out.Keeps (ends u a) := by
            intro _ _ hu
            unfold ends
            refine .next (memOk_foldl hu fun a v ha => ?_)
            split
            · exact memOk_laneEnds ha
            · exact memOk_laneEnds ha
          split
          · next e2 =>
              have h2 := memOk_snd (memOk_freeOrder ((keeps_transferRead h0).of_ok e1)) e2
              split
              · exact hends h2
              · split
                · exact .fault
                · exact .next h
                · exact hends h2
                · next e3 => exact hends ((hput h2).of_ok e3)

theorem memOk_shadowEcc {s : State} {w : Who} {sh : List (Loc × Byte)} {at' : Nat} {ecc : Ecc} (h : MemOk s) :
    MemOk (shadowEcc s w sh at' ecc).1 := by
  unfold shadowEcc
  split
  · exact h
  · split
    · exact h
    · extract_lets key
      split
      · next e3 => exact memOk_fst (memOk_lineCheck h) e3

theorem keeps_execCopyBeatLand {s : State} (h : MemOk s) : Out.Keeps (execCopyBeatLand s) := by
  unfold execCopyBeatLand
  extract_lets id k
  split
  · exact .next h
  · split
    · exact .next h
    · split
      · exact .next h
      · split
        · split
          · exact .next h
          · exact keeps_landTensor h
        · split
          · exact .next h
          · refine keeps_landTransfer h (fun hu => ?_)
            split
            · exact .ok (memOk_modTeamOf hu)
            · split
              · exact .stall
              · extract_lets w
                refine MR.keeps_bind (keeps_pieceLocs hu) fun _ _ hu1 => ?_
                split
                · next e4 =>
                    split
                    · exact .trap
                    · exact keeps_publish (memOk_fst (memOk_shadowEcc hu1) e4)
        · split
          · exact .next h
          · exact keeps_landTransfer h (fun hu => .ok (memOk_modTeamOf hu))

theorem memOk_removeCopy {s : State} {id : GroupId} {k : Nat} (h : MemOk s) : MemOk (removeCopy s id k) := by
  unfold removeCopy
  extract_lets o s1
  have h1 : MemOk s1 := by
    unfold s1
    clear_value o
    split
    · exact h
    · exact memOk_modPart h
  exact memOk_modGroup h1

theorem memOk_endSlot {s : State} {id : GroupId} {c : Copy} {code : Nat} (h : MemOk s) : MemOk (endSlot s id c code) := by
  unfold endSlot
  split
  · exact h
  · exact memOk_ite h (memOk_modTeamOf h)

theorem memOk_endFollow {s : State} {g : Group} {c : Copy} {code : Nat} (h : MemOk s) : MemOk (endFollow s g c code) := by
  unfold endFollow
  split
  · exact h
  · exact memOk_ite (memOk_modCore h) (memOk_cmdDone h)

theorem memOk_finishTensor {s : State} {id : GroupId} {k : Nat} {g : Group} {c : Copy} {code bytes fault : Nat} (h : MemOk s) :
    MemOk (finishTensor s id k g c code bytes fault) := by
  unfold finishTensor
  extract_lets s1 s2
  have h1 : MemOk s1 := memOk_modGroup h
  have h2 : MemOk s2 := memOk_copyFault (memOk_endSlot (memOk_removeCopy h1))
  exact memOk_endFollow h2

theorem keeps_execCopyEnd {s : State} (h : MemOk s) : Out.Keeps (execCopyEnd s) := by
  unfold execCopyEnd
  extract_lets id k
  split
  · exact .next h
  · split
    · exact .next h
    · split
      · exact .next h
      · split
        · extract_lets w sh glob here
          split
          · exact .next (memOk_finishTensor h)
          · split
            · exact .next h
            · split
              · exact .next (memOk_finishTensor h)
              · split
                · next e3 =>
                    have h3 := memOk_fst (memOk_shadowEcc h) e3
                    split
                    · exact .next (memOk_finishTensor h3)
                    · split
                      · exact .fault
                      · exact .next h
                      · exact .next (memOk_finishTensor h3)
                      · next e4 =>
                          split
                          · exact .next (memOk_finishTensor (memOk_modTeamOf ((keeps_publish h3).of_ok e4)))
        · split
          · exact .next h
          · exact .next (memOk_removeCopy h)
        · split
          · exact .next h
          · exact .next (memOk_endSlot (memOk_removeCopy h))

theorem memOk_l1FillLine {s : State} {core key evict : Nat} (h : MemOk s) : MemOk (l1FillLine s core key evict) :=
  memOk_foldl h (fun _ _ hu => memOk_l1Load hu)

theorem memOk_prefLine {s : State} {w : Who} {a evict : Nat} {demote lane : Bool} (h : MemOk s) :
    MemOk (prefLine s w a evict demote lane) := by
  unfold prefLine
  split
  · exact h
  · split
    · exact h
    · extract_lets l' key s1
      have h1 : MemOk s1 := memOk_l2Touch h
      exact memOk_ite h (memOk_ite (memOk_l2Demote h) (memOk_ite h (memOk_ite (memOk_l1FillLine h1) h1)))

theorem keeps_execTpref {sa : BitVec 6} {hint : BitVec 3} {s : State} (h : MemOk s) : Out.Keeps (execTpref sa hint s) := by
  unfold execTpref
  refine keeps_legalS h ?_
  extract_lets v bad
  split
  · exact keeps_orTrapF h (keeps_stallS h)
  · refine keeps_withRec h (fun hu => ?_)
    refine keeps_orTrapF hu ?_
    extract_lets r els real
    exact .next (memOk_advS (memOk_foldl hu (fun _ _ ha => memOk_prefLine ha)))

end Sys2Proof.Machine
end

section
/-! PROOFS. The form of memory under the lane classes MEM, ATOM, COPY and ACC (R418 to R430). -/
namespace Sys2Proof.Machine

open Sys2Proof

theorem keeps_overLanes {α β : Type} {f : State → β → MR α} {addr : β → Nat} {s : State} {l : List (Nat × β)}
    (hf : ∀ {u b}, MemOk u → MR.Keeps (f u b)) (h : MemOk s) : LR.Keeps (overLanes f addr s l) := by
  induction l generalizing s with
  | nil => exact .ok h
  | cons x r ih =>
    unfold overLanes
    split
    · exact .stall
    · exact .fault
    · split
      · next e => exact .ok ((ih h).of_ok e)
      · exact ih h
    · next e =>
        have h1 := (hf h).of_ok e
        split
        · next e2 => exact .ok ((ih h1).of_ok e2)
        · exact ih h1

theorem keeps_lanesTrap {s : State} {fs : List LaneFail} (h : MemOk s) : Out.Keeps (lanesTrap s fs) := by
  unfold lanesTrap
  split
  · exact .next h
  · extract_lets m
    exact keeps_trapL h

theorem keeps_orLanes {α : Type} {s : State} {x : LR α} {k : List (Nat × α) → State → Out} (h : MemOk s) (hx : LR.Keeps x)
    (hk : ∀ {a u}, MemOk u → Out.Keeps (k a u)) : Out.Keeps (orLanes s x k) := by
  unfold orLanes
  split
  · exact keeps_stallL h
  · exact .fault
  · exact hk (hx.of_ok rfl)
  · exact keeps_lanesTrap h

theorem memOk_markLanes {s : State} {f : LaneFields} {ls : List (Nat × Loc)} (h : MemOk s) : MemOk (markLanes s f ls) :=
  memOk_acquireAt (memOk_foldl h (fun _ _ hu => memOk_scMark hu))

theorem keeps_withPoison {n : Nat} {x : LR Loc} (hx : LR.Keeps x) : LR.Keeps (withPoison n x) := by
  unfold withPoison
  split
  · extract_lets meets hit
    exact .ok (hx.of_ok rfl)
  · exact hx

theorem keeps_constLanes {s : State} {x : LR Loc} (hx : LR.Keeps x) : LR.Keeps (constLanes s x) := by
  unfold constLanes
  split
  · exact .ok (hx.of_ok rfl)
  · exact hx

theorem keeps_locateLanes {s : State} {f : LaneFields} {m : BitVec 64} {write read : Bool} (h : MemOk s) :
    LR.Keeps (locateLanes s f m write read) := by
  unfold locateLanes
  extract_lets n all
  have hall : LR.Keeps all := keeps_overLanes (fun hu => keeps_locate hu) h
  refine keeps_withPoison ?_
  split
  · exact keeps_constLanes hall
  · exact hall

theorem keeps_execLd {f : LaneFields} {s : State} (h : MemOk s) : Out.Keeps (execLd f s) := by
  unfold execLd
  extract_lets n k r
  refine keeps_laneRun h (fun h1 => ?_)
  split
  · exact .next (memOk_popFinL h1)
  · refine keeps_orLanes h1 (keeps_locateLanes h1) (fun h2 => ?_)
    split
    · exact keeps_stallL h
    · split
      · exact .next (memOk_popFinL (memOk_countAcc (memOk_deferAcc h2)))
      · refine keeps_orLanes h1 (keeps_overLanes (fun hu => keeps_loadAt hu) h2) (fun h3 => ?_)
        exact .next (memOk_popFinL (memOk_writeLanes (memOk_markLanes h3)))

theorem keeps_execSt {f : LaneFields} {s : State} (h : MemOk s) : Out.Keeps (execSt f s) := by
  unfold execSt
  extract_lets n k r
  refine keeps_laneRun h (fun h1 => ?_)
  split
  · exact .next (memOk_popFinL h1)
  · refine keeps_orLanes h1 (keeps_locateLanes h1) (fun h2 => ?_)
    split
    · exact keeps_stallL h
    · extract_lets v
      split
      · next e =>
          refine keeps_orLanes h1 (keeps_overLanes (fun hu => keeps_storeAt hu) (memOk_snd (memOk_freeOrder h2) e)) (fun h4 => ?_)
          split
          · exact .next (memOk_popFinL (memOk_countAcc (memOk_deferAcc h2)))
          · exact .next (memOk_popFinL (memOk_markLanes h4))

theorem keeps_sendLanes {n op : Nat} {result : Bool} {dst : Nat} {ord : BitVec 2} {scope : BitVec 3} {s : State}
    {l : List (Nat × AtomLane)} (h : MemOk s) : OptKeeps MemOk (sendLanes n op result dst ord scope s l) := by
  induction l generalizing s with
  | nil => exact .some h
  | cons x r ih =>
    unfold sendLanes
    split
    · exact .none
    · exact ih (memOk_sendRemote h)

theorem keeps_atomL {s : State} {i : Instr} {f : LaneFields} {code op : Nat} {result hasC : Bool} (h : MemOk s) :
    Out.Keeps (atomL s i f code op result hasC) := by
  unfold atomL
  extract_lets n k r
  refine keeps_laneRun h (fun h1 => ?_)
  split
  · exact .next (memOk_popFinL h1)
  · refine keeps_orLanes h1 (keeps_locateLanes h1) (fun h2 => ?_)
    split
    · exact keeps_stallL h
    · extract_lets y c all here away mine
      split
      · next e =>
          refine keeps_orLanes h1 (keeps_overLanes (fun hu => keeps_atomicAt hu) (memOk_snd (memOk_freeOrder h2) e)) (fun h4 => ?_)
          split
          · exact .next (memOk_popFinL (memOk_deferAcc h2))
          · split
            · exact keeps_stallL h
            · next e1 =>
                extract_lets s6
                have h5 := (keeps_sendLanes h4).of_some e1
                have h6 : MemOk s6 := memOk_ite (memOk_writeLanes h5) h5
                exact .next (memOk_popFinL (memOk_markLanes h6))

theorem keeps_execAtom {f : LaneFields} {s : State} (h : MemOk s) : Out.Keeps (execAtom f s) := keeps_atomL h

theorem keeps_execAtomc {f : LaneFields} {s : State} (h : MemOk s) : Out.Keeps (execAtomc f s) := keeps_atomL h

theorem keeps_execRed {f : LaneFields} {s : State} (h : MemOk s) : Out.Keeps (execRed f s) := keeps_atomL h

theorem keeps_slotCheck {n : Nat} {s : State} {o : Nat} (h : MemOk s) : MR.Keeps (slotCheck n s o) := by
  unfold slotCheck
  split
  · exact .trap
  · split
    · exact .trap
    · exact .ok h

theorem keeps_execOst {f : LaneFields} {s : State} (h : MemOk s) : Out.Keeps (execOst f s) := by
  unfold execOst
  extract_lets n k r
  refine keeps_laneRun h (fun h1 => ?_)
  split
  · exact .next (memOk_popFinL h1)
  · refine keeps_orLanes h1 (keeps_overLanes (fun h2 => keeps_slotCheck h2) h1) (fun h2 => ?_)
    split
    · exact keeps_stallL h
    · split
      · next e =>
          extract_lets data
          exact .next (memOk_popFinL (memOk_set (memOk_snd (memOk_freeOrder h2) e)))

theorem keeps_execOld {f : LaneFields} {s : State} (h : MemOk s) : Out.Keeps (execOld f s) := by
  unfold execOld
  extract_lets n k r
  refine keeps_laneRun h (fun h1 => ?_)
  split
  · exact .next (memOk_popFinL h1)
  · refine keeps_orLanes h1 (keeps_overLanes (fun h2 => keeps_slotCheck h2) h1) (fun h2 => ?_)
    split
    · exact keeps_stallL h
    · extract_lets d
      exact .next (memOk_popFinL (memOk_writeLanes h2))

theorem keeps_execPref {f : LaneFields} {s : State} (h : MemOk s) : Out.Keeps (execPref f s) := by
  unfold execPref
  extract_lets r bad
  refine keeps_laneRun h (fun h1 => ?_)
  extract_lets s2
  have h2 : MemOk s2 := memOk_foldl h1 (fun _ _ hu => memOk_prefLine hu)
  exact .next (memOk_popFinL h2)

theorem keeps_copyLanes {s : State} {src dst : State → Nat → MR Nat} {l : List (Nat × Nat × Nat)} (h : MemOk s) :
    LR.Keeps (copyLanes s src dst l) := by
  induction l with
  | nil => exact .ok h
  | cons x r ih =>
    unfold copyLanes
    split
    · next e =>
        have h1 := ih.of_ok e
        split
        · exact .ok h1
        · exact .ok h1
        · exact .ok h1
        · exact .ok h1
        · exact .ok h1
    · exact ih

theorem keeps_issueLaneCopy {s : State} {i : Instr} {f : LaneFields} {code : Nat} {b : Role} {extra : Option BadOp}
    {dstOf : Group → Nat → Nat} {dst : State → Nat → MR Nat} {kind : List LaneCopy → CopyKind} (h : MemOk s) :
    Out.Keeps (issueLaneCopy s i f code b extra dstOf dst kind) := by
  unfold issueLaneCopy
  extract_lets r
  refine keeps_laneRun h (fun h1 => ?_)
  split
  · exact .next (memOk_popFinL h1)
  · refine keeps_orLanes h1 (keeps_copyLanes h1) (fun h2 => ?_)
    split
    · exact keeps_stallL h
    · extract_lets c
      exact .next (memOk_popFinL (memOk_addCopy h2))

theorem keeps_execLcopy {f : LaneFields} {s : State} (h : MemOk s) : Out.Keeps (execLcopy f s) := by
  unfold execLcopy
  exact keeps_issueLaneCopy h

theorem keeps_execLcopyo {f : LaneFields} {s : State} (h : MemOk s) : Out.Keeps (execLcopyo f s) := by
  unfold execLcopyo
  exact keeps_issueLaneCopy h

theorem keeps_execAmovr {f : LaneFields} {s : State} (h : MemOk s) : Out.Keeps (execAmovr f s) := by
  unfold execAmovr
  extract_lets r
  refine keeps_laneRun h (fun h1 => ?_)
  split
  · exact keeps_stallL h
  · exact .next (memOk_popFinL (memOk_writeLanes h1))

theorem keeps_execAmovw {f : LaneFields} {s : State} (h : MemOk s) : Out.Keeps (execAmovw f s) := by
  unfold execAmovw
  extract_lets r
  refine keeps_laneRun h (fun h1 => ?_)
  split
  · exact keeps_stallL h
  · extract_lets v g
    exact .next (memOk_popFinL (memOk_set h1))

end Sys2Proof.Machine
end

section
/-! PROOFS. The form of memory under the steps of the memory system (R120, R181, R184, R186, R197, R331, R420). -/
namespace Sys2Proof.Machine

open Sys2Proof

theorem keeps_onGroup {s : State} {k : State → Out} (h : MemOk s) (hk : ∀ {u}, MemOk u → Out.Keeps (k u)) : Out.Keeps (onGroup s k) := by
  unfold onGroup
  extract_lets u
  have hu : MemOk u := memOk_focusOn h
  split
  · exact hk hu
  · exact .next h

theorem keeps_execHandlerEntry {s : State} (h : MemOk s) : Out.Keeps (execHandlerEntry s) := by
  unfold execHandlerEntry
  refine keeps_onGroup h (fun hu => ?_)
  split
  · split
    · exact .next (memOk_enterTrap hu)
    · exact .next hu
  · exact .next hu

theorem keeps_execPageWalk {s : State} (h : MemOk s) : Out.Keeps (execPageWalk s) := by
  unfold execPageWalk
  refine keeps_onGroup h (fun hu => ?_)
  extract_lets va st
  split
  · exact .next hu
  · split
    · next s1 _ e1 =>
        have h1 : MemOk s1 := by
          refine memOk_fst ?_ e1
          split
          · exact memOk_lineCheck hu
          · exact hu
        split
        · split
          · exact .next (memOk_takeTrap h1)
          · exact .next h1
        · split
          · next e2 => exact .next ((keeps_walkFill h1).of_ok e2)
          · exact .next hu
          · exact .next hu
          · exact .fault

theorem memOk_putAcc {s : State} {k : Nat} {a : Access} (h : MemOk s) : MemOk (putAcc s k a) := h

theorem memOk_endAcc {s : State} {k : Nat} {a : Access} (h : MemOk s) : MemOk (endAcc s k a) := by
  unfold endAcc
  extract_lets en src
  split
  · exact memOk_set h

theorem memOk_lateTrap {s : State} {t : TrapInfo} (h : MemOk s) : MemOk (lateTrap s t) := by
  unfold lateTrap
  split
  · exact memOk_ite h (memOk_takeTrap (memOk_set h))
  · exact memOk_takeTrap h

theorem memOk_backTo {s : State} {a : Access} (h : MemOk s) : MemOk (backTo s a) := by
  unfold backTo
  extract_lets g src src' src'' src'''
  split
  · exact memOk_set h
  · exact memOk_set h

theorem memOk_dropBehind {s : State} {st : Stream} {k : Nat} (h : MemOk s) : MemOk (dropBehind s st k) := memOk_set h

theorem memOk_landAcc {s : State} {a : Access} (h : MemOk s) : MemOk (landAcc s a) := by
  unfold landAcc
  extract_lets m
  split
  · exact memOk_set h
  · exact memOk_set h
  · exact memOk_writeLanes h
  · exact memOk_ite (memOk_writeLanes h) h
  · exact h

theorem memOk_noteLand {s : State} {old : Group} {st : Stream} {k : Nat} (h : MemOk s) : MemOk (noteLand s old st k) := memOk_set h

theorem keeps_settleAcc {s : State} {k : Nat} {a : Access} (h : MemOk s) : Out.Keeps (settleAcc s k a) := by
  unfold settleAcc
  split
  · exact .next (memOk_putAcc h)
  · split
    · exact .next (memOk_lateTrap (memOk_dropBehind (memOk_backTo (memOk_endAcc h))))
    · extract_lets u
      have hu : MemOk u := memOk_endAcc h
      exact .next (memOk_acquireAt (memOk_noteLand (memOk_landAcc hu)))

theorem keeps_performLane {a : Access} {x : LaneAcc} {s : State} (h : MemOk s) : MR.Keeps (performLane a x s) := by
  unfold performLane
  split
  · exact keeps_loadAt h
  · exact MR.keeps_bind (keeps_storeAt h) (fun _ _ hu => .ok hu)
  · exact keeps_atomicAt h

theorem keeps_performAccepted {a : Access} {x : LaneAcc} {s : State} (h : MemOk s) : MR.Keeps (performAccepted a x s) := by
  unfold performAccepted
  extract_lets key here bad src u src'
  have hu : MemOk u := memOk_set h
  exact MR.keeps_bind (keeps_performLane hu) (fun _ _ ht => .ok (memOk_set ht))

theorem keeps_answerLane {s : State} {k : Nat} {a : Access} {x : LaneAcc} {line : State × Nat} {perform : State → MR Nat}
    (hline : MemOk line.1) (hperform : ∀ {u}, MemOk u → MR.Keeps (perform u)) : Out.Keeps (answerLane s k a x line perform) := by
  unfold answerLane
  extract_lets isLoad mayFail rest failed loc
  have hfailed : ∀ {u a b}, MemOk u → Out.Keeps (failed u a b) := by
    intro _ _ _ hu
    unfold failed
    extract_lets addr t
    split
    · exact .next hu
    · split
      · split
        · next e1 => exact keeps_settleAcc (memOk_scMark ((keeps_performAccepted hu).of_ok e1))
        · exact .fault
        · exact .next hu
      · exact keeps_settleAcc hu
  have hloc : ∀ {u}, MemOk u → MemOk (loc u) := fun hw => memOk_scMark hw
  split
  · exact hfailed hline
  · split
    · exact keeps_settleAcc hline
    · split
      · exact hfailed hline
      · exact .next hline
      · exact .fault
      · next e => exact keeps_settleAcc (hloc ((hperform hline).of_ok e))

theorem memOk_laneLine {s : State} {x : LaneAcc} {n : Nat} (h : MemOk s) : MemOk (laneLine s x n).1 := by
  unfold laneLine
  extract_lets line
  have hline : ∀ {a}, MemOk (line a).1 := memOk_lineCheck h
  split
  · exact h
  · split
    · split
      · exact hline
      · exact hline
    · exact hline

theorem keeps_performStep {s : State} {sel : AccKind → Bool} (h : MemOk s) : Out.Keeps (performStep s sel) := by
  unfold performStep
  refine keeps_onGroup h (fun hu => ?_)
  split
  · exact .next hu
  · split
    · exact .next hu
    · split
      · exact keeps_answerLane (memOk_laneLine hu) (fun h1 => keeps_performLane h1)
      · exact .next hu

theorem keeps_execSecondTierTimeout {s : State} (h : MemOk s) : Out.Keeps (execSecondTierTimeout s) := by
  unfold execSecondTierTimeout
  refine keeps_onGroup h (fun hu => ?_)
  split
  · exact .next hu
  · split
    · exact .next hu
    · extract_lets key line
      have hline : MemOk line.1 := memOk_lineCheck hu
      split
      · exact .next hu
      · exact keeps_answerLane hline (fun h1 => keeps_performLane h1)

theorem memOk_takeShoots {s : State} {part n t : Nat} (h : MemOk s) : MemOk (takeShoots s part n t) := by
  induction n generalizing s t with
  | zero => exact h
  | succ n ih => exact ih (memOk_modPart h)

theorem keeps_execShootdownTailEvent {s : State} (h : MemOk s) : Out.Keeps (execShootdownTailEvent s) := by
  unfold execShootdownTailEvent
  split
  · exact .next h
  · extract_lets n
    exact .next (memOk_takeShoots h)

theorem keeps_execShootdownComplete {s : State} (h : MemOk s) : Out.Keeps (execShootdownComplete s) := by
  unfold execShootdownComplete
  split
  · exact .next h
  · split
    · exact .next h
    · split
      · exact .next h
      · extract_lets s1 head s2
        have h1 : MemOk s1 := memOk_ite (memOk_getD (keeps_supWrite h) h) h
        have h2 : MemOk s2 := memOk_modPart h1
        exact .next (memOk_ctlWrite h2)

theorem keeps_execScClockRaise {s : State} (h : MemOk s) : Out.Keeps (execScClockRaise s) := by
  unfold execScClockRaise
  refine .next (memOk_foldl h fun u n hu => ?_)
  extract_lets l m
  exact memOk_ite hu (memOk_modCore hu)

end Sys2Proof.Machine
end

section
/-! PROOFS. The form of memory under the links of the package (R16 to R21, R118, R157, R262). -/
namespace Sys2Proof.Machine

open Sys2Proof

theorem memOk_postMgmt {s : State} {type source : Nat} (h : MemOk s) : MemOk (postMgmt s type source) := memOk_set h

theorem memOk_raiseLink {s : State} {source : Nat} {f : Partition → Bool} (h : MemOk s) : MemOk (raiseLink s source f) :=
  memOk_foldl h (fun _ _ hu => memOk_severityUnit hu)

theorem keeps_execFabricFlitCrcRetry {s : State} (h : MemOk s) : Out.Keeps (execFabricFlitCrcRetry s) := by
  unfold execFabricFlitCrcRetry
  extract_lets k p q src
  split
  · exact .next h
  · exact .next (memOk_set h)

theorem keeps_execFabricPortDown {s : State} (h : MemOk s) : Out.Keeps (execFabricPortDown s) := by
  unfold execFabricPortDown
  extract_lets k p src s1
  have h1 : MemOk s1 := memOk_set h
  split
  · exact .next h
  · exact .next (memOk_raiseLink (memOk_postMgmt h1))

theorem keeps_execLinkDown {s : State} (h : MemOk s) : Out.Keeps (execLinkDown s) := by
  unfold execLinkDown
  extract_lets k src s1
  have h1 : MemOk s1 := memOk_set h
  split
  · exact .next h
  · exact .next (memOk_raiseLink h1)

theorem keeps_execFabricGrantTableSet {s : State} (h : MemOk s) : Out.Keeps (execFabricGrantTableSet s) := .next (memOk_modPart h)

theorem memOk_respondAt {s : State} {r : Resp} {stamp : Option (BitVec 48)} (h : MemOk s) : MemOk (respondAt s r stamp) := h

theorem memOk_respond {s : State} {r : Resp} (h : MemOk s) : MemOk (respond s r) := h

theorem memOk_refuse {s : State} {num node addr : Nat} (h : MemOk s) : MemOk (refuse s num node addr) := h

theorem memOk_scTarget {s : State} {key : Nat} {ts : Option (BitVec 48)} (h : MemOk s) : MemOk (scTarget s key ts).1 := by
  unfold scTarget
  split
  · exact h
  · extract_lets h' st src
    exact memOk_set h

theorem memOk_l2TouchAll {s : State} {part key n : Nat} (h : MemOk s) : MemOk (l2TouchAll s part key n) := by
  unfold l2TouchAll
  exact memOk_foldl h fun _ _ hu => memOk_l2Touch hu

theorem keeps_serveFabric {s : State} {r : FabricReq} {source : Nat} {ecc : Ecc} (h : MemOk s) :
    Served.Keeps (serveFabric s r source ecc) := by
  unfold serveFabric
  extract_lets key n w
  split
  · exact .done (memOk_refuse h)
  · split
    · exact .fault
    · split
      · split
        · next e2 =>
            have h2 := memOk_fst (memOk_lineCheck h) e2
            split
            · exact .done (memOk_refuse h2)
            · split
              · next e3 => exact .done (memOk_respondAt (memOk_fst (memOk_scTarget (memOk_l2TouchAll h2)) e3))
      · split
        · exact .wait
        · split
          · next e1 =>
              have h1 := memOk_fst (memOk_lineCheck h) e1
              extract_lets stored
              have hstored : MR.Keeps stored := by
                unfold stored
                split
                · exact keeps_publish h1
                · split
                  · exact .trap
                  · exact keeps_storeAt h1
              clear_value stored
              split
              · split
                · next e2 => exact .done (memOk_respondAt (memOk_fst (memOk_scTarget (hstored.of_ok rfl)) e2))
              · exact .done (memOk_refuse h1)
              · exact .wait
              · exact .fault

theorem keeps_serveAtomic {s : State} {r : RemoteAtomic} {source : Nat} {ecc : Ecc} (h : MemOk s) :
    Served.Keeps (serveAtomic s r source ecc) := by
  unfold serveAtomic
  extract_lets now live key w
  split
  · exact .done (memOk_refuse h)
  · split
    · exact .done (memOk_respondAt h)
    · split
      · exact .done (memOk_respond h)
      · split
        · exact .fault
        · split
          · exact .wait
          · split
            · next e2 =>
                have h2 := memOk_fst (memOk_lineCheck h) e2
                split
                · exact .done (memOk_refuse h2)
                · split
                  · next e3 =>
                      split
                      · next e4 =>
                          have h4 := memOk_fst (memOk_scTarget ((keeps_atomicAt h2).of_ok e3)) e4
                          extract_lets e' src
                          exact .done (memOk_respondAt (memOk_set h4))
                  · exact .done (memOk_refuse h2)
                  · exact .wait
                  · exact .fault

theorem keeps_serveMsg {s : State} {m : FabricMsg} {source : Nat} {ecc : Ecc} (h : MemOk s) : Served.Keeps (serveMsg s m source ecc) := by
  unfold serveMsg
  split
  · exact keeps_serveFabric h
  · exact keeps_serveAtomic h

theorem keeps_arrive {s : State} {m : FabricMsg} (h : MemOk s) : Out.Keeps (arrive s m) := by
  unfold arrive
  extract_lets src queue
  have hqueue : Out.Keeps queue := .next (memOk_set h)
  split
  · exact .next h
  · split
    · exact hqueue
    · split
      · next e => exact .next ((keeps_serveMsg h).of_done e)
      · exact hqueue
      · exact .fault

theorem keeps_execFabricRequestArrival {s : State} (h : MemOk s) : Out.Keeps (execFabricRequestArrival s) := by
  unfold execFabricRequestArrival
  split
  · split
    · exact .next h
    · split
      · exact .next h
      · split
        · exact .next (memOk_set h)
        · split
          · exact .next h
          · split
            · next e3 => exact .next (memOk_set ((keeps_serveMsg h).of_done e3))
            · exact .next h
            · exact .fault
  · exact keeps_arrive h

theorem keeps_execFabricRequestDiscard {s : State} (h : MemOk s) : Out.Keeps (execFabricRequestDiscard s) := by
  unfold execFabricRequestDiscard
  extract_lets old src
  split
  · split
    · exact .next h
    · split
      · exact .next (memOk_set h)
      · exact .next h
  · split
    · exact .next h
    · split
      · exact .next (memOk_set h)
      · exact .next h

theorem memOk_remoteEffect {s : State} {r : RemoteReq} {v : Word} (h : MemOk s) : MemOk (remoteEffect s r v) := by
  unfold remoteEffect
  extract_lets key old m
  have hm : m.wf = true := wf_mwrite _ _ _ _ h
  split
  · exact hm
  · exact memOk_l1Store (wf_mwrite _ _ _ _ hm)

theorem memOk_remoteReturn {s : State} {r : RemoteReq} {stamp : Word} (h : MemOk s) : MemOk (remoteReturn s r stamp) := by
  unfold remoteReturn
  extract_lets s1 s2
  have h1 : MemOk s1 := memOk_l1Miss h
  have h2 : MemOk s2 := memOk_ite (memOk_l1Inval h1) h1
  exact memOk_ite h2 (memOk_modCore h2)

theorem keeps_execRemoteAtomicResponse {s : State} (h : MemOk s) : Out.Keeps (execRemoteAtomicResponse s) := by
  unfold execRemoteAtomicResponse
  split
  · exact .next h
  · split
    · exact .next h
    · split
      · exact .next (memOk_ite h (memOk_putRequest h))
      · extract_lets src s1 s2
        have h1 : MemOk s1 := memOk_set h
        have h2 : MemOk s2 := by
          unfold s2
          split
          · exact h1
          · exact memOk_remoteEffect h1
        exact .next (memOk_modGroup (memOk_remoteReturn h2))

theorem keeps_execRemoteIndeterminate {s : State} (h : MemOk s) : Out.Keeps (execRemoteIndeterminate s) := by
  unfold execRemoteIndeterminate
  refine keeps_onGroup h (fun hu => ?_)
  split
  · exact .next hu
  · split
    · exact .next hu
    · extract_lets lost r1 src u1
      have hu1 : MemOk u1 := memOk_set hu
      exact .next (memOk_takeIndet (memOk_ite (memOk_remoteEffect hu1) hu1))

theorem memOk_takePair {s : State} {reliable : Bool} (h : MemOk s) : MemOk (takePair s reliable) := by
  unfold takePair
  split
  · exact h
  · exact memOk_set h

theorem keeps_rdmaLoc {s : State} {w : Who} {va n : Nat} {write read : Bool} (h : MemOk s) : MR.Keeps (rdmaLoc s w va n write read) :=
  keeps_locate h

theorem memOk_rdmaReply {s : State} {bs : List Byte} (h : MemOk s) : MemOk (rdmaReply s bs) := h

theorem memOk_rdmaNext {s : State} {next : Option (Nat × Nat)} (h : MemOk s) : MemOk (rdmaNext s next) := h

theorem memOk_rdmaLine {s : State} {w : Who} {va : Nat} (h : MemOk s) : MemOk (rdmaLine s w va).1 := by
  unfold rdmaLine
  split
  · next e =>
      split
      · next e2 => exact memOk_fst (memOk_lineCheck ((keeps_rdmaLoc h).of_ok e)) e2
  · exact h

theorem keeps_execRdmaWrite {s : State} (h : MemOk s) : Out.Keeps (execRdmaWrite s) := by
  unfold execRdmaWrite
  extract_lets source w n turn s0 failed
  have h0 : MemOk s0 := memOk_takePair h
  have hfailed : Out.Keeps failed := .next (memOk_rdmaNext h0)
  split
  · exact .next h
  · split
    · next e =>
        have h1 := memOk_fst (memOk_rdmaLine h0) e
        split
        · exact .next (memOk_rdmaNext h1)
        · split
          · exact hfailed
          · exact .next h
          · exact .fault
          · next e1 =>
              split
              · next e2 =>
                  have h2 := (keeps_publish ((keeps_engLocs h1).of_ok e1)).of_ok e2
                  exact .next (memOk_ite (memOk_rdmaReply (memOk_rdmaNext h2)) (memOk_rdmaNext h2))
              · exact hfailed
              · exact .next h
              · exact .fault

theorem keeps_execRdmaRead {s : State} (h : MemOk s) : Out.Keeps (execRdmaRead s) := by
  unfold execRdmaRead
  extract_lets w
  split
  · exact .next h
  · split
    · next e =>
        have h1 := memOk_fst (memOk_rdmaLine (memOk_takePair h)) e
        split
        · exact .next h1
        · split
          · next e1 => exact .next (memOk_rdmaReply ((keeps_engRead h1).of_ok e1))
          · exact .next h1
          · exact .next h
          · exact .fault

theorem keeps_execRdmaAtomic {s : State} (h : MemOk s) : Out.Keeps (execRdmaAtomic s) := by
  unfold execRdmaAtomic
  extract_lets w
  split
  · exact .next h
  · split
    · next e =>
        have h1 := memOk_fst (memOk_rdmaLine (memOk_takePair h)) e
        split
        · exact .next h1
        · split
          · next e1 => exact .next (memOk_rdmaReply ((MR.keeps_bind (keeps_rdmaLoc h1) (fun _ _ hu => keeps_atomicAt hu)).of_ok e1))
          · exact .next h1
          · exact .next h
          · exact .fault

theorem keeps_execRdmaSend {s : State} (h : MemOk s) : Out.Keeps (execRdmaSend s) := by
  unfold execRdmaSend
  split
  · exact .next h
  · extract_lets s0 src
    have h0 : MemOk s0 := memOk_takePair h
    exact .next (memOk_set h0)

end Sys2Proof.Machine
end

section
/-! PROOFS. The form of memory under device reset, the clock, the sensors and the errors of cores (R22, R25, R26, R43, R44, R57, R262,
R269). -/
namespace Sys2Proof.Machine

open Sys2Proof

theorem keeps_execDeviceReset {s : State} (h : MemOk s) : Out.Keeps (execDeviceReset s) := .next (wf_outsideMem _ h)

theorem keeps_execGtcFirmwareSet {s : State} (h : MemOk s) : Out.Keeps (execGtcFirmwareSet s) := by
  unfold execGtcFirmwareSet
  split
  · exact .next h
  · exact .next (memOk_set h)

theorem keeps_execGtcSlewCorrection {s : State} (h : MemOk s) : Out.Keeps (execGtcSlewCorrection s) := by
  unfold execGtcSlewCorrection
  split
  · exact .next h
  · exact .next (memOk_set h)

theorem keeps_execMonitorRefresh {s : State} (h : MemOk s) : Out.Keeps (execMonitorRefresh s) := by
  unfold execMonitorRefresh
  extract_lets now
  split
  · exact .next h
  · exact .next (memOk_modCore h)

theorem keeps_execThermalTrip {s : State} (h : MemOk s) : Out.Keeps (execThermalTrip s) := by
  unfold execThermalTrip
  extract_lets c e s1 s2 src
  have h1 : MemOk s1 := memOk_foldl h (fun _ _ hu => memOk_postEvent hu)
  have h2 : MemOk s2 := memOk_postMgmt h1
  exact .next (memOk_set h2)

theorem keeps_execPowerThrottle {s : State} (h : MemOk s) : Out.Keeps (execPowerThrottle s) := .next (memOk_set h)

theorem keeps_execCeCore {s : State} (h : MemOk s) : Out.Keeps (execCeCore s) := by
  unfold execCeCore
  extract_lets now core k victims s1
  have h1 : MemOk s1 := by
    unfold s1
    split
    · exact h
    · exact memOk_severityUnit h
  exact .next (memOk_modCore h1)

theorem keeps_execUeCore {s : State} (h : MemOk s) : Out.Keeps (execUeCore s) := by
  unfold execUeCore
  extract_lets core victims
  split
  · exact .next (memOk_modCore h)
  · exact .next (memOk_raiseUE h)

end Sys2Proof.Machine
end

section
/-! PROOFS. The form of memory under the read of a kernel descriptor (R54, R55, R299 to R302, R371). -/
namespace Sys2Proof.Machine

open Sys2Proof

theorem keeps_getWords {s : State} {w : Who} {t : Team} {n a : Nat} (h : MemOk s) : Got.Keeps (getWords s w t n a) := by
  induction n generalizing s a with
  | zero => exact .ok h
  | succ n ih =>
    unfold getWords
    split
    · split
      · exact .absent
      · exact .bad h
    · exact .stall
    · exact .fault
    · next e =>
        split
        · next s2 line e2 =>
            have h2 : MemOk s2 := memOk_fst (memOk_dataLine ((keeps_locate h).of_ok e)) e2
            split
            · exact .bad h2
            · split
              · exact .bad h2
              · exact .stall
              · exact .fault
              · next e3 =>
                  have h3 := (keeps_loadAt h2).of_ok e3
                  split
                  · next e4 => exact .ok ((ih h3).of_ok e4)
                  · exact ih h3

theorem keeps_getKernel {s : State} {w : Who} {t : Team} {va : Nat} (h : MemOk s) : GotKernel.Keeps (getKernel s w t va) := by
  unfold getKernel
  split
  · exact .bad h
  · split
    · exact .bad h
    · next e => exact .bad ((keeps_getWords h).of_bad e)
    · exact .stall
    · exact .fault
    · next e =>
        have h1 := (keeps_getWords h).of_ok e
        split
        · exact .bad h1
        · exact .ok h1

end Sys2Proof.Machine
end

section
/-! PROOFS. The form of memory under the three parts of a join: its frames, the merge, the publish (R144, R147 to R149, R153 to R156). -/
namespace Sys2Proof.Machine

open Sys2Proof

theorem keeps_joinReserve_keep {w : Who} {r : Revision} {g : Gran} {f : Nat} {l : Loc} {x : JoinPrep} (hx : JoinPrep.Keeps x) :
    JoinPrep.Keeps (joinReserve.keep w r g f l x) := by
  unfold joinReserve.keep
  split
  · exact .ok (memOk_modRev (hx.of_ok rfl))
  · exact hx

theorem keeps_joinReserve {s : State} {w : Who} {r : Revision} {l : List (Gran × Loc)} (h : MemOk s) :
    JoinPrep.Keeps (joinReserve s w r l) := by
  induction l generalizing s with
  | nil => exact .ok h
  | cons x rest ih =>
    unfold joinReserve
    split
    · exact .stall
    · exact .trap
    · next e =>
        split
        · exact .trap
        · next e2 =>
            have hp := (keeps_prepWrite h).of_ok e
            exact keeps_joinReserve_keep (ih (memOk_clearPoison ((keeps_drawFrame hp).of_some e2)))

/-- What a join's translation answers keeps the form. -/
inductive JoinTranslated : JoinPrep ⊕ (List (Gran × Loc) × State) → Prop
  | inl {x : JoinPrep} (h : JoinPrep.Keeps x) : JoinTranslated (.inl x)
  | inr {l : List (Gran × Loc)} {s : State} (h : MemOk s) : JoinTranslated (.inr (l, s))

theorem joinTranslated_joinTranslate {s : State} {w : Who} {l : List Gran} {acc : List (Gran × Loc)} (h : MemOk s) :
    JoinTranslated (joinTranslate s w l acc) := by
  induction l generalizing s acc with
  | nil => exact .inr h
  | cons g r ih =>
    unfold joinTranslate
    split
    · next e => exact ih ((keeps_granted (keeps_translate h)).of_ok e)
    · exact .inl .trap
    · exact .inl .stall
    · exact .inl .fault

theorem keeps_joinStart {s : State} {w : Who} {r : Revision} {by' : Option GroupId} (h : MemOk s) :
    JoinPrep.Keeps (joinStart s w r by') := by
  unfold joinStart
  have ht : JoinTranslated (joinTranslate s w (childDirty r) []) := joinTranslated_joinTranslate h
  generalize joinTranslate s w (childDirty r) [] = x at ht ⊢
  cases ht with
  | inl hx => exact hx
  | inr h1 =>
    dsimp only
    split
    · next e => exact .ok (memOk_modRev ((keeps_joinReserve h1).of_ok e))
    · exact keeps_joinReserve h1

theorem memOk_addPoison {s : State} {ls : List Nat} (h : MemOk s) : MemOk (addPoison s ls) := h

theorem memOk_joinMerge {s : State} {part : Nat} {r : Revision} (h : MemOk s) : MemOk (joinMerge s part r) := by
  unfold joinMerge
  split
  · exact h
  · refine memOk_foldl h fun u g hu => ?_
    split
    · exact memOk_addPoison (memOk_partPuts hu)
    · exact hu

theorem memOk_markJoin {s : State} {w : Who} {r : Revision} {va key : Nat} {bits : BitVec 32} (h : MemOk s) :
    MemOk (markJoin s w r va key bits) := by
  unfold markJoin
  split
  · exact h
  · extract_lets side s1
    have h1 : MemOk s1 := memOk_markParent h
    exact memOk_ite h1 (memOk_modRev h1)

theorem memOk_publishGran {s : State} {m0 : Memory} {w : Who} {source dst : Nat} {l : Loc} {bad : Nat → Bool} {bs : List Byte}
    (h : MemOk s) : MemOk (publishGran s m0 w source dst l bad bs) := by
  unfold publishGran
  extract_lets units s1 lines poison src s2
  have h1 : MemOk s1 := memOk_foldl h (fun _ _ hu => memOk_stampWrite hu)
  have h2 : MemOk s2 := memOk_markDirtyRange (wf_mputs _ _ _ h1)
  exact memOk_ite (memOk_foldl h2 (fun _ _ hu => memOk_watchWrite hu)) h2

theorem memOk_lateAnc {s : State} {w : Who} {r : Revision} {g : Gran} {l : Loc} {dst : Nat} (h : MemOk s) :
    MemOk (lateAnc s w r g l dst) := by
  unfold lateAnc
  split
  · exact h
  · extract_lets sibs
    split
    · exact h
    · split
      · exact memOk_shareAnc h
      · extract_lets s1
        have h1 : MemOk s1 := memOk_modRev (memOk_copyGran h)
        exact memOk_shareAnc h1
      · exact h

theorem memOk_joinPublish {s : State} {w : Who} {r : Revision} (h : MemOk s) : MemOk (joinPublish s w r) := by
  unfold joinPublish
  split
  · exact h
  · extract_lets source code s1
    have h1 : MemOk s1 := by
      unfold s1
      refine memOk_foldl h fun u g hu => ?_
      split
      · exact hu
      · extract_lets dst dst' bad
        exact memOk_publishGran (memOk_markJoin (memOk_lateAnc hu))
    exact memOk_closeRev h1

theorem memOk_joinDiscard {s : State} {part : Nat} {r : Revision} (h : MemOk s) : MemOk (joinDiscard s part r) := by
  unfold joinDiscard
  split
  · exact h
  · exact memOk_closeRev h

end Sys2Proof.Machine
end

section
/-! PROOFS. The form of memory under REV, EXIT and the steps of a join (R142 to R159, R312, R372 to R376). -/
namespace Sys2Proof.Machine

open Sys2Proof

theorem memOk_makeFork {s : State} {k : Kernel} {b : List Byte} (h : MemOk s) : MemOk (makeFork s k b).1 := by
  unfold makeFork
  split
  · exact h
  · extract_lets num lo hi empty rev s1 src t
    have h1 : MemOk s1 := memOk_modPart h
    exact memOk_ite h1 (memOk_enqueueTask h1)

theorem keeps_execFork {sd sa : BitVec 6} {s : State} (h : MemOk s) : Out.Keeps (execFork sd sa s) := by
  unfold execFork
  extract_lets v a
  refine keeps_userOnly h ?_
  split
  · exact keeps_badReg h
  · split
    · exact keeps_stallS h
    · split
      · exact keeps_trapS h
      · next e => exact keeps_badReg ((keeps_getWords h).of_bad e)
      · exact keeps_stallS h
      · exact .fault
      · next e =>
          have h1 := (keeps_getWords h).of_ok e
          split
          · exact keeps_stallS h
          · exact .fault
          · next e1 => exact keeps_trapS ((keeps_getKernel h1).of_bad e1)
          · next e1 =>
              split
              · exact keeps_trapS h
              · split
                · exact keeps_badState h
                · split
                  · exact keeps_trapS h
                  · split
                    · next e4 => exact .next (memOk_finS (memOk_fst (memOk_makeFork ((keeps_getKernel h1).of_ok e1)) e4))

theorem memOk_setJoin {s : State} {t : Option (Word × Nat)} (h : MemOk s) : MemOk (setJoin s t) := h

theorem keeps_waitJoin {s : State} {r : Revision} (h : MemOk s) : Out.Keeps (waitJoin s r) := by
  unfold waitJoin
  split
  · exact keeps_stallS h
  · exact .next (memOk_setJoin h)

theorem keeps_joinEnded {s : State} {r : Revision} {done : State → Out} (h : MemOk s) (hdone : ∀ {u}, MemOk u → Out.Keeps (done u)) :
    Out.Keeps (joinEnded s r done) := by
  unfold joinEnded
  split
  · exact hdone (memOk_joinDiscard h)
  · split
    · exact keeps_trapS h
    · exact keeps_waitJoin h
    · exact .fault
    · next e =>
        have h1 := (keeps_joinStart h).of_ok e
        split
        · exact .next h1
        · split
          · exact .next h1
          · exact hdone (memOk_joinPublish (memOk_joinMerge h1))

theorem keeps_joinReturn {s : State} {sd : BitVec 6} {r : Revision} (h : MemOk s) : Out.Keeps (joinReturn s sd r) := by
  unfold joinReturn
  extract_lets again
  split
  · exact .next (memOk_finS (memOk_modRev (memOk_l1Inval h)))
  · exact .next (memOk_finS (memOk_l1Inval h))

theorem keeps_joinBy {s : State} {sd sa : BitVec 6} {wait : Bool} (h : MemOk s) : Out.Keeps (joinBy s sd sa wait) := by
  unfold joinBy
  extract_lets v
  refine keeps_userOnly h ?_
  split
  · exact keeps_badReg h
  · split
    · exact keeps_badReg h
    · split
      · split
        · exact keeps_waitJoin h
        · exact .next (memOk_finS h)
      · split
        · exact keeps_waitJoin h
        · split
          · exact keeps_joinReturn (memOk_setJoin h)
          · split
            · exact keeps_waitJoin h
            · refine keeps_joinEnded h (fun h1 => ?_)
              extract_lets s2
              have h2 : MemOk s2 := memOk_setJoin h1
              split
              · exact .next h2
              · exact .next (memOk_finS (memOk_modRev (memOk_l1Inval h2)))

theorem keeps_execJoin {sd sa : BitVec 6} {s : State} (h : MemOk s) : Out.Keeps (execJoin sd sa s) := keeps_joinBy h

theorem memOk_reserveFrames {s : State} {n : Nat} (h : MemOk s) : MemOk (reserveFrames s n).1 := by
  induction n generalizing s with
  | zero => exact h
  | succ n ih =>
    unfold reserveFrames
    extract_lets part top
    split
    · exact h
    · split
      · exact h
      · exact ih (memOk_set (memOk_ctlWrite h))

theorem keeps_execRvdecl {sd sa : BitVec 6} {s : State} (h : MemOk s) : Out.Keeps (execRvdecl sd sa s) := by
  unfold execRvdecl
  extract_lets n
  refine keeps_userOnly h ?_
  split
  · exact keeps_badReg h
  · split
    · next e1 => exact .next (memOk_finS (memOk_fst (memOk_reserveFrames h) e1))

theorem keeps_execRvdrop {sd sa : BitVec 6} {s : State} (h : MemOk s) : Out.Keeps (execRvdrop sd sa s) := by
  unfold execRvdrop
  extract_lets n keep src s1
  have h1 : MemOk s1 := memOk_poolPush (memOk_set h)
  refine keeps_userOnly h ?_
  split
  · exact keeps_badReg h
  · exact .next (memOk_finS h1)

theorem keeps_execRvid {sd sa : BitVec 6} {s : State} (h : MemOk s) : Out.Keeps (execRvid sd sa s) := .next (memOk_finS h)

theorem keeps_execRvstat {sd sa : BitVec 6} {s : State} (h : MemOk s) : Out.Keeps (execRvstat sd sa s) := by
  unfold execRvstat
  extract_lets v resv w
  split
  · exact keeps_badReg h
  · exact .next (memOk_finS h)

theorem keeps_execExit {s : State} (h : MemOk s) : Out.Keeps (execExit s) := by
  unfold execExit
  refine keeps_userOnly h ?_
  extract_lets src src' g leave
  have hleave : Out.Keeps leave := .next (memOk_teamBars (memOk_set h))
  split
  · exact hleave
  · split
    · exact hleave
    · split
      · exact keeps_joinEnded h (fun h1 => .next h1)
      · exact keeps_stallS h

theorem memOk_mergeLine {s : State} {part : Nat} {r : Revision} (h : MemOk s) : MemOk (mergeLine s part r) := by
  unfold mergeLine
  split
  · extract_lets o src
    clear_value src
    split
    · exact h
    · split
      · next e3 =>
          have h3 := memOk_fst (memOk_unitLine h) e3
          exact memOk_ite h3 (memOk_addPoison h3)
  · exact h

theorem keeps_haltedJoin {s : State} {part : Nat} {r : Revision} {g : Group} (h : MemOk s) : Out.Keeps (haltedJoin s part r g) := by
  unfold haltedJoin
  extract_lets u
  have hu : MemOk u := memOk_focusOn h
  split
  · exact .next h
  · split
    · exact .next (memOk_joinDiscard (memOk_modRev hu))
    · split
      · next e => exact .next ((keeps_joinStart hu).of_ok e)
      · exact .next (memOk_setJoin hu)
      · exact .next h
      · exact .fault

theorem keeps_execJoinMerge {s : State} (h : MemOk s) : Out.Keeps (execJoinMerge s) := by
  unfold execJoinMerge
  split
  · exact .next h
  · split
    · exact .next (memOk_joinMerge (memOk_mergeLine h))
    · split
      · split
        · exact keeps_haltedJoin h
        · exact .next h
      · exact .next h

theorem keeps_execJoinPublish {s : State} (h : MemOk s) : Out.Keeps (execJoinPublish s) := by
  unfold execJoinPublish
  split
  · exact .next h
  · split
    · exact .next (memOk_joinPublish (memOk_joinMerge h))
    · exact .next h

theorem memOk_dropUnmapped {s : State} {w : Who} {r : Revision} (h : MemOk s) : MemOk (dropUnmapped s w r) := by
  unfold dropUnmapped
  refine memOk_foldl h fun u g hu => ?_
  extract_lets u1 lost
  have hu1 : MemOk u1 := memOk_modRev hu
  have hlost : MemOk lost := memOk_poolPush (memOk_poolUse hu1)
  split
  · exact hlost
  · split
    · exact memOk_ite hlost hu
    · exact hu
  · exact hu

theorem keeps_execImplicitJoin {s : State} (h : MemOk s) : Out.Keeps (execImplicitJoin s) := by
  unfold execImplicitJoin
  extract_lets part
  split
  · exact .next h
  · split
    · exact .next h
    · split
      · exact .next (memOk_finishTask h)
      · split
        · exact .next h
        · split
          · exact .next (memOk_joinDiscard h)
          · extract_lets w s1
            have h1 : MemOk s1 := memOk_dropUnmapped h
            split
            · exact .next h
            · split
              · exact .fault
              · exact .next h
              · split
                · exact .next h
                · extract_lets src e'
                  exact .next (memOk_modRev (memOk_postEvent h))
              · next e3 =>
                  have h3 := (keeps_joinStart h1).of_ok e3
                  split
                  · exact .next h3
                  · exact .next (memOk_joinPublish (memOk_joinMerge h3))

end Sys2Proof.Machine
end

section
/-! PROOFS. The form of memory under WAT (R160 to R172, R377, R378). -/
namespace Sys2Proof.Machine

open Sys2Proof

theorem memOk_setWatched {s : State} {part ctx : Nat} {on : Bool} {l : Leaf} (h : MemOk s) : MemOk (setWatched s part ctx on l) :=
  memOk_modPart (wf_foldl_mwrite (at' := id) h)

theorem keeps_readPages {w : Who} {s : State} {l : List (Nat × Option Leaf)} (h : MemOk s) : MR.Keeps (readPages w s l) := by
  induction l generalizing s with
  | nil => exact .ok h
  | cons x r ih =>
    unfold readPages
    split
    · next e => exact ih ((keeps_translate h).of_ok e)
    · exact .ok h
    · exact .stall
    · exact .fault

theorem keeps_armWatch {s : State} {sd : BitVec 6} {b : List Byte} {k : Kernel} {va log2 : Nat} (h : MemOk s) :
    Out.Keeps (armWatch s sd b k va log2) := by
  unfold armWatch
  extract_lets part pages
  refine keeps_orTrapS h (keeps_readPages h) (fun h1 => ?_)
  split
  · exact keeps_trapS h
  · exact .next (memOk_finS h1)
  · split
    · exact keeps_stallS h
    · extract_lets s2 s3
      have h2 : MemOk s2 := memOk_foldl h1 (fun _ _ hu => memOk_setWatched hu)
      have h3 : MemOk s3 := memOk_modPart h2
      exact .next (memOk_finS h3)

theorem keeps_execWatch {sd sa : BitVec 6} {s : State} (h : MemOk s) : Out.Keeps (execWatch sd sa s) := by
  unfold execWatch
  extract_lets v a
  split
  · exact keeps_badReg h
  · split
    · exact keeps_stallS h
    · split
      · exact keeps_trapS h
      · next e => exact keeps_badReg ((keeps_getWords h).of_bad e)
      · exact keeps_stallS h
      · exact .fault
      · next e =>
          have h1 := (keeps_getWords h).of_ok e
          split
          · exact keeps_trapS h
          · split
            · exact keeps_stallS h
            · exact .fault
            · next e2 => exact keeps_trapS ((keeps_getKernel h1).of_bad e2)
            · next e2 =>
                extract_lets va log2 fabric
                split
                · exact keeps_trapS h
                · exact keeps_armWatch ((keeps_getKernel h1).of_ok e2)

theorem keeps_entryArg {s : State} {sa : BitVec 6} {free : Bool} {k : Nat → Option WatchEntry → Out} (h : MemOk s)
    (hk : ∀ {a b}, Out.Keeps (k a b)) : Out.Keeps (entryArg s sa free k) := by
  unfold entryArg
  extract_lets v
  split
  · exact keeps_badReg h
  · split
    · split
      · exact hk
      · exact keeps_badState h
    · split
      · exact keeps_badState h
      · exact hk

theorem keeps_execUnwatch {sa : BitVec 6} {s : State} (h : MemOk s) : Out.Keeps (execUnwatch sa s) := by
  unfold execUnwatch
  refine keeps_entryArg h ?_
  intro _ _
  split
  · exact keeps_stallS h
  · extract_lets part hi leaves covered pages s1 shut s2
    have h1 : MemOk s1 := memOk_foldl h (fun _ _ hu => memOk_setWatched hu)
    have h2 : MemOk s2 := memOk_modTasks h1
    split
    · exact keeps_stallS h
    · exact .next (memOk_advS (memOk_modPart h2))

theorem keeps_execWarm {sa : BitVec 6} {s : State} (h : MemOk s) : Out.Keeps (execWarm sa s) := by
  unfold execWarm
  refine keeps_entryArg h ?_
  intro _ _
  split
  · exact keeps_stallS h
  · extract_lets part s1
    have h1 : MemOk s1 := memOk_modWatch h
    split
    · exact .next (memOk_advS (memOk_modWatch h))
    · exact .next (memOk_advS (memOk_foldl h1 (fun _ _ hu => memOk_retrigger hu)))

theorem keeps_execTrigrec {sd k : BitVec 6} {s : State} (h : MemOk s) : Out.Keeps (execTrigrec sd k s) := by
  unfold execTrigrec
  split
  · exact keeps_badField h
  · split
    · exact .next (memOk_finS h)
    · exact .next (memOk_finS (memOk_set h))

theorem keeps_execTrigack {s : State} (h : MemOk s) : Out.Keeps (execTrigack s) := .next (memOk_advS (memOk_closeTrig h))

theorem keeps_execWstat {sd sa : BitVec 6} {s : State} (h : MemOk s) : Out.Keeps (execWstat sd sa s) := by
  unfold execWstat
  refine keeps_entryArg h ?_
  intro _ _
  split
  · exact .next (memOk_finS h)
  · extract_lets opens
    exact .next (memOk_finS h)

end Sys2Proof.Machine
end

section
/-! PROOFS. The form of memory under the movement timetable and the Tier Engine (R121 to R141, R379 to R381). -/
namespace Sys2Proof.Machine

open Sys2Proof

theorem keeps_readTT {s : State} {w : Who} {t : Team} {va : Nat} (h : MemOk s) : GotTT.Keeps (readTT s w t va) := by
  unfold readTT
  extract_lets fieldOf
  have hfieldOf : ∀ {a b}, GotTT.Keeps (fieldOf a b) := .field
  split
  · exact .bad h
  · split
    · exact .absent
    · next e => exact .bad ((keeps_getWords h).of_bad e)
    · exact .stall
    · exact .fault
    · next e =>
        have h1 := (keeps_getWords h).of_ok e
        split
        · exact hfieldOf
        · extract_lets n
          split
          · exact .absent
          · next e2 => exact .bad ((keeps_getWords h1).of_bad e2)
          · exact .stall
          · exact .fault
          · next e2 =>
              split
              · exact hfieldOf
              · exact .ok ((keeps_getWords h1).of_ok e2)

theorem memOk_countTT {s : State} {part task : Nat} {team : Option Nat} {skip short : Nat} (h : MemOk s) :
    MemOk (countTT s part task team skip short) := h

theorem memOk_expireHolds {s : State} {part task : Nat} (h : MemOk s) : MemOk (expireHolds s part task) := memOk_endHolds h

theorem memOk_releaseDrop {s : State} {part ctx : Nat} {i : Instance} {len : Nat} {waits : Option Nat} (h : MemOk s) :
    MemOk (releaseDrop s part ctx i len waits) := memOk_modPart h

theorem memOk_releaseInst {s : State} {part ctx : Nat} {e : TTEntry} {i : Instance} {waits : Option Nat} (h : MemOk s) :
    MemOk (releaseInst s part ctx e i waits) := memOk_ite (memOk_releaseDrop h) (memOk_modPart h)

theorem memOk_releaseTeam {s : State} {part task idx lo hi : Nat} (h : MemOk s) : MemOk (releaseTeam s part task idx lo hi) := by
  unfold releaseTeam
  split
  · split
    · exact h
    · exact memOk_foldl h (fun _ _ hu => memOk_releaseInst hu)
  · exact h

theorem memOk_releaseLaunch {s : State} {part task lo hi die : Nat} {by' : Option Nat} (h : MemOk s) :
    MemOk (releaseLaunch s part task lo hi die by') := by
  unfold releaseLaunch
  split
  · exact h
  · split
    · exact h
    · exact memOk_foldl h (fun _ _ hu => memOk_releaseInst hu)

theorem memOk_launchMoved {s : State} {part task : Nat} {old : Option Nat} {die : Nat} {by' : Option Nat} (h : MemOk s) :
    MemOk (launchMoved s part task old die by') := by
  unfold launchMoved
  extract_lets s1
  have h1 : MemOk s1 := by
    unfold s1
    split
    · exact memOk_ite (memOk_releaseLaunch h) h
    · exact h
  exact memOk_expireHolds h1

theorem memOk_startTeamTT {s : State} {part task idx : Nat} (h : MemOk s) : MemOk (startTeamTT s part task idx) := by
  unfold startTeamTT
  split
  · exact h
  · split
    · exact h
    · extract_lets words lost s1
      have h1 : MemOk s1 := memOk_modTeam h
      exact memOk_releaseTeam h1

theorem memOk_bindTT {s : State} {part task va policy : Nat} {es : List TTEntry} (h : MemOk s) :
    MemOk (bindTT s part task va policy es) := by
  unfold bindTT
  split
  · exact h
  · extract_lets launch words lost s1 ts s2 s3
    have h1 : MemOk s1 := memOk_modTask h
    have h2 : MemOk s2 := memOk_modTeams h1
    have h3 : MemOk s3 := memOk_foldl h2 (fun _ _ hu => memOk_releaseTeam hu)
    exact memOk_releaseLaunch h3

theorem memOk_setMarker {s : State} {v : Nat} (h : MemOk s) : MemOk (setMarker s v) := by
  unfold setMarker
  extract_lets part task old m src s1
  have h1 : MemOk s1 := memOk_set h
  exact memOk_launchMoved (memOk_releaseTeam h1)

theorem memOk_countMiss {s : State} (h : MemOk s) : MemOk (countMiss s) := h

theorem memOk_countSkip {s : State} {n : Nat} (h : MemOk s) : MemOk (countSkip s n) := h

theorem memOk_markSet {s : State} {b : Bool} (h : MemOk s) : MemOk (markSet s b) := h

theorem keeps_markCheck {s : State} {v : Nat} (h : MemOk s) : Out.Keeps (markCheck s v) := by
  unfold markCheck
  extract_lets cs us moving s1
  have h1 : MemOk s1 := memOk_markSet (memOk_countSkip h)
  split
  · exact keeps_stallS h
  · split
    · exact .next (memOk_advS (memOk_setMarker (memOk_countSkip h)))
    · split
      · exact keeps_stallS h
      · split
        · clear_value us
          split
          · exact .next (memOk_advS (memOk_setMarker h1))
          · exact keeps_trapS h1
        · clear_value us
          split
          · exact .next (memOk_advS (memOk_setMarker h1))
          · exact .next (memOk_advS (memOk_setMarker (memOk_countMiss h1)))
        · clear_value us
          split
          · exact .next (memOk_advS (memOk_setMarker h1))
          · exact .next (memOk_modPart (memOk_markSet h1))

theorem keeps_execMark {sa : BitVec 6} {s : State} (h : MemOk s) : Out.Keeps (execMark sa s) := by
  unfold execMark
  extract_lets v
  refine keeps_userOnly h ?_
  split
  · exact keeps_trapS h
  · split
    · exact .next (memOk_advS (memOk_markSet h))
    · split
      · exact keeps_stallS h
      · exact keeps_markCheck h

theorem keeps_execTtbind {sa : BitVec 6} {policy : BitVec 2} {s : State} (h : MemOk s) : Out.Keeps (execTtbind sa policy s) := by
  unfold execTtbind
  extract_lets v
  refine keeps_userOnly h ?_
  split
  · exact keeps_badField h
  · split
    · split
      · exact .next (memOk_advS h)
      · exact keeps_badState h
    · split
      · exact keeps_stallS h
      · split
        · exact keeps_trapS h
        · next e1 => exact keeps_badReg ((keeps_readTT h).of_bad e1)
        · exact keeps_trapS h
        · exact keeps_stallS h
        · exact .fault
        · next e1 => exact .next (memOk_advS (memOk_bindTT ((keeps_readTT h).of_ok e1)))

theorem keeps_execTtstat {sd : BitVec 6} {s : State} (h : MemOk s) : Out.Keeps (execTtstat sd s) := .next (memOk_finS h)

theorem keeps_execTtresume {s : State} (h : MemOk s) : Out.Keeps (execTtresume s) := by
  unfold execTtresume
  split
  · split
    · exact keeps_badState h
    · extract_lets fva
      refine keeps_orTrapS h (keeps_translate h) (fun h1 => ?_)
      extract_lets fr u' src s2 s3
      have hu' : MemOk u' := memOk_leaveHandler h1
      have h2 : MemOk s2 := memOk_set hu'
      have h3 : MemOk s3 := memOk_countMiss h2
      split
      · exact keeps_badState h
      · split
        · exact keeps_stallS h
        · extract_lets v
          split
          · exact keeps_trapS h2
          · exact .next (memOk_advS (memOk_ite h3 (memOk_setMarker h3)))
  · exact keeps_badState h

theorem keeps_execMarkReevaluate {s : State} (h : MemOk s) : Out.Keeps (execMarkReevaluate s) := by
  unfold execMarkReevaluate
  extract_lets s1
  have h1 : MemOk s1 := memOk_focusOn h
  split
  · exact .next h
  · split
    · next e => exact keeps_execMark ((keeps_fetchScalar h1).of_run e)
    · exact .next h

theorem memOk_pinLines {s : State} {part key size cls : Nat} (h : MemOk s) : MemOk (pinLines s part key size cls) :=
  memOk_foldl h (fun _ _ hu => memOk_ite (memOk_set hu) (memOk_l2Fill hu))

theorem memOk_unpinPage {s : State} {part ctx : Nat} {i : Instance} {pins : Instance → Bool} {g : TTPage} (h : MemOk s) :
    MemOk (unpinPage s part ctx i pins g) := by
  unfold unpinPage
  extract_lets s1
  have h1 : MemOk s1 := memOk_modPart h
  exact memOk_endHolds h1

theorem memOk_beginPage {part ctx : Nat} {e : TTEntry} {i : Instance} {pins : Instance → Bool} {s : State} {g : TTPage} (h : MemOk s) :
    MemOk (beginPage part ctx e i pins s g) := by
  unfold beginPage
  split
  · exact h
  · extract_lets move hold
    have hmove : MemOk move := memOk_modPart h
    have hhold : MemOk hold := memOk_modPart h
    split
    · exact memOk_ite hmove (memOk_ite h hhold)
    · exact memOk_ite h (memOk_ite (memOk_countTT h) hmove)
    · exact memOk_ite hmove hhold
    · exact memOk_unpinPage h
    · exact h

theorem memOk_beginPages {part ctx : Nat} {e : TTEntry} {i : Instance} {pins : Instance → Bool} {s : State} {l : List TTPage}
    (h : MemOk s) : MemOk (beginPages part ctx e i pins s l).2.2 := by
  induction l generalizing s with
  | nil => exact h
  | cons g r ih =>
    unfold beginPages
    extract_lets tier
    split
    · exact h
    · exact ih (memOk_beginPage h)

theorem memOk_dropPins {s : State} {part ctx : Nat} {i : Instance} {pins : Instance → Bool} {g : TTPage} (h : MemOk s) :
    MemOk (dropPins s part ctx i pins g) := memOk_modPart h

theorem memOk_waitSpace {s : State} {p : Partition} {e : TTEntry} {i : Instance} {pins : Instance → Bool} {rest : List Instance}
    {ps : List TTPage} {t : Nat} (h : MemOk s) : MemOk (waitSpace s p e i pins rest ps t) := by
  unfold waitSpace
  split
  · extract_lets s1 s2
    have h1 : MemOk s1 := memOk_modPart h
    have h2 : MemOk s2 := memOk_countTT h1
    exact memOk_ite (memOk_foldl h2 (fun _ _ hu => memOk_dropPins hu)) h2
  · exact memOk_ite (memOk_modPart h) (memOk_modPart h)

theorem memOk_beginDrop {s : State} {part : Nat} {i : Instance} {rest : List Instance} (h : MemOk s) : MemOk (beginDrop s part i rest) := h

theorem keeps_execTierEngineInstanceBegin {s : State} (h : MemOk s) : Out.Keeps (execTierEngineInstanceBegin s) := by
  unfold execTierEngineInstanceBegin
  extract_lets part pins
  split
  · exact .next h
  · split
    · exact .next h
    · split
      · exact .next (memOk_modPart h)
      · split
        · exact .next (memOk_modPart h)
        · extract_lets order others
          clear_value order
          split
          · exact .next h
          · extract_lets rest ctx i1
            split
            · split
              · exact .next h
              · exact .next (memOk_beginDrop h)
            · next e' _ =>
                extract_lets r ps waits s0
                have h0 : MemOk s0 := memOk_ite (memOk_countTT h) h
                have hb : MemOk (beginPages part ctx e' i1 pins (modPart s0 part (fun q => { q with insts := rest })) ps).2.2 :=
                  memOk_beginPages (memOk_modPart h0)
                split
                · exact .next h
                · split
                  · exact .next (memOk_beginDrop h0)
                  · split
                    · next e => exact .next (by rwa [e] at hb)
                    · next e =>
                        rw [e] at hb
                        split
                        · exact .next (memOk_waitSpace h)
                        · exact .next (memOk_waitSpace hb)

theorem memOk_carryPage {s : State} {part src dst size : Nat} (h : MemOk s) : MemOk (carryPage s part src dst size) := by
  unfold carryPage
  extract_lets inSrc src' s1 s2
  have h1 : MemOk s1 := wf_mputs _ _ _ h
  have h2 : MemOk s2 := memOk_modPart h1
  exact memOk_markDirtyRange h2

theorem memOk_holdAfter {s : State} {part : Nat} {m : Move} (h : MemOk s) : MemOk (holdAfter s part m) := by
  unfold holdAfter
  split
  · exact h
  · split
    · exact h
    · exact memOk_ite (memOk_modPart h) h

theorem memOk_relocate {s : State} {part ctx va size key tier : Nat} (h : MemOk s) : MemOk (relocate s part ctx va size key tier) :=
  memOk_modGroups h

theorem memOk_forgetOld {s : State} {part ctx va size : Nat} (h : MemOk s) : MemOk (forgetOld s part ctx va size) := h

theorem keeps_finishMove {s : State} {part : Nat} {m : Move} {l : Leaf} {frame tier : Nat} (h : MemOk s) :
    Out.Keeps (finishMove s part m l frame tier) := by
  unfold finishMove
  extract_lets src inPlace dst s1 up s2 s3
  have h1 : MemOk s1 := memOk_ite h (memOk_carryPage h)
  have h2 : MemOk s2 := memOk_rewritePage h1
  have h3 : MemOk s3 := memOk_ite (memOk_pinLines h2) (memOk_setTier h2)
  exact .next (memOk_holdAfter (memOk_relocate (memOk_forgetOld h3)))

theorem memOk_countShort {s : State} {part : Nat} {i : Instance} (h : MemOk s) : MemOk (countShort s part i) := by
  unfold countShort
  split
  · exact h
  · exact memOk_ite h (memOk_countTT (memOk_modPart h))

theorem keeps_soundAgain {line : Nat} {o : Out} (ho : Out.Keeps o) : Out.Keeps (soundAgain line o) := by
  unfold soundAgain
  split
  · exact .next (memOk_set (ho.of_next rfl))
  · exact ho

theorem keeps_execTierMoveComplete {s : State} (h : MemOk s) : Out.Keeps (execTierMoveComplete s) := by
  unfold execTierMoveComplete
  extract_lets part gone word
  have hgone : MemOk gone := memOk_modPart h
  split
  · exact .next h
  · split
    · exact .next h
    · split
      · exact .next h
      · split
        · exact .next hgone
        · split
          · exact .next (memOk_holdAfter hgone)
          · extract_lets key off pin tooMany tier short m1 line
            have hshort : ∀ {u}, MemOk u → MemOk (short u) := fun hu => memOk_ite (memOk_getD (.map fun _ => memOk_countShort hu) hu) hu
            split
            · exact .next h
            · split
              · exact .next (hshort hgone)
              · split
                · exact keeps_finishMove (hshort hgone)
                · split
                  · next e4 =>
                      have h4 := memOk_fst (memOk_unitLine hgone) e4
                      split
                      · exact keeps_finishMove (hshort h4)
                      · exact keeps_soundAgain (keeps_finishMove (memOk_addPoison (hshort h4)))

theorem memOk_cleanLines {s : State} {key : Nat} (h : MemOk s) : MemOk (cleanLines s key) := memOk_set h

theorem keeps_execDropGranule {s : State} (h : MemOk s) : Out.Keeps (execDropGranule s) := by
  unfold execDropGranule
  extract_lets part s1
  have h1 : MemOk s1 := memOk_modPart h
  split
  · exact .next h
  · split
    · exact .next h
    · split
      · exact .next h
      · split
        · exact .next h1
        · split
          · exact .next (memOk_countTT h1)
          · extract_lets key s2
            have h2 : MemOk s2 := memOk_cleanLines (memOk_clearPoison (memOk_mputs h1))
            exact .next (memOk_markDirtyRange h2)

theorem keeps_execDemotionVictimSelect {s : State} (h : MemOk s) : Out.Keeps (execDemotionVictimSelect s) := by
  unfold execDemotionVictimSelect
  extract_lets part tier low high asleep
  split
  · exact .next h
  · split
    · exact .next h
    · split
      · exact .next (memOk_modPart h)
      · split
        · exact .next (memOk_modPart h)
        · split
          · extract_lets s1
            have h1 : MemOk s1 := memOk_modPart h
            split
            · exact .next (memOk_markDirtyRange (wf_mwrite _ _ _ _ h1))
            · split
              · exact .next (memOk_setTier h1)
              · split
                · exact .next (memOk_modPart h1)
                · exact .next (memOk_modPart h1)

end Sys2Proof.Machine
end

section
/-! PROOFS. The form of memory under the Work Distributor (R47 to R65). -/
namespace Sys2Proof.Machine

open Sys2Proof

theorem keeps_execHotCoreRequestDelay {s : State} (h : MemOk s) : Out.Keeps (execHotCoreRequestDelay s) :=
  .next (memOk_modPart (memOk_noteCool h))

theorem memOk_setShare {s : State} {k : Kernel} {base : Nat} (h : MemOk s) : MemOk (setShare s k base) := by
  unfold setShare
  extract_lets one
  have hone : ∀ {u a}, MemOk u → MemOk (one u a) := fun hu => memOk_ite (memOk_modCore hu) hu
  exact memOk_ite (hone (hone h)) (hone h)

theorem memOk_giveShare {s : State} {c part task lo hi : Nat} (h : MemOk s) : MemOk (giveShare s c part task lo hi) := by
  unfold giveShare
  extract_lets k b u
  have hu : MemOk u := memOk_modCore h
  exact memOk_setShare (memOk_ite (memOk_modCore hu) hu)

theorem memOk_coolShare {s : State} {core : Nat} (h : MemOk s) : MemOk (coolShare s core) := by
  unfold coolShare
  extract_lets one
  have hone : ∀ {u a}, MemOk u → MemOk (one u a) := by
    intro _ _ hu
    unfold one
    split
    · exact hu
    · exact memOk_ite (memOk_modCore hu) hu
  exact hone (hone h)

theorem memOk_notePlace {s : State} {core : Nat} (h : MemOk s) : MemOk (notePlace s core) := by
  unfold notePlace
  extract_lets s1
  have h1 : MemOk s1 := memOk_coolShare h
  split
  · exact h1
  · exact memOk_noteCool h1

theorem keeps_execTempRefresh {s : State} (h : MemOk s) : Out.Keeps (execTempRefresh s) := by
  unfold execTempRefresh
  split
  · exact .next h
  · extract_lets t hot
    exact .next (memOk_notePlace (memOk_modCore h))

theorem keeps_execVoltageDroopEvent {s : State} (h : MemOk s) : Out.Keeps (execVoltageDroopEvent s) := by
  unfold execVoltageDroopEvent
  extract_lets now droop
  split
  · exact .next h
  · exact .next (memOk_notePlace (memOk_modCore h))

theorem keeps_execDroopyExit {s : State} (h : MemOk s) : Out.Keeps (execDroopyExit s) := by
  unfold execDroopyExit
  extract_lets now c
  split
  · exact .next h
  · exact .next (memOk_notePlace (memOk_modCore h))

theorem memOk_settleAges {s : State} {part : Nat} (h : MemOk s) : MemOk (settleAges s part) := by
  unfold settleAges
  split
  · exact h
  · split
    · exact h
    · extract_lets live
      exact memOk_modPart h

theorem keeps_execTailWordEvent {s : State} (h : MemOk s) : Out.Keeps (execTailWordEvent s) := by
  unfold execTailWordEvent
  split
  · exact .next (memOk_settleAges (memOk_wakeQueue h))
  · exact .next h

theorem keeps_execQueueStopClear {s : State} (h : MemOk s) : Out.Keeps (execQueueStopClear s) := by
  unfold execQueueStopClear
  split
  · exact .next h
  · extract_lets clear
    exact .next (memOk_settleAges (memOk_wakeQueue (memOk_modQueue h)))

theorem keeps_execPcCtlRun {s : State} (h : MemOk s) : Out.Keeps (execPcCtlRun s) := .next (memOk_settleAges (memOk_modPart h))

theorem keeps_execPcCtlDrain {s : State} (h : MemOk s) : Out.Keeps (execPcCtlDrain s) := .next (memOk_settleAges (memOk_modPart h))

theorem keeps_failRecord {s : State} {part k va : Nat} {msix : Bool} {vec sva off kind : Nat} (h : MemOk s) :
    Taken.Keeps (failRecord s part k va msix vec sva off kind) := by
  unfold failRecord
  extract_lets s1
  have h1 : MemOk s1 := memOk_completeLaunch h
  exact .none (memOk_modQueue (memOk_launchError h1))

theorem keeps_makeLaunch {s : State} {part k : Nat} {q : Queue} {b : List Byte} {va : Nat} {kn : Kernel} {es : Option (List TTEntry)}
    {msix : Bool} {vec : Nat} (h : MemOk s) : Taken.Keeps (makeLaunch s part k q b va kn es msix vec) := by
  unfold makeLaunch
  extract_lets f lo hi s1 src
  have h1 : MemOk s1 := memOk_modQueue h
  split
  · exact .none (memOk_completeLaunch h1)
  · split
    · exact .none h1
    · extract_lets num t s2
      have h2 : MemOk s2 := memOk_addTask (memOk_modPart h1)
      split
      · exact .task h2
      · exact .task (memOk_bindTT h2)

theorem keeps_takeRecord {s : State} {part k : Nat} {q : Queue} (h : MemOk s) : Taken.Keeps (takeRecord s part k q) := by
  unfold takeRecord
  extract_lets va src w
  split
  · exact .none (memOk_launchError (memOk_stopQueue h))
  · extract_lets f vec msix fail ttva
    have hfail : ∀ {u a b c}, MemOk u → Taken.Keeps (fail u a b c) := fun hu => keeps_failRecord hu
    split
    · exact hfail h
    · split
      · exact hfail h
      · split
        · next e2 => exact hfail ((keeps_getKernel h).of_bad e2)
        · exact .none h
        · exact .fault
        · next e2 =>
            have h2 := (keeps_getKernel h).of_ok e2
            split
            · exact keeps_makeLaunch h2
            · split
              · next e3 => exact keeps_makeLaunch ((keeps_readTT h2).of_ok e3)
              · exact hfail h2
              · exact hfail h2
              · next e3 => exact hfail ((keeps_readTT h2).of_bad e3)
              · exact .none h
              · exact .fault

theorem keeps_takeFront {s : State} {part : Nat} {fork : Bool} (h : MemOk s) : Taken.Keeps (takeFront s part fork) := by
  unfold takeFront
  split
  · exact .none h
  · split
    · exact .none h
    · exact .task (memOk_modPart h)

theorem keeps_drawTask {s : State} {p : Partition} (h : MemOk s) : OptKeeps (fun x => Taken.Keeps x.2) (drawTask s p) := by
  unfold drawTask
  extract_lets live e x
  split
  · exact .none
  · split
    · exact .none
    · extract_lets s1
      have h1 : MemOk s1 := memOk_modPart h
      refine .some ?_
      split
      · exact keeps_takeRecord h1
      · exact keeps_takeFront h1

theorem memOk_drainTeam {s : State} {t : Team} (h : MemOk s) : MemOk (drainTeam s t) := by
  unfold drainTeam
  split
  · exact memOk_modTeam h
  · extract_lets s1
    have h1 : MemOk s1 := memOk_modTeam h
    exact memOk_modGroups h1

theorem memOk_shareAway {s : State} {c : Nat} (h : MemOk s) : MemOk (shareAway s c) := by
  unfold shareAway
  split
  · exact h
  · extract_lets b s1 rest
    have h1 : MemOk s1 := memOk_modCore h
    exact memOk_noteCool (memOk_ite h1 (memOk_modPart h1))

theorem memOk_preemptCore {s : State} {c : Nat} (h : MemOk s) : MemOk (preemptCore s c) :=
  memOk_shareAway (memOk_foldl h (fun _ _ h1 => memOk_drainTeam h1))

theorem memOk_placeElsewhere {s : State} {p : Partition} {win num : Nat} (h : MemOk s) : MemOk (placeElsewhere s p win num).1 := by
  unfold placeElsewhere
  extract_lets k t pre room
  split
  · exact memOk_modPart h
  · split
    · exact memOk_modPart h
    · extract_lets s1
      have h1 : MemOk s1 := memOk_ite (memOk_preemptCore (memOk_preemptCore h)) (memOk_preemptCore h)
      exact memOk_modCore h1

theorem memOk_takeBooked {s : State} {c : Nat} (h : MemOk s) : MemOk (takeBooked s c) := by
  unfold takeBooked
  split
  · exact h
  · extract_lets k
    exact memOk_ite (memOk_setShare (memOk_modCore h)) h

theorem memOk_halve {s : State} {c d : Nat} {sh : Share} (h : MemOk s) : MemOk (halve s c d sh) := memOk_giveShare (memOk_modCore h)

theorem memOk_writeImage {s : State} {g : Group} (h : MemOk s) : MemOk (writeImage s g) := by
  unfold writeImage
  extract_lets base
  exact memOk_ite h (memOk_getD (keeps_supWrite h) h)

theorem memOk_addGroups {s : State} {k : Kernel} {part task idx base : Nat} {halts : List Halt} (h : MemOk s) :
    MemOk (addGroups s k part task idx base halts) := by
  unfold addGroups
  refine memOk_foldl h fun u g hu => ?_
  extract_lets h' v
  have hv : MemOk v := memOk_set hu
  exact memOk_ite (memOk_writeImage hv) hv

theorem memOk_startTeam {s : State} {p : Partition} {task idx base : Nat} (h : MemOk s) : MemOk (startTeam s p task idx base) := by
  unfold startTeam
  extract_lets k src t s1 s2 s3
  have h1 : MemOk s1 := memOk_setShare h
  have h2 : MemOk s2 := memOk_set h1
  have h3 : MemOk s3 := memOk_addGroups h2
  exact memOk_startTeamTT (memOk_modTask h3)

theorem keeps_execTeamStart {s : State} (h : MemOk s) : Out.Keeps (execTeamStart s) := by
  unfold execTeamStart
  extract_lets c s0
  have h0 : MemOk s0 := memOk_takeBooked h
  split
  · exact .next h0
  · split
    · exact .next h0
    · extract_lets k cool tested rest
      split
      · exact .next h0
      · exact .next (memOk_noteCool (memOk_startTeam (memOk_modCore h0)))

theorem memOk_finishRetire {s : State} {core : Nat} (h : MemOk s) : MemOk (finishRetire s core) := by
  unfold finishRetire
  extract_lets tw busy off s1
  have hoff : ∀ {u a}, MemOk u → MemOk (off u a) := fun hu => memOk_modCore hu
  have h1 : MemOk s1 := hoff (hoff h)
  split
  · exact h
  · split
    · exact h1
    · extract_lets s2 s3
      have h2 : MemOk s2 := memOk_modPart h1
      have h3 : MemOk s3 := memOk_postEvent h2
      exact memOk_severityUnit h3

theorem keeps_execTeamSave {s : State} (h : MemOk s) : Out.Keeps (execTeamSave s) := by
  unfold execTeamSave
  extract_lets part task idx gs inspect s0 s1 s2 s3
  have h0 : MemOk s0 := memOk_ite (memOk_foldl h (fun _ _ h1 => memOk_writeImage h1)) h
  have h1 : MemOk s1 := memOk_foldl h0 (fun _ _ hu => memOk_ite hu (memOk_freeSlotOwner (memOk_scStamp hu)))
  have h2 : MemOk s2 := memOk_modGroups h1
  have h3 : MemOk s3 := memOk_modTeam h2
  split
  · exact .next h
  · split
    · exact .next h
    · exact .next (memOk_finishRetire (memOk_modPart h3))

theorem memOk_lostFrame {s : State} {g : Group} (h : MemOk s) : MemOk (lostFrame s g) := memOk_severity h

theorem memOk_moveSlot {s : State} {id : GroupId} (h : MemOk s) : MemOk (moveSlot s id) := by
  unfold moveSlot
  split
  · exact h
  · extract_lets base s1 va s2
    have h1 : MemOk s1 := by
      unfold s1
      split
      · exact memOk_getD (keeps_supWrite h) h
      · exact h
    have h2 : MemOk s2 := memOk_modGroup h1
    split
    · exact h1
    · split
      · next e2 => exact memOk_l1Drop (memOk_partPuts ((keeps_translate h2).of_ok e2))
      · exact memOk_lostFrame h2

theorem memOk_restoreGroup {k : Kernel} {base : Nat} {s : State} {g : Group} (h : MemOk s) : MemOk (restoreGroup k base s g) := by
  unfold restoreGroup
  split
  · extract_lets core slot place
    exact memOk_modGroup (memOk_scStamp h)

theorem memOk_restoreTeam {s : State} {part task idx base : Nat} (h : MemOk s) : MemOk (restoreTeam s part task idx base) := by
  unfold restoreTeam
  split
  · exact h
  · extract_lets gs s1 s2 s3 s4
    have h1 : MemOk s1 := memOk_setShare h
    have h2 : MemOk s2 := memOk_modTeam h1
    have h3 : MemOk s3 := memOk_foldl (memOk_foldl h2 (fun _ _ h3 => memOk_restoreGroup h3)) (fun _ _ h3 => memOk_moveSlot h3)
    have h4 : MemOk s4 := memOk_modGroups h3
    exact memOk_ite (memOk_drainTeam h4) h4

theorem keeps_takeResume {s : State} {p : Partition} {c : Nat} (h : MemOk s) : OptKeeps MemOk (takeResume s p c) := by
  unfold takeResume
  split
  · exact .none
  · extract_lets put
    have hput : ∀ {a}, MemOk (put a) := memOk_modPart h
    split
    · exact .some (memOk_restoreTeam hput)
    · extract_lets mid
      exact .some (memOk_giveShare hput)

theorem memOk_ask {s : State} {c : Nat} (h : MemOk s) : MemOk (ask s c) := h

theorem keeps_onRequest {s : State} {answer : State → Partition → Nat → Out} (h : MemOk s)
    (hanswer : ∀ {u a b}, MemOk u → Out.Keeps (answer u a b)) : Out.Keeps (onRequest s answer) := by
  unfold onRequest
  extract_lets c done
  have hdone : MemOk done := memOk_modCore h
  split
  · exact .next h
  · split
    · split
      · exact .next (memOk_ask h)
      · exact .next h
    · split
      · exact .next hdone
      · split
        · exact hanswer hdone
        · exact .next h

theorem keeps_takeTask {s : State} {p : Partition} {c : Nat} {l : List Nat} (h : MemOk s) : OptKeeps MemOk (takeTask s p c l) :=
  .map fun _ => memOk_giveShare (memOk_modPart h)

theorem keeps_takeFirst {s : State} {p : Partition} {c : Nat} (h : MemOk s) : OptKeeps MemOk (takeFirst s p c) := by
  unfold takeFirst
  split
  · next e => exact .some ((keeps_takeTask h).of_some e)
  · exact keeps_takeResume h

theorem keeps_execTeamResume {s : State} (h : MemOk s) : Out.Keeps (execTeamResume s) :=
  keeps_onRequest h (fun h1 => .next (memOk_noteCool (memOk_getD (keeps_takeFirst h1) h1)))

theorem keeps_drawOrHalve {s : State} {p : Partition} {c : Nat} (h : MemOk s) : Out.Keeps (drawOrHalve s p c) := by
  unfold drawOrHalve
  extract_lets half
  have hhalf : ∀ {u}, MemOk u → Out.Keeps (half u) := by
    intro _ hu
    unfold half
    split
    · exact .next hu
    · exact .next (memOk_halve hu)
  split
  · exact hhalf h
  · exact .fault
  · next e => exact hhalf (((keeps_drawTask h).of_some e).of_none rfl)
  · next e =>
      have h1 := ((keeps_drawTask h).of_some e).of_task rfl
      split
      · exact .next h1
      · extract_lets t
        split
        · exact .next (memOk_giveShare h1)
        · split
          · next e2 =>
              have h2 := memOk_fst (memOk_placeElsewhere h1) e2
              split
              · exact hhalf h2
              · exact .next h2

theorem keeps_answerRequest {s0 : State} {p : Partition} {c : Nat} (h0 : MemOk s0) : Out.Keeps (answerRequest s0 p c) := by
  unfold answerRequest
  split
  · next e => exact .next ((keeps_takeFirst h0).of_some e)
  · split
    · next e1 => exact .next ((keeps_takeTask h0).of_some e1)
    · exact keeps_drawOrHalve h0

theorem keeps_settled {part : Nat} {o : Out} (ho : Out.Keeps o) : Out.Keeps (settled part o) := by
  unfold settled
  split
  · exact .next (memOk_noteCool (memOk_settleAges (ho.of_next rfl)))
  · exact ho

theorem keeps_execIdleCoreRequest {s : State} (h : MemOk s) : Out.Keeps (execIdleCoreRequest s) := by
  unfold execIdleCoreRequest
  refine keeps_onRequest h (fun h' => ?_)
  extract_lets s0
  have h0 : MemOk s0 := memOk_settleAges (memOk_foldl h' (fun _ _ hu => memOk_wakeQueue hu))
  split
  · exact .next h0
  · exact keeps_settled (keeps_answerRequest h0)

end Sys2Proof.Machine
end

section
/-! PROOFS. The form of memory under ENG (R345 to R367). -/
namespace Sys2Proof.Machine

open Sys2Proof

theorem keeps_execOclaim {slot : BitVec 4} {s : State} (h : MemOk s) : Out.Keeps (execOclaim slot s) := by
  unfold execOclaim
  extract_lets held
  split
  · exact keeps_stallS h
  · split
    · exact keeps_trapS h
    · exact .next (memOk_advS (memOk_set h))

theorem keeps_execOrelease {slot : BitVec 4} {s : State} (h : MemOk s) : Out.Keeps (execOrelease slot s) := by
  unfold execOrelease
  extract_lets k gs
  split
  · exact keeps_badState h
  · split
    · exact keeps_stallS h
    · exact .next (memOk_advS (memOk_set h))

theorem keeps_execRload {sa : BitVec 6} {k : BitVec 3} {s : State} (h : MemOk s) : Out.Keeps (execRload sa k s) := by
  unfold execRload
  extract_lets a
  split
  · exact keeps_trapS h
  · refine keeps_orTrapS h (keeps_locate h) (fun h1 => ?_)
    refine keeps_orTrapS h (keeps_locate h1) (fun h2 => ?_)
    split
    · exact keeps_stallS h
    · refine keeps_orLineS h2 (fun h0 => ?_)
      refine keeps_orTrapS h0 (keeps_loadAt h0) (fun h3 => ?_)
      refine keeps_orTrapS h0 (keeps_loadAt h3) (fun h4 => ?_)
      extract_lets r en src
      split
      · exact keeps_trapS h0
      · exact .next (memOk_advS (memOk_set h4))

theorem keeps_execTfence {sd : BitVec 6} {s : State} (h : MemOk s) : Out.Keeps (execTfence sd s) := by
  unfold execTfence
  split
  · exact keeps_stallS h
  · extract_lets n old src en src' s1 s2
    have h1 : MemOk s1 := memOk_set h
    have h2 : MemOk s2 := memOk_settleSlots h1
    exact .next (memOk_finS h2)

theorem keeps_execTwait {sa : BitVec 6} {s : State} (h : MemOk s) : Out.Keeps (execTwait sa s) := by
  unfold execTwait
  extract_lets v op d k
  split
  · exact keeps_badReg h
  · split
    · exact keeps_badReg h
    · split
      · exact .next (memOk_advS (memOk_l1Inval h))
      · split
        · exact keeps_stallS h
        · split
          · exact .next (memOk_advS (memOk_l1Inval h))
          · exact keeps_trapS (memOk_set h)

theorem keeps_execTstat {sd : BitVec 6} {s : State} (h : MemOk s) : Out.Keeps (execTstat sd s) := .next (memOk_finS h)

theorem keeps_execTileCommandStart {s : State} (h : MemOk s) : Out.Keeps (execTileCommandStart s) := by
  unfold execTileCommandStart
  extract_lets core k
  split
  · exact .next h
  · split
    · exact .next (memOk_popWheel h)
    · extract_lets t sl st gs due e'
      have he' : MemOk e'.1 := memOk_cmdEcc h
      split
      · exact .next h
      · split
        · exact .next (memOk_cmdDone (memOk_popWheel h))
        · split
          · exact .next (memOk_cmdDone (memOk_popWheel he'))
          · split
            · exact .fault
            · exact .next h
            · exact .next (memOk_cmdDone (memOk_popWheel h))
            · next e2 =>
                extract_lets c1 use s2 s3
                have h2 : MemOk s2 := memOk_modGroup ((keeps_runTile he').of_ok e2)
                have h3 : MemOk s3 := memOk_modTeamOf h2
                exact .next (memOk_modCore (memOk_popWheel h3))

theorem keeps_execTileCommandRetire {s : State} (h : MemOk s) : Out.Keeps (execTileCommandRetire s) := by
  unfold execTileCommandRetire
  extract_lets core s1
  have h1 : MemOk s1 := memOk_modCore h
  split
  · exact .next h
  · split
    · exact .next h
    · exact .next (memOk_cmdDone h1)

end Sys2Proof.Machine
end

section
/-! PROOFS. The form of memory under register hand-over (R84 to R89, R382 to R385). -/
namespace Sys2Proof.Machine

open Sys2Proof

theorem keeps_notLegacy {i : Instr} {s : State} {k : Out} (h : MemOk s) (hk : Out.Keeps k) : Out.Keeps (notLegacy i s k) := by
  unfold notLegacy
  split
  · exact keeps_badWord h
  · exact keeps_userOnly h hk

theorem keeps_execGiveback {sa : BitVec 6} {s : State} (h : MemOk s) : Out.Keeps (execGiveback sa s) := by
  unfold execGiveback
  extract_lets n
  refine keeps_notLegacy h ?_
  split
  · exact keeps_badReg h
  · split
    · exact .next (memOk_advS h)
    · split
      · exact keeps_stallS h
      · exact .next (memOk_advS (memOk_set h))

theorem memOk_takeBlocks {s : State} {n : Nat} (h : MemOk s) : MemOk (takeBlocks s n) := memOk_set h

theorem keeps_execClaim {sa : BitVec 6} {s : State} (h : MemOk s) : Out.Keeps (execClaim sa s) := by
  unfold execClaim
  extract_lets n line mine c src
  refine keeps_notLegacy h ?_
  split
  · exact keeps_badReg h
  · split
    · exact .next (memOk_advS h)
    · split
      · exact .next (memOk_advS (memOk_takeBlocks h))
      · split
        · exact keeps_stallS h
        · exact .next (memOk_set h)

theorem keeps_execClaimtry {sd sa : BitVec 6} {s : State} (h : MemOk s) : Out.Keeps (execClaimtry sd sa s) := by
  unfold execClaimtry
  extract_lets n
  refine keeps_notLegacy h ?_
  split
  · exact keeps_badReg h
  · split
    · exact .next (memOk_finS h)
    · split
      · exact .next (memOk_finS (memOk_takeBlocks h))
      · exact .next (memOk_finS h)

theorem keeps_execSetbnd {sa : BitVec 6} {s : State} (h : MemOk s) : Out.Keeps (execSetbnd sa s) := by
  unfold execSetbnd
  extract_lets v src
  refine keeps_notLegacy h ?_
  split
  · exact keeps_badReg h
  · split
    · exact .next (memOk_advS h)
    · split
      · exact keeps_stallS h
      · exact .next (memOk_advS (memOk_set h))

theorem keeps_execGetallot {sd : BitVec 6} {s : State} (h : MemOk s) : Out.Keeps (execGetallot sd s) := .next (memOk_finS h)

end Sys2Proof.Machine
end

section
/-! PROOFS. The form of memory under the run lottery, the end of groups and launches, the deadlock detectors and the watchdogs (R35, R71,
R75, R79 to R81, R88, R89, R209, R270, R271). -/
namespace Sys2Proof.Machine

open Sys2Proof

theorem memOk_waitTrap {s : State} {st : Stream} {num addr : Nat} {detail : BitVec 192} (h : MemOk s) :
    MemOk (waitTrap s st num addr detail) := memOk_takeTrap h

theorem memOk_fillTrap {s : State} {id : GroupId} (h : MemOk s) : MemOk (fillTrap s id) := by
  unfold fillTrap
  extract_lets u
  have hu : MemOk u := memOk_focusOn h
  split
  · next e => exact memOk_waitTrap (memOk_snd (memOk_freeVal (memOk_set hu)) e)

theorem keeps_execRunArbitration {s : State} (h : MemOk s) : Out.Keeps (execRunArbitration s) := by
  unfold execRunArbitration
  extract_lets core quad q gs ready plain drawn left x e age
  split
  · exact .next h
  · split
    · exact .next h
    · split
      · exact .next h
      · extract_lets s1 s2
        have h1 : MemOk s1 := memOk_modGroups h
        have h2 : MemOk s2 := memOk_modGroup h1
        split
        · exact .next (memOk_fillTrap (memOk_putQuad h1))
        · exact .next (memOk_putQuad h2)

theorem memOk_dropTeam {s : State} {part task idx : Nat} (h : MemOk s) : MemOk (dropTeam s part task idx) := memOk_set h

theorem memOk_endTeam {s : State} {part task idx : Nat} (h : MemOk s) : MemOk (endTeam s part task idx) := by
  unfold endTeam
  split
  · exact h
  · extract_lets old s1 core s2
    have h1 : MemOk s1 := memOk_modPart (memOk_dropTeam h)
    have h2 : MemOk s2 := memOk_launchMoved (memOk_finishRetire (memOk_modTask h1))
    split
    · exact h2
    · exact memOk_ite (memOk_finishTask h2) h2

theorem keeps_execGroupEnd {s : State} (h : MemOk s) : Out.Keeps (execGroupEnd s) := by
  unfold execGroupEnd
  split
  · exact .next h
  · split
    · exact .next h
    · extract_lets id blocks s1 s2
      have h1 : MemOk s1 := memOk_freeSlotOwner (memOk_modGroup h)
      have h2 : MemOk s2 := memOk_modTeamOf h1
      exact .next (memOk_endTeam (memOk_teamBars (memOk_settleSlots h2)))

theorem memOk_dropTask {s : State} {part num : Nat} (h : MemOk s) : MemOk (dropTask s part num) := memOk_set h

theorem keeps_execLaunchCompletion {s : State} (h : MemOk s) : Out.Keeps (execLaunchCompletion s) := by
  unfold execLaunchCompletion
  split
  · exact .next h
  · split
    · exact .next h
    · extract_lets code s1
      have h1 : MemOk s1 := memOk_ite (memOk_completeLaunch h) h
      exact .next (memOk_dropTask h1)

theorem memOk_restartTeam {s : State} {part task idx : Nat} (h : MemOk s) : MemOk (restartTeam s part task idx) := h

theorem keeps_execQueueDeadlock {s : State} (h : MemOk s) : Out.Keeps (execQueueDeadlock s) := by
  unfold execQueueDeadlock
  refine keeps_onGroup h (fun hv => ?_)
  extract_lets u' out
  have hu' : MemOk u' := memOk_ite (memOk_set hv) hv
  have hout : ∀ {u}, MemOk u → Out.Keeps (out u) := fun hv1 => .next (memOk_waitTrap hv1)
  split
  · exact .next hu'
  · split
    · split
      · exact hout hu'
      · split
        · exact hout (memOk_set hu')
        · exact .next hu'
    · split
      · exact .next (memOk_waitTrap hu')
      · exact .next hu'

theorem keeps_execClaimDeadlock {s : State} (h : MemOk s) : Out.Keeps (execClaimDeadlock s) := by
  unfold execClaimDeadlock
  split
  · exact .next h
  · extract_lets t gs claimers
    split
    · exact .next h
    · refine .next (memOk_foldl h fun u h' hu => ?_)
      extract_lets v n free
      have hv : MemOk v := memOk_focusOn hu
      exact memOk_ite hv (memOk_waitTrap hv)

theorem keeps_execStageStarved {s : State} (h : MemOk s) : Out.Keeps (execStageStarved s) := by
  unfold execStageStarved
  refine keeps_onGroup h (fun hu => ?_)
  split
  · exact .next hu
  · extract_lets v here a u1
    have hu1 : MemOk u1 := memOk_set hu
    split
    · exact .next hu
    · exact .next (memOk_waitTrap hu1)

theorem memOk_watchdog {s : State} {st : Stream} {code : Nat} (h : MemOk s) : MemOk (watchdog s st code) := memOk_waitTrap h

theorem memOk_dropWaits {s : State} {which : Stream → Bool} (h : MemOk s) : MemOk (dropWaits s which) := by
  unfold dropWaits
  extract_lets waits gone lds back s1 src src'
  have hback : ∀ {u a}, MemOk u → MemOk (back u a) := fun hu => memOk_getD (.map fun _ => memOk_backTo hu) hu
  have h1 : MemOk s1 := hback (hback h)
  exact memOk_set h1

theorem memOk_abandonCopy {s : State} {g : Group} {c : Copy} (h : MemOk s) : MemOk (abandonCopy s g c) := by
  unfold abandonCopy
  split
  · exact memOk_finishTensor h
  · exact memOk_removeCopy (memOk_modGroup h)
  · exact memOk_endSlot (memOk_removeCopy (memOk_modGroup h))

theorem memOk_abandonWork {s : State} {id : GroupId} (h : MemOk s) : MemOk (abandonWork s id) := by
  unfold abandonWork
  split
  · exact h
  · extract_lets s0 s1 k mine s2
    have h0 : MemOk s0 := memOk_modGroup h
    have h1 : MemOk s1 := memOk_foldl h0 (fun _ _ hu => memOk_abandonCopy hu)
    have h2 : MemOk s2 := memOk_modCore h1
    exact memOk_foldl h2 (fun _ _ hu => memOk_cmdDone hu)

theorem keeps_execDrainWatchdog {s : State} (h : MemOk s) : Out.Keeps (execDrainWatchdog s) := by
  unfold execDrainWatchdog
  refine keeps_onGroup h (fun hu => ?_)
  split
  · exact .next hu
  · extract_lets u1 t u2 src g
    have hu1 : MemOk u1 := memOk_dropWaits (memOk_abandonWork hu)
    have hu2 : MemOk u2 := memOk_enterTrap hu1
    exact .next (memOk_set hu2)

theorem keeps_execMarkStallWatchdog {s : State} (h : MemOk s) : Out.Keeps (execMarkStallWatchdog s) :=
  keeps_onGroup h (fun hu => .next (memOk_ite (memOk_watchdog hu) hu))

theorem keeps_execAccessWatchdog {s : State} (h : MemOk s) : Out.Keeps (execAccessWatchdog s) := by
  unfold execAccessWatchdog
  refine keeps_onGroup h (fun hu => ?_)
  extract_lets st n due held late perform u1 t
  have hperform : ∀ {u a}, MemOk u → MemOk (perform u a) := by
    intro _ _ hu2
    unfold perform
    refine memOk_foldl hu2 fun w x' hw => ?_
    split
    · next e => exact (keeps_performLane hw).of_ok e
    · exact hw
  have hu1 : MemOk u1 := memOk_dropWaits hu
  split
  · exact .next hu
  · refine .next (memOk_lateTrap ?_)
    split
    · exact hu1
    · refine memOk_foldl hu1 fun v a hv => ?_
      exact hperform hv

theorem keeps_execTeamTimeWatchdog {s : State} (h : MemOk s) : Out.Keeps (execTeamTimeWatchdog s) := by
  unfold execTeamTimeWatchdog
  extract_lets part
  split
  · exact .next h
  · extract_lets gs tested s1
    have h1 : MemOk s1 := by
      unfold s1
      refine memOk_foldl h fun u g hu => ?_
      extract_lets v src
      have hv : MemOk v := memOk_focusOn hu
      exact memOk_ite hv (memOk_ite (memOk_set hv) (memOk_watchdog hv))
    split
    · exact .next h
    · exact .next (memOk_modTeam h1)

theorem memOk_retireTwin {s : State} {core : Nat} {dead : List GroupId} (h : MemOk s) : MemOk (retireTwin s core dead) := by
  unfold retireTwin
  extract_lets tw lost s1 s2 on s3 src
  have h1 : MemOk s1 := memOk_foldl h (fun _ _ h1 => memOk_killGroup h1)
  have h2 : MemOk s2 := memOk_preemptCore (memOk_preemptCore h1)
  have hon : ∀ {u a}, MemOk u → MemOk (on u a) := fun hu => memOk_modCore hu
  have h3 : MemOk s3 := hon (hon h2)
  exact memOk_finishRetire (memOk_set h3)

theorem memOk_restartCounts {s : State} {core : Nat} (h : MemOk s) : MemOk (restartCounts s core) := by
  unfold restartCounts
  extract_lets now here of s1
  have h1 : MemOk s1 := memOk_modTeams h
  exact memOk_modGroups h1

theorem keeps_execSelfTestComplete {s : State} (h : MemOk s) : Out.Keeps (execSelfTestComplete s) := by
  unfold execSelfTestComplete
  extract_lets c k s1 s2
  have h1 : MemOk s1 := memOk_modCore h
  have h2 : MemOk s2 := memOk_restartCounts h1
  split
  · exact .next h
  · exact .next (memOk_ite (memOk_retireTwin h2) h2)

end Sys2Proof.Machine
end

section
/-! PROOFS. The form of memory under the debugger's commands (R272, R273). -/
namespace Sys2Proof.Machine

open Sys2Proof

theorem memOk_dbgBegin {s : State} {part w : Nat} {waits : Bool} (h : MemOk s) : MemOk (dbgBegin s part w waits) := h

theorem memOk_dbgDone {s : State} {part : Nat} (h : MemOk s) : MemOk (dbgDone s part) := by
  unfold dbgDone
  extract_lets s1
  have h1 : MemOk s1 := memOk_ctlWrite h
  exact memOk_modPart h1

theorem memOk_dbgFinish {s : State} {part w : Nat} (h : MemOk s) : MemOk (dbgFinish s part w) :=
  memOk_ite h (memOk_dbgDone (memOk_foldl h (fun _ _ h1 => memOk_writeImage h1)))

theorem keeps_dbgEvent {op : Nat} {start : State → Nat → Nat → State} {s : State} (hstart : ∀ {u a b}, MemOk u → MemOk (start u a b))
    (h : MemOk s) : Out.Keeps (dbgEvent op start s) := by
  unfold dbgEvent
  extract_lets part w
  split
  · exact .next h
  · extract_lets last
    split
    · exact .next (memOk_ite (memOk_dbgFinish h) h)
    · split
      · exact .next h
      · split
        · exact .next (hstart h)
        · split
          · exact .next (memOk_dbgBegin h)
          · exact .next h

theorem memOk_startHalt {s : State} {part w : Nat} (h : MemOk s) : MemOk (startHalt s part w) := by
  unfold startHalt
  extract_lets h' s1
  have h1 : MemOk s1 := memOk_modGroups h
  exact memOk_dbgBegin (memOk_modPart h1)

theorem memOk_resumeGroup {s : State} {g : Group} (h : MemOk s) : MemOk (resumeGroup s g) := by
  unfold resumeGroup
  extract_lets base back s1
  have h1 : MemOk s1 := memOk_modGroup h
  exact memOk_restartTeam (memOk_modTeamOf h1)

theorem memOk_startResume {s : State} {part w : Nat} (h : MemOk s) : MemOk (startResume s part w) := by
  unfold startResume
  extract_lets lift s1 gs
  have h1 : MemOk s1 := memOk_modPart h
  exact memOk_dbgDone (memOk_dbgBegin (memOk_foldl h1 (fun _ _ h2 => memOk_resumeGroup h2)))

theorem memOk_startStep {s : State} {part w : Nat} (h : MemOk s) : MemOk (startStep s part w) := by
  unfold startStep
  extract_lets gs s1
  have h1 : MemOk s1 := memOk_modGroups h
  exact memOk_dbgBegin (memOk_foldl h1 (fun _ _ hu => memOk_restartTeam hu))

theorem keeps_execDebugHalt {s : State} (h : MemOk s) : Out.Keeps (execDebugHalt s) := keeps_dbgEvent (fun h1 => memOk_startHalt h1) h

theorem keeps_execDebugResume {s : State} (h : MemOk s) : Out.Keeps (execDebugResume s) := keeps_dbgEvent (fun h1 => memOk_startResume h1) h

theorem keeps_execDebugStep {s : State} (h : MemOk s) : Out.Keeps (execDebugStep s) := keeps_dbgEvent (fun h1 => memOk_startStep h1) h

end Sys2Proof.Machine
end

section
/-! PROOFS. The form of memory under lane branches (R90 to R95, R415, R416). -/
namespace Sys2Proof.Machine

open Sys2Proof

theorem memOk_putLane {s : State} {c : LaneCtx} (h : MemOk s) : MemOk (putLane s c) := h

theorem keeps_branchRun {s : State} {i : Instr} {f : LaneFields} {code : Nat} {k : State → BitVec 64 → Out} (h : MemOk s)
    (hk : ∀ {u a}, MemOk u → Out.Keeps (k u a)) : Out.Keeps (branchRun s i f code k) := keeps_laneRun h (fun h1 => hk h1)

theorem keeps_pushEntry {s : State} {e : StackEntry} {mask : BitVec 64} {next : Nat} (h : MemOk s) :
    Out.Keeps (pushEntry s e mask next) := by
  unfold pushEntry
  split
  · split
    · next e2 => exact keeps_trapL (memOk_snd (memOk_freeVal h) e2)
  · exact .next (memOk_finBranch (memOk_putLane h))

theorem keeps_execLbr {f : LaneFields} {s : State} (h : MemOk s) : Out.Keeps (execLbr f s) := by
  unfold execLbr
  refine keeps_branchRun h (fun h1 => ?_)
  extract_lets c
  split
  · exact .next (memOk_finBranch h1)
  · split
    · exact .next (memOk_finBranch h1)
    · exact keeps_pushEntry h1

theorem keeps_execLjmp {f : LaneFields} {s : State} (h : MemOk s) : Out.Keeps (execLjmp f s) :=
  keeps_branchRun h (fun h1 => .next (memOk_finBranch h1))

theorem keeps_execLbreak {f : LaneFields} {s : State} (h : MemOk s) : Out.Keeps (execLbreak f s) := by
  unfold execLbreak
  refine keeps_branchRun h (fun h1 => ?_)
  extract_lets c rest e
  split
  · exact .next (memOk_finBranch h1)
  · split
    · split
      · exact .next (memOk_finBranch (memOk_putLane h1))
      · exact keeps_pushEntry h1
    · exact keeps_pushEntry h1

theorem keeps_execLexit {f : LaneFields} {s : State} (h : MemOk s) : Out.Keeps (execLexit f s) := by
  unfold execLexit
  refine keeps_branchRun h (fun h1 => ?_)
  extract_lets c c1
  exact .next (memOk_finBranch (memOk_putLane h1))

end Sys2Proof.Machine
end

section
/-! PROOFS. The form of memory under the lane classes that touch registers only (R249, R250, R390 to R398, R405 to R414). -/
namespace Sys2Proof.Machine

open Sys2Proof

theorem keeps_intArith {s : State} {i : Instr} {f : LaneFields} {code : Nat} {b c : Bool} {op : Int → Int → Int → Int} (h : MemOk s) :
    Out.Keeps (intArith s i f code b c op) := by
  unfold intArith
  extract_lets e
  exact keeps_execElem h

theorem keeps_intPlain {s : State} {i : Instr} {f : LaneFields} {code : Nat} {b c : Bool} {op : Nat → Nat → Nat → Nat → Nat}
    (h : MemOk s) : Out.Keeps (intPlain s i f code b c op) := by
  unfold intPlain
  extract_lets e
  exact keeps_execElem h

theorem keeps_shuffle {s : State} {i : Instr} {f : LaneFields} {code : Nat} {src : Nat → Nat → Nat → Nat → Nat} (h : MemOk s) :
    Out.Keeps (shuffle s i f code src) := by
  unfold shuffle
  extract_lets n lit r
  refine keeps_laneRun h (fun h1 => ?_)
  extract_lets size val
  exact .next (memOk_popFinL (memOk_writeLanes h1))

theorem keeps_execBcast {f : LaneFields} {s : State} (h : MemOk s) : Out.Keeps (execBcast f s) := by
  unfold execBcast
  extract_lets n lit r
  refine keeps_laneRun h (fun h1 => ?_)
  extract_lets u'
  exact .next (memOk_popFinL (memOk_writeLanes h1))

theorem keeps_reduceBy {s : State} {i : Instr} {f : LaneFields} {code op : Nat} {scan : Bool} (h : MemOk s) :
    Out.Keeps (reduceBy s i f code op scan) := by
  unfold reduceBy
  extract_lets n e kind lit r mode
  refine keeps_laneRun h (fun h1 => ?_)
  extract_lets size env seg res val
  exact keeps_withFlags h1 (fun h2 => .next (memOk_popFinL (memOk_writeLanes h2)))

theorem keeps_execBallot {f : LaneFields} {s : State} (h : MemOk s) : Out.Keeps (execBallot f s) := by
  unfold execBallot
  extract_lets n lit r
  refine keeps_laneRun h (fun h1 => ?_)
  extract_lets word
  exact .next (memOk_popFinL (memOk_writeLanes h1))

theorem keeps_voteBy {s : State} {i : Instr} {f : LaneFields} {code : Nat} {all : Bool} (h : MemOk s) :
    Out.Keeps (voteBy s i f code all) := by
  unfold voteBy
  extract_lets n lit r
  refine keeps_laneRun h (fun h1 => ?_)
  extract_lets size on val
  exact .next (memOk_popFinL (memOk_writePred h1))

theorem keeps_execDot {s : State} {i : Instr} {f : LaneFields} {code : Nat} {ab : Role} {na : Nat} {extra : Option BadOp}
    {op : State → Nat → Nat → Nat → FR} (h : MemOk s) : Out.Keeps (execDot s i f code ab na extra op) := by
  unfold execDot
  extract_lets r
  refine keeps_laneRun h (fun h1 => ?_)
  extract_lets res
  exact keeps_withFlags h1 (fun h2 => .next (memOk_popFinL (memOk_writeLanes h2)))

theorem keeps_execDotn {f : LaneFields} {s : State} (h : MemOk s) : Out.Keeps (execDotn f s) := by
  unfold execDotn
  extract_lets ab8 n
  exact keeps_execDot h

theorem keeps_execDot2 {f : LaneFields} {s : State} (h : MemOk s) : Out.Keeps (execDot2 f s) := by
  unfold execDot2
  extract_lets el iv fmt
  exact keeps_execDot h

theorem keeps_execDot4 {f : LaneFields} {s : State} (h : MemOk s) : Out.Keeps (execDot4 f s) := by
  unfold execDot4
  extract_lets fa fb el iv fv
  exact keeps_execDot h

theorem keeps_fpElem {s : State} {i : Instr} {f : LaneFields} {code : Nat} {b c : Bool} {op : Fmt → Env → Nat → Nat → Nat → FR}
    (h : MemOk s) : Out.Keeps (fpElem s i f code b c op) := keeps_execElem h

theorem keeps_execRng {f : LaneFields} {s : State} (h : MemOk s) : Out.Keeps (execRng f s) := by
  unfold execRng
  extract_lets n r
  refine keeps_laneRun h (fun h1 => ?_)
  extract_lets val s2 ctr src src'
  have h2 : MemOk s2 := memOk_writeLanes h1
  exact .next (memOk_popFinL (memOk_set h2))

theorem keeps_execLpush {f : LaneFields} {s : State} (h : MemOk s) : Out.Keeps (execLpush f s) := by
  unfold execLpush
  extract_lets n r
  refine keeps_laneRun h (fun h1 => ?_)
  split
  · exact .next (memOk_popFinL h1)
  · split
    · exact keeps_stallL h
    · extract_lets v src src'
      exact .next (memOk_popFinL (memOk_set h1))

theorem keeps_execVqpop {f : LaneFields} {s : State} (h : MemOk s) : Out.Keeps (execVqpop f s) := by
  unfold execVqpop
  extract_lets n r
  refine keeps_laneRun h (fun h1 => ?_)
  split
  · exact .next (memOk_popFinL h1)
  · split
    · exact keeps_stallL h
    · exact .next (memOk_popFinL (memOk_popVQ (memOk_writeLanes h1)))

theorem keeps_execRdsr {f : LaneFields} {s : State} (h : MemOk s) : Out.Keeps (execRdsr f s) := by
  unfold execRdsr
  extract_lets n r idx bad
  exact keeps_laneRun h (fun h1 => .next (memOk_popFinL (memOk_writeLanes h1)))

theorem keeps_execLnop {f : LaneFields} {s : State} (h : MemOk s) : Out.Keeps (execLnop f s) :=
  keeps_laneRun h (fun h1 => .next (memOk_popFinL h1))

theorem keeps_setPred {s : State} {i : Instr} {f : LaneFields} {code : Nat} {b fl : Bool} {extra : Option BadOp}
    {op : Nat → Nat → Bool × Fl} (h : MemOk s) : Out.Keeps (setPred s i f code b fl extra op) := by
  unfold setPred
  extract_lets n r
  refine keeps_laneRun h (fun h1 => ?_)
  extract_lets res
  exact keeps_withFlags h1 (fun h2 => .next (memOk_popFinL (memOk_writePred h2)))

theorem keeps_execVsetp {f : LaneFields} {s : State} (h : MemOk s) : Out.Keeps (execVsetp f s) := by
  unfold execVsetp
  extract_lets e v
  exact keeps_setPred h

theorem keeps_predLogic {s : State} {i : Instr} {f : LaneFields} {code : Nat} {b : Bool} {op : BitVec 64 → BitVec 64 → BitVec 64}
    (h : MemOk s) : Out.Keeps (predLogic s i f code b op) := by
  unfold predLogic
  extract_lets r
  refine keeps_laneRun h (fun h1 => ?_)
  extract_lets v
  exact .next (memOk_popFinL (memOk_writePred h1))

theorem keeps_execPrd {f : LaneFields} {s : State} (h : MemOk s) : Out.Keeps (execPrd f s) := by
  unfold execPrd
  extract_lets r
  exact keeps_laneRun h (fun h1 => .next (memOk_popFinL (memOk_writeLanes h1)))

theorem keeps_sfuElem {s : State} {i : Instr} {f : LaneFields} {code : Nat} {b : Bool} {op : Env → Nat → Nat → FR} (h : MemOk s) :
    Out.Keeps (sfuElem s i f code b op) := keeps_execElem h

end Sys2Proof.Machine
end

section
/-! PROOFS. The form of memory under the mailbox commands (R39 to R46): a partition's bytes are wiped, streamed out and put in again. -/
namespace Sys2Proof.Machine

open Sys2Proof

theorem memOk_wipe {s : State} {p : Partition} (h : MemOk s) : MemOk (wipe s p) := wf_filter _ _ h

theorem memOk_dropPart {s : State} {part : Nat} (h : MemOk s) : MemOk (dropPart s part) := h

theorem memOk_addPart {s : State} {p : Partition} (h : MemOk s) : MemOk (addPart s p) := h

theorem keeps_execCreate {s : State} (h : MemOk s) : Out.Keeps (execCreate s) := by
  unfold execCreate
  extract_lets a
  refine keeps_mailbox h (fun h' => ?_)
  extract_lets r p s1 src
  have h1 : MemOk s1 := memOk_addPart (memOk_wipe h')
  split
  · exact h'
  · split
    · exact h'
    · split
      · exact h'
      · exact memOk_set h1

theorem memOk_clearWork {s : State} {part : Nat} (h : MemOk s) : MemOk (clearWork s part) := memOk_set h

theorem keeps_execDestroy {s : State} (h : MemOk s) : Out.Keeps (execDestroy s) := by
  unfold execDestroy
  refine keeps_mailbox h (fun h' => ?_)
  refine memOk_onState h' ?_
  intro _
  split
  · exact memOk_dropPart h'
  · extract_lets launches s1 s2
    have h1 : MemOk s1 := memOk_cancelTasks h'
    have h2 : MemOk s2 := memOk_foldl h1 (fun _ _ hu => memOk_completeLaunch hu)
    exact memOk_dropPart (memOk_wipe (memOk_clearWork h2))

theorem memOk_mbWaits {s : State} {cmd part : Nat} (h : MemOk s) : MemOk (mbWaits s cmd part) := h

theorem keeps_execSetquota {s : State} (h : MemOk s) : Out.Keeps (execSetquota s) := by
  unfold execSetquota
  extract_lets a
  refine keeps_mailbox h (fun h' => ?_)
  refine memOk_onState h' ?_
  intro _
  extract_lets others
  split
  · exact memOk_mbWaits (memOk_modPart h')
  · exact h'

theorem keeps_execHbmFrameBoundary {s : State} (h : MemOk s) : Out.Keeps (execHbmFrameBoundary s) := by
  unfold execHbmFrameBoundary
  extract_lets apply
  have happly : ∀ {u a}, MemOk u → MemOk (apply u a) := by
    intro _ _ hu
    unfold apply
    split
    · exact hu
    · exact memOk_modPart hu
  refine .next (memOk_foldl h fun u p hu => ?_)
  exact happly hu

theorem memOk_drainPart {s : State} {part : Nat} (h : MemOk s) : MemOk (drainPart s part) :=
  memOk_foldl h (fun _ _ h1 => memOk_drainTeam h1)

theorem keeps_execReset {s : State} (h : MemOk s) : Out.Keeps (execReset s) := by
  unfold execReset
  refine keeps_mailbox h (fun h' => ?_)
  extract_lets w
  split
  · exact h'
  · refine memOk_onState h' ?_
    intro _
    extract_lets out
    have hout : ∀ {u}, MemOk u → MemOk (out u) := fun hu => memOk_modPart hu
    split
    · exact memOk_mbWaits (hout (memOk_resetPart h'))
    · exact memOk_mbWaits (hout (memOk_drainPart h'))

theorem keeps_execFreeze {s : State} (h : MemOk s) : Out.Keeps (execFreeze s) := by
  unfold execFreeze
  refine keeps_mailbox h (fun h' => ?_)
  refine memOk_onState h' ?_
  intro _
  extract_lets keep
  exact memOk_mbWaits (memOk_settleAges (memOk_drainPart (memOk_modPart h')))

theorem memOk_streamOut {s : State} {i : Image} (h : MemOk s) : MemOk (streamOut s i) := h

theorem keeps_execExportPart {s : State} (h : MemOk s) : Out.Keeps (execExportPart s) := by
  unfold execExportPart
  refine keeps_mailbox h (fun h' => ?_)
  refine memOk_onState h' ?_
  intro _
  split
  · extract_lets s1 src out
    have h1 : MemOk s1 := memOk_streamOut h'
    exact memOk_modPart (memOk_wipe (memOk_clearWork h1))
  · extract_lets s1
    have h1 : MemOk s1 := memOk_streamOut h'
    exact memOk_mbWaits (memOk_modPart h1)

theorem memOk_importInto {s : State} {a : CreateArgs} {i : Image} (h : MemOk s) : MemOk (importInto s a i) := by
  unfold importInto
  extract_lets n group p s' mem
  have hs' : MemOk s' := memOk_wipe h
  have hm : mem.wf = true := wf_foldl_mput hs'
  exact hm

theorem keeps_execImportPart {s : State} (h : MemOk s) : Out.Keeps (execImportPart s) := by
  unfold execImportPart
  extract_lets a
  refine keeps_mailbox h (fun h' => ?_)
  extract_lets r
  split
  · exact h'
  · split
    · exact h'
    · split
      · exact h'
      · split
        · exact h'
        · exact memOk_importInto h'

theorem memOk_thawTime {s : State} {p : Partition} {src : Word} {top : BitVec 48} (h : MemOk s) : MemOk (thawTime s p src top) := by
  unfold thawTime
  extract_lets off s1 s2 now issued src'
  have h1 : MemOk s1 := memOk_modPart h
  have h2 : MemOk s2 := memOk_foldl h1 (fun _ _ hu => memOk_modCore hu)
  exact memOk_set h2

theorem keeps_execThaw {s : State} (h : MemOk s) : Out.Keeps (execThaw s) := by
  unfold execThaw
  refine keeps_mailbox h (fun h' => ?_)
  refine memOk_onState h' ?_
  intro _
  extract_lets s1
  have h1 : MemOk s1 := by
    unfold s1
    split
    · exact h'
    · exact memOk_thawTime h'
  exact memOk_mbWaits (memOk_modPart h1)

theorem keeps_execQuote {s : State} (h : MemOk s) : Out.Keeps (execQuote s) := by
  unfold execQuote
  refine keeps_mailbox h (fun h' => ?_)
  refine memOk_onState h' ?_
  intro _
  extract_lets d needs b
  split
  · exact h'
  · exact memOk_set h'

theorem memOk_migrationRec {s : State} {part : Nat} (h : MemOk s) : MemOk (migrationRec s part) := memOk_postEvent h

theorem keeps_finishCmd {s : State} {cmd part : Nat} (h : MemOk s) : OptKeeps MemOk (finishCmd s cmd part) := by
  unfold finishCmd
  split
  · exact .some h
  · split
    · split
      · exact .none
      · exact .some h
    · split
      · split
        · exact .some (memOk_resetPart h)
        · exact .none
      · split
        · exact .some (memOk_modPart h)
        · split
          · split
            · exact .some (memOk_migrationRec (memOk_modPart h))
            · exact .none
          · exact .some (memOk_migrationRec h)

theorem keeps_execMailboxCommandComplete {s : State} (h : MemOk s) : Out.Keeps (execMailboxCommandComplete s) := by
  unfold execMailboxCommandComplete
  split
  · exact .next h
  · extract_lets done
    have hdone : ∀ {u}, MemOk u → Out.Keeps (done u) := fun hu => .next (memOk_set hu)
    split
    · exact hdone h
    · split
      · exact .next h
      · next e1 => exact hdone ((keeps_finishCmd h).of_some e1)

theorem keeps_startCommand {s : State} {v : Nat} (h : MemOk s) : Out.Keeps (startCommand s v) := by
  unfold startCommand
  split
  · exact keeps_execCreate h
  · exact keeps_execDestroy h
  · exact keeps_execSetquota h
  · exact keeps_execReset h
  · exact keeps_execFreeze h
  · exact keeps_execExportPart h
  · exact keeps_execImportPart h
  · exact keeps_execThaw h
  · exact keeps_execQuote h
  · exact keeps_mailbox h (fun h1 => memOk_set h1)

theorem keeps_execBar0RegisterWrite {s : State} (h : MemOk s) : Out.Keeps (execBar0RegisterWrite s) := by
  unfold execBar0RegisterWrite
  extract_lets n off sh v m src
  split
  · exact .next h
  · split
    · split
      · exact keeps_startCommand h
      · split
        · exact .next (memOk_set h)
        · exact .next h
    · exact .next (memOk_settleAges (memOk_modPart h))

end Sys2Proof.Machine
end

section
/-! PROOFS. The form of memory under every instruction and step. -/
namespace Sys2Proof.Machine

open Sys2Proof

theorem keeps_exec {i : Instr} {s : State} (h : MemOk s) : Out.Keeps (exec i s) := by
  unfold exec
  cases i with
  | nop => exact keeps_execNop h
  | exit => exact keeps_execExit h
  | trap => exact keeps_execTrap h
  | reth => exact keeps_execReth h
  | bkpt => exact keeps_trapNextS h
  | setfmt => exact keeps_setFmt h
  | getfmt => exact keeps_execGetfmt h
  | rdtime => exact keeps_execRdtime h
  | yield => exact keeps_execYield h
  | sadd | ssub | smul | smulh | smulhn | sdiv | sdivn | srem | sremn | sand | sor | sxor | sandn | sshl | sshr | ssra | smin | smax
    | sminn | smaxn | sslt | ssltn | sseq => exact keeps_aluS h
  | sclz | sctz | spopc | ssextw | szextw | saddi | sandi | sori | sxori | sslti => exact keeps_aluS1 h
  | sshi => exact keeps_execSshi h
  | slui => exact keeps_execSlui h
  | spcadd => exact keeps_execSpcadd h
  | sbr => exact keeps_execSbr h
  | sjal => exact keeps_execSjal h
  | sjalr => exact keeps_execSjalr h
  | ssrr => exact keeps_execSsrr h
  | ssrw => exact keeps_execSsrw h
  | sld => exact keeps_execSld h
  | sst => exact keeps_execSst h
  | saadd => exact keeps_execSaadd h
  | samin => exact keeps_execSamin h
  | samax => exact keeps_execSamax h
  | saand => exact keeps_execSaand h
  | saor => exact keeps_execSaor h
  | saxor => exact keeps_execSaxor h
  | saswp => exact keeps_execSaswp h
  | sacas => exact keeps_execSacas h
  | dispatch => exact keeps_execDispatch h
  | vqpush | vqpush2 => exact keeps_pushVQ h
  | rqpop => exact keeps_execRqpop h
  | qstat => exact keeps_execQstat h
  | qdrain => exact keeps_execQdrain h
  | fence => exact keeps_execFence h
  | bar => exact keeps_execBar h
  | barn => exact keeps_execBarn h
  | sbinit => exact keeps_execSbinit h
  | sbexp => exact keeps_execSbexp h
  | sbarr => exact keeps_execSbarr h
  | sbwait => exact keeps_execSbwait h
  | waitc => exact keeps_execWaitc h
  | waits => exact keeps_execWaits h
  | tcopy => exact keeps_execTcopy h
  | tcopyx => exact keeps_execTcopyx h
  | tpref => exact keeps_execTpref h
  | oclaim => exact keeps_execOclaim h
  | orelease => exact keeps_execOrelease h
  | rload => exact keeps_execRload h
  | tmma | tmmaq | trec | trecb | tzero | tlda | tst | tstq | tedge => exact keeps_issueTile h
  | tfence => exact keeps_execTfence h
  | twait => exact keeps_execTwait h
  | tstat => exact keeps_execTstat h
  | fork => exact keeps_execFork h
  | join => exact keeps_execJoin h
  | jointry => exact keeps_joinBy h
  | rvdecl => exact keeps_execRvdecl h
  | rvdrop => exact keeps_execRvdrop h
  | rvid => exact keeps_execRvid h
  | rvstat => exact keeps_execRvstat h
  | watch => exact keeps_execWatch h
  | unwatch => exact keeps_execUnwatch h
  | warm => exact keeps_execWarm h
  | trigrec => exact keeps_execTrigrec h
  | trigack => exact keeps_execTrigack h
  | wstat => exact keeps_execWstat h
  | mark => exact keeps_execMark h
  | ttbind => exact keeps_execTtbind h
  | ttstat => exact keeps_execTtstat h
  | ttresume => exact keeps_execTtresume h
  | giveback => exact keeps_execGiveback h
  | claim => exact keeps_execClaim h
  | claimtry => exact keeps_execClaimtry h
  | setbnd => exact keeps_execSetbnd h
  | getallot => exact keeps_execGetallot h
  | vadd | vsub | vmul | vmad => exact keeps_intArith h
  | vmulh | vmin | vmax | vminn | vmaxn | vand | vor | vxor | vnot | vshl | vshr | vsra | vpopc | vclz | vbfx | vbfi | vmov =>
    exact keeps_intPlain h
  | vabs | vneg | vsel => exact keeps_execElem h
  | vsetp => exact keeps_execVsetp h
  | fsetp | pmov => exact keeps_setPred h
  | pand | por | pxor | pnot => exact keeps_predLogic h
  | prd => exact keeps_execPrd h
  | fadd | fsub | fmul | ffma | fmin | fmax | fabs | fneg | fclamp | frnd => exact keeps_fpElem h
  | frcp | frsq | fsqrt | fdiv | fex2 | flg2 | fsin | fcos | ftanh => exact keeps_sfuElem h
  | cvt => exact keeps_execCvt h
  | cvti => exact keeps_execCvti h
  | pack | qscale => exact keeps_execConv h
  | unpack => exact keeps_execUnpack h
  | dotn => exact keeps_execDotn h
  | dot2 => exact keeps_execDot2 h
  | dot4 => exact keeps_execDot4 h
  | shfl | shflup | shfldn | shflx => exact keeps_shuffle h
  | bcast => exact keeps_execBcast h
  | redsum | redmin | redmax | scanadd | scanmax => exact keeps_reduceBy h
  | ballot => exact keeps_execBallot h
  | voteany | voteall => exact keeps_voteBy h
  | rng => exact keeps_execRng h
  | lpush => exact keeps_execLpush h
  | vqpop => exact keeps_execVqpop h
  | rdsr => exact keeps_execRdsr h
  | lnop => exact keeps_execLnop h
  | lbr => exact keeps_execLbr h
  | ljmp => exact keeps_execLjmp h
  | lbreak => exact keeps_execLbreak h
  | lexit => exact keeps_execLexit h
  | ld => exact keeps_execLd h
  | st => exact keeps_execSt h
  | ost => exact keeps_execOst h
  | old => exact keeps_execOld h
  | pref => exact keeps_execPref h
  | atom => exact keeps_execAtom h
  | atomc => exact keeps_execAtomc h
  | red => exact keeps_execRed h
  | lcopy => exact keeps_execLcopy h
  | lcopyo => exact keeps_execLcopyo h
  | amovr => exact keeps_execAmovr h
  | amovw => exact keeps_execAmovw h
  | scalarWordNotInstruction => exact keeps_badWord h
  | laneWordNotInstruction => exact keeps_trapL h
  | deviceReset => exact keeps_execDeviceReset h
  | gtcFirmwareSet => exact keeps_execGtcFirmwareSet h
  | gtcSlewCorrection => exact keeps_execGtcSlewCorrection h
  | fabricFlitCrcRetry => exact keeps_execFabricFlitCrcRetry h
  | fabricPortDown => exact keeps_execFabricPortDown h
  | fabricRequestDiscard => exact keeps_execFabricRequestDiscard h
  | remoteAtomicRequest => exact keeps_arrive h
  | remoteAtomicResponse => exact keeps_execRemoteAtomicResponse h
  | remoteIndeterminate => exact keeps_execRemoteIndeterminate h
  | secondTierTimeout => exact keeps_execSecondTierTimeout h
  | rdmaWrite => exact keeps_execRdmaWrite h
  | rdmaRead => exact keeps_execRdmaRead h
  | rdmaAtomic => exact keeps_execRdmaAtomic h
  | rdmaSend => exact keeps_execRdmaSend h
  | bar2Write => exact keeps_execBar2Write h
  | bar2Read => exact keeps_execBar2Read h
  | bar0RegisterWrite => exact keeps_execBar0RegisterWrite h
  | pcCtlRun => exact keeps_execPcCtlRun h
  | pcCtlDrain => exact keeps_execPcCtlDrain h
  | queueStopClear => exact keeps_execQueueStopClear h
  | create => exact keeps_execCreate h
  | destroy => exact keeps_execDestroy h
  | setquota => exact keeps_execSetquota h
  | reset => exact keeps_execReset h
  | freeze => exact keeps_execFreeze h
  | exportPart => exact keeps_execExportPart h
  | importPart => exact keeps_execImportPart h
  | thaw => exact keeps_execThaw h
  | quote => exact keeps_execQuote h
  | hbmFrameBoundary => exact keeps_execHbmFrameBoundary h
  | thermalTrip => exact keeps_execThermalTrip h
  | powerThrottle => exact keeps_execPowerThrottle h
  | tempRefresh => exact keeps_execTempRefresh h
  | monitorRefresh => exact keeps_execMonitorRefresh h
  | voltageDroopEvent => exact keeps_execVoltageDroopEvent h
  | droopyExit => exact keeps_execDroopyExit h
  | hotCoreRequestDelay => exact keeps_execHotCoreRequestDelay h
  | tailWordEvent => exact keeps_execTailWordEvent h
  | idleCoreRequest => exact keeps_execIdleCoreRequest h
  | teamStart => exact keeps_execTeamStart h
  | teamSave => exact keeps_execTeamSave h
  | teamResume => exact keeps_execTeamResume h
  | groupEnd => exact keeps_execGroupEnd h
  | launchCompletion => exact keeps_execLaunchCompletion h
  | runArbitration => exact keeps_execRunArbitration h
  | queueDeadlock => exact keeps_execQueueDeadlock h
  | claimDeadlock => exact keeps_execClaimDeadlock h
  | drainWatchdog => exact keeps_execDrainWatchdog h
  | markStallWatchdog => exact keeps_execMarkStallWatchdog h
  | accessWatchdog => exact keeps_execAccessWatchdog h
  | teamTimeWatchdog => exact keeps_execTeamTimeWatchdog h
  | stageStarved => exact keeps_execStageStarved h
  | handlerEntry => exact keeps_execHandlerEntry h
  | ceCore => exact keeps_execCeCore h
  | ueCore => exact keeps_execUeCore h
  | selfTestComplete => exact keeps_execSelfTestComplete h
  | pageWalk => exact keeps_execPageWalk h
  | loadDataReturn | storePerform | atomicPerform => exact keeps_performStep h
  | shootdownTailEvent => exact keeps_execShootdownTailEvent h
  | shootdownComplete => exact keeps_execShootdownComplete h
  | demotionVictimSelect => exact keeps_execDemotionVictimSelect h
  | tierMoveComplete => exact keeps_execTierMoveComplete h
  | scClockRaise => exact keeps_execScClockRaise h
  | tierEngineInstanceBegin => exact keeps_execTierEngineInstanceBegin h
  | dropGranule => exact keeps_execDropGranule h
  | markReevaluate => exact keeps_execMarkReevaluate h
  | joinMerge => exact keeps_execJoinMerge h
  | joinPublish => exact keeps_execJoinPublish h
  | implicitJoin => exact keeps_execImplicitJoin h
  | copyStart => exact keeps_execCopyStart h
  | copyBeatLand => exact keeps_execCopyBeatLand h
  | copyEnd => exact keeps_execCopyEnd h
  | tileCommandStart => exact keeps_execTileCommandStart h
  | tileCommandRetire => exact keeps_execTileCommandRetire h
  | debugHalt => exact keeps_execDebugHalt h
  | debugResume => exact keeps_execDebugResume h
  | debugStep => exact keeps_execDebugStep h
  | mailboxCommandComplete => exact keeps_execMailboxCommandComplete h
  | fabricGrantTableSet => exact keeps_execFabricGrantTableSet h
  | linkDown => exact keeps_execLinkDown h
  | fabricRequestArrival => exact keeps_execFabricRequestArrival h

end Sys2Proof.Machine
end

section
/-! PROOFS. The form of memory over a turn (log 1, log 6): what it fetches, what it runs, and the notes at its end. -/
namespace Sys2Proof.Machine

open Sys2Proof

theorem memOk_takeTurn {s : State} (h : MemOk s) : MemOk (takeTurn s).2 := by
  unfold takeTurn
  split
  · exact memOk_set h
  · extract_lets l
    exact h

theorem memOk_eventState {i : Instr} {inp : Inputs} {s : State} (h : MemOk s) : MemOk (eventState i inp s) := by
  unfold eventState
  extract_lets src
  have hsrc : MemOk src := memOk_ite h (memOk_l1Flush h)
  exact memOk_set hsrc

theorem keeps_fetchTurn {s : State} {a : Option Turn} (h : MemOk s) : Fetched.Keeps (fetchTurn s a) := by
  unfold fetchTurn
  split
  · exact .stop h
  · exact .run (memOk_eventState h)
  · extract_lets src src' u
    have hsrc : MemOk src := memOk_focusOn h
    have hu : MemOk u := memOk_set hsrc
    split
    · exact keeps_fetchInstr hu
    · exact .stop hu

theorem keeps_fetchNext {s : State} (h : MemOk s) : Fetched.Keeps (fetchNext s) := keeps_fetchTurn (memOk_takeTurn h)

theorem memOk_noteTurn {before s : State} {a : Option Turn} (h : MemOk s) : MemOk (noteTurn before s a) := by
  unfold noteTurn
  split
  · split
    · exact h
    · split
      · exact h
      · extract_lets g' u src
        have hu : MemOk u := memOk_set h
        exact memOk_ite (memOk_putQuad hu) hu
  · exact h

theorem memOk_noteStages {s : State} (h : MemOk s) : MemOk (noteStages s) := memOk_modGroups h

theorem memOk_tickOn {s : State} (h : MemOk s) : MemOk (tickOn s) := h

theorem keeps_step {s : State} (h : MemOk s) : Out.Keeps (step s) := by
  unfold step
  extract_lets turn
  split
  · next e =>
      have h1 := (keeps_fetchNext h).of_stop e
      exact .next (memOk_tickOn (memOk_noteStages (memOk_noteTurn h1)))
  · exact .fault
  · next e =>
      split
      · next e1 =>
          have h1 := (keeps_exec ((keeps_fetchNext h).of_run e)).of_next e1
          exact .next (memOk_tickOn (memOk_noteStages (memOk_noteTurn h1)))
      · exact .fault
      · exact .refused

end Sys2Proof.Machine
end

section
/-! PROOFS. O58: the form of memory over a step. -/
namespace Sys2Proof.Claims

open Sys2Proof Sys2Proof.Machine

/-- Settles O58: whatever a turn fetches keeps the form, the meaning of every instruction and step keeps it, and so do the notes at the end
of the turn. -/
theorem memoryFormKept : Obligations.MemoryFormKept := by
  unfold Obligations.MemoryFormKept
  intro s t h e
  exact (keeps_step h).of_next e

end Sys2Proof.Claims
end
